-- ==== Sys2Proof/Word.lean ====
section
/-! DEFINITION. The word types of the device (00 R2, R3; 06 R124). -/

namespace Sys2Proof

/-- A byte of memory. -/
abbrev Byte := BitVec 8
/-- A register, an instruction word, a literal (R124, R208). -/
abbrev Word := BitVec 32
/-- A register pair, a handle, a management register (R59, R215). -/
abbrev DWord := BitVec 64
/-- A global virtual address, and a program counter (R93, R28). -/
abbrev VAddr := BitVec 57

end Sys2Proof
end

