-- ==== Sys2Proof/Config.lean ====
section
/-! DEFINITION. What one part fixes (capability registers of a full part, R15, R17, R21) and the free values of the model:
constants with no body, so that no proof can rest on one value of them (log entries 2 and 9). -/

namespace Sys2Proof.Config

/-- Dies of a module (R13). -/
def numDies : Nat := 12
/-- Cores of a die (R15). -/
def coresPerDie : Nat := 128
/-- Cores of a cluster (R15). -/
def coresPerCluster : Nat := 16
/-- Lanes of a core (R15). -/
def numLanes : Nat := 32
/-- Thread slots of a lane (R15). -/
def slotsPerLane : Nat := 64
/-- Registers of a lane (R15). -/
def regsPerLane : Nat := 4096
/-- Tiles of a core (R15). -/
def tilesPerCore : Nat := 64
/-- L2 slices of a full die (R15). -/
def slicesPerDie : Nat := 160
/-- Ticks between rotation points (R55). -/
def rotationTicks : Nat := 100000

/-- A word whose value the manual leaves open: the n-th such value. -/
opaque freeWord : Nat → BitVec 32
/-- A byte whose value the manual leaves open: the n-th such value. -/
opaque freeByte : Nat → BitVec 8
/-- A choice the manual leaves open: the n-th such choice. -/
opaque freeBit : Nat → Bool
/-- AUX reason of a CLASS 8 CODE 5 record for an operation whose endpoint is lost or whose link is down: no reason of R401 names it. -/
opaque lostReason : BitVec 4
/-- AUX [3:0] of a CLASS 6 CODE 1 record for bytes of an engine that did not pass a downed link or reach a lost endpoint: no class-4 CODE names it
(R399, log entry 121). -/
opaque lostCode : BitVec 4
/-- The ternary code that a NaN is converted to: no rule gives one (R136, log entry 126). -/
opaque t2OfNaN : BitVec 2
/-- CODE of a CLASS 7 record (R358 gives the class and no code). -/
opaque class7Code : BitVec 12
/-- CODE of a CLASS 11 record (R360 gives the class and no code). -/
opaque class11Code : BitVec 12
/-- MOD_IDENT.STEP of the part (R342, reset C). -/
opaque step : BitVec 8
/-- MOD_SERIAL of the part (R342, reset C). -/
opaque serial : BitVec 64
/-- MOD_SVN.FLOOR of the part (R342, reset C). -/
opaque svnFloor : BitVec 32
/-- The part's fused digest of the ECDSA key (R338). -/
opaque fusedEc : BitVec 384
/-- The part's fused digest of the LMS key (R338). -/
opaque fusedLms : BitVec 384
/-- Measurement 1: the boot code of the part (R339). -/
opaque bootMeasurement : BitVec 384
/-- SHA-384, a standard that the manual names and does not define (R337). -/
opaque sha384 : List (BitVec 8) → BitVec 384
/-- ECDSA P-384 verification: key, signature, message (R337, R338). -/
opaque ecdsaVerify : List (BitVec 8) → List (BitVec 8) → List (BitVec 8) → Bool
/-- LMS verification: key, signature, message (R337, R338). -/
opaque lmsVerify : List (BitVec 8) → List (BitVec 8) → List (BitVec 8) → Bool
/-- ECDSA signature of a SPDM CHALLENGE by the part's identity key, over the request's nonce (R339). -/
opaque challengeSign : BitVec 256 → List (BitVec 8)
/-- The certificate chain of slot 0 (R339). -/
opaque certChain : List (BitVec 8)
/-- The fixed answer to GET_VERSION, GET_CAPABILITIES and NEGOTIATE_ALGORITHMS, by the request's index (R339). -/
opaque spdmFixed : Nat → List (BitVec 8)

end Sys2Proof.Config
end

