-- ==== Sys2Proof/Machine/Flags.lean ====
section
/-! DEFINITION. The sticky STATUS bits (06 R131). -/

namespace Sys2Proof.Machine

/-- A set of STATUS bits. -/
abbrev Flags := BitVec 16

/-- NV: an invalid operation (R131 [0]). -/
def flagNV : Flags := 0x0001#16
/-- DZ: an exact infinity from a finite operand (R131 [1]). -/
def flagDZ : Flags := 0x0002#16
/-- OF: overflow without saturation (R131 [2]). -/
def flagOF : Flags := 0x0004#16
/-- UF: tiny after rounding and inexact (R131 [3]). -/
def flagUF : Flags := 0x0008#16
/-- NX: the rounded result differs from the exact result (R131 [4]). -/
def flagNX : Flags := 0x0010#16
/-- SAT: a saturating operation clamped its result (R131 [5]). -/
def flagSAT : Flags := 0x0020#16
/-- TBAD: a ternary code 10b was decoded (R131 [6]). -/
def flagTBAD : Flags := 0x0040#16
/-- OCLIP: more than four outliers in a block (R131 [7]). -/
def flagOCLIP : Flags := 0x0080#16

/-- The bit of a condition, or none. -/
def flagIf (c : Bool) (f : Flags) : Flags := if c then f else 0#16

end Sys2Proof.Machine
end

