-- ==== Sys2Proof/Machine/Maps.lean ====
section
/-! DEFINITION. Plain-data helpers: maps as lists of key and value in one canonical form (keys strictly rising, no entry equal
to what an unlisted key reads as), bit fields, signed numbers and byte strings. -/

namespace Sys2Proof.Machine

/-- What key `k` holds in a map whose unlisted keys hold `d`. -/
def mapGet {β : Type} (d : β) : List (Nat × β) → Nat → β
  | [], _ => d
  | (j, v) :: r, k => if j = k then v else mapGet d r k

/-- The map with key `k` holding `v`; the entry goes when `v` is what an unlisted key reads as. -/
def mapSet {β : Type} [DecidableEq β] (d : β) : List (Nat × β) → Nat → β → List (Nat × β)
  | [], k, v => if v = d then [] else [(k, v)]
  | (j, w) :: r, k, v =>
    if k < j then (if v = d then (j, w) :: r else (k, v) :: (j, w) :: r)
    else if k = j then (if v = d then r else (k, v) :: r)
    else (j, w) :: mapSet d r k v

/-- Every key of the list is above `k`. -/
def keysAbove {β : Type} (k : Nat) : List (Nat × β) → Bool
  | [] => true
  | (j, _) :: r => decide (k < j) && keysAbove k r

/-- The canonical form of a map whose unlisted keys hold `d`. -/
def mapWf {β : Type} [DecidableEq β] (d : β) : List (Nat × β) → Bool
  | [] => true
  | (j, v) :: r => decide (v ≠ d) && keysAbove j r && mapWf d r

/-- Several writes, one after another. -/
def mapSetAll {β : Type} [DecidableEq β] (d : β) (m : List (Nat × β)) : List (Nat × β) → List (Nat × β)
  | [] => m
  | (k, v) :: r => mapSetAll d (mapSet d m k v) r

/-- The numbers from `a`, `n` of them. -/
def upFrom (a : Nat) : Nat → List Nat
  | 0 => []
  | n + 1 => a :: upFrom (a + 1) n

/-- The consecutive entries from key `a` on. -/
def atKeys {β : Type} (a : Nat) : List β → List (Nat × β)
  | [] => []
  | b :: r => (a, b) :: atKeys (a + 1) r

/-- What `n` consecutive keys from `a` hold. -/
def mapRange {β : Type} (d : β) (m : List (Nat × β)) (a n : Nat) : List β :=
  (upFrom a n).map (mapGet d m)

/-- Bits [hi:lo] of a number (R2). -/
def bits (v hi lo : Nat) : Nat := (v >>> lo) % 2 ^ (hi + 1 - lo)

/-- Bit n of a number. -/
def bit (v n : Nat) : Bool := v.testBit n

/-- A number with bits [hi:lo] replaced. -/
def setBits (v hi lo x : Nat) : Nat :=
  v - (bits v hi lo) <<< lo + (x % 2 ^ (hi + 1 - lo)) <<< lo

/-- Signed(n, x) (R141). -/
def signedN (n x : Nat) : Int :=
  let y := x % 2 ^ n
  if y < 2 ^ (n - 1) then (y : Int) else (y : Int) - (2 ^ n : Nat)

/-- The n-bit two's-complement pattern of an integer. -/
def patN (n : Nat) (x : Int) : Nat := (x % ((2 ^ n : Nat) : Int)).toNat

/-- A byte string as a number, lowest address first (R3). -/
def leNat : List Byte → Nat
  | [] => 0
  | b :: r => b.toNat + 256 * leNat r

/-- `n` bytes of a number, lowest address first (R3). -/
def natLe : Nat → Nat → List Byte
  | 0, _ => []
  | n + 1, v => BitVec.ofNat 8 v :: natLe n (v / 256)

/-- Whether a list of numbers holds one. -/
def has (l : List Nat) (n : Nat) : Bool := l.any (· == n)

/-- Insert in ascending order of a key, before entries with the same key. -/
def insertBy {α : Type} (key : α → Nat) (x : α) : List α → List α
  | [] => [x]
  | y :: r => if key x ≤ key y then x :: y :: r else y :: insertBy key x r

/-- Stable sort by a key, ascending. -/
def sortBy {α : Type} (key : α → Nat) : List α → List α
  | [] => []
  | x :: r => insertBy key x (sortBy key r)

/-- The first element, in list order, whose key is least by `lt`. -/
def bestBy {α : Type} (lt : α → α → Bool) : List α → Option α
  | [] => none
  | x :: r =>
    match bestBy lt r with
    | none => some x
    | some y => if lt y x then some y else some x

/-- Number of set bits. -/
def popcount : Nat → Nat → Nat
  | 0, _ => 0
  | n + 1, v => v % 2 + popcount n (v / 2)

/-- The set bits of a number below `n`, ascending. -/
def setBitsOf (n v : Nat) : List Nat := (upFrom 0 n).filter (bit v)

/-- The mask with these bits set. -/
def maskOf : List Nat → Nat
  | [] => 0
  | b :: r => maskOf r ||| 2 ^ b

/-- The n-th element, counting from 0, or the default. -/
def nthD {α : Type} (d : α) : List α → Nat → α
  | [], _ => d
  | x :: _, 0 => x
  | _ :: r, n + 1 => nthD d r n

/-- Change the n-th element. -/
def modNth {α : Type} (f : α → α) : Nat → List α → List α
  | _, [] => []
  | 0, x :: r => f x :: r
  | n + 1, x :: r => x :: modNth f n r

/-- Whether a number is a multiple of another. -/
def aligned (n a : Nat) : Bool := a % n == 0

end Sys2Proof.Machine
end

