-- ==== Sys2Proof/Machine/Float.lean ====
section
/-! DEFINITION. Number formats and their arithmetic (06 R124 to R139): exact values, one rounding, special values. An exact
value is a sign, a whole number and a power of two; quotients, roots and transcendental functions are given as a truncated
value with one more bit below it that says whether something was cut off, which rounds alike. -/

namespace Sys2Proof.Machine

/-- A floating-point format (R125). -/
structure FFmt where
  /-- bits of the format -/
  width : Nat
  /-- bits of the exponent field -/
  ew : Nat
  /-- bits of the mantissa field -/
  mw : Nat
  /-- bias -/
  bias : Nat
  /-- it has infinities, and its NaNs have exponent all ones -/
  inf : Bool
  /-- canonical NaN; 0 where the format has none -/
  nan : Nat
  /-- largest positive finite value -/
  maxfin : Nat
  deriving DecidableEq, Repr

/-- F32 (R125). -/
def fmtF32 : FFmt := ⟨32, 8, 23, 127, true, 0x7FC00000, 0x7F7FFFFF⟩
/-- BF16 (R125). -/
def fmtBF16 : FFmt := ⟨16, 8, 7, 127, true, 0x7FC0, 0x7F7F⟩
/-- F16 (R125). -/
def fmtF16 : FFmt := ⟨16, 5, 10, 15, true, 0x7E00, 0x7BFF⟩
/-- E5M2 (R125). -/
def fmtE5M2 : FFmt := ⟨8, 5, 2, 15, true, 0x7E, 0x7B⟩
/-- E4M3 (R125): NaN only, no infinity. -/
def fmtE4M3 : FFmt := ⟨8, 4, 3, 7, false, 0x7F, 0x7E⟩
/-- E2M1 (R125, R126): neither. -/
def fmtE2M1 : FFmt := ⟨4, 2, 1, 1, false, 0, 0x7⟩

/-- A decoded value: NaN, an infinity, or (−1)^neg × m × 2^e. -/
inductive FVal where
  /-- NaN -/
  | nan
  /-- an infinity -/
  | inf (neg : Bool)
  /-- a finite value -/
  | fin (neg : Bool) (m : Nat) (e : Int)
  deriving DecidableEq, Repr

/-- Decode (R125, R126, R141). The E2M1 escape decodes as +0 (R250). -/
def fdecode (f : FFmt) (b0 : Nat) : FVal :=
  let b := b0 % 2 ^ f.width
  let neg := bit b (f.width - 1)
  let e := bits b (f.width - 2) f.mw
  let m := b % 2 ^ f.mw
  if f.inf && e == 2 ^ f.ew - 1 then (if m == 0 then .inf neg else .nan)
  else if !f.inf && f.nan ≠ 0 && b % 2 ^ (f.width - 1) == f.nan then .nan
  else if f.width == 4 && b == 8 then .fin false 0 0
  else if e == 0 then .fin neg m (1 - (f.bias : Int) - f.mw)
  else .fin neg (m + 2 ^ f.mw) ((e : Int) - f.bias - f.mw)

/-- Rounding modes (R132). -/
inductive RMode where
  /-- `.rn` -/
  | rn
  /-- `.rz` -/
  | rz
  /-- `.ru` -/
  | ru
  /-- `.rd` -/
  | rd
  /-- `.rs` with its word -/
  | rs (w : Word)
  deriving DecidableEq, Repr

/-- Whether a magnitude cut at `sh` bits, with `rem` below the cut, is rounded up (R132, R134). -/
def roundUp (rm : RMode) (neg odd : Bool) (rem sh : Nat) : Bool :=
  match rm with
  | .rn => 2 ^ sh < 2 * rem || (2 * rem == 2 ^ sh && odd)
  | .rz => false
  | .ru => rem ≠ 0 && !neg
  | .rd => rem ≠ 0 && neg
  | .rs w => w.toNat * 2 ^ sh < rem * 2 ^ 32

/-- Number of binary digits. -/
def bitLen (m : Nat) : Nat := if m = 0 then 0 else Nat.log2 m + 1

/-- What an overflow gives (R133, R134). -/
def foverflow (f : FFmt) (neg : Bool) (rm : RMode) (sat : Bool) : Nat × Flags :=
  let sgn := if neg then 2 ^ (f.width - 1) else 0
  if sat || f.width == 4 then (sgn + f.maxfin, flagSAT ||| flagNX)
  else if !f.inf then (f.nan, flagOF ||| flagNX)
  else
    let toInf := match rm with
      | .rn => true
      | .rs _ => true
      | .ru => !neg
      | .rd => neg
      | .rz => false
    (sgn + (if toInf then (2 ^ f.ew - 1) * 2 ^ f.mw else f.maxfin), flagOF ||| flagNX)

/-- The bit pattern of a finite magnitude n × 2^q on the format's grid. -/
def fpack (f : FFmt) (neg : Bool) (n : Nat) (q : Int) : Nat :=
  let sgn := if neg then 2 ^ (f.width - 1) else 0
  if n < 2 ^ f.mw then (if f.width == 4 && n == 0 then 0 else sgn + n)
  else sgn + (q + f.mw + f.bias).toNat * 2 ^ f.mw + (n - 2 ^ f.mw)

/-- Round the exact value (−1)^neg × m × 2^e once to format f (R132 to R134), with the STATUS bits of R131. -/
def fround (f : FFmt) (neg : Bool) (m : Nat) (e : Int) (rm : RMode) (sat : Bool) : Nat × Flags :=
  if m = 0 then (fpack f neg 0 0, 0#16) else
  let emin : Int := 1 - (f.bias : Int)
  let top : Int := e + (bitLen m : Int) - 1
  let q : Int := (if top < emin then emin else top) - (f.mw : Int)
  let sh : Nat := (q - e).toNat
  let n0 : Nat := if q ≤ e then m <<< (e - q).toNat else m >>> sh
  let rem : Nat := if q ≤ e then 0 else m % 2 ^ sh
  let n1 : Nat := if roundUp rm neg (n0 % 2 == 1) rem sh then n0 + 1 else n0
  let n : Nat := if n1 = 2 ^ (f.mw + 1) then 2 ^ f.mw else n1
  let q' : Int := if n1 = 2 ^ (f.mw + 1) then q + 1 else q
  let inx : Flags := flagIf (rem ≠ 0) flagNX
  let qmax : Int := (bits f.maxfin (f.width - 2) f.mw : Int) - f.bias - f.mw
  if qmax < q' ∨ (q' = qmax ∧ f.maxfin % 2 ^ f.mw + 2 ^ f.mw < n) then foverflow f neg rm sat
  else (fpack f neg n q', inx ||| flagIf (rem ≠ 0 && n < 2 ^ f.mw) flagUF)

/-- Encode (R141): a value in format f; `conv` for a conversion, whose NaN to E4M3 or E2M1 sets NV (R131, R135). -/
def fencode (f : FFmt) (v : FVal) (rm : RMode) (sat conv : Bool) : Nat × Flags :=
  match v with
  | .nan => (f.nan, flagIf (conv && !f.inf) flagNV)
  | .inf neg =>
    let sgn := if neg then 2 ^ (f.width - 1) else 0
    if sat || f.width == 4 then (sgn + f.maxfin, flagSAT)
    else if !f.inf then (f.nan, 0#16)
    else (sgn + (2 ^ f.ew - 1) * 2 ^ f.mw, 0#16)
  | .fin neg m e => fround f neg m e rm sat

/-- The exact value as an integer over a common power of two. -/
def atExp (neg : Bool) (m : Nat) (e q : Int) : Int :=
  let x : Int := ((m <<< (e - q).toNat : Nat) : Int)
  if neg then -x else x

/-- Exact product (R131, R135). -/
def fmul (x y : FVal) : FVal × Flags :=
  match x, y with
  | .nan, _ => (.nan, 0#16)
  | _, .nan => (.nan, 0#16)
  | .inf a, .inf b => (.inf (a != b), 0#16)
  | .inf a, .fin b m _ => if m = 0 then (.nan, flagNV) else (.inf (a != b), 0#16)
  | .fin a m _, .inf b => if m = 0 then (.nan, flagNV) else (.inf (a != b), 0#16)
  | .fin a m e, .fin b n d => (.fin (a != b) (m * n) (e + d), 0#16)

/-- Exact sum; an exact zero sum of opposite signs is +0, to nearest (R133). -/
def fadd (x y : FVal) : FVal × Flags :=
  match x, y with
  | .nan, _ => (.nan, 0#16)
  | _, .nan => (.nan, 0#16)
  | .inf a, .inf b => if a == b then (.inf a, 0#16) else (.nan, flagNV)
  | .inf a, .fin _ _ _ => (.inf a, 0#16)
  | .fin _ _ _, .inf b => (.inf b, 0#16)
  | .fin a m e, .fin b n d =>
    if m = 0 ∧ n = 0 then (.fin (a && b) 0 0, 0#16) else
    let q := if m = 0 then d else if n = 0 then e else min e d
    let s := atExp a m (max e q) q + atExp b n (max d q) q
    (.fin (s < 0) s.natAbs q, 0#16)

/-- Negation, as subtraction uses it. -/
def fneg : FVal → FVal
  | .nan => .nan
  | .inf a => .inf !a
  | .fin a m e => .fin (!a) m e

/-- Magnitude. -/
def fabs : FVal → FVal
  | .nan => .nan
  | .inf _ => .inf false
  | .fin _ m e => .fin false m e

/-- a + b in a format, rounded once to nearest (R238, R239). -/
def opAdd (f : FFmt) (a b : Nat) : Nat × Flags :=
  let (v, s) := fadd (fdecode f a) (fdecode f b)
  let (r, t) := fencode f v .rn false false
  (r, s ||| t)

/-- a − b (R238). -/
def opSub (f : FFmt) (a b : Nat) : Nat × Flags :=
  let (v, s) := fadd (fdecode f a) (fneg (fdecode f b))
  let (r, t) := fencode f v .rn false false
  (r, s ||| t)

/-- a × b (R238, R239). -/
def opMul (f : FFmt) (a b : Nat) : Nat × Flags :=
  let (v, s) := fmul (fdecode f a) (fdecode f b)
  let (r, t) := fencode f v .rn false false
  (r, s ||| t)

/-- a × b + c, rounded once (R132, R238, R239). -/
def opFma (f : FFmt) (a b c : Nat) : Nat × Flags :=
  let (p, s0) := fmul (fdecode f a) (fdecode f b)
  let (v, s1) := fadd p (fdecode f c)
  let (r, t) := fencode f v .rn false false
  (r, s0 ||| s1 ||| t)

/-- Order of two values that are no NaN: −1, 0 or 1; −0 equals +0. -/
def fcmp3 (x y : FVal) : Int :=
  match x, y with
  | .inf a, .inf b => if a == b then 0 else if a then -1 else 1
  | .inf a, _ => if a then -1 else 1
  | _, .inf b => if b then 1 else -1
  | .fin a m e, .fin b n d =>
    let q := if m = 0 then d else if n = 0 then e else min e d
    let s := atExp a m (max e q) q - atExp b n (max d q) q
    if s < 0 then -1 else if s = 0 then 0 else 1
  | _, _ => 0

/-- Whether a value is NaN. -/
def fisNan : FVal → Bool
  | .nan => true
  | _ => false

/-- x < y; false with a NaN. -/
def flt (x y : FVal) : Bool := !fisNan x && !fisNan y && fcmp3 x y == -1
/-- x ≤ y; false with a NaN. -/
def fle (x y : FVal) : Bool := !fisNan x && !fisNan y && fcmp3 x y ≠ 1
/-- x = y; false with a NaN. -/
def feq (x y : FVal) : Bool := !fisNan x && !fisNan y && fcmp3 x y == 0

/-- The compare conditions of R240 on the three-way order of two values. -/
def condHolds (c : Nat) (o : Int) : Bool :=
  match c with
  | 0 => o == 0
  | 1 => o ≠ 0
  | 2 => o == -1
  | 3 => o ≠ 1
  | 4 => o == 1
  | _ => o ≠ -1

/-- An F32 compare (R135, R240). -/
def opCmpF (c : Nat) (a b : Nat) : Bool :=
  let x := fdecode fmtF32 a
  let y := fdecode fmtF32 b
  if fisNan x || fisNan y then c == 1 else condHolds c (fcmp3 x y)

/-- Whether bit pattern a orders below b in min and max: −0 below +0 (R135). -/
def fbelow (f : FFmt) (a b : Nat) : Bool :=
  let o := fcmp3 (fdecode f a) (fdecode f b)
  o == -1 || (o == 0 && bit a (f.width - 1) && !bit b (f.width - 1))

/-- min (R135, R238). -/
def opMin (f : FFmt) (a b : Nat) : Nat :=
  match fisNan (fdecode f a), fisNan (fdecode f b) with
  | true, true => f.nan
  | true, false => b
  | false, true => a
  | false, false => if fbelow f b a then b else a

/-- max (R135, R238). -/
def opMax (f : FFmt) (a b : Nat) : Nat :=
  match fisNan (fdecode f a), fisNan (fdecode f b) with
  | true, true => f.nan
  | true, false => b
  | false, true => a
  | false, false => if fbelow f a b then b else a

/-! ## Quotients, roots and transcendental functions (R132, R135) -/

/-- The greatest r with r × r ≤ n, one binary digit at a time from bit `k`. -/
def isqrtFrom (n : Nat) : Nat → Nat → Nat
  | 0, r => r
  | k + 1, r =>
    let c := r + 2 ^ k
    isqrtFrom n k (if c * c ≤ n then c else r)

/-- Integer square root. -/
def isqrt (n : Nat) : Nat := isqrtFrom n (bitLen n / 2 + 1) 0

/-- A value cut below 2^e, with its last bit telling that something was cut off. -/
def sticky (neg : Bool) (n : Nat) (cut : Bool) (e : Int) : FVal :=
  .fin neg (2 * n + (if cut then 1 else 0)) (e - 1)

/-- Exact quotient of two finite non-zero magnitudes, cut at 64 or more places. -/
def fquot (neg : Bool) (m : Nat) (e : Int) (n : Nat) (d : Int) : FVal :=
  let k := 64 + bitLen n
  let num := m <<< k
  sticky neg (num / n) (num % n ≠ 0) (e - d - k)

/-- √(m × 2^e), cut at 40 or more places. -/
def fsqrtM (m : Nat) (e : Int) : FVal :=
  let k : Nat := 128 + (if (e - 128) % 2 = 0 then 0 else 1)
  let n := m <<< k
  let r := isqrt n
  sticky false r (r * r ≠ n) ((e - k) / 2)

/-- 1 ÷ √(m × 2^e). -/
def frsqrtM (m : Nat) (e : Int) : FVal :=
  let k : Nat := 256 + (if (e + 256) % 2 = 0 then 0 else 1)
  let q := 2 ^ k / m
  let r := isqrt q
  sticky false r (r * r * m ≠ 2 ^ k) (-((e + k) / 2))

/-- Places of the fixed-point constants and series below. -/
def fxBits : Nat := 192

/-- ⌊ln 2 × 2^192⌋. -/
def fxLn2 : Nat := 0xB17217F7D1CF79ABC9E3B39803F2F6AF40F343267298B62D
/-- ⌊π × 2^192⌋. -/
def fxPi : Nat := 0x3243F6A8885A308D313198A2E03707344A4093822299F31D0

/-- Sum of the series Σ t_i with t_0 = t and t_(i+1) = t_i × x ÷ (d i), in fixed point. -/
def fxSeries (x : Nat) (d : Nat → Nat) : Nat → Nat → Nat → Nat
  | 0, _, _ => 0
  | k + 1, i, t => t + fxSeries x d k (i + 1) (t * x / 2 ^ fxBits / d i)

/-- 2^f for a fixed-point f in [0, 1). -/
def fxExp2 (f : Nat) : Nat := fxSeries (f * fxLn2 / 2 ^ fxBits) (fun i => i + 1) 60 0 (2 ^ fxBits)

/-- The terms of the series for sin (π r) ÷ r with even index (odd = false) or odd index, r² in fixed point. -/
def fxSinTerms (r2 : Nat) : Nat → Nat → Nat → Bool → Nat × Nat
  | 0, _, _, _ => (0, 0)
  | k + 1, i, t, odd =>
    let (p, n) := fxSinTerms r2 k (i + 1) (t * r2 / 2 ^ fxBits * fxPi / 2 ^ fxBits * fxPi / 2 ^ fxBits / ((2 * i + 2) * (2 * i + 3))) (!odd)
    if odd then (p, n + t) else (p + t, n)

/-- sin (π r) ÷ r for r = √r2, in fixed point. -/
def fxSinc (r2 : Nat) : Nat :=
  let (p, n) := fxSinTerms r2 32 0 fxPi false
  p - n

/-- Binary digits of log2 y, for y in [1, 2) with 320 places: `k` digits, most significant first. -/
def fxLog2Digits : Nat → Nat → Nat → Nat
  | 0, _, acc => acc
  | k + 1, y, acc =>
    let z := y * y / 2 ^ 320
    if z < 2 ^ 321 then fxLog2Digits k z (2 * acc) else fxLog2Digits k (z / 2) (2 * acc + 1)

/-- rcp (R135, R238). -/
def sfnRcp (v : FVal) : FVal × Flags :=
  match v with
  | .nan => (.nan, 0#16)
  | .inf a => (.fin a 0 0, 0#16)
  | .fin a m e => if m = 0 then (.inf a, flagDZ) else (fquot a 1 0 m e, 0#16)

/-- sqrt. -/
def sfnSqrt (v : FVal) : FVal × Flags :=
  match v with
  | .nan => (.nan, 0#16)
  | .inf a => if a then (.nan, flagNV) else (.inf false, 0#16)
  | .fin a m e => if m = 0 then (.fin a 0 0, 0#16) else if a then (.nan, flagNV) else (fsqrtM m e, 0#16)

/-- rsqrt. -/
def sfnRsqrt (v : FVal) : FVal × Flags :=
  match v with
  | .nan => (.nan, 0#16)
  | .inf a => if a then (.nan, flagNV) else (.fin false 0 0, 0#16)
  | .fin a m e => if m = 0 then (.inf a, flagDZ) else if a then (.nan, flagNV) else (frsqrtM m e, 0#16)

/-- exp2: an argument of 256 or more, or of −256 or less, stands for every one beyond it. -/
def sfnExp2 (v : FVal) : FVal × Flags :=
  match v with
  | .nan => (.nan, 0#16)
  | .inf a => (if a then .fin false 0 0 else .inf false, 0#16)
  | .fin a m e =>
    if m = 0 then (.fin false 1 0, 0#16)
    else if 9 ≤ e + (bitLen m : Int) then
      (if a then .fin false 1 (-512) else .fin false 1 512, 0#16)
    else
      let x : Int := if 0 ≤ e then ((m <<< e.toNat : Nat) : Int) else 0
      if 0 ≤ e then (.fin false 1 (if a then -x else x), 0#16)
      else
        let d : Nat := (-e).toNat
        let s : Int := if a then -(m : Int) else m
        let n : Int := s / ((2 ^ d : Nat) : Int)
        let fr : Nat := (s - n * ((2 ^ d : Nat) : Int)).toNat
        if fr = 0 then (.fin false 1 n, 0#16)
        else (sticky false (fxExp2 (fr <<< fxBits >>> d)) true (n - fxBits), 0#16)

/-- log2. -/
def sfnLog2 (v : FVal) : FVal × Flags :=
  match v with
  | .nan => (.nan, 0#16)
  | .inf a => if a then (.nan, flagNV) else (.inf false, 0#16)
  | .fin a m e =>
    if m = 0 then (.inf true, flagDZ) else if a then (.nan, flagNV) else
    let l := Nat.log2 m
    let k : Int := e + l
    if m = 2 ^ l then (.fin (k < 0) k.natAbs 0, 0#16)
    else
      let fr := fxLog2Digits 120 (m <<< (320 - l)) 0
      let s : Int := k * ((2 ^ 121 : Nat) : Int) + (2 * fr + 1 : Nat)
      (.fin (s < 0) s.natAbs (-121), 0#16)

/-- sin (π r) for a number r = m × 2^(−d) in [0, 1/2]. -/
def sinpiQ (neg : Bool) (m d : Nat) : FVal :=
  if m = 0 then .fin neg 0 0
  else if m * 2 = 2 ^ d then .fin neg 1 0
  else sticky neg (m * fxSinc ((m * m) <<< fxBits >>> (2 * d))) true (-((d + fxBits : Nat) : Int))

/-- The magnitude m × 2^e modulo 2, as a numerator over 2^d. -/
def modTwo (m : Nat) (e : Int) : Nat × Nat :=
  if 0 ≤ e then ((m <<< e.toNat) % 2, 0) else (m % 2 ^ ((-e).toNat + 1), (-e).toNat)

/-- sinpi. -/
def sfnSinpi (v : FVal) : FVal × Flags :=
  match v with
  | .nan => (.nan, 0#16)
  | .inf _ => (.nan, flagNV)
  | .fin a m e =>
    let (r, d) := modTwo m e
    let one := 2 ^ d
    if r % one = 0 then (.fin a 0 0, 0#16) else
    let neg := a != decide (one < r)
    let q := r % one
    (sinpiQ neg (if one < 2 * q then 2 * (one - q) else 2 * q) (d + 1), 0#16)

/-- cospi. -/
def sfnCospi (v : FVal) : FVal × Flags :=
  match v with
  | .nan => (.nan, 0#16)
  | .inf _ => (.nan, flagNV)
  | .fin _ m e =>
    let (r0, d0) := modTwo m e
    let r := r0 * 2
    let d := d0 + 1
    let one := 2 ^ d
    -- cos (π x) = sin (π (1/2 − x)); fold x into [0, 1]
    let x := if one < r then 2 * one - r else r
    if 2 * x = one then (.fin false 0 0, 0#16)
    else if 2 * x < one then (sinpiQ false (one / 2 - x) d, 0#16)
    else (sinpiQ true (x - one / 2) d, 0#16)

/-- `sfn` by its function code (R230, R238). -/
def opSfn (code b : Nat) : Nat × Flags :=
  let x := fdecode fmtF32 b
  let (v, s) := match code with
    | 0 => sfnRcp x
    | 1 => sfnSqrt x
    | 2 => sfnRsqrt x
    | 3 => sfnExp2 x
    | 4 => sfnLog2 x
    | 5 => sfnSinpi x
    | _ => sfnCospi x
  let (r, t) := fencode fmtF32 v .rn false false
  (r, s ||| t)

/-- A packed operation on the two 16-bit elements (R239). -/
def packed2 (op : Nat → Nat → Nat → Nat × Flags) (a b c : Nat) : Nat × Flags :=
  let (lo, s) := op (a % 65536) (b % 65536) (c % 65536)
  let (hi, t) := op (a / 65536) (b / 65536) (c / 65536)
  (lo + 65536 * hi, s ||| t)

/-! ## Conversions (R136, R137, R247 to R252) -/

/-- An exact value rounded to an integer (R132). -/
def roundInt (neg : Bool) (m : Nat) (e : Int) (rm : RMode) : Int × Bool :=
  if 0 ≤ e then (if neg then -((m <<< e.toNat : Nat) : Int) else ((m <<< e.toNat : Nat) : Int), false)
  else
    let sh := (-e).toNat
    let n := m >>> sh
    let rem := m % 2 ^ sh
    let r : Nat := if roundUp rm neg (n % 2 == 1) rem sh then n + 1 else n
    (if neg then -(r : Int) else (r : Int), rem ≠ 0)

/-- Least and greatest value of an integer format, by tag: I32, N32, I8x4, T2x16. -/
def intRange (tag : Nat) : Int × Int :=
  match tag with
  | 1 => (-2147483648, 2147483647)
  | 2 => (0, 4294967295)
  | 9 => (-128, 127)
  | _ => (-1, 1)

/-- Bits of an element by tag (R124). -/
def elemWidth (tag : Nat) : Nat :=
  match tag with
  | 4 => 16
  | 5 => 16
  | 6 => 8
  | 7 => 8
  | 8 => 4
  | 9 => 8
  | 10 => 2
  | 11 => 8
  | _ => 32

/-- Elements in a register by tag (R124). -/
def elemCount (tag : Nat) : Nat := 32 / elemWidth tag

/-- The floating-point format of a tag. -/
def fmtOfTag (tag : Nat) : Option FFmt :=
  match tag with
  | 3 => some fmtF32
  | 4 => some fmtBF16
  | 5 => some fmtF16
  | 6 => some fmtE4M3
  | 7 => some fmtE5M2
  | 8 => some fmtE2M1
  | _ => none

/-- ToInt (R136, R141): to I32, N32 or I8 with clamping, NV and SAT; to T2 with clamping and SAT. For T2 the table gives SAT alone: the code of a NaN
is a free value, with NV, and a value out of range sets SAT without NV, and NX only where its rounding to an integer was inexact (DESIGN CHOICE,
log entry 126). -/
def toInt (tag : Nat) (v : FVal) (rm : RMode) : Nat × Flags :=
  let w := elemWidth tag
  let (lo, hi) := intRange tag
  let t2 := tag == 10
  match v with
  | .nan => (if t2 then Config.t2OfNaN.toNat else 0, flagNV)
  | .inf neg => (patN w (if neg then lo else hi), flagSAT ||| flagIf (!t2) flagNV)
  | .fin neg m e =>
    let (x, inx) := roundInt neg m e rm
    if x < lo then (patN w lo, flagSAT ||| (if t2 then flagIf inx flagNX else flagNV))
    else if hi < x then (patN w hi, flagSAT ||| (if t2 then flagIf inx flagNX else flagNV))
    else (patN w x, flagIf inx flagNX)

/-- A decoded ternary code (R127). -/
def decodeT2 (c : Nat) : Int × Flags :=
  match c with
  | 0 => (0, 0#16)
  | 1 => (1, 0#16)
  | 3 => (-1, 0#16)
  | _ => (0, flagTBAD)

/-- An element of a source format: an integer of an integer format, or a value (R127, R141). -/
def decodeElem (tag b : Nat) : (Int ⊕ FVal) × Flags :=
  match tag with
  | 2 => (.inl (b : Int), 0#16)
  | 9 => (.inl (signedN 8 b), 0#16)
  | 10 => let (x, f) := decodeT2 b; (.inl x, f)
  | 11 => (.inr (if b = 255 then .nan else .fin false 1 ((b : Int) - 127)), 0#16)
  | 3 => (.inr (fdecode fmtF32 b), 0#16)
  | 4 => (.inr (fdecode fmtBF16 b), 0#16)
  | 5 => (.inr (fdecode fmtF16 b), 0#16)
  | 6 => (.inr (fdecode fmtE4M3 b), 0#16)
  | 7 => (.inr (fdecode fmtE5M2 b), 0#16)
  | 8 => (.inr (fdecode fmtE2M1 b), 0#16)
  | _ => (.inl (signedN 32 b), 0#16)

/-- An integer to an integer format (R136, R249): T2 clamps always; otherwise `.sat` clamps and the plain form keeps the low
bits. -/
def intToInt (tag : Nat) (x : Int) (sat : Bool) : Nat × Flags :=
  let w := elemWidth tag
  let (lo, hi) := intRange tag
  if x < lo then (if sat || tag == 10 then (patN w lo, flagSAT) else (patN w x, 0#16))
  else if hi < x then (if sat || tag == 10 then (patN w hi, flagSAT) else (patN w x, 0#16))
  else (patN w x, 0#16)

/-- One element converted (R136, R249). -/
def convElem (src dst b : Nat) (rm : RMode) (sat : Bool) : Nat × Flags :=
  let (v, f0) := decodeElem src b
  let (r, f1) := match v, fmtOfTag dst with
    | .inl x, some f => fencode f (.fin (x < 0) x.natAbs 0) rm sat true
    | .inl x, none => intToInt dst x sat
    | .inr y, some f => fencode f y rm sat true
    | .inr y, none => toInt dst y rm
  (r, f0 ||| f1)

/-- RotR (R141). -/
def rotR (w : Word) (n : Nat) : Word := w.rotateRight (n % 32)

/-- The source and destination pairs that `cvt` allows (R248): 0 not allowed, 1 same-count or narrowing, 2 widening. -/
def cvtKind (src dst : Nat) : Nat :=
  let ns := elemCount src
  let nd := elemCount dst
  if dst < 1 || 10 < dst then 0
  else if src = 1 || src = 2 then 1
  else if 3 ≤ src && src ≤ 7 then
    if ns ≤ nd then 1 else (if 3 ≤ dst && dst ≤ 7 then 2 else 0)
  else if src = 8 then
    if dst = 8 || dst = 10 then 1 else if 3 ≤ dst && dst ≤ 7 then 2 else 0
  else if src = 9 then
    if 4 ≤ nd then 1 else if dst = 1 || dst = 3 || dst = 4 || dst = 5 then 2 else 0
  else if src = 10 then
    if dst = 10 then 1 else if 4 ≤ dst && dst ≤ 9 then 2 else 0
  else if src = 11 then (if dst = 3 then 2 else 0)
  else 0

/-- Rounding and saturation of a conversion's MODE, with the stochastic word (R247). -/
def cvtMode (mode : Nat) (w : Word) : RMode × Bool :=
  match mode with
  | 1 => (.rz, false)
  | 2 => (.ru, false)
  | 3 => (.rd, false)
  | 4 => (.rs w, false)
  | 5 => (.rn, true)
  | 6 => (.rs w, true)
  | 7 => (.rz, true)
  | _ => (.rn, false)

/-- Converted source elements from number j on, packed from the low end. -/
def cvtElems (src dst b mode : Nat) (w : Word) (pos0 : Nat) : Nat → Nat → Nat × Flags
  | 0, _ => (0, 0#16)
  | k + 1, j =>
    let ws := elemWidth src
    let wd := elemWidth dst
    let (rm, sat) := cvtMode mode (rotR w (4 * (pos0 + j)))
    let (r, f) := convElem src dst (bits b (ws * j + ws - 1) (ws * j)) rm sat
    let (rest, g) := cvtElems src dst b mode w pos0 k (j + 1)
    (r * 2 ^ (wd * j) + rest, f ||| g)

/-- `cvt` of b from format src to dst, over the old destination d, with the word w of R251 (R249, R250). -/
def opCvt (src dst mq b d : Nat) (w : Word) : Nat × Flags :=
  let ns := elemCount src
  let nd := elemCount dst
  if nd < ns then
    let ws := elemWidth src
    cvtElems src dst (b >>> (ws * (mq * nd))) 0 w 0 nd 0
  else
    let wd := elemWidth dst
    let (r, f) := cvtElems src dst b mq w (nd - ns) ns 0
    if ns = nd then (r, f) else (d >>> (ns * wd) + r <<< (32 - ns * wd), f)

/-- x ÷ Scale(e) for a finite or special value. -/
def divScale (v : FVal) (e : Nat) : FVal :=
  match v with
  | .fin a m x => .fin a m (x - ((e : Int) - 127))
  | o => o

/-- Positions with their values, the largest magnitudes first, NaN largest, ties to the lower position (R137). -/
def outlierOrder (x y : Nat × FVal) : Bool :=
  match x.2, y.2 with
  | .nan, .nan => x.1 < y.1
  | .nan, _ => true
  | _, .nan => false
  | a, b => let o := fcmp3 (fabs a) (fabs b); o == 1 || (o == 0 && x.1 < y.1)

/-- The first `n` of a list of outliers in the order above. -/
def takeOutliers : Nat → List (Nat × FVal) → List Nat
  | 0, _ => []
  | n + 1, l =>
    match bestBy outlierOrder l with
    | none => []
    | some p => p.1 :: takeOutliers n (l.filter fun q => q.1 ≠ p.1)

/-- `cvtq.e2m1`: the codes of a block as a number, the entry words of its side record, and STATUS (R137, R252). -/
def opCvtq (xs : List Nat) (e mode : Nat) : Nat × List Nat × Flags :=
  let vs := (upFrom 0 32).zip (xs.map (fdecode fmtF32))
  let out := vs.filter fun p => match divScale p.2 e with
    | .nan => true
    | .inf _ => true
    | v => fcmp3 (fabs v) (.fin false 6 0) == 1
  let c := takeOutliers 4 out
  let (rm, _) := cvtMode mode 0#32
  let codes := vs.map fun p =>
    if has c p.1 then (8, 0#16) else fencode fmtE2M1 (divScale p.2 e) rm true true
  let word := (codes.zip (upFrom 0 32)).foldl (fun acc q => acc + q.1.1 * 2 ^ (4 * q.2)) 0
  let fl := codes.foldl (fun acc q => acc ||| q.2) (flagIf (4 < out.length) flagOCLIP)
  let ent := (vs.filter fun p => has c p.1).map fun p =>
    (fencode fmtBF16 p.2 .rn false false).1 + p.1 * 65536
  (word, (ent ++ [0, 0, 0, 0]).take 4, fl)

end Sys2Proof.Machine
end

