-- ==== Sys2Proof/Syntax.lean ====
section
/-! DEFINITION. The instruction syntax: one constructor per row of the opcode table. The first part are the
instruction words (10 R208 to R234), with their switch bit and guard in `Hdr` and their literal, where one may follow
(R209), in the last argument; the second part are the steps of the device's other agents (95_what_each_step_holds.md).
Arguments of a step name which pending thing it concerns (ids of the model's lists), or hold what arrives from outside. -/

namespace Sys2Proof

/-- Switch bit S and guard bit G of an instruction word (R208). -/
structure Hdr where
  /-- switch bit, word bit 29 -/
  s : Bool
  /-- guard bit, word bit 28 -/
  g : Bool
  deriving DecidableEq, Repr

/-- A place that holds stored data and can suffer a soft error (17 R358). -/
inductive Place where
  /-- a byte of module physical memory -/
  | hbm (addr : Nat)
  /-- register `idx` of the allocation of thread `uid` -/
  | vreg (uid idx : Nat)
  /-- word `idx` of tile `tile` of a flock -/
  | tile (core flock tile idx : Nat)
  /-- a byte of a core's local store -/
  | locl (core off : Nat)
  /-- the low or high 32 bits of a counter cell, by the number of its handle -/
  | cell (handle : Nat) (hi : Bool)
  /-- an s register of a flock -/
  | sreg (core flock idx : Nat)
  /-- a byte of a core's L1, by its physical address, or the tag of the line that holds it -/
  | l1 (core addr : Nat) (tag : Bool)
  /-- a byte of L2, by its physical address, or the tag of the line that holds it -/
  | l2 (addr : Nat) (tag : Bool)
  /-- a byte of a die's glean partition, by its physical address -/
  | glean (die addr : Nat)
  /-- an entry in the waiter list of a counter's home: the cell's handle, KIND, the waiting thread or binding, and COND -/
  | waiter (handle kind uid cond : Nat)
  /-- the entry of an operation in a queue or request table, by its number -/
  | entry (op : Nat)
  deriving DecidableEq, Repr

/-- One instruction word, or one step of another agent of the device. -/
inductive Instr where
  /-- MOV_B32_REG `mov.b32` (R241) -/
  | movB32Reg (h : Hdr) (d : BitVec 7) (b : BitVec 7)
  /-- MOV_B32_SEL `mov.b32` (R241) -/
  | movB32Sel (h : Hdr) (d : BitVec 7) (b : BitVec 7) (lit : BitVec 32)
  /-- SEL_B32_REG `sel.b32` (R241) -/
  | selB32Reg (h : Hdr) (d : BitVec 7) (a : BitVec 7) (b : BitVec 7)
  /-- SEL_B32_SEL `sel.b32` (R241) -/
  | selB32Sel (h : Hdr) (d : BitVec 7) (a : BitVec 7) (b : BitVec 7) (lit : BitVec 32)
  /-- ADD_I32_REG `add.i32` (R237) -/
  | addI32Reg (h : Hdr) (d : BitVec 7) (a : BitVec 7) (b : BitVec 7)
  /-- ADD_I32_SEL `add.i32` (R237) -/
  | addI32Sel (h : Hdr) (d : BitVec 7) (a : BitVec 7) (b : BitVec 7) (lit : BitVec 32)
  /-- ADD_N32_REG `add.n32` (R237) -/
  | addN32Reg (h : Hdr) (d : BitVec 7) (a : BitVec 7) (b : BitVec 7)
  /-- ADD_N32_SEL `add.n32` (R237) -/
  | addN32Sel (h : Hdr) (d : BitVec 7) (a : BitVec 7) (b : BitVec 7) (lit : BitVec 32)
  /-- SUB_I32_REG `sub.i32` (R237) -/
  | subI32Reg (h : Hdr) (d : BitVec 7) (a : BitVec 7) (b : BitVec 7)
  /-- SUB_I32_SEL `sub.i32` (R237) -/
  | subI32Sel (h : Hdr) (d : BitVec 7) (a : BitVec 7) (b : BitVec 7) (lit : BitVec 32)
  /-- SUB_N32_REG `sub.n32` (R237) -/
  | subN32Reg (h : Hdr) (d : BitVec 7) (a : BitVec 7) (b : BitVec 7)
  /-- SUB_N32_SEL `sub.n32` (R237) -/
  | subN32Sel (h : Hdr) (d : BitVec 7) (a : BitVec 7) (b : BitVec 7) (lit : BitVec 32)
  /-- MUL_I32_REG `mul.i32` (R237) -/
  | mulI32Reg (h : Hdr) (d : BitVec 7) (a : BitVec 7) (b : BitVec 7)
  /-- MUL_I32_SEL `mul.i32` (R237) -/
  | mulI32Sel (h : Hdr) (d : BitVec 7) (a : BitVec 7) (b : BitVec 7) (lit : BitVec 32)
  /-- MUL_N32_REG `mul.n32` (R237) -/
  | mulN32Reg (h : Hdr) (d : BitVec 7) (a : BitVec 7) (b : BitVec 7)
  /-- MUL_N32_SEL `mul.n32` (R237) -/
  | mulN32Sel (h : Hdr) (d : BitVec 7) (a : BitVec 7) (b : BitVec 7) (lit : BitVec 32)
  /-- MULHI_I32_REG `mulhi.i32` (R237) -/
  | mulhiI32Reg (h : Hdr) (d : BitVec 7) (a : BitVec 7) (b : BitVec 7)
  /-- MULHI_I32_SEL `mulhi.i32` (R237) -/
  | mulhiI32Sel (h : Hdr) (d : BitVec 7) (a : BitVec 7) (b : BitVec 7) (lit : BitVec 32)
  /-- MULHI_N32_REG `mulhi.n32` (R237) -/
  | mulhiN32Reg (h : Hdr) (d : BitVec 7) (a : BitVec 7) (b : BitVec 7)
  /-- MULHI_N32_SEL `mulhi.n32` (R237) -/
  | mulhiN32Sel (h : Hdr) (d : BitVec 7) (a : BitVec 7) (b : BitVec 7) (lit : BitVec 32)
  /-- MIN_I32_REG `min.i32` (R237) -/
  | minI32Reg (h : Hdr) (d : BitVec 7) (a : BitVec 7) (b : BitVec 7)
  /-- MIN_I32_SEL `min.i32` (R237) -/
  | minI32Sel (h : Hdr) (d : BitVec 7) (a : BitVec 7) (b : BitVec 7) (lit : BitVec 32)
  /-- MIN_N32_REG `min.n32` (R237) -/
  | minN32Reg (h : Hdr) (d : BitVec 7) (a : BitVec 7) (b : BitVec 7)
  /-- MIN_N32_SEL `min.n32` (R237) -/
  | minN32Sel (h : Hdr) (d : BitVec 7) (a : BitVec 7) (b : BitVec 7) (lit : BitVec 32)
  /-- MAX_I32_REG `max.i32` (R237) -/
  | maxI32Reg (h : Hdr) (d : BitVec 7) (a : BitVec 7) (b : BitVec 7)
  /-- MAX_I32_SEL `max.i32` (R237) -/
  | maxI32Sel (h : Hdr) (d : BitVec 7) (a : BitVec 7) (b : BitVec 7) (lit : BitVec 32)
  /-- MAX_N32_REG `max.n32` (R237) -/
  | maxN32Reg (h : Hdr) (d : BitVec 7) (a : BitVec 7) (b : BitVec 7)
  /-- MAX_N32_SEL `max.n32` (R237) -/
  | maxN32Sel (h : Hdr) (d : BitVec 7) (a : BitVec 7) (b : BitVec 7) (lit : BitVec 32)
  /-- AND_B32_REG `and.b32` (R237) -/
  | andB32Reg (h : Hdr) (d : BitVec 7) (a : BitVec 7) (b : BitVec 7)
  /-- AND_B32_SEL `and.b32` (R237) -/
  | andB32Sel (h : Hdr) (d : BitVec 7) (a : BitVec 7) (b : BitVec 7) (lit : BitVec 32)
  /-- OR_B32_REG `or.b32` (R237) -/
  | orB32Reg (h : Hdr) (d : BitVec 7) (a : BitVec 7) (b : BitVec 7)
  /-- OR_B32_SEL `or.b32` (R237) -/
  | orB32Sel (h : Hdr) (d : BitVec 7) (a : BitVec 7) (b : BitVec 7) (lit : BitVec 32)
  /-- XOR_B32_REG `xor.b32` (R237) -/
  | xorB32Reg (h : Hdr) (d : BitVec 7) (a : BitVec 7) (b : BitVec 7)
  /-- XOR_B32_SEL `xor.b32` (R237) -/
  | xorB32Sel (h : Hdr) (d : BitVec 7) (a : BitVec 7) (b : BitVec 7) (lit : BitVec 32)
  /-- NOT_B32_REG `not.b32` (R237) -/
  | notB32Reg (h : Hdr) (d : BitVec 7) (b : BitVec 7)
  /-- NOT_B32_SEL `not.b32` (R237) -/
  | notB32Sel (h : Hdr) (d : BitVec 7) (b : BitVec 7) (lit : BitVec 32)
  /-- SHL_B32_REG `shl.b32` (R237) -/
  | shlB32Reg (h : Hdr) (d : BitVec 7) (a : BitVec 7) (b : BitVec 7)
  /-- SHL_B32_SEL `shl.b32` (R237) -/
  | shlB32Sel (h : Hdr) (d : BitVec 7) (a : BitVec 7) (b : BitVec 7) (lit : BitVec 32)
  /-- SHR_N32_REG `shr.n32` (R237) -/
  | shrN32Reg (h : Hdr) (d : BitVec 7) (a : BitVec 7) (b : BitVec 7)
  /-- SHR_N32_SEL `shr.n32` (R237) -/
  | shrN32Sel (h : Hdr) (d : BitVec 7) (a : BitVec 7) (b : BitVec 7) (lit : BitVec 32)
  /-- SHR_I32_REG `shr.i32` (R237) -/
  | shrI32Reg (h : Hdr) (d : BitVec 7) (a : BitVec 7) (b : BitVec 7)
  /-- SHR_I32_SEL `shr.i32` (R237) -/
  | shrI32Sel (h : Hdr) (d : BitVec 7) (a : BitVec 7) (b : BitVec 7) (lit : BitVec 32)
  /-- POPC_B32_REG `popc.b32` (R237) -/
  | popcB32Reg (h : Hdr) (d : BitVec 7) (b : BitVec 7)
  /-- POPC_B32_SEL `popc.b32` (R237) -/
  | popcB32Sel (h : Hdr) (d : BitVec 7) (b : BitVec 7) (lit : BitVec 32)
  /-- CLZ_B32_REG `clz.b32` (R237) -/
  | clzB32Reg (h : Hdr) (d : BitVec 7) (b : BitVec 7)
  /-- CLZ_B32_SEL `clz.b32` (R237) -/
  | clzB32Sel (h : Hdr) (d : BitVec 7) (b : BitVec 7) (lit : BitVec 32)
  /-- CMP_I32_REG `cmp.cond.i32` (R240) -/
  | cmpI32Reg (h : Hdr) (c : BitVec 7) (a : BitVec 7) (b : BitVec 7)
  /-- CMP_I32_SEL `cmp.cond.i32` (R240) -/
  | cmpI32Sel (h : Hdr) (c : BitVec 7) (a : BitVec 7) (b : BitVec 7) (lit : BitVec 32)
  /-- CMP_N32_REG `cmp.cond.n32` (R240) -/
  | cmpN32Reg (h : Hdr) (c : BitVec 7) (a : BitVec 7) (b : BitVec 7)
  /-- CMP_N32_SEL `cmp.cond.n32` (R240) -/
  | cmpN32Sel (h : Hdr) (c : BitVec 7) (a : BitVec 7) (b : BitVec 7) (lit : BitVec 32)
  /-- ADD_I64_REG `add.i64` (R237) -/
  | addI64Reg (h : Hdr) (d : BitVec 7) (a : BitVec 7) (b : BitVec 7)
  /-- ADD_I64_SEL `add.i64` (R237) -/
  | addI64Sel (h : Hdr) (d : BitVec 7) (a : BitVec 7) (b : BitVec 7) (lit : BitVec 32)
  /-- ADD_N64_REG `add.n64` (R237) -/
  | addN64Reg (h : Hdr) (d : BitVec 7) (a : BitVec 7) (b : BitVec 7)
  /-- ADD_N64_SEL `add.n64` (R237) -/
  | addN64Sel (h : Hdr) (d : BitVec 7) (a : BitVec 7) (b : BitVec 7) (lit : BitVec 32)
  /-- SUB_I64_REG `sub.i64` (R237) -/
  | subI64Reg (h : Hdr) (d : BitVec 7) (a : BitVec 7) (b : BitVec 7)
  /-- SUB_I64_SEL `sub.i64` (R237) -/
  | subI64Sel (h : Hdr) (d : BitVec 7) (a : BitVec 7) (b : BitVec 7) (lit : BitVec 32)
  /-- SUB_N64_REG `sub.n64` (R237) -/
  | subN64Reg (h : Hdr) (d : BitVec 7) (a : BitVec 7) (b : BitVec 7)
  /-- SUB_N64_SEL `sub.n64` (R237) -/
  | subN64Sel (h : Hdr) (d : BitVec 7) (a : BitVec 7) (b : BitVec 7) (lit : BitVec 32)
  /-- ADD_F32_REG `add.f32` (R238) -/
  | addF32Reg (h : Hdr) (d : BitVec 7) (a : BitVec 7) (b : BitVec 7)
  /-- ADD_F32_SEL `add.f32` (R238) -/
  | addF32Sel (h : Hdr) (d : BitVec 7) (a : BitVec 7) (b : BitVec 7) (lit : BitVec 32)
  /-- SUB_F32_REG `sub.f32` (R238) -/
  | subF32Reg (h : Hdr) (d : BitVec 7) (a : BitVec 7) (b : BitVec 7)
  /-- SUB_F32_SEL `sub.f32` (R238) -/
  | subF32Sel (h : Hdr) (d : BitVec 7) (a : BitVec 7) (b : BitVec 7) (lit : BitVec 32)
  /-- MUL_F32_REG `mul.f32` (R238) -/
  | mulF32Reg (h : Hdr) (d : BitVec 7) (a : BitVec 7) (b : BitVec 7)
  /-- MUL_F32_SEL `mul.f32` (R238) -/
  | mulF32Sel (h : Hdr) (d : BitVec 7) (a : BitVec 7) (b : BitVec 7) (lit : BitVec 32)
  /-- FMA_F32_REG `fma.f32` (R238) -/
  | fmaF32Reg (h : Hdr) (d : BitVec 7) (a : BitVec 7) (b : BitVec 7)
  /-- FMA_F32_SEL `fma.f32` (R238) -/
  | fmaF32Sel (h : Hdr) (d : BitVec 7) (a : BitVec 7) (b : BitVec 7) (lit : BitVec 32)
  /-- MIN_F32_REG `min.f32` (R238) -/
  | minF32Reg (h : Hdr) (d : BitVec 7) (a : BitVec 7) (b : BitVec 7)
  /-- MIN_F32_SEL `min.f32` (R238) -/
  | minF32Sel (h : Hdr) (d : BitVec 7) (a : BitVec 7) (b : BitVec 7) (lit : BitVec 32)
  /-- MAX_F32_REG `max.f32` (R238) -/
  | maxF32Reg (h : Hdr) (d : BitVec 7) (a : BitVec 7) (b : BitVec 7)
  /-- MAX_F32_SEL `max.f32` (R238) -/
  | maxF32Sel (h : Hdr) (d : BitVec 7) (a : BitVec 7) (b : BitVec 7) (lit : BitVec 32)
  /-- CMP_F32_REG `cmp.cond.f32` (R240) -/
  | cmpF32Reg (h : Hdr) (c : BitVec 7) (a : BitVec 7) (b : BitVec 7)
  /-- CMP_F32_SEL `cmp.cond.f32` (R240) -/
  | cmpF32Sel (h : Hdr) (c : BitVec 7) (a : BitVec 7) (b : BitVec 7) (lit : BitVec 32)
  /-- SFN_F32_REG `sfn.f32` (R238) -/
  | sfnF32Reg (h : Hdr) (d : BitVec 7) (f : BitVec 7) (b : BitVec 7)
  /-- SFN_F32_SEL `sfn.f32` (R238) -/
  | sfnF32Sel (h : Hdr) (d : BitVec 7) (f : BitVec 7) (b : BitVec 7) (lit : BitVec 32)
  /-- ADD_BF16X2_REG `add.bf16x2` (R239) -/
  | addBf16x2Reg (h : Hdr) (d : BitVec 7) (a : BitVec 7) (b : BitVec 7)
  /-- ADD_BF16X2_SEL `add.bf16x2` (R239) -/
  | addBf16x2Sel (h : Hdr) (d : BitVec 7) (a : BitVec 7) (b : BitVec 7) (lit : BitVec 32)
  /-- MUL_BF16X2_REG `mul.bf16x2` (R239) -/
  | mulBf16x2Reg (h : Hdr) (d : BitVec 7) (a : BitVec 7) (b : BitVec 7)
  /-- MUL_BF16X2_SEL `mul.bf16x2` (R239) -/
  | mulBf16x2Sel (h : Hdr) (d : BitVec 7) (a : BitVec 7) (b : BitVec 7) (lit : BitVec 32)
  /-- FMA_BF16X2_REG `fma.bf16x2` (R239) -/
  | fmaBf16x2Reg (h : Hdr) (d : BitVec 7) (a : BitVec 7) (b : BitVec 7)
  /-- FMA_BF16X2_SEL `fma.bf16x2` (R239) -/
  | fmaBf16x2Sel (h : Hdr) (d : BitVec 7) (a : BitVec 7) (b : BitVec 7) (lit : BitVec 32)
  /-- ADD_F16X2_REG `add.f16x2` (R239) -/
  | addF16x2Reg (h : Hdr) (d : BitVec 7) (a : BitVec 7) (b : BitVec 7)
  /-- ADD_F16X2_SEL `add.f16x2` (R239) -/
  | addF16x2Sel (h : Hdr) (d : BitVec 7) (a : BitVec 7) (b : BitVec 7) (lit : BitVec 32)
  /-- MUL_F16X2_REG `mul.f16x2` (R239) -/
  | mulF16x2Reg (h : Hdr) (d : BitVec 7) (a : BitVec 7) (b : BitVec 7)
  /-- MUL_F16X2_SEL `mul.f16x2` (R239) -/
  | mulF16x2Sel (h : Hdr) (d : BitVec 7) (a : BitVec 7) (b : BitVec 7) (lit : BitVec 32)
  /-- FMA_F16X2_REG `fma.f16x2` (R239) -/
  | fmaF16x2Reg (h : Hdr) (d : BitVec 7) (a : BitVec 7) (b : BitVec 7)
  /-- FMA_F16X2_SEL `fma.f16x2` (R239) -/
  | fmaF16x2Sel (h : Hdr) (d : BitVec 7) (a : BitVec 7) (b : BitVec 7) (lit : BitVec 32)
  /-- CVT_REG `cvt` (R249) -/
  | cvtReg (h : Hdr) (d : BitVec 7) (f : BitVec 7) (b : BitVec 7)
  /-- CVT_SEL `cvt` (R249) -/
  | cvtSel (h : Hdr) (d : BitVec 7) (f : BitVec 7) (b : BitVec 7) (lit : BitVec 32)
  /-- CVTQ_E2M1_REG `cvtq.e2m1` (R252) -/
  | cvtqE2m1Reg (h : Hdr) (d : BitVec 7) (a : BitVec 7) (b : BitVec 7)
  /-- CVTQ_E2M1_SEL `cvtq.e2m1` (R252) -/
  | cvtqE2m1Sel (h : Hdr) (d : BitVec 7) (a : BitVec 7) (b : BitVec 7) (lit : BitVec 32)
  /-- PERM_B32_REG `perm.b32` (R244) -/
  | permB32Reg (h : Hdr) (d : BitVec 7) (a : BitVec 7) (b : BitVec 7)
  /-- PERM_B32_SEL `perm.b32` (R244) -/
  | permB32Sel (h : Hdr) (d : BitVec 7) (a : BitVec 7) (b : BitVec 7) (lit : BitVec 32)
  /-- GSET_REG `gset` (R242) -/
  | gsetReg (h : Hdr) (c : BitVec 7) (a : BitVec 7) (b : BitVec 7)
  /-- GSET_SEL `gset` (R242) -/
  | gsetSel (h : Hdr) (c : BitVec 7) (a : BitVec 7) (b : BitVec 7) (lit : BitVec 32)
  /-- TAGSET_REG `tagset` (R243) -/
  | tagsetReg (h : Hdr) (d : BitVec 7) (a : BitVec 7) (b : BitVec 7)
  /-- TAGSET_SEL `tagset` (R243) -/
  | tagsetSel (h : Hdr) (d : BitVec 7) (a : BitVec 7) (b : BitVec 7) (lit : BitVec 32)
  /-- XLR_REG `xlr` (R245) -/
  | xlrReg (h : Hdr) (d : BitVec 7) (a : BitVec 7) (b : BitVec 7)
  /-- XLR_SEL `xlr` (R245) -/
  | xlrSel (h : Hdr) (d : BitVec 7) (a : BitVec 7) (b : BitVec 7) (lit : BitVec 32)
  /-- RNGK_REG `rngk` (R311) -/
  | rngkReg (h : Hdr) (d : BitVec 7) (a : BitVec 7) (b : BitVec 7)
  /-- RNGK_SEL `rngk` (R311) -/
  | rngkSel (h : Hdr) (d : BitVec 7) (a : BitVec 7) (b : BitVec 7) (lit : BitVec 32)
  /-- SMOV_B32 `smov.b32` (R253) -/
  | smovB32 (h : Hdr) (d : BitVec 7) (b : BitVec 7) (lit : BitVec 32)
  /-- SADD_I32 `sadd.i32` (R253) -/
  | saddI32 (h : Hdr) (d : BitVec 7) (a : BitVec 7) (b : BitVec 7) (lit : BitVec 32)
  /-- SADD_N32 `sadd.n32` (R253) -/
  | saddN32 (h : Hdr) (d : BitVec 7) (a : BitVec 7) (b : BitVec 7) (lit : BitVec 32)
  /-- SSUB_I32 `ssub.i32` (R253) -/
  | ssubI32 (h : Hdr) (d : BitVec 7) (a : BitVec 7) (b : BitVec 7) (lit : BitVec 32)
  /-- SSUB_N32 `ssub.n32` (R253) -/
  | ssubN32 (h : Hdr) (d : BitVec 7) (a : BitVec 7) (b : BitVec 7) (lit : BitVec 32)
  /-- SMUL_I32 `smul.i32` (R253) -/
  | smulI32 (h : Hdr) (d : BitVec 7) (a : BitVec 7) (b : BitVec 7) (lit : BitVec 32)
  /-- SMUL_N32 `smul.n32` (R253) -/
  | smulN32 (h : Hdr) (d : BitVec 7) (a : BitVec 7) (b : BitVec 7) (lit : BitVec 32)
  /-- SMULHI_I32 `smulhi.i32` (R253) -/
  | smulhiI32 (h : Hdr) (d : BitVec 7) (a : BitVec 7) (b : BitVec 7) (lit : BitVec 32)
  /-- SMULHI_N32 `smulhi.n32` (R253) -/
  | smulhiN32 (h : Hdr) (d : BitVec 7) (a : BitVec 7) (b : BitVec 7) (lit : BitVec 32)
  /-- SMIN_I32 `smin.i32` (R253) -/
  | sminI32 (h : Hdr) (d : BitVec 7) (a : BitVec 7) (b : BitVec 7) (lit : BitVec 32)
  /-- SMIN_N32 `smin.n32` (R253) -/
  | sminN32 (h : Hdr) (d : BitVec 7) (a : BitVec 7) (b : BitVec 7) (lit : BitVec 32)
  /-- SMAX_I32 `smax.i32` (R253) -/
  | smaxI32 (h : Hdr) (d : BitVec 7) (a : BitVec 7) (b : BitVec 7) (lit : BitVec 32)
  /-- SMAX_N32 `smax.n32` (R253) -/
  | smaxN32 (h : Hdr) (d : BitVec 7) (a : BitVec 7) (b : BitVec 7) (lit : BitVec 32)
  /-- SAND_B32 `sand.b32` (R253) -/
  | sandB32 (h : Hdr) (d : BitVec 7) (a : BitVec 7) (b : BitVec 7) (lit : BitVec 32)
  /-- SOR_B32 `sor.b32` (R253) -/
  | sorB32 (h : Hdr) (d : BitVec 7) (a : BitVec 7) (b : BitVec 7) (lit : BitVec 32)
  /-- SXOR_B32 `sxor.b32` (R253) -/
  | sxorB32 (h : Hdr) (d : BitVec 7) (a : BitVec 7) (b : BitVec 7) (lit : BitVec 32)
  /-- SNOT_B32 `snot.b32` (R253) -/
  | snotB32 (h : Hdr) (d : BitVec 7) (b : BitVec 7) (lit : BitVec 32)
  /-- SSHL_B32 `sshl.b32` (R253) -/
  | sshlB32 (h : Hdr) (d : BitVec 7) (a : BitVec 7) (b : BitVec 7) (lit : BitVec 32)
  /-- SSHR_N32 `sshr.n32` (R253) -/
  | sshrN32 (h : Hdr) (d : BitVec 7) (a : BitVec 7) (b : BitVec 7) (lit : BitVec 32)
  /-- SSHR_I32 `sshr.i32` (R253) -/
  | sshrI32 (h : Hdr) (d : BitVec 7) (a : BitVec 7) (b : BitVec 7) (lit : BitVec 32)
  /-- SPOPC_B32 `spopc.b32` (R253) -/
  | spopcB32 (h : Hdr) (d : BitVec 7) (b : BitVec 7) (lit : BitVec 32)
  /-- SCLZ_B32 `sclz.b32` (R253) -/
  | sclzB32 (h : Hdr) (d : BitVec 7) (b : BitVec 7) (lit : BitVec 32)
  /-- SCMP_I32 `scmp.cond.i32` (R253) -/
  | scmpI32 (h : Hdr) (c : BitVec 7) (a : BitVec 7) (b : BitVec 7) (lit : BitVec 32)
  /-- SCMP_N32 `scmp.cond.n32` (R253) -/
  | scmpN32 (h : Hdr) (c : BitVec 7) (a : BitVec 7) (b : BitVec 7) (lit : BitVec 32)
  /-- SADD_I64 `sadd.i64` (R253) -/
  | saddI64 (h : Hdr) (d : BitVec 7) (a : BitVec 7) (b : BitVec 7) (lit : BitVec 32)
  /-- SADD_N64 `sadd.n64` (R253) -/
  | saddN64 (h : Hdr) (d : BitVec 7) (a : BitVec 7) (b : BitVec 7) (lit : BitVec 32)
  /-- SSUB_I64 `ssub.i64` (R253) -/
  | ssubI64 (h : Hdr) (d : BitVec 7) (a : BitVec 7) (b : BitVec 7) (lit : BitVec 32)
  /-- SSUB_N64 `ssub.n64` (R253) -/
  | ssubN64 (h : Hdr) (d : BitVec 7) (a : BitVec 7) (b : BitVec 7) (lit : BitVec 32)
  /-- SADD_F32 `sadd.f32` (R253) -/
  | saddF32 (h : Hdr) (d : BitVec 7) (a : BitVec 7) (b : BitVec 7) (lit : BitVec 32)
  /-- SSUB_F32 `ssub.f32` (R253) -/
  | ssubF32 (h : Hdr) (d : BitVec 7) (a : BitVec 7) (b : BitVec 7) (lit : BitVec 32)
  /-- SMUL_F32 `smul.f32` (R253) -/
  | smulF32 (h : Hdr) (d : BitVec 7) (a : BitVec 7) (b : BitVec 7) (lit : BitVec 32)
  /-- SFMA_F32 `sfma.f32` (R253) -/
  | sfmaF32 (h : Hdr) (d : BitVec 7) (a : BitVec 7) (b : BitVec 7) (lit : BitVec 32)
  /-- SMIN_F32 `smin.f32` (R253) -/
  | sminF32 (h : Hdr) (d : BitVec 7) (a : BitVec 7) (b : BitVec 7) (lit : BitVec 32)
  /-- SMAX_F32 `smax.f32` (R253) -/
  | smaxF32 (h : Hdr) (d : BitVec 7) (a : BitVec 7) (b : BitVec 7) (lit : BitVec 32)
  /-- SCMP_F32 `scmp.cond.f32` (R253) -/
  | scmpF32 (h : Hdr) (c : BitVec 7) (a : BitVec 7) (b : BitVec 7) (lit : BitVec 32)
  /-- SSFN_F32 `ssfn.f32` (R253) -/
  | ssfnF32 (h : Hdr) (d : BitVec 7) (f : BitVec 7) (b : BitVec 7) (lit : BitVec 32)
  /-- SADD_BF16X2 `sadd.bf16x2` (R253) -/
  | saddBf16x2 (h : Hdr) (d : BitVec 7) (a : BitVec 7) (b : BitVec 7) (lit : BitVec 32)
  /-- SMUL_BF16X2 `smul.bf16x2` (R253) -/
  | smulBf16x2 (h : Hdr) (d : BitVec 7) (a : BitVec 7) (b : BitVec 7) (lit : BitVec 32)
  /-- SFMA_BF16X2 `sfma.bf16x2` (R253) -/
  | sfmaBf16x2 (h : Hdr) (d : BitVec 7) (a : BitVec 7) (b : BitVec 7) (lit : BitVec 32)
  /-- SADD_F16X2 `sadd.f16x2` (R253) -/
  | saddF16x2 (h : Hdr) (d : BitVec 7) (a : BitVec 7) (b : BitVec 7) (lit : BitVec 32)
  /-- SMUL_F16X2 `smul.f16x2` (R253) -/
  | smulF16x2 (h : Hdr) (d : BitVec 7) (a : BitVec 7) (b : BitVec 7) (lit : BitVec 32)
  /-- SFMA_F16X2 `sfma.f16x2` (R253) -/
  | sfmaF16x2 (h : Hdr) (d : BitVec 7) (a : BitVec 7) (b : BitVec 7) (lit : BitVec 32)
  /-- SCVT `scvt` (R253) -/
  | scvt (h : Hdr) (d : BitVec 7) (f : BitVec 7) (b : BitVec 7) (lit : BitVec 32)
  /-- SPERM_B32 `sperm.b32` (R253) -/
  | spermB32 (h : Hdr) (d : BitVec 7) (a : BitVec 7) (b : BitVec 7) (lit : BitVec 32)
  /-- SVOTE_B32 `svote.b32` (R254) -/
  | svoteB32 (h : Hdr) (d : BitVec 7)
  /-- SLANE_B32 `slane.b32` (R255) -/
  | slaneB32 (h : Hdr) (d : BitVec 7) (a : BitVec 7) (b : BitVec 7) (lit : BitVec 32)
  /-- LD `ld` (R273) -/
  | ld (h : Hdr) (d : BitVec 7) (a : BitVec 7) (m : BitVec 7)
  /-- LD_LIT `ld` (R273) -/
  | ldLit (h : Hdr) (d : BitVec 7) (a : BitVec 7) (m : BitVec 7) (lit : BitVec 32)
  /-- ST `st` (R274) -/
  | st (h : Hdr) (d : BitVec 7) (a : BitVec 7) (z : BitVec 3)
  /-- ST_LIT `st` (R274) -/
  | stLit (h : Hdr) (d : BitVec 7) (a : BitVec 7) (z : BitVec 3) (lit : BitVec 32)
  /-- LDL `ldl` (R273) -/
  | ldl (h : Hdr) (d : BitVec 7) (a : BitVec 7) (m : BitVec 7)
  /-- LDL_LIT `ldl` (R273) -/
  | ldlLit (h : Hdr) (d : BitVec 7) (a : BitVec 7) (m : BitVec 7) (lit : BitVec 32)
  /-- STL `stl` (R274) -/
  | stl (h : Hdr) (d : BitVec 7) (a : BitVec 7) (z : BitVec 3)
  /-- STL_LIT `stl` (R274) -/
  | stlLit (h : Hdr) (d : BitVec 7) (a : BitVec 7) (z : BitVec 3) (lit : BitVec 32)
  /-- PREF `pref` (R275) -/
  | pref (h : Hdr) (a : BitVec 7) (l : Bool)
  /-- PREF_LIT `pref` (R275) -/
  | prefLit (h : Hdr) (a : BitVec 7) (l : Bool) (lit : BitVec 32)
  /-- RED `red` (R276) -/
  | red (h : Hdr) (d : BitVec 7) (a : BitVec 7) (f : BitVec 7)
  /-- RED_LIT `red` (R276) -/
  | redLit (h : Hdr) (d : BitVec 7) (a : BitVec 7) (f : BitVec 7) (lit : BitVec 32)
  /-- RED_LS `red.ls` (R276) -/
  | redLs (h : Hdr) (d : BitVec 7) (a : BitVec 7) (f : BitVec 7)
  /-- RED_LS_LIT `red.ls` (R276) -/
  | redLsLit (h : Hdr) (d : BitVec 7) (a : BitVec 7) (f : BitVec 7) (lit : BitVec 32)
  /-- RED_DET `red.det` (R278) -/
  | redDet (h : Hdr) (d : BitVec 7) (a : BitVec 7) (b : BitVec 7)
  /-- RED_DET_LIT `red.det` (R278) -/
  | redDetLit (h : Hdr) (d : BitVec 7) (a : BitVec 7) (b : BitVec 7) (lit : BitVec 32)
  /-- FENCE `fence` (R279) -/
  | fence (h : Hdr) (c : BitVec 3)
  /-- CADD `cadd` (R281) -/
  | cadd (h : Hdr) (d : BitVec 7) (a : BitVec 7) (c : BitVec 3)
  /-- CADD_LIT `cadd` (R281) -/
  | caddLit (h : Hdr) (a : BitVec 7) (c : BitVec 3) (lit : BitVec 32)
  /-- CADDR `caddr` (R282) -/
  | caddr (h : Hdr) (d : BitVec 7) (a : BitVec 7) (c : BitVec 3)
  /-- CADDR_LIT `caddr` (R282) -/
  | caddrLit (h : Hdr) (d : BitVec 7) (a : BitVec 7) (c : BitVec 3) (lit : BitVec 32)
  /-- CREAD `cread` (R283) -/
  | cread (h : Hdr) (d : BitVec 7) (a : BitVec 7) (c : BitVec 3)
  /-- CWT `cwt` (R284) -/
  | cwt (h : Hdr) (d : BitVec 7) (a : BitVec 7) (c : BitVec 3)
  /-- CWAIT `cwait` (R286) -/
  | cwait (h : Hdr) (d : BitVec 7) (a : BitVec 7) (c : BitVec 3)
  /-- COPY `copy` (R289) -/
  | copy (h : Hdr) (d : BitVec 7) (a : BitVec 7) (b : BitVec 7)
  /-- COPY_LIT `copy` (R289) -/
  | copyLit (h : Hdr) (d : BitVec 7) (a : BitVec 7) (lit : BitVec 32)
  /-- COPYX `copyx` (R290) -/
  | copyx (h : Hdr) (d : BitVec 7) (a : BitVec 7) (b : BitVec 7)
  /-- COPYX_LIT `copyx` (R290) -/
  | copyxLit (h : Hdr) (d : BitVec 7) (a : BitVec 7) (lit : BitVec 32)
  /-- TDECL `tdecl` (R292) -/
  | tdecl (h : Hdr) (d : BitVec 7) (a : BitVec 7)
  /-- SWEEP `sweep` (R293) -/
  | sweep (h : Hdr) (d : BitVec 7) (a : BitVec 7) (b : BitVec 7)
  /-- SWEEP_LIT `sweep` (R293) -/
  | sweepLit (h : Hdr) (d : BitVec 7) (a : BitVec 7) (lit : BitVec 32)
  /-- EYIELD `eyield` (R294) -/
  | eyield (h : Hdr) (a : BitVec 7)
  /-- ECTXLD `ectxld` (R295) -/
  | ectxld (h : Hdr) (d : BitVec 7) (a : BitVec 7) (w : BitVec 3) (k : BitVec 3)
  /-- ECTXLD_LIT `ectxld` (R295) -/
  | ectxldLit (h : Hdr) (d : BitVec 7) (a : BitVec 7) (w : BitVec 3) (k : BitVec 3) (lit : BitVec 32)
  /-- ECTXST `ectxst` (R295) -/
  | ectxst (h : Hdr) (d : BitVec 7) (a : BitVec 7) (w : BitVec 3) (k : BitVec 3)
  /-- ECTXST_LIT `ectxst` (R295) -/
  | ectxstLit (h : Hdr) (d : BitVec 7) (a : BitVec 7) (w : BitVec 3) (k : BitVec 3) (lit : BitVec 32)
  /-- TFREE `tfree` (R296) -/
  | tfree (h : Hdr) (a : BitVec 7)
  /-- MMA `mma` (R300) -/
  | mma (h : Hdr) (d : BitVec 7) (a : BitVec 7) (q : BitVec 3) (f : BitVec 4)
  /-- MLD `mld` (R302) -/
  | mld (h : Hdr) (d : BitVec 7) (a : BitVec 7) (t : BitVec 4)
  /-- MLD_LIT `mld` (R302) -/
  | mldLit (h : Hdr) (d : BitVec 7) (a : BitVec 7) (t : BitVec 4) (lit : BitVec 32)
  /-- MST `mst` (R303) -/
  | mst (h : Hdr) (d : BitVec 7) (a : BitVec 7) (b : BitVec 7)
  /-- MST_LIT `mst` (R303) -/
  | mstLit (h : Hdr) (d : BitVec 7) (a : BitVec 7) (b : BitVec 7) (lit : BitVec 32)
  /-- MZERO `mzero` (R304) -/
  | mzero (h : Hdr) (d : BitVec 7) (t : BitVec 4)
  /-- TRACE `trace` (R306) -/
  | trace (h : Hdr) (d : BitVec 7) (a : BitVec 7) (b : BitVec 7)
  /-- TRACE_LIT `trace` (R306) -/
  | traceLit (h : Hdr) (d : BitVec 7) (a : BitVec 7) (lit : BitVec 32)
  /-- BEAM `beam` (R307) -/
  | beam (h : Hdr) (d : BitVec 7) (a : BitVec 7) (b : BitVec 7)
  /-- BEAM_LIT `beam` (R307) -/
  | beamLit (h : Hdr) (d : BitVec 7) (a : BitVec 7) (lit : BitVec 32)
  /-- HITGET `hitget` (R309) -/
  | hitget (h : Hdr) (d : BitVec 7) (a : BitVec 7) (p : BitVec 2)
  /-- TEX `tex` (R310) -/
  | tex (h : Hdr) (d : BitVec 7) (a : BitVec 7) (b : BitVec 7)
  /-- PUT `put` (R315) -/
  | put (h : Hdr) (d : BitVec 7) (a : BitVec 7) (b : BitVec 7)
  /-- PUT_LIT `put` (R315) -/
  | putLit (h : Hdr) (d : BitVec 7) (a : BitVec 7) (lit : BitVec 32)
  /-- GET `get` (R315) -/
  | get (h : Hdr) (d : BitVec 7) (a : BitVec 7) (b : BitVec 7)
  /-- GET_LIT `get` (R315) -/
  | getLit (h : Hdr) (d : BitVec 7) (a : BitVec 7) (lit : BitVec 32)
  /-- SEND `send` (R315) -/
  | send (h : Hdr) (d : BitVec 7) (a : BitVec 7) (b : BitVec 7)
  /-- SEND_LIT `send` (R315) -/
  | sendLit (h : Hdr) (d : BitVec 7) (a : BitVec 7) (lit : BitVec 32)
  /-- RWSEND `rwsend` (R316) -/
  | rwsend (h : Hdr) (d : BitVec 7) (a : BitVec 6) (t : Bool) (b : BitVec 7)
  /-- RWSEND_LIT `rwsend` (R316) -/
  | rwsendLit (h : Hdr) (d : BitVec 7) (a : BitVec 6) (t : Bool) (lit : BitVec 32)
  /-- POST `post` (R317) -/
  | post (h : Hdr) (d : BitVec 7) (a : BitVec 7)
  /-- CGRAPH `cgraph` (R320) -/
  | cgraph (h : Hdr) (d : BitVec 7) (a : BitVec 7) (b : BitVec 7)
  /-- CGRAPH_LIT `cgraph` (R320) -/
  | cgraphLit (h : Hdr) (d : BitVec 7) (a : BitVec 7) (lit : BitVec 32)
  /-- COLL `coll` (R320) -/
  | coll (h : Hdr) (d : BitVec 7) (a : BitVec 7) (b : BitVec 7)
  /-- COLL_LIT `coll` (R320) -/
  | collLit (h : Hdr) (d : BitVec 7) (a : BitVec 7) (lit : BitVec 32)
  /-- COMP `comp` (R320) -/
  | comp (h : Hdr) (d : BitVec 7) (a : BitVec 7) (b : BitVec 7)
  /-- COMP_LIT `comp` (R320) -/
  | compLit (h : Hdr) (d : BitVec 7) (a : BitVec 7) (lit : BitVec 32)
  /-- BR `br` (R257) -/
  | br (h : Hdr) (o : BitVec 21)
  /-- BRN `brn` (R257) -/
  | brn (h : Hdr) (o : BitVec 21)
  /-- CALL `call` (R257) -/
  | call (h : Hdr) (o : BitVec 21)
  /-- JR `jr` (R258) -/
  | jr (h : Hdr) (a : BitVec 7)
  /-- SPAWN `spawn` (R262) -/
  | spawn (h : Hdr) (d : BitVec 7) (a : BitVec 7) (b : BitVec 7) (lit : BitVec 32)
  /-- EXIT `exit` (R265) -/
  | exit (h : Hdr)
  /-- JOIN `join` (R267) -/
  | join (h : Hdr) (a : BitVec 7)
  /-- JOINK `joink` (R268) -/
  | joink (h : Hdr) (a : BitVec 7)
  /-- LEAVE `leave` (R269) -/
  | leave (h : Hdr)
  /-- WINB `winb` (R270) -/
  | winb (h : Hdr) (c : BitVec 7) (b : BitVec 7) (lit : BitVec 32)
  /-- YIELD `yield` (R259) -/
  | yield (h : Hdr)
  /-- BRK `brk` (R260) -/
  | brk (h : Hdr)
  /-- CVACC `cvacc` (R261) -/
  | cvacc (h : Hdr)
  /-- CVREJ `cvrej` (R261) -/
  | cvrej (h : Hdr)
  /-- NOP `nop` (R259) -/
  | nop (h : Hdr)
  /-- STATRD `statrd` (R322) -/
  | statrd (h : Hdr) (d : BitVec 7)
  /-- STATCLR `statclr` (R322) -/
  | statclr (h : Hdr) (b : BitVec 7) (lit : BitVec 32)
  /-- CSRR `csrr` (R324) -/
  | csrr (h : Hdr) (d : BitVec 7) (b : BitVec 7) (lit : BitVec 32)
  /-- HALTW `haltw` (R323) -/
  | haltw (h : Hdr)
  /-- SEGSET `segset` (R325) -/
  | segset (h : Hdr) (k : BitVec 7) (a : BitVec 7)
  /-- CSRW `csrw` (R324) -/
  | csrw (h : Hdr) (a : BitVec 7) (b : BitVec 7) (lit : BitVec 32)
  /-- CARVE `carve` (R326) -/
  | carve (h : Hdr) (d : BitVec 7) (b : BitVec 7) (lit : BitVec 32)
  /-- CINIT `cinit` (R287) -/
  | cinit (h : Hdr) (d : BitVec 7) (a : BitVec 7)
  /-- CTXSAVE `ctxsave` (R327) -/
  | ctxsave (h : Hdr) (d : BitVec 7) (a : BitVec 7) (b : BitVec 7) (lit : BitVec 32)
  /-- CTXLOAD `ctxload` (R329) -/
  | ctxload (h : Hdr) (d : BitVec 7) (a : BitVec 7) (b : BitVec 7) (lit : BitVec 32)
  /-- REVOKE `revoke` (R318) -/
  | revoke (h : Hdr) (d : BitVec 7) (a : BitVec 7) (b : BitVec 7) (lit : BitVec 32)
  /-- STEP `step` (R330) -/
  | step (h : Hdr) (d : BitVec 7) (a : BitVec 7) (b : BitVec 7) (lit : BitVec 32)
  /-- RESULT_WRITEBACK (R46) -/
  | resultWriteback (id : Nat)
  /-- PRIO_AGE (R42) -/
  | prioAge (uid : Nat)
  /-- BIN_TIMER_EXPIRY (R38) -/
  | binTimerExpiry (bin : Nat)
  /-- BIN_LAUNCH (R39) -/
  | binLaunch (bin : Nat)
  /-- SPAWN_DEFERRED_PLACEMENT (R38): a thread that waits for it, or 2^64 + core for a handler thread -/
  | spawnDeferredPlacement (uid : Nat)
  /-- FLOCK_ADMIT (R54) -/
  | flockAdmit (core : Nat)
  /-- ROTATION_POINT (R55) -/
  | rotationPoint (core : Nat)
  /-- SWEEP_DEFERRED_EVICTION (R92) -/
  | sweepDeferredEviction (core : Nat)
  /-- LAUNCH_QUEUE_ENABLE (R53) -/
  | launchQueueEnable (m : Nat) (die : Nat) (q : Nat) (v : BitVec 64)
  /-- LAUNCH_QUEUE_DISABLE (R417) -/
  | launchQueueDisable (m : Nat) (die : Nat) (q : Nat) (v : BitVec 64)
  /-- LAUNCH_RECORD_TAKE (R53) -/
  | launchRecordTake (die : Nat) (q : Nat)
  /-- LAUNCH_RECORD_PLACE (R51) -/
  | launchRecordPlace (die : Nat) (q : Nat)
  /-- COUNTER_ADD (R64) -/
  | counterAdd (pkt : Nat)
  /-- COUNTER_ADD_RETURN (R64) -/
  | counterAddReturn (pkt : Nat)
  /-- COUNTER_READ (R64) -/
  | counterRead (pkt : Nat)
  /-- COUNTER_REGISTER_WAIT (R67) -/
  | counterRegisterWait (pkt : Nat)
  /-- COUNTER_WITHDRAW_WAIT (R68) -/
  | counterWithdrawWait (pkt : Nat)
  /-- COUNTER_SET (R287) -/
  | counterSet (pkt : Nat)
  /-- COUNTER_WAKE (R67) -/
  | counterWake (pkt : Nat)
  /-- COUNTER_RESPONSE (R64) -/
  | counterResponse (pkt : Nat)
  /-- CWAIT_DEADLINE (R68) -/
  | cwaitDeadline (uid : Nat)
  /-- APERTURE_ADD (R75) -/
  | apertureAdd (port : Nat) (w : Nat) (v : BitVec 64)
  /-- APERTURE_FADD (R75) -/
  | apertureFadd (port : Nat) (w : Nat) (v : BitVec 64)
  /-- APERTURE_VALUE_READ (R74) -/
  | apertureValueRead (port : Nat) (w : Nat)
  /-- APERTURE_ARM (R74) -/
  | apertureArm (port : Nat) (w : Nat) (v : BitVec 64)
  /-- APERTURE_FIRED (R74) -/
  | apertureFired (pkt : Nat)
  /-- WRITE_APPLY (R177) -/
  | writeApply (pkt : Nat)
  /-- READ_REQUEST (R177) -/
  | readRequest (pkt : Nat)
  /-- READ_RESPONSE (R176) -/
  | readResponse (pkt : Nat)
  /-- REDUCTION_APPLY (R108) -/
  | reductionApply (pkt : Nat)
  /-- RED_DET_CONTRIBUTION (R122) -/
  | redDetContribution (pkt : Nat)
  /-- ACKNOWLEDGEMENT (R177) -/
  | acknowledgement (pkt : Nat)
  /-- WC_DRAIN (R106): core + 4096 × choice; choice 0 is the core's whole store FIFO and its write-combined bytes, 1 the latter alone, k + 2 the oldest store of
thread k -/
  | wcDrain (core : Nat)
  /-- TLBI_GO (R100) -/
  | tlbiGo (m : Nat) (die : Nat) (v : BitVec 64)
  /-- TLBI_COMPLETE (R101) -/
  | tlbiComplete (die : Nat)
  /-- ATS_TRANSLATION_COMPLETION (R381) -/
  | atsTranslationCompletion (port : Nat) (req : Nat) (status : Nat) (present : Bool) (w : Bool) (bus : Nat)
  /-- ATS_INVALIDATION_REQUEST (R102) -/
  | atsInvalidationRequest (port : Nat) (pasid : Nat) (va : Nat) (pages : Nat)
  /-- INVALIDATION_COMPLETION (R102): the number of the invalidation -/
  | invalidationCompletion (port : Nat) (n : Nat)
  /-- PAGE_REQUEST_RESPONSE (R381): result 0 Success, 1 Invalid Request, any other Response Failure -/
  | pageRequestResponse (port : Nat) (req : Nat) (result : Nat)
  /-- PAGE_REQUEST_TIMEOUT (R381) -/
  | pageRequestTimeout (port : Nat) (req : Nat)
  /-- CARVE_GROW_COMPLETE (R105) -/
  | carveGrowComplete (core : Nat)
  /-- FENCE_COMPLETE (R279) -/
  | fenceComplete (uid : Nat)
  /-- SWEEP_START (R87) -/
  | sweepStart (core : Nat)
  /-- SWEEP_GROUP_WRITEBACK (R87) -/
  | sweepGroupWriteback (core : Nat)
  /-- ELEMENT_WAKE (R86) -/
  | elementWake (pkt : Nat)
  /-- TFREE_COMPLETE (R296) -/
  | tfreeComplete (uid : Nat)
  /-- COPY_COMPLETE (R289) -/
  | copyComplete (op : Nat)
  /-- MMA_COMPLETE (R301) -/
  | mmaComplete (core : Nat)
  /-- MST_CHUNK_ADD (R303) -/
  | mstChunkAdd (id : Nat)
  /-- RAY_COMPLETE (R306) -/
  | rayComplete (id : Nat)
  /-- BEAM_START (R307) -/
  | beamStart (harrow : Nat)
  /-- COVERAGE_RESOLVE (R162) -/
  | coverageResolve (harrow : Nat)
  /-- PUT_ARRIVAL (R180) -/
  | putArrival (msg : Nat)
  /-- GET_ARRIVAL (R180) -/
  | getArrival (msg : Nat)
  /-- SEND_ARRIVAL (R180) -/
  | sendArrival (msg : Nat)
  /-- NACK_RECEIVE (R401) -/
  | nackReceive (msg : Nat)
  /-- NETWORK_OP_COMPLETE (R180) -/
  | networkOpComplete (msg : Nat)
  /-- RWSEND_CHANNEL_ASSIGN (R186) -/
  | rwsendChannelAssign (die : Nat) (ch : Nat)
  /-- REMOTE_WORK_RECORD_RECEIVE (R187) -/
  | remoteWorkRecordReceive (msg : Nat)
  /-- ARRIVAL_ADDITION (R187) -/
  | arrivalAddition (id : Nat)
  /-- REVOKE_COMPLETE (R181) -/
  | revokeComplete (die : Nat) (region : Nat)
  /-- ARMED_REQUEST_FIRE (R183) -/
  | armedRequestFire (pkt : Nat)
  /-- CGRAPH_BIND (R320) -/
  | cgraphBind (op : Nat)
  /-- REPLAY_START (R188) -/
  | replayStart (die : Nat)
  /-- NOT_BEFORE_EXPIRY (R191) -/
  | notBeforeExpiry (die : Nat) (node : Nat)
  /-- GRAPH_NODE_START (R189) -/
  | graphNodeStart (die : Nat) (node : Nat)
  /-- COLLECTIVE_CHUNK_RECEIVE (R189) -/
  | collectiveChunkReceive (msg : Nat)
  /-- GRAPH_NODE_COMPLETE (R189) -/
  | graphNodeComplete (die : Nat) (node : Nat)
  /-- COMP_COMPLETE (R320) -/
  | compComplete (op : Nat)
  /-- INSW_DISCOVERY (R198) -/
  | inswDiscovery (die : Nat) (present : Bool) (treeExact : Bool)
  /-- INSW_REFUSAL (R408) -/
  | inswRefusal (die : Nat) (node : Nat)
  /-- LINK_SWING_DIR_WRITE (R172) -/
  | linkSwingDirWrite (m : Nat) (die : Nat) (peer : Nat) (v : BitVec 64)
  /-- SWING_TURN_COMPLETE (R172) -/
  | swingTurnComplete (die : Nat) (peer : Nat) (group : Nat)
  /-- FLIT_RECEIVE (R394) -/
  | flitReceive (die : Nat) (peer : Nat) (flit : BitVec 512)
  /-- RETRY_REQUEST (R394) -/
  | retryRequest (die : Nat) (peer : Nat) (seqno : BitVec 16)
  /-- LANE_DIAGNOSIS (R396) -/
  | laneDiagnosis (die : Nat) (peer : Nat) (repaired : Bool) (swing : Bool) (group : Nat)
  /-- MANAGEMENT_PACKET (R176) -/
  | managementPacket (pkt : Nat)
  /-- PTP_MESSAGE (R178) -/
  | ptpMessage (die : Nat) (off : Int) (bound : Nat)
  /-- PTP_LOCK_LOST (R406) -/
  | ptpLockLost (die : Nat) (off : Int)
  /-- PEER_LOST (R398) -/
  | peerLost (die : Nat) (module : Nat) (pdie : Nat)
  /-- PORT_PEER_CLR_GO (R397) -/
  | portPeerClrGo (m : Nat) (die : Nat) (v : BitVec 64)
  /-- HALT_CMD_HALT (R201) -/
  | haltCmdHalt (m : Nat) (die : Nat) (slot : Nat)
  /-- HALT_CMD_THAW_ARM (R205) -/
  | haltCmdThawArm (m : Nat) (die : Nat) (slot : Nat)
  /-- HALT_CMD_GO (R205) -/
  | haltCmdGo (m : Nat) (die : Nat) (slot : Nat)
  /-- HALT_CMD_STEP (R204) -/
  | haltCmdStep (m : Nat) (die : Nat) (slot : Nat) (skind : Nat) (score : Nat) (slane : Nat) (sslot : Nat)
  /-- HALT_TOKEN_HALT (R201) -/
  | haltTokenHalt (msg : Nat)
  /-- HALT_TOKEN_THAW_ARM (R205) -/
  | haltTokenThawArm (msg : Nat)
  /-- HALT_TOKEN_GO (R205) -/
  | haltTokenGo (msg : Nat)
  /-- HALT_DRAINED (R203) -/
  | haltDrained (die : Nat) (slot : Nat)
  /-- HALT_DRAIN_TIMEOUT (R411) -/
  | haltDrainTimeout (die : Nat) (slot : Nat)
  /-- HALT_GO_AT_T (R205) -/
  | haltGoAtT (die : Nat) (slot : Nat)
  /-- STEP_COMPLETE (R204) -/
  | stepComplete (die : Nat) (slot : Nat)
  /-- WARM_RESET (R341) -/
  | warmReset (m : Nat) (die : Nat) (v : BitVec 64)
  /-- COLD_RESET (R341) -/
  | coldReset (m : Nat) (die : Nat) (v : BitVec 64) (ftime : Nat)
  /-- POWER_UP (R340) -/
  | powerUp (ftime : Nat)
  /-- POWER_OFF (R340) -/
  | powerOff 
  /-- IMAGE_LOAD_GO (R338) -/
  | imageLoadGo (m : Nat) (die : Nat) (v : BitVec 64)
  /-- IMAGE_CHECK_COMPLETE (R338) -/
  | imageCheckComplete 
  /-- GET_VERSION (R339) -/
  | getVersion (port : Nat)
  /-- GET_CAPABILITIES (R339) -/
  | getCapabilities (port : Nat)
  /-- NEGOTIATE_ALGORITHMS (R339) -/
  | negotiateAlgorithms (port : Nat)
  /-- GET_DIGESTS (R339) -/
  | getDigests (port : Nat)
  /-- GET_CERTIFICATE (R339) -/
  | getCertificate (port : Nat)
  /-- CHALLENGE (R339) -/
  | challenge (port : Nat) (nonce : BitVec 256)
  /-- GET_MEASUREMENTS (R339) -/
  | getMeasurements (port : Nat)
  /-- MOD_ID_WRITE (R19) -/
  | modIdWrite (m : Nat) (die : Nat) (v : BitVec 64)
  /-- JOB_KILL_GO (R356) -/
  | jobKillGo (m : Nat) (die : Nat) (v : BitVec 64)
  /-- JOB_KILL_COMPLETE (R356) -/
  | jobKillComplete (die : Nat)
  /-- UNIT_OFF_GO (R360) -/
  | unitOffGo (m : Nat) (die : Nat) (v : BitVec 64)
  /-- ECC_SCRUB (R358) -/
  | eccScrub (place : Place)
  /-- HOST_BAR4_READ (R331) -/
  | hostBar4Read (port : Nat) (addr : Nat) (n : Nat)
  /-- HOST_BAR4_WRITE (R331) -/
  | hostBar4Write (port : Nat) (addr : Nat) (n : Nat) (v : BitVec 64)
  /-- HOST_COMPLETION_TIMEOUT (R413): the request is a packet, 2^64 + INDEX for the shadow write of a host-window cell, or 2^65 for the read of the image; kind 0
is a time-out, 1 Unsupported Request, 2 Completer Abort -/
  | hostCompletionTimeout (port : Nat) (req : Nat) (kind : Nat)
  /-- HOST_PORT_LINK_DOWN (R413) -/
  | hostPortLinkDown (port : Nat)
  /-- PORT_CE_STATUS_READ (R191) -/
  | portCeStatusRead (m : Nat) (die : Nat)
  /-- DIE_FLT_LOST_READ (R354) -/
  | dieFltLostRead (m : Nat) (die : Nat)
  /-- DIE_ECC_READ (R358) -/
  | dieEccRead (m : Nat) (die : Nat)
  /-- DIE_LINK_ERR_READ (R395) -/
  | dieLinkErrRead (m : Nat) (die : Nat) (peer : Nat)
  /-- PORT_NACK_RX_READ (R397) -/
  | portNackRxRead (m : Nat) (die : Nat)
  /-- PORT_CE_FALLBK_READ (R406) -/
  | portCeFallbkRead (m : Nat) (die : Nat)
  /-- PORT_INSW_REFUSED_READ (R408) -/
  | portInswRefusedRead (m : Nat) (die : Nat)
  /-- DIE_HALT_STATE_READ (R199) -/
  | dieHaltStateRead (m : Nat) (die : Nat) (slot : Nat)
  /-- REGISTER_WRITE (R7): master 0 is port A, 1 port B, 2 supervisor code; an offset of 2^27 + 64 w + k is register k of window w of that port's aperture -/
  | registerWrite (m : Nat) (die : Nat) (off : Nat) (v : BitVec 64)
  /-- UNASSIGNED_OPCODE (R368) -/
  | unassignedOpcode (w : BitVec 32)
  /-- INSTRUCTION_FETCH_FAULT (R94) -/
  | instructionFetchFault 
  /-- SOFT_ERROR (R358) -/
  | softError (place : Place) (bits : Nat)
  /-- MSI_X_UNMASK (R357) -/
  | msiXUnmask (port : Nat) (vec : Nat)
  /-- TRANSPORT_RETRANSMISSION (R397) -/
  | transportRetransmission (msg : Nat)
  /-- HOST_RESERVED_OFFSET_ACCESS (R413) -/
  | hostReservedOffsetAccess (m : Nat) (bar : Nat) (addr : Nat)
  deriving DecidableEq, Repr

end Sys2Proof
end

