-- ==== Sys2Proof/Decode.lean ====
section
/-! DEFINITION. The decoder and the encoder of the instruction words, written from the encoding tables of
10_formats.md (R208 to R216, R229 to R233) and of the instruction chapters (R235, R256, R271, R298, R305, R312, R321).

The decoder accepts a word whose opcode is assigned and whose unused fields are 0. A reserved VALUE of a field that the
instruction uses (a condition, a size, a tag code) is decoded: the meaning of the instruction traps on it (18 R365 check
2, R368). -/

namespace Sys2Proof

/-- Why bytes are no instruction. -/
inductive DecodeError where
  /-- fewer bytes than the word and its literal take -/
  | truncated
  /-- the opcode is unassigned in its class (R229 to R233) -/
  | unassigned
  /-- a field that the instruction does not use is not 0 (R208, R368) -/
  | reservedField
  deriving DecidableEq, Repr

/-- The fields of an instruction word (R208). -/
structure Fields where
  /-- class, word bits 31..30 -/
  cl : BitVec 2
  /-- switch bit -/
  s : Bool
  /-- guard bit -/
  g : Bool
  /-- opcode within the class, word bits 27..21 -/
  op : BitVec 7
  /-- D, word bits 20..14 -/
  d : BitVec 7
  /-- A, word bits 13..7 -/
  a : BitVec 7
  /-- B, word bits 6..0 -/
  b : BitVec 7
  deriving DecidableEq, Repr

/-- The word of the fields (R208). -/
def Fields.toWord (f : Fields) : Word :=
  f.cl ++ BitVec.ofBool f.s ++ BitVec.ofBool f.g ++ f.op ++ f.d ++ f.a ++ f.b

/-- The fields of a word (R208). -/
def Fields.ofWord (w : Word) : Fields where
  cl := w.extractLsb' 30 2
  s := w.getLsbD 29
  g := w.getLsbD 28
  op := w.extractLsb' 21 7
  d := w.extractLsb' 14 7
  a := w.extractLsb' 7 7
  b := w.extractLsb' 0 7

/-- HasLiteral (R209): whether a literal follows depends on the word's own bits only. -/
def Fields.hasLiteral (f : Fields) : Bool :=
  match f.cl.toNat with
  | 0 => f.op.getLsbD 0 && f.b == 126#7
  | 1 => f.b == 126#7
  | 2 => f.op.getLsbD 0
  | _ => !(f.op == 0#7 || f.op == 1#7 || f.op == 2#7) && f.b == 126#7

/-- Four bytes as a little-endian word (R3). -/
def wordOfBytes (b0 b1 b2 b3 : Byte) : Word := b3 ++ b2 ++ b1 ++ b0

/-- The bytes of a word, lowest address first (R3). -/
def bytesOfWord (w : Word) : List Byte :=
  [w.extractLsb' 0 8, w.extractLsb' 8 8, w.extractLsb' 16 8, w.extractLsb' 24 8]

/-- Keep an instruction when the unused fields of its word are 0. -/
def ifUnused (c : Bool) (i : Instr) : Except DecodeError Instr :=
  if c then .ok i else .error .reservedField

/-- The vector class (R230). -/
def decodeVector (f : Fields) (lit : Word) : Except DecodeError Instr :=
  match f.op.toNat with
  | 2 => ifUnused (decide (f.a = 0#7)) (.movB32Reg ⟨f.s, f.g⟩ f.d f.b)
  | 3 => ifUnused (decide (f.a = 0#7)) (.movB32Sel ⟨f.s, f.g⟩ f.d f.b lit)
  | 4 => .ok (.selB32Reg ⟨f.s, f.g⟩ f.d f.a f.b)
  | 5 => .ok (.selB32Sel ⟨f.s, f.g⟩ f.d f.a f.b lit)
  | 6 => .ok (.addI32Reg ⟨f.s, f.g⟩ f.d f.a f.b)
  | 7 => .ok (.addI32Sel ⟨f.s, f.g⟩ f.d f.a f.b lit)
  | 8 => .ok (.addN32Reg ⟨f.s, f.g⟩ f.d f.a f.b)
  | 9 => .ok (.addN32Sel ⟨f.s, f.g⟩ f.d f.a f.b lit)
  | 10 => .ok (.subI32Reg ⟨f.s, f.g⟩ f.d f.a f.b)
  | 11 => .ok (.subI32Sel ⟨f.s, f.g⟩ f.d f.a f.b lit)
  | 12 => .ok (.subN32Reg ⟨f.s, f.g⟩ f.d f.a f.b)
  | 13 => .ok (.subN32Sel ⟨f.s, f.g⟩ f.d f.a f.b lit)
  | 14 => .ok (.mulI32Reg ⟨f.s, f.g⟩ f.d f.a f.b)
  | 15 => .ok (.mulI32Sel ⟨f.s, f.g⟩ f.d f.a f.b lit)
  | 16 => .ok (.mulN32Reg ⟨f.s, f.g⟩ f.d f.a f.b)
  | 17 => .ok (.mulN32Sel ⟨f.s, f.g⟩ f.d f.a f.b lit)
  | 18 => .ok (.mulhiI32Reg ⟨f.s, f.g⟩ f.d f.a f.b)
  | 19 => .ok (.mulhiI32Sel ⟨f.s, f.g⟩ f.d f.a f.b lit)
  | 20 => .ok (.mulhiN32Reg ⟨f.s, f.g⟩ f.d f.a f.b)
  | 21 => .ok (.mulhiN32Sel ⟨f.s, f.g⟩ f.d f.a f.b lit)
  | 22 => .ok (.minI32Reg ⟨f.s, f.g⟩ f.d f.a f.b)
  | 23 => .ok (.minI32Sel ⟨f.s, f.g⟩ f.d f.a f.b lit)
  | 24 => .ok (.minN32Reg ⟨f.s, f.g⟩ f.d f.a f.b)
  | 25 => .ok (.minN32Sel ⟨f.s, f.g⟩ f.d f.a f.b lit)
  | 26 => .ok (.maxI32Reg ⟨f.s, f.g⟩ f.d f.a f.b)
  | 27 => .ok (.maxI32Sel ⟨f.s, f.g⟩ f.d f.a f.b lit)
  | 28 => .ok (.maxN32Reg ⟨f.s, f.g⟩ f.d f.a f.b)
  | 29 => .ok (.maxN32Sel ⟨f.s, f.g⟩ f.d f.a f.b lit)
  | 30 => .ok (.andB32Reg ⟨f.s, f.g⟩ f.d f.a f.b)
  | 31 => .ok (.andB32Sel ⟨f.s, f.g⟩ f.d f.a f.b lit)
  | 32 => .ok (.orB32Reg ⟨f.s, f.g⟩ f.d f.a f.b)
  | 33 => .ok (.orB32Sel ⟨f.s, f.g⟩ f.d f.a f.b lit)
  | 34 => .ok (.xorB32Reg ⟨f.s, f.g⟩ f.d f.a f.b)
  | 35 => .ok (.xorB32Sel ⟨f.s, f.g⟩ f.d f.a f.b lit)
  | 36 => ifUnused (decide (f.a = 0#7)) (.notB32Reg ⟨f.s, f.g⟩ f.d f.b)
  | 37 => ifUnused (decide (f.a = 0#7)) (.notB32Sel ⟨f.s, f.g⟩ f.d f.b lit)
  | 38 => .ok (.shlB32Reg ⟨f.s, f.g⟩ f.d f.a f.b)
  | 39 => .ok (.shlB32Sel ⟨f.s, f.g⟩ f.d f.a f.b lit)
  | 40 => .ok (.shrN32Reg ⟨f.s, f.g⟩ f.d f.a f.b)
  | 41 => .ok (.shrN32Sel ⟨f.s, f.g⟩ f.d f.a f.b lit)
  | 42 => .ok (.shrI32Reg ⟨f.s, f.g⟩ f.d f.a f.b)
  | 43 => .ok (.shrI32Sel ⟨f.s, f.g⟩ f.d f.a f.b lit)
  | 44 => ifUnused (decide (f.a = 0#7)) (.popcB32Reg ⟨f.s, f.g⟩ f.d f.b)
  | 45 => ifUnused (decide (f.a = 0#7)) (.popcB32Sel ⟨f.s, f.g⟩ f.d f.b lit)
  | 46 => ifUnused (decide (f.a = 0#7)) (.clzB32Reg ⟨f.s, f.g⟩ f.d f.b)
  | 47 => ifUnused (decide (f.a = 0#7)) (.clzB32Sel ⟨f.s, f.g⟩ f.d f.b lit)
  | 48 => .ok (.cmpI32Reg ⟨f.s, f.g⟩ f.d f.a f.b)
  | 49 => .ok (.cmpI32Sel ⟨f.s, f.g⟩ f.d f.a f.b lit)
  | 50 => .ok (.cmpN32Reg ⟨f.s, f.g⟩ f.d f.a f.b)
  | 51 => .ok (.cmpN32Sel ⟨f.s, f.g⟩ f.d f.a f.b lit)
  | 52 => .ok (.addI64Reg ⟨f.s, f.g⟩ f.d f.a f.b)
  | 53 => .ok (.addI64Sel ⟨f.s, f.g⟩ f.d f.a f.b lit)
  | 54 => .ok (.addN64Reg ⟨f.s, f.g⟩ f.d f.a f.b)
  | 55 => .ok (.addN64Sel ⟨f.s, f.g⟩ f.d f.a f.b lit)
  | 56 => .ok (.subI64Reg ⟨f.s, f.g⟩ f.d f.a f.b)
  | 57 => .ok (.subI64Sel ⟨f.s, f.g⟩ f.d f.a f.b lit)
  | 58 => .ok (.subN64Reg ⟨f.s, f.g⟩ f.d f.a f.b)
  | 59 => .ok (.subN64Sel ⟨f.s, f.g⟩ f.d f.a f.b lit)
  | 60 => .ok (.addF32Reg ⟨f.s, f.g⟩ f.d f.a f.b)
  | 61 => .ok (.addF32Sel ⟨f.s, f.g⟩ f.d f.a f.b lit)
  | 62 => .ok (.subF32Reg ⟨f.s, f.g⟩ f.d f.a f.b)
  | 63 => .ok (.subF32Sel ⟨f.s, f.g⟩ f.d f.a f.b lit)
  | 64 => .ok (.mulF32Reg ⟨f.s, f.g⟩ f.d f.a f.b)
  | 65 => .ok (.mulF32Sel ⟨f.s, f.g⟩ f.d f.a f.b lit)
  | 66 => .ok (.fmaF32Reg ⟨f.s, f.g⟩ f.d f.a f.b)
  | 67 => .ok (.fmaF32Sel ⟨f.s, f.g⟩ f.d f.a f.b lit)
  | 68 => .ok (.minF32Reg ⟨f.s, f.g⟩ f.d f.a f.b)
  | 69 => .ok (.minF32Sel ⟨f.s, f.g⟩ f.d f.a f.b lit)
  | 70 => .ok (.maxF32Reg ⟨f.s, f.g⟩ f.d f.a f.b)
  | 71 => .ok (.maxF32Sel ⟨f.s, f.g⟩ f.d f.a f.b lit)
  | 72 => .ok (.cmpF32Reg ⟨f.s, f.g⟩ f.d f.a f.b)
  | 73 => .ok (.cmpF32Sel ⟨f.s, f.g⟩ f.d f.a f.b lit)
  | 74 => .ok (.sfnF32Reg ⟨f.s, f.g⟩ f.d f.a f.b)
  | 75 => .ok (.sfnF32Sel ⟨f.s, f.g⟩ f.d f.a f.b lit)
  | 76 => .ok (.addBf16x2Reg ⟨f.s, f.g⟩ f.d f.a f.b)
  | 77 => .ok (.addBf16x2Sel ⟨f.s, f.g⟩ f.d f.a f.b lit)
  | 78 => .ok (.mulBf16x2Reg ⟨f.s, f.g⟩ f.d f.a f.b)
  | 79 => .ok (.mulBf16x2Sel ⟨f.s, f.g⟩ f.d f.a f.b lit)
  | 80 => .ok (.fmaBf16x2Reg ⟨f.s, f.g⟩ f.d f.a f.b)
  | 81 => .ok (.fmaBf16x2Sel ⟨f.s, f.g⟩ f.d f.a f.b lit)
  | 82 => .ok (.addF16x2Reg ⟨f.s, f.g⟩ f.d f.a f.b)
  | 83 => .ok (.addF16x2Sel ⟨f.s, f.g⟩ f.d f.a f.b lit)
  | 84 => .ok (.mulF16x2Reg ⟨f.s, f.g⟩ f.d f.a f.b)
  | 85 => .ok (.mulF16x2Sel ⟨f.s, f.g⟩ f.d f.a f.b lit)
  | 86 => .ok (.fmaF16x2Reg ⟨f.s, f.g⟩ f.d f.a f.b)
  | 87 => .ok (.fmaF16x2Sel ⟨f.s, f.g⟩ f.d f.a f.b lit)
  | 88 => .ok (.cvtReg ⟨f.s, f.g⟩ f.d f.a f.b)
  | 89 => .ok (.cvtSel ⟨f.s, f.g⟩ f.d f.a f.b lit)
  | 90 => .ok (.cvtqE2m1Reg ⟨f.s, f.g⟩ f.d f.a f.b)
  | 91 => .ok (.cvtqE2m1Sel ⟨f.s, f.g⟩ f.d f.a f.b lit)
  | 92 => .ok (.permB32Reg ⟨f.s, f.g⟩ f.d f.a f.b)
  | 93 => .ok (.permB32Sel ⟨f.s, f.g⟩ f.d f.a f.b lit)
  | 94 => .ok (.gsetReg ⟨f.s, f.g⟩ f.d f.a f.b)
  | 95 => .ok (.gsetSel ⟨f.s, f.g⟩ f.d f.a f.b lit)
  | 96 => .ok (.tagsetReg ⟨f.s, f.g⟩ f.d f.a f.b)
  | 97 => .ok (.tagsetSel ⟨f.s, f.g⟩ f.d f.a f.b lit)
  | 98 => .ok (.xlrReg ⟨f.s, f.g⟩ f.d f.a f.b)
  | 99 => .ok (.xlrSel ⟨f.s, f.g⟩ f.d f.a f.b lit)
  | 100 => .ok (.rngkReg ⟨f.s, f.g⟩ f.d f.a f.b)
  | 101 => .ok (.rngkSel ⟨f.s, f.g⟩ f.d f.a f.b lit)
  | _ => .error .unassigned

/-- The scalar class (R231). -/
def decodeScalar (f : Fields) (lit : Word) : Except DecodeError Instr :=
  match f.op.toNat with
  | 1 => ifUnused (decide (f.a = 0#7)) (.smovB32 ⟨f.s, f.g⟩ f.d f.b lit)
  | 3 => .ok (.saddI32 ⟨f.s, f.g⟩ f.d f.a f.b lit)
  | 4 => .ok (.saddN32 ⟨f.s, f.g⟩ f.d f.a f.b lit)
  | 5 => .ok (.ssubI32 ⟨f.s, f.g⟩ f.d f.a f.b lit)
  | 6 => .ok (.ssubN32 ⟨f.s, f.g⟩ f.d f.a f.b lit)
  | 7 => .ok (.smulI32 ⟨f.s, f.g⟩ f.d f.a f.b lit)
  | 8 => .ok (.smulN32 ⟨f.s, f.g⟩ f.d f.a f.b lit)
  | 9 => .ok (.smulhiI32 ⟨f.s, f.g⟩ f.d f.a f.b lit)
  | 10 => .ok (.smulhiN32 ⟨f.s, f.g⟩ f.d f.a f.b lit)
  | 11 => .ok (.sminI32 ⟨f.s, f.g⟩ f.d f.a f.b lit)
  | 12 => .ok (.sminN32 ⟨f.s, f.g⟩ f.d f.a f.b lit)
  | 13 => .ok (.smaxI32 ⟨f.s, f.g⟩ f.d f.a f.b lit)
  | 14 => .ok (.smaxN32 ⟨f.s, f.g⟩ f.d f.a f.b lit)
  | 15 => .ok (.sandB32 ⟨f.s, f.g⟩ f.d f.a f.b lit)
  | 16 => .ok (.sorB32 ⟨f.s, f.g⟩ f.d f.a f.b lit)
  | 17 => .ok (.sxorB32 ⟨f.s, f.g⟩ f.d f.a f.b lit)
  | 18 => ifUnused (decide (f.a = 0#7)) (.snotB32 ⟨f.s, f.g⟩ f.d f.b lit)
  | 19 => .ok (.sshlB32 ⟨f.s, f.g⟩ f.d f.a f.b lit)
  | 20 => .ok (.sshrN32 ⟨f.s, f.g⟩ f.d f.a f.b lit)
  | 21 => .ok (.sshrI32 ⟨f.s, f.g⟩ f.d f.a f.b lit)
  | 22 => ifUnused (decide (f.a = 0#7)) (.spopcB32 ⟨f.s, f.g⟩ f.d f.b lit)
  | 23 => ifUnused (decide (f.a = 0#7)) (.sclzB32 ⟨f.s, f.g⟩ f.d f.b lit)
  | 24 => .ok (.scmpI32 ⟨f.s, f.g⟩ f.d f.a f.b lit)
  | 25 => .ok (.scmpN32 ⟨f.s, f.g⟩ f.d f.a f.b lit)
  | 26 => .ok (.saddI64 ⟨f.s, f.g⟩ f.d f.a f.b lit)
  | 27 => .ok (.saddN64 ⟨f.s, f.g⟩ f.d f.a f.b lit)
  | 28 => .ok (.ssubI64 ⟨f.s, f.g⟩ f.d f.a f.b lit)
  | 29 => .ok (.ssubN64 ⟨f.s, f.g⟩ f.d f.a f.b lit)
  | 30 => .ok (.saddF32 ⟨f.s, f.g⟩ f.d f.a f.b lit)
  | 31 => .ok (.ssubF32 ⟨f.s, f.g⟩ f.d f.a f.b lit)
  | 32 => .ok (.smulF32 ⟨f.s, f.g⟩ f.d f.a f.b lit)
  | 33 => .ok (.sfmaF32 ⟨f.s, f.g⟩ f.d f.a f.b lit)
  | 34 => .ok (.sminF32 ⟨f.s, f.g⟩ f.d f.a f.b lit)
  | 35 => .ok (.smaxF32 ⟨f.s, f.g⟩ f.d f.a f.b lit)
  | 36 => .ok (.scmpF32 ⟨f.s, f.g⟩ f.d f.a f.b lit)
  | 37 => .ok (.ssfnF32 ⟨f.s, f.g⟩ f.d f.a f.b lit)
  | 38 => .ok (.saddBf16x2 ⟨f.s, f.g⟩ f.d f.a f.b lit)
  | 39 => .ok (.smulBf16x2 ⟨f.s, f.g⟩ f.d f.a f.b lit)
  | 40 => .ok (.sfmaBf16x2 ⟨f.s, f.g⟩ f.d f.a f.b lit)
  | 41 => .ok (.saddF16x2 ⟨f.s, f.g⟩ f.d f.a f.b lit)
  | 42 => .ok (.smulF16x2 ⟨f.s, f.g⟩ f.d f.a f.b lit)
  | 43 => .ok (.sfmaF16x2 ⟨f.s, f.g⟩ f.d f.a f.b lit)
  | 44 => .ok (.scvt ⟨f.s, f.g⟩ f.d f.a f.b lit)
  | 46 => .ok (.spermB32 ⟨f.s, f.g⟩ f.d f.a f.b lit)
  | 64 => ifUnused (decide (f.a = 0#7 ∧ f.b = 0#7)) (.svoteB32 ⟨f.s, f.g⟩ f.d)
  | 65 => .ok (.slaneB32 ⟨f.s, f.g⟩ f.d f.a f.b lit)
  | _ => .error .unassigned

/-- The memory class (R232). -/
def decodeMemory (f : Fields) (lit : Word) : Except DecodeError Instr :=
  match f.op.toNat with
  | 0 => .ok (.ld ⟨f.s, f.g⟩ f.d f.a f.b)
  | 1 => .ok (.ldLit ⟨f.s, f.g⟩ f.d f.a f.b lit)
  | 2 => ifUnused (decide (f.b.extractLsb' 3 4 = 0#4)) (.st ⟨f.s, f.g⟩ f.d f.a (f.b.extractLsb' 0 3))
  | 3 => ifUnused (decide (f.b.extractLsb' 3 4 = 0#4)) (.stLit ⟨f.s, f.g⟩ f.d f.a (f.b.extractLsb' 0 3) lit)
  | 4 => .ok (.ldl ⟨f.s, f.g⟩ f.d f.a f.b)
  | 5 => .ok (.ldlLit ⟨f.s, f.g⟩ f.d f.a f.b lit)
  | 6 => ifUnused (decide (f.b.extractLsb' 3 4 = 0#4)) (.stl ⟨f.s, f.g⟩ f.d f.a (f.b.extractLsb' 0 3))
  | 7 => ifUnused (decide (f.b.extractLsb' 3 4 = 0#4)) (.stlLit ⟨f.s, f.g⟩ f.d f.a (f.b.extractLsb' 0 3) lit)
  | 8 => ifUnused (decide (f.d = 0#7 ∧ f.b.extractLsb' 1 6 = 0#6)) (.pref ⟨f.s, f.g⟩ f.a (f.b.getLsbD 0))
  | 9 => ifUnused (decide (f.d = 0#7 ∧ f.b.extractLsb' 1 6 = 0#6)) (.prefLit ⟨f.s, f.g⟩ f.a (f.b.getLsbD 0) lit)
  | 10 => .ok (.red ⟨f.s, f.g⟩ f.d f.a f.b)
  | 11 => .ok (.redLit ⟨f.s, f.g⟩ f.d f.a f.b lit)
  | 12 => .ok (.redLs ⟨f.s, f.g⟩ f.d f.a f.b)
  | 13 => .ok (.redLsLit ⟨f.s, f.g⟩ f.d f.a f.b lit)
  | 14 => .ok (.redDet ⟨f.s, f.g⟩ f.d f.a f.b)
  | 15 => .ok (.redDetLit ⟨f.s, f.g⟩ f.d f.a f.b lit)
  | 16 => ifUnused (decide (f.d = 0#7 ∧ f.a = 0#7 ∧ f.b.extractLsb' 3 4 = 0#4)) (.fence ⟨f.s, f.g⟩ (f.b.extractLsb' 0 3))
  | 18 => ifUnused (decide (f.b.extractLsb' 3 4 = 0#4)) (.cadd ⟨f.s, f.g⟩ f.d f.a (f.b.extractLsb' 0 3))
  | 19 => ifUnused (decide (f.d = 0#7 ∧ f.b.extractLsb' 3 4 = 0#4)) (.caddLit ⟨f.s, f.g⟩ f.a (f.b.extractLsb' 0 3) lit)
  | 20 => ifUnused (decide (f.b.extractLsb' 3 4 = 0#4)) (.caddr ⟨f.s, f.g⟩ f.d f.a (f.b.extractLsb' 0 3))
  | 21 => ifUnused (decide (f.b.extractLsb' 3 4 = 0#4)) (.caddrLit ⟨f.s, f.g⟩ f.d f.a (f.b.extractLsb' 0 3) lit)
  | 22 => ifUnused (decide (f.b.extractLsb' 3 4 = 0#4)) (.cread ⟨f.s, f.g⟩ f.d f.a (f.b.extractLsb' 0 3))
  | 24 => ifUnused (decide (f.b.extractLsb' 3 4 = 0#4)) (.cwt ⟨f.s, f.g⟩ f.d f.a (f.b.extractLsb' 0 3))
  | 26 => ifUnused (decide (f.b.extractLsb' 3 4 = 0#4)) (.cwait ⟨f.s, f.g⟩ f.d f.a (f.b.extractLsb' 0 3))
  | 28 => .ok (.copy ⟨f.s, f.g⟩ f.d f.a f.b)
  | 29 => ifUnused (decide (f.b = 0#7)) (.copyLit ⟨f.s, f.g⟩ f.d f.a lit)
  | 30 => .ok (.copyx ⟨f.s, f.g⟩ f.d f.a f.b)
  | 31 => ifUnused (decide (f.b = 0#7)) (.copyxLit ⟨f.s, f.g⟩ f.d f.a lit)
  | 32 => ifUnused (decide (f.b = 0#7)) (.tdecl ⟨f.s, f.g⟩ f.d f.a)
  | 34 => .ok (.sweep ⟨f.s, f.g⟩ f.d f.a f.b)
  | 35 => ifUnused (decide (f.b = 0#7)) (.sweepLit ⟨f.s, f.g⟩ f.d f.a lit)
  | 36 => ifUnused (decide (f.d = 0#7 ∧ f.b = 0#7)) (.eyield ⟨f.s, f.g⟩ f.a)
  | 38 => ifUnused (decide (f.b.extractLsb' 6 1 = 0#1)) (.ectxld ⟨f.s, f.g⟩ f.d f.a (f.b.extractLsb' 3 3) (f.b.extractLsb' 0 3))
  | 39 => ifUnused (decide (f.b.extractLsb' 6 1 = 0#1)) (.ectxldLit ⟨f.s, f.g⟩ f.d f.a (f.b.extractLsb' 3 3) (f.b.extractLsb' 0 3) lit)
  | 40 => ifUnused (decide (f.b.extractLsb' 6 1 = 0#1)) (.ectxst ⟨f.s, f.g⟩ f.d f.a (f.b.extractLsb' 3 3) (f.b.extractLsb' 0 3))
  | 41 => ifUnused (decide (f.b.extractLsb' 6 1 = 0#1)) (.ectxstLit ⟨f.s, f.g⟩ f.d f.a (f.b.extractLsb' 3 3) (f.b.extractLsb' 0 3) lit)
  | 42 => ifUnused (decide (f.d = 0#7 ∧ f.b = 0#7)) (.tfree ⟨f.s, f.g⟩ f.a)
  | 44 => .ok (.mma ⟨f.s, f.g⟩ f.d f.a (f.b.extractLsb' 4 3) (f.b.extractLsb' 0 4))
  | 46 => ifUnused (decide (f.b.extractLsb' 4 3 = 0#3)) (.mld ⟨f.s, f.g⟩ f.d f.a (f.b.extractLsb' 0 4))
  | 47 => ifUnused (decide (f.b.extractLsb' 4 3 = 0#3)) (.mldLit ⟨f.s, f.g⟩ f.d f.a (f.b.extractLsb' 0 4) lit)
  | 48 => .ok (.mst ⟨f.s, f.g⟩ f.d f.a f.b)
  | 49 => .ok (.mstLit ⟨f.s, f.g⟩ f.d f.a f.b lit)
  | 50 => ifUnused (decide (f.a = 0#7 ∧ f.b.extractLsb' 4 3 = 0#3)) (.mzero ⟨f.s, f.g⟩ f.d (f.b.extractLsb' 0 4))
  | 52 => .ok (.trace ⟨f.s, f.g⟩ f.d f.a f.b)
  | 53 => ifUnused (decide (f.b = 0#7)) (.traceLit ⟨f.s, f.g⟩ f.d f.a lit)
  | 54 => .ok (.beam ⟨f.s, f.g⟩ f.d f.a f.b)
  | 55 => ifUnused (decide (f.b = 0#7)) (.beamLit ⟨f.s, f.g⟩ f.d f.a lit)
  | 56 => ifUnused (decide (f.b.extractLsb' 2 5 = 0#5)) (.hitget ⟨f.s, f.g⟩ f.d f.a (f.b.extractLsb' 0 2))
  | 58 => .ok (.tex ⟨f.s, f.g⟩ f.d f.a f.b)
  | 60 => .ok (.put ⟨f.s, f.g⟩ f.d f.a f.b)
  | 61 => ifUnused (decide (f.b = 0#7)) (.putLit ⟨f.s, f.g⟩ f.d f.a lit)
  | 62 => .ok (.get ⟨f.s, f.g⟩ f.d f.a f.b)
  | 63 => ifUnused (decide (f.b = 0#7)) (.getLit ⟨f.s, f.g⟩ f.d f.a lit)
  | 64 => .ok (.send ⟨f.s, f.g⟩ f.d f.a f.b)
  | 65 => ifUnused (decide (f.b = 0#7)) (.sendLit ⟨f.s, f.g⟩ f.d f.a lit)
  | 66 => .ok (.rwsend ⟨f.s, f.g⟩ f.d (f.a.extractLsb' 1 6) (f.a.getLsbD 0) f.b)
  | 67 => ifUnused (decide (f.b = 0#7)) (.rwsendLit ⟨f.s, f.g⟩ f.d (f.a.extractLsb' 1 6) (f.a.getLsbD 0) lit)
  | 68 => ifUnused (decide (f.b = 0#7)) (.post ⟨f.s, f.g⟩ f.d f.a)
  | 72 => .ok (.cgraph ⟨f.s, f.g⟩ f.d f.a f.b)
  | 73 => ifUnused (decide (f.b = 0#7)) (.cgraphLit ⟨f.s, f.g⟩ f.d f.a lit)
  | 74 => .ok (.coll ⟨f.s, f.g⟩ f.d f.a f.b)
  | 75 => ifUnused (decide (f.b = 0#7)) (.collLit ⟨f.s, f.g⟩ f.d f.a lit)
  | 76 => .ok (.comp ⟨f.s, f.g⟩ f.d f.a f.b)
  | 77 => ifUnused (decide (f.b = 0#7)) (.compLit ⟨f.s, f.g⟩ f.d f.a lit)
  | _ => .error .unassigned

/-- The control class (R233). -/
def decodeControl (f : Fields) (lit : Word) : Except DecodeError Instr :=
  match f.op.toNat with
  | 0 => .ok (.br ⟨f.s, f.g⟩ (f.d ++ f.a ++ f.b))
  | 1 => .ok (.brn ⟨f.s, f.g⟩ (f.d ++ f.a ++ f.b))
  | 2 => .ok (.call ⟨f.s, f.g⟩ (f.d ++ f.a ++ f.b))
  | 3 => ifUnused (decide (f.d = 0#7 ∧ f.b = 0#7)) (.jr ⟨f.s, f.g⟩ f.a)
  | 4 => .ok (.spawn ⟨f.s, f.g⟩ f.d f.a f.b lit)
  | 5 => ifUnused (decide (f.d = 0#7 ∧ f.a = 0#7 ∧ f.b = 0#7)) (.exit ⟨f.s, f.g⟩)
  | 6 => ifUnused (decide (f.d = 0#7 ∧ f.b = 0#7)) (.join ⟨f.s, f.g⟩ f.a)
  | 7 => ifUnused (decide (f.d = 0#7 ∧ f.b = 0#7)) (.joink ⟨f.s, f.g⟩ f.a)
  | 8 => ifUnused (decide (f.d = 0#7 ∧ f.a = 0#7 ∧ f.b = 0#7)) (.leave ⟨f.s, f.g⟩)
  | 9 => ifUnused (decide (f.a = 0#7)) (.winb ⟨f.s, f.g⟩ f.d f.b lit)
  | 10 => ifUnused (decide (f.d = 0#7 ∧ f.a = 0#7 ∧ f.b = 0#7)) (.yield ⟨f.s, f.g⟩)
  | 11 => ifUnused (decide (f.d = 0#7 ∧ f.a = 0#7 ∧ f.b = 0#7)) (.brk ⟨f.s, f.g⟩)
  | 12 => ifUnused (decide (f.d = 0#7 ∧ f.a = 0#7 ∧ f.b = 0#7)) (.cvacc ⟨f.s, f.g⟩)
  | 13 => ifUnused (decide (f.d = 0#7 ∧ f.a = 0#7 ∧ f.b = 0#7)) (.cvrej ⟨f.s, f.g⟩)
  | 14 => ifUnused (decide (f.d = 0#7 ∧ f.a = 0#7 ∧ f.b = 0#7)) (.nop ⟨f.s, f.g⟩)
  | 15 => ifUnused (decide (f.a = 0#7 ∧ f.b = 0#7)) (.statrd ⟨f.s, f.g⟩ f.d)
  | 16 => ifUnused (decide (f.d = 0#7 ∧ f.a = 0#7)) (.statclr ⟨f.s, f.g⟩ f.b lit)
  | 17 => ifUnused (decide (f.a = 0#7)) (.csrr ⟨f.s, f.g⟩ f.d f.b lit)
  | 18 => ifUnused (decide (f.d = 0#7 ∧ f.a = 0#7 ∧ f.b = 0#7)) (.haltw ⟨f.s, f.g⟩)
  | 64 => ifUnused (decide (f.b = 0#7)) (.segset ⟨f.s, f.g⟩ f.d f.a)
  | 65 => ifUnused (decide (f.d = 0#7)) (.csrw ⟨f.s, f.g⟩ f.a f.b lit)
  | 66 => ifUnused (decide (f.a = 0#7)) (.carve ⟨f.s, f.g⟩ f.d f.b lit)
  | 67 => ifUnused (decide (f.b = 0#7)) (.cinit ⟨f.s, f.g⟩ f.d f.a)
  | 68 => .ok (.ctxsave ⟨f.s, f.g⟩ f.d f.a f.b lit)
  | 69 => .ok (.ctxload ⟨f.s, f.g⟩ f.d f.a f.b lit)
  | 70 => .ok (.revoke ⟨f.s, f.g⟩ f.d f.a f.b lit)
  | 71 => .ok (.step ⟨f.s, f.g⟩ f.d f.a f.b lit)
  | _ => .error .unassigned

/-- The instruction of the fields of a word and its literal (0 when none follows). -/
def decodeFields (f : Fields) (lit : Word) : Except DecodeError Instr :=
  match f.cl.toNat with
  | 0 => decodeVector f lit
  | 1 => decodeScalar f lit
  | 2 => decodeMemory f lit
  | _ => decodeControl f lit

/-- Length in bytes of the instruction that starts with this word (R209). -/
def wordLength (w : Word) : Nat := if (Fields.ofWord w).hasLiteral then 8 else 4

/-- The instruction at the head of a list of bytes, and the bytes after it. Total: any bytes give an instruction or a named
refusal. -/
def decode : List Byte → Except DecodeError (Instr × List Byte)
  | b0 :: b1 :: b2 :: b3 :: rest =>
    let f := Fields.ofWord (wordOfBytes b0 b1 b2 b3)
    if f.hasLiteral then
      match rest with
      | l0 :: l1 :: l2 :: l3 :: rest' =>
        (decodeFields f (wordOfBytes l0 l1 l2 l3)).map fun i => (i, rest')
      | _ => .error .truncated
    else
      (decodeFields f 0#32).map fun i => (i, rest)
  | _ => .error .truncated

/-- Bytes of a number, lowest address first (R3). -/
def bytesOfNat : Nat → Nat → List Byte
  | 0, _ => []
  | n + 1, w => BitVec.ofNat 8 w :: bytesOfNat n (w / 256)

/-- The instruction the decoder reads from an instruction whose bits are `w`, of `nbits` bits, the bits above them 0. -/
def decodeTableWord (nbits w : Nat) : Option Instr :=
  match decode (bytesOfNat 8 (w % 2 ^ nbits)) with
  | .ok (i, _) => some i
  | .error _ => none

/-- The encoder: the fields and the literal of an instruction word; nothing for a step that has no word. -/
def Instr.fields : Instr → Option (Fields × Option Word)
  | .movB32Reg h d b => some (⟨0#2, h.s, h.g, 2#7, d, 0#7, b⟩, none)
  | .movB32Sel h d b lit => some (⟨0#2, h.s, h.g, 3#7, d, 0#7, b⟩, if b = 126#7 then some lit else none)
  | .selB32Reg h d a b => some (⟨0#2, h.s, h.g, 4#7, d, a, b⟩, none)
  | .selB32Sel h d a b lit => some (⟨0#2, h.s, h.g, 5#7, d, a, b⟩, if b = 126#7 then some lit else none)
  | .addI32Reg h d a b => some (⟨0#2, h.s, h.g, 6#7, d, a, b⟩, none)
  | .addI32Sel h d a b lit => some (⟨0#2, h.s, h.g, 7#7, d, a, b⟩, if b = 126#7 then some lit else none)
  | .addN32Reg h d a b => some (⟨0#2, h.s, h.g, 8#7, d, a, b⟩, none)
  | .addN32Sel h d a b lit => some (⟨0#2, h.s, h.g, 9#7, d, a, b⟩, if b = 126#7 then some lit else none)
  | .subI32Reg h d a b => some (⟨0#2, h.s, h.g, 10#7, d, a, b⟩, none)
  | .subI32Sel h d a b lit => some (⟨0#2, h.s, h.g, 11#7, d, a, b⟩, if b = 126#7 then some lit else none)
  | .subN32Reg h d a b => some (⟨0#2, h.s, h.g, 12#7, d, a, b⟩, none)
  | .subN32Sel h d a b lit => some (⟨0#2, h.s, h.g, 13#7, d, a, b⟩, if b = 126#7 then some lit else none)
  | .mulI32Reg h d a b => some (⟨0#2, h.s, h.g, 14#7, d, a, b⟩, none)
  | .mulI32Sel h d a b lit => some (⟨0#2, h.s, h.g, 15#7, d, a, b⟩, if b = 126#7 then some lit else none)
  | .mulN32Reg h d a b => some (⟨0#2, h.s, h.g, 16#7, d, a, b⟩, none)
  | .mulN32Sel h d a b lit => some (⟨0#2, h.s, h.g, 17#7, d, a, b⟩, if b = 126#7 then some lit else none)
  | .mulhiI32Reg h d a b => some (⟨0#2, h.s, h.g, 18#7, d, a, b⟩, none)
  | .mulhiI32Sel h d a b lit => some (⟨0#2, h.s, h.g, 19#7, d, a, b⟩, if b = 126#7 then some lit else none)
  | .mulhiN32Reg h d a b => some (⟨0#2, h.s, h.g, 20#7, d, a, b⟩, none)
  | .mulhiN32Sel h d a b lit => some (⟨0#2, h.s, h.g, 21#7, d, a, b⟩, if b = 126#7 then some lit else none)
  | .minI32Reg h d a b => some (⟨0#2, h.s, h.g, 22#7, d, a, b⟩, none)
  | .minI32Sel h d a b lit => some (⟨0#2, h.s, h.g, 23#7, d, a, b⟩, if b = 126#7 then some lit else none)
  | .minN32Reg h d a b => some (⟨0#2, h.s, h.g, 24#7, d, a, b⟩, none)
  | .minN32Sel h d a b lit => some (⟨0#2, h.s, h.g, 25#7, d, a, b⟩, if b = 126#7 then some lit else none)
  | .maxI32Reg h d a b => some (⟨0#2, h.s, h.g, 26#7, d, a, b⟩, none)
  | .maxI32Sel h d a b lit => some (⟨0#2, h.s, h.g, 27#7, d, a, b⟩, if b = 126#7 then some lit else none)
  | .maxN32Reg h d a b => some (⟨0#2, h.s, h.g, 28#7, d, a, b⟩, none)
  | .maxN32Sel h d a b lit => some (⟨0#2, h.s, h.g, 29#7, d, a, b⟩, if b = 126#7 then some lit else none)
  | .andB32Reg h d a b => some (⟨0#2, h.s, h.g, 30#7, d, a, b⟩, none)
  | .andB32Sel h d a b lit => some (⟨0#2, h.s, h.g, 31#7, d, a, b⟩, if b = 126#7 then some lit else none)
  | .orB32Reg h d a b => some (⟨0#2, h.s, h.g, 32#7, d, a, b⟩, none)
  | .orB32Sel h d a b lit => some (⟨0#2, h.s, h.g, 33#7, d, a, b⟩, if b = 126#7 then some lit else none)
  | .xorB32Reg h d a b => some (⟨0#2, h.s, h.g, 34#7, d, a, b⟩, none)
  | .xorB32Sel h d a b lit => some (⟨0#2, h.s, h.g, 35#7, d, a, b⟩, if b = 126#7 then some lit else none)
  | .notB32Reg h d b => some (⟨0#2, h.s, h.g, 36#7, d, 0#7, b⟩, none)
  | .notB32Sel h d b lit => some (⟨0#2, h.s, h.g, 37#7, d, 0#7, b⟩, if b = 126#7 then some lit else none)
  | .shlB32Reg h d a b => some (⟨0#2, h.s, h.g, 38#7, d, a, b⟩, none)
  | .shlB32Sel h d a b lit => some (⟨0#2, h.s, h.g, 39#7, d, a, b⟩, if b = 126#7 then some lit else none)
  | .shrN32Reg h d a b => some (⟨0#2, h.s, h.g, 40#7, d, a, b⟩, none)
  | .shrN32Sel h d a b lit => some (⟨0#2, h.s, h.g, 41#7, d, a, b⟩, if b = 126#7 then some lit else none)
  | .shrI32Reg h d a b => some (⟨0#2, h.s, h.g, 42#7, d, a, b⟩, none)
  | .shrI32Sel h d a b lit => some (⟨0#2, h.s, h.g, 43#7, d, a, b⟩, if b = 126#7 then some lit else none)
  | .popcB32Reg h d b => some (⟨0#2, h.s, h.g, 44#7, d, 0#7, b⟩, none)
  | .popcB32Sel h d b lit => some (⟨0#2, h.s, h.g, 45#7, d, 0#7, b⟩, if b = 126#7 then some lit else none)
  | .clzB32Reg h d b => some (⟨0#2, h.s, h.g, 46#7, d, 0#7, b⟩, none)
  | .clzB32Sel h d b lit => some (⟨0#2, h.s, h.g, 47#7, d, 0#7, b⟩, if b = 126#7 then some lit else none)
  | .cmpI32Reg h c a b => some (⟨0#2, h.s, h.g, 48#7, c, a, b⟩, none)
  | .cmpI32Sel h c a b lit => some (⟨0#2, h.s, h.g, 49#7, c, a, b⟩, if b = 126#7 then some lit else none)
  | .cmpN32Reg h c a b => some (⟨0#2, h.s, h.g, 50#7, c, a, b⟩, none)
  | .cmpN32Sel h c a b lit => some (⟨0#2, h.s, h.g, 51#7, c, a, b⟩, if b = 126#7 then some lit else none)
  | .addI64Reg h d a b => some (⟨0#2, h.s, h.g, 52#7, d, a, b⟩, none)
  | .addI64Sel h d a b lit => some (⟨0#2, h.s, h.g, 53#7, d, a, b⟩, if b = 126#7 then some lit else none)
  | .addN64Reg h d a b => some (⟨0#2, h.s, h.g, 54#7, d, a, b⟩, none)
  | .addN64Sel h d a b lit => some (⟨0#2, h.s, h.g, 55#7, d, a, b⟩, if b = 126#7 then some lit else none)
  | .subI64Reg h d a b => some (⟨0#2, h.s, h.g, 56#7, d, a, b⟩, none)
  | .subI64Sel h d a b lit => some (⟨0#2, h.s, h.g, 57#7, d, a, b⟩, if b = 126#7 then some lit else none)
  | .subN64Reg h d a b => some (⟨0#2, h.s, h.g, 58#7, d, a, b⟩, none)
  | .subN64Sel h d a b lit => some (⟨0#2, h.s, h.g, 59#7, d, a, b⟩, if b = 126#7 then some lit else none)
  | .addF32Reg h d a b => some (⟨0#2, h.s, h.g, 60#7, d, a, b⟩, none)
  | .addF32Sel h d a b lit => some (⟨0#2, h.s, h.g, 61#7, d, a, b⟩, if b = 126#7 then some lit else none)
  | .subF32Reg h d a b => some (⟨0#2, h.s, h.g, 62#7, d, a, b⟩, none)
  | .subF32Sel h d a b lit => some (⟨0#2, h.s, h.g, 63#7, d, a, b⟩, if b = 126#7 then some lit else none)
  | .mulF32Reg h d a b => some (⟨0#2, h.s, h.g, 64#7, d, a, b⟩, none)
  | .mulF32Sel h d a b lit => some (⟨0#2, h.s, h.g, 65#7, d, a, b⟩, if b = 126#7 then some lit else none)
  | .fmaF32Reg h d a b => some (⟨0#2, h.s, h.g, 66#7, d, a, b⟩, none)
  | .fmaF32Sel h d a b lit => some (⟨0#2, h.s, h.g, 67#7, d, a, b⟩, if b = 126#7 then some lit else none)
  | .minF32Reg h d a b => some (⟨0#2, h.s, h.g, 68#7, d, a, b⟩, none)
  | .minF32Sel h d a b lit => some (⟨0#2, h.s, h.g, 69#7, d, a, b⟩, if b = 126#7 then some lit else none)
  | .maxF32Reg h d a b => some (⟨0#2, h.s, h.g, 70#7, d, a, b⟩, none)
  | .maxF32Sel h d a b lit => some (⟨0#2, h.s, h.g, 71#7, d, a, b⟩, if b = 126#7 then some lit else none)
  | .cmpF32Reg h c a b => some (⟨0#2, h.s, h.g, 72#7, c, a, b⟩, none)
  | .cmpF32Sel h c a b lit => some (⟨0#2, h.s, h.g, 73#7, c, a, b⟩, if b = 126#7 then some lit else none)
  | .sfnF32Reg h d f b => some (⟨0#2, h.s, h.g, 74#7, d, f, b⟩, none)
  | .sfnF32Sel h d f b lit => some (⟨0#2, h.s, h.g, 75#7, d, f, b⟩, if b = 126#7 then some lit else none)
  | .addBf16x2Reg h d a b => some (⟨0#2, h.s, h.g, 76#7, d, a, b⟩, none)
  | .addBf16x2Sel h d a b lit => some (⟨0#2, h.s, h.g, 77#7, d, a, b⟩, if b = 126#7 then some lit else none)
  | .mulBf16x2Reg h d a b => some (⟨0#2, h.s, h.g, 78#7, d, a, b⟩, none)
  | .mulBf16x2Sel h d a b lit => some (⟨0#2, h.s, h.g, 79#7, d, a, b⟩, if b = 126#7 then some lit else none)
  | .fmaBf16x2Reg h d a b => some (⟨0#2, h.s, h.g, 80#7, d, a, b⟩, none)
  | .fmaBf16x2Sel h d a b lit => some (⟨0#2, h.s, h.g, 81#7, d, a, b⟩, if b = 126#7 then some lit else none)
  | .addF16x2Reg h d a b => some (⟨0#2, h.s, h.g, 82#7, d, a, b⟩, none)
  | .addF16x2Sel h d a b lit => some (⟨0#2, h.s, h.g, 83#7, d, a, b⟩, if b = 126#7 then some lit else none)
  | .mulF16x2Reg h d a b => some (⟨0#2, h.s, h.g, 84#7, d, a, b⟩, none)
  | .mulF16x2Sel h d a b lit => some (⟨0#2, h.s, h.g, 85#7, d, a, b⟩, if b = 126#7 then some lit else none)
  | .fmaF16x2Reg h d a b => some (⟨0#2, h.s, h.g, 86#7, d, a, b⟩, none)
  | .fmaF16x2Sel h d a b lit => some (⟨0#2, h.s, h.g, 87#7, d, a, b⟩, if b = 126#7 then some lit else none)
  | .cvtReg h d f b => some (⟨0#2, h.s, h.g, 88#7, d, f, b⟩, none)
  | .cvtSel h d f b lit => some (⟨0#2, h.s, h.g, 89#7, d, f, b⟩, if b = 126#7 then some lit else none)
  | .cvtqE2m1Reg h d a b => some (⟨0#2, h.s, h.g, 90#7, d, a, b⟩, none)
  | .cvtqE2m1Sel h d a b lit => some (⟨0#2, h.s, h.g, 91#7, d, a, b⟩, if b = 126#7 then some lit else none)
  | .permB32Reg h d a b => some (⟨0#2, h.s, h.g, 92#7, d, a, b⟩, none)
  | .permB32Sel h d a b lit => some (⟨0#2, h.s, h.g, 93#7, d, a, b⟩, if b = 126#7 then some lit else none)
  | .gsetReg h c a b => some (⟨0#2, h.s, h.g, 94#7, c, a, b⟩, none)
  | .gsetSel h c a b lit => some (⟨0#2, h.s, h.g, 95#7, c, a, b⟩, if b = 126#7 then some lit else none)
  | .tagsetReg h d a b => some (⟨0#2, h.s, h.g, 96#7, d, a, b⟩, none)
  | .tagsetSel h d a b lit => some (⟨0#2, h.s, h.g, 97#7, d, a, b⟩, if b = 126#7 then some lit else none)
  | .xlrReg h d a b => some (⟨0#2, h.s, h.g, 98#7, d, a, b⟩, none)
  | .xlrSel h d a b lit => some (⟨0#2, h.s, h.g, 99#7, d, a, b⟩, if b = 126#7 then some lit else none)
  | .rngkReg h d a b => some (⟨0#2, h.s, h.g, 100#7, d, a, b⟩, none)
  | .rngkSel h d a b lit => some (⟨0#2, h.s, h.g, 101#7, d, a, b⟩, if b = 126#7 then some lit else none)
  | .smovB32 h d b lit => some (⟨1#2, h.s, h.g, 1#7, d, 0#7, b⟩, if b = 126#7 then some lit else none)
  | .saddI32 h d a b lit => some (⟨1#2, h.s, h.g, 3#7, d, a, b⟩, if b = 126#7 then some lit else none)
  | .saddN32 h d a b lit => some (⟨1#2, h.s, h.g, 4#7, d, a, b⟩, if b = 126#7 then some lit else none)
  | .ssubI32 h d a b lit => some (⟨1#2, h.s, h.g, 5#7, d, a, b⟩, if b = 126#7 then some lit else none)
  | .ssubN32 h d a b lit => some (⟨1#2, h.s, h.g, 6#7, d, a, b⟩, if b = 126#7 then some lit else none)
  | .smulI32 h d a b lit => some (⟨1#2, h.s, h.g, 7#7, d, a, b⟩, if b = 126#7 then some lit else none)
  | .smulN32 h d a b lit => some (⟨1#2, h.s, h.g, 8#7, d, a, b⟩, if b = 126#7 then some lit else none)
  | .smulhiI32 h d a b lit => some (⟨1#2, h.s, h.g, 9#7, d, a, b⟩, if b = 126#7 then some lit else none)
  | .smulhiN32 h d a b lit => some (⟨1#2, h.s, h.g, 10#7, d, a, b⟩, if b = 126#7 then some lit else none)
  | .sminI32 h d a b lit => some (⟨1#2, h.s, h.g, 11#7, d, a, b⟩, if b = 126#7 then some lit else none)
  | .sminN32 h d a b lit => some (⟨1#2, h.s, h.g, 12#7, d, a, b⟩, if b = 126#7 then some lit else none)
  | .smaxI32 h d a b lit => some (⟨1#2, h.s, h.g, 13#7, d, a, b⟩, if b = 126#7 then some lit else none)
  | .smaxN32 h d a b lit => some (⟨1#2, h.s, h.g, 14#7, d, a, b⟩, if b = 126#7 then some lit else none)
  | .sandB32 h d a b lit => some (⟨1#2, h.s, h.g, 15#7, d, a, b⟩, if b = 126#7 then some lit else none)
  | .sorB32 h d a b lit => some (⟨1#2, h.s, h.g, 16#7, d, a, b⟩, if b = 126#7 then some lit else none)
  | .sxorB32 h d a b lit => some (⟨1#2, h.s, h.g, 17#7, d, a, b⟩, if b = 126#7 then some lit else none)
  | .snotB32 h d b lit => some (⟨1#2, h.s, h.g, 18#7, d, 0#7, b⟩, if b = 126#7 then some lit else none)
  | .sshlB32 h d a b lit => some (⟨1#2, h.s, h.g, 19#7, d, a, b⟩, if b = 126#7 then some lit else none)
  | .sshrN32 h d a b lit => some (⟨1#2, h.s, h.g, 20#7, d, a, b⟩, if b = 126#7 then some lit else none)
  | .sshrI32 h d a b lit => some (⟨1#2, h.s, h.g, 21#7, d, a, b⟩, if b = 126#7 then some lit else none)
  | .spopcB32 h d b lit => some (⟨1#2, h.s, h.g, 22#7, d, 0#7, b⟩, if b = 126#7 then some lit else none)
  | .sclzB32 h d b lit => some (⟨1#2, h.s, h.g, 23#7, d, 0#7, b⟩, if b = 126#7 then some lit else none)
  | .scmpI32 h c a b lit => some (⟨1#2, h.s, h.g, 24#7, c, a, b⟩, if b = 126#7 then some lit else none)
  | .scmpN32 h c a b lit => some (⟨1#2, h.s, h.g, 25#7, c, a, b⟩, if b = 126#7 then some lit else none)
  | .saddI64 h d a b lit => some (⟨1#2, h.s, h.g, 26#7, d, a, b⟩, if b = 126#7 then some lit else none)
  | .saddN64 h d a b lit => some (⟨1#2, h.s, h.g, 27#7, d, a, b⟩, if b = 126#7 then some lit else none)
  | .ssubI64 h d a b lit => some (⟨1#2, h.s, h.g, 28#7, d, a, b⟩, if b = 126#7 then some lit else none)
  | .ssubN64 h d a b lit => some (⟨1#2, h.s, h.g, 29#7, d, a, b⟩, if b = 126#7 then some lit else none)
  | .saddF32 h d a b lit => some (⟨1#2, h.s, h.g, 30#7, d, a, b⟩, if b = 126#7 then some lit else none)
  | .ssubF32 h d a b lit => some (⟨1#2, h.s, h.g, 31#7, d, a, b⟩, if b = 126#7 then some lit else none)
  | .smulF32 h d a b lit => some (⟨1#2, h.s, h.g, 32#7, d, a, b⟩, if b = 126#7 then some lit else none)
  | .sfmaF32 h d a b lit => some (⟨1#2, h.s, h.g, 33#7, d, a, b⟩, if b = 126#7 then some lit else none)
  | .sminF32 h d a b lit => some (⟨1#2, h.s, h.g, 34#7, d, a, b⟩, if b = 126#7 then some lit else none)
  | .smaxF32 h d a b lit => some (⟨1#2, h.s, h.g, 35#7, d, a, b⟩, if b = 126#7 then some lit else none)
  | .scmpF32 h c a b lit => some (⟨1#2, h.s, h.g, 36#7, c, a, b⟩, if b = 126#7 then some lit else none)
  | .ssfnF32 h d f b lit => some (⟨1#2, h.s, h.g, 37#7, d, f, b⟩, if b = 126#7 then some lit else none)
  | .saddBf16x2 h d a b lit => some (⟨1#2, h.s, h.g, 38#7, d, a, b⟩, if b = 126#7 then some lit else none)
  | .smulBf16x2 h d a b lit => some (⟨1#2, h.s, h.g, 39#7, d, a, b⟩, if b = 126#7 then some lit else none)
  | .sfmaBf16x2 h d a b lit => some (⟨1#2, h.s, h.g, 40#7, d, a, b⟩, if b = 126#7 then some lit else none)
  | .saddF16x2 h d a b lit => some (⟨1#2, h.s, h.g, 41#7, d, a, b⟩, if b = 126#7 then some lit else none)
  | .smulF16x2 h d a b lit => some (⟨1#2, h.s, h.g, 42#7, d, a, b⟩, if b = 126#7 then some lit else none)
  | .sfmaF16x2 h d a b lit => some (⟨1#2, h.s, h.g, 43#7, d, a, b⟩, if b = 126#7 then some lit else none)
  | .scvt h d f b lit => some (⟨1#2, h.s, h.g, 44#7, d, f, b⟩, if b = 126#7 then some lit else none)
  | .spermB32 h d a b lit => some (⟨1#2, h.s, h.g, 46#7, d, a, b⟩, if b = 126#7 then some lit else none)
  | .svoteB32 h d => some (⟨1#2, h.s, h.g, 64#7, d, 0#7, 0#7⟩, none)
  | .slaneB32 h d a b lit => some (⟨1#2, h.s, h.g, 65#7, d, a, b⟩, if b = 126#7 then some lit else none)
  | .ld h d a m => some (⟨2#2, h.s, h.g, 0#7, d, a, m⟩, none)
  | .ldLit h d a m lit => some (⟨2#2, h.s, h.g, 1#7, d, a, m⟩, some lit)
  | .st h d a z => some (⟨2#2, h.s, h.g, 2#7, d, a, (0#4 ++ z)⟩, none)
  | .stLit h d a z lit => some (⟨2#2, h.s, h.g, 3#7, d, a, (0#4 ++ z)⟩, some lit)
  | .ldl h d a m => some (⟨2#2, h.s, h.g, 4#7, d, a, m⟩, none)
  | .ldlLit h d a m lit => some (⟨2#2, h.s, h.g, 5#7, d, a, m⟩, some lit)
  | .stl h d a z => some (⟨2#2, h.s, h.g, 6#7, d, a, (0#4 ++ z)⟩, none)
  | .stlLit h d a z lit => some (⟨2#2, h.s, h.g, 7#7, d, a, (0#4 ++ z)⟩, some lit)
  | .pref h a l => some (⟨2#2, h.s, h.g, 8#7, 0#7, a, (0#6 ++ BitVec.ofBool l)⟩, none)
  | .prefLit h a l lit => some (⟨2#2, h.s, h.g, 9#7, 0#7, a, (0#6 ++ BitVec.ofBool l)⟩, some lit)
  | .red h d a f => some (⟨2#2, h.s, h.g, 10#7, d, a, f⟩, none)
  | .redLit h d a f lit => some (⟨2#2, h.s, h.g, 11#7, d, a, f⟩, some lit)
  | .redLs h d a f => some (⟨2#2, h.s, h.g, 12#7, d, a, f⟩, none)
  | .redLsLit h d a f lit => some (⟨2#2, h.s, h.g, 13#7, d, a, f⟩, some lit)
  | .redDet h d a b => some (⟨2#2, h.s, h.g, 14#7, d, a, b⟩, none)
  | .redDetLit h d a b lit => some (⟨2#2, h.s, h.g, 15#7, d, a, b⟩, some lit)
  | .fence h c => some (⟨2#2, h.s, h.g, 16#7, 0#7, 0#7, (0#4 ++ c)⟩, none)
  | .cadd h d a c => some (⟨2#2, h.s, h.g, 18#7, d, a, (0#4 ++ c)⟩, none)
  | .caddLit h a c lit => some (⟨2#2, h.s, h.g, 19#7, 0#7, a, (0#4 ++ c)⟩, some lit)
  | .caddr h d a c => some (⟨2#2, h.s, h.g, 20#7, d, a, (0#4 ++ c)⟩, none)
  | .caddrLit h d a c lit => some (⟨2#2, h.s, h.g, 21#7, d, a, (0#4 ++ c)⟩, some lit)
  | .cread h d a c => some (⟨2#2, h.s, h.g, 22#7, d, a, (0#4 ++ c)⟩, none)
  | .cwt h d a c => some (⟨2#2, h.s, h.g, 24#7, d, a, (0#4 ++ c)⟩, none)
  | .cwait h d a c => some (⟨2#2, h.s, h.g, 26#7, d, a, (0#4 ++ c)⟩, none)
  | .copy h d a b => some (⟨2#2, h.s, h.g, 28#7, d, a, b⟩, none)
  | .copyLit h d a lit => some (⟨2#2, h.s, h.g, 29#7, d, a, 0#7⟩, some lit)
  | .copyx h d a b => some (⟨2#2, h.s, h.g, 30#7, d, a, b⟩, none)
  | .copyxLit h d a lit => some (⟨2#2, h.s, h.g, 31#7, d, a, 0#7⟩, some lit)
  | .tdecl h d a => some (⟨2#2, h.s, h.g, 32#7, d, a, 0#7⟩, none)
  | .sweep h d a b => some (⟨2#2, h.s, h.g, 34#7, d, a, b⟩, none)
  | .sweepLit h d a lit => some (⟨2#2, h.s, h.g, 35#7, d, a, 0#7⟩, some lit)
  | .eyield h a => some (⟨2#2, h.s, h.g, 36#7, 0#7, a, 0#7⟩, none)
  | .ectxld h d a w k => some (⟨2#2, h.s, h.g, 38#7, d, a, (0#1 ++ w ++ k)⟩, none)
  | .ectxldLit h d a w k lit => some (⟨2#2, h.s, h.g, 39#7, d, a, (0#1 ++ w ++ k)⟩, some lit)
  | .ectxst h d a w k => some (⟨2#2, h.s, h.g, 40#7, d, a, (0#1 ++ w ++ k)⟩, none)
  | .ectxstLit h d a w k lit => some (⟨2#2, h.s, h.g, 41#7, d, a, (0#1 ++ w ++ k)⟩, some lit)
  | .tfree h a => some (⟨2#2, h.s, h.g, 42#7, 0#7, a, 0#7⟩, none)
  | .mma h d a q f => some (⟨2#2, h.s, h.g, 44#7, d, a, (q ++ f)⟩, none)
  | .mld h d a t => some (⟨2#2, h.s, h.g, 46#7, d, a, (0#3 ++ t)⟩, none)
  | .mldLit h d a t lit => some (⟨2#2, h.s, h.g, 47#7, d, a, (0#3 ++ t)⟩, some lit)
  | .mst h d a b => some (⟨2#2, h.s, h.g, 48#7, d, a, b⟩, none)
  | .mstLit h d a b lit => some (⟨2#2, h.s, h.g, 49#7, d, a, b⟩, some lit)
  | .mzero h d t => some (⟨2#2, h.s, h.g, 50#7, d, 0#7, (0#3 ++ t)⟩, none)
  | .trace h d a b => some (⟨2#2, h.s, h.g, 52#7, d, a, b⟩, none)
  | .traceLit h d a lit => some (⟨2#2, h.s, h.g, 53#7, d, a, 0#7⟩, some lit)
  | .beam h d a b => some (⟨2#2, h.s, h.g, 54#7, d, a, b⟩, none)
  | .beamLit h d a lit => some (⟨2#2, h.s, h.g, 55#7, d, a, 0#7⟩, some lit)
  | .hitget h d a p => some (⟨2#2, h.s, h.g, 56#7, d, a, (0#5 ++ p)⟩, none)
  | .tex h d a b => some (⟨2#2, h.s, h.g, 58#7, d, a, b⟩, none)
  | .put h d a b => some (⟨2#2, h.s, h.g, 60#7, d, a, b⟩, none)
  | .putLit h d a lit => some (⟨2#2, h.s, h.g, 61#7, d, a, 0#7⟩, some lit)
  | .get h d a b => some (⟨2#2, h.s, h.g, 62#7, d, a, b⟩, none)
  | .getLit h d a lit => some (⟨2#2, h.s, h.g, 63#7, d, a, 0#7⟩, some lit)
  | .send h d a b => some (⟨2#2, h.s, h.g, 64#7, d, a, b⟩, none)
  | .sendLit h d a lit => some (⟨2#2, h.s, h.g, 65#7, d, a, 0#7⟩, some lit)
  | .rwsend h d a t b => some (⟨2#2, h.s, h.g, 66#7, d, (a ++ BitVec.ofBool t), b⟩, none)
  | .rwsendLit h d a t lit => some (⟨2#2, h.s, h.g, 67#7, d, (a ++ BitVec.ofBool t), 0#7⟩, some lit)
  | .post h d a => some (⟨2#2, h.s, h.g, 68#7, d, a, 0#7⟩, none)
  | .cgraph h d a b => some (⟨2#2, h.s, h.g, 72#7, d, a, b⟩, none)
  | .cgraphLit h d a lit => some (⟨2#2, h.s, h.g, 73#7, d, a, 0#7⟩, some lit)
  | .coll h d a b => some (⟨2#2, h.s, h.g, 74#7, d, a, b⟩, none)
  | .collLit h d a lit => some (⟨2#2, h.s, h.g, 75#7, d, a, 0#7⟩, some lit)
  | .comp h d a b => some (⟨2#2, h.s, h.g, 76#7, d, a, b⟩, none)
  | .compLit h d a lit => some (⟨2#2, h.s, h.g, 77#7, d, a, 0#7⟩, some lit)
  | .br h o => some (⟨3#2, h.s, h.g, 0#7, (o.extractLsb' 14 7), (o.extractLsb' 7 7), (o.extractLsb' 0 7)⟩, none)
  | .brn h o => some (⟨3#2, h.s, h.g, 1#7, (o.extractLsb' 14 7), (o.extractLsb' 7 7), (o.extractLsb' 0 7)⟩, none)
  | .call h o => some (⟨3#2, h.s, h.g, 2#7, (o.extractLsb' 14 7), (o.extractLsb' 7 7), (o.extractLsb' 0 7)⟩, none)
  | .jr h a => some (⟨3#2, h.s, h.g, 3#7, 0#7, a, 0#7⟩, none)
  | .spawn h d a b lit => some (⟨3#2, h.s, h.g, 4#7, d, a, b⟩, if b = 126#7 then some lit else none)
  | .exit h => some (⟨3#2, h.s, h.g, 5#7, 0#7, 0#7, 0#7⟩, none)
  | .join h a => some (⟨3#2, h.s, h.g, 6#7, 0#7, a, 0#7⟩, none)
  | .joink h a => some (⟨3#2, h.s, h.g, 7#7, 0#7, a, 0#7⟩, none)
  | .leave h => some (⟨3#2, h.s, h.g, 8#7, 0#7, 0#7, 0#7⟩, none)
  | .winb h c b lit => some (⟨3#2, h.s, h.g, 9#7, c, 0#7, b⟩, if b = 126#7 then some lit else none)
  | .yield h => some (⟨3#2, h.s, h.g, 10#7, 0#7, 0#7, 0#7⟩, none)
  | .brk h => some (⟨3#2, h.s, h.g, 11#7, 0#7, 0#7, 0#7⟩, none)
  | .cvacc h => some (⟨3#2, h.s, h.g, 12#7, 0#7, 0#7, 0#7⟩, none)
  | .cvrej h => some (⟨3#2, h.s, h.g, 13#7, 0#7, 0#7, 0#7⟩, none)
  | .nop h => some (⟨3#2, h.s, h.g, 14#7, 0#7, 0#7, 0#7⟩, none)
  | .statrd h d => some (⟨3#2, h.s, h.g, 15#7, d, 0#7, 0#7⟩, none)
  | .statclr h b lit => some (⟨3#2, h.s, h.g, 16#7, 0#7, 0#7, b⟩, if b = 126#7 then some lit else none)
  | .csrr h d b lit => some (⟨3#2, h.s, h.g, 17#7, d, 0#7, b⟩, if b = 126#7 then some lit else none)
  | .haltw h => some (⟨3#2, h.s, h.g, 18#7, 0#7, 0#7, 0#7⟩, none)
  | .segset h k a => some (⟨3#2, h.s, h.g, 64#7, k, a, 0#7⟩, none)
  | .csrw h a b lit => some (⟨3#2, h.s, h.g, 65#7, 0#7, a, b⟩, if b = 126#7 then some lit else none)
  | .carve h d b lit => some (⟨3#2, h.s, h.g, 66#7, d, 0#7, b⟩, if b = 126#7 then some lit else none)
  | .cinit h d a => some (⟨3#2, h.s, h.g, 67#7, d, a, 0#7⟩, none)
  | .ctxsave h d a b lit => some (⟨3#2, h.s, h.g, 68#7, d, a, b⟩, if b = 126#7 then some lit else none)
  | .ctxload h d a b lit => some (⟨3#2, h.s, h.g, 69#7, d, a, b⟩, if b = 126#7 then some lit else none)
  | .revoke h d a b lit => some (⟨3#2, h.s, h.g, 70#7, d, a, b⟩, if b = 126#7 then some lit else none)
  | .step h d a b lit => some (⟨3#2, h.s, h.g, 71#7, d, a, b⟩, if b = 126#7 then some lit else none)
  | .resultWriteback _ => none
  | .prioAge _ => none
  | .binTimerExpiry _ => none
  | .binLaunch _ => none
  | .spawnDeferredPlacement _ => none
  | .flockAdmit _ => none
  | .rotationPoint _ => none
  | .sweepDeferredEviction _ => none
  | .launchQueueEnable _ _ _ _ => none
  | .launchQueueDisable _ _ _ _ => none
  | .launchRecordTake _ _ => none
  | .launchRecordPlace _ _ => none
  | .counterAdd _ => none
  | .counterAddReturn _ => none
  | .counterRead _ => none
  | .counterRegisterWait _ => none
  | .counterWithdrawWait _ => none
  | .counterSet _ => none
  | .counterWake _ => none
  | .counterResponse _ => none
  | .cwaitDeadline _ => none
  | .apertureAdd _ _ _ => none
  | .apertureFadd _ _ _ => none
  | .apertureValueRead _ _ => none
  | .apertureArm _ _ _ => none
  | .apertureFired _ => none
  | .writeApply _ => none
  | .readRequest _ => none
  | .readResponse _ => none
  | .reductionApply _ => none
  | .redDetContribution _ => none
  | .acknowledgement _ => none
  | .wcDrain _ => none
  | .tlbiGo _ _ _ => none
  | .tlbiComplete _ => none
  | .atsTranslationCompletion _ _ _ _ _ _ => none
  | .atsInvalidationRequest _ _ _ _ => none
  | .invalidationCompletion _ _ => none
  | .pageRequestResponse _ _ _ => none
  | .pageRequestTimeout _ _ => none
  | .carveGrowComplete _ => none
  | .fenceComplete _ => none
  | .sweepStart _ => none
  | .sweepGroupWriteback _ => none
  | .elementWake _ => none
  | .tfreeComplete _ => none
  | .copyComplete _ => none
  | .mmaComplete _ => none
  | .mstChunkAdd _ => none
  | .rayComplete _ => none
  | .beamStart _ => none
  | .coverageResolve _ => none
  | .putArrival _ => none
  | .getArrival _ => none
  | .sendArrival _ => none
  | .nackReceive _ => none
  | .networkOpComplete _ => none
  | .rwsendChannelAssign _ _ => none
  | .remoteWorkRecordReceive _ => none
  | .arrivalAddition _ => none
  | .revokeComplete _ _ => none
  | .armedRequestFire _ => none
  | .cgraphBind _ => none
  | .replayStart _ => none
  | .notBeforeExpiry _ _ => none
  | .graphNodeStart _ _ => none
  | .collectiveChunkReceive _ => none
  | .graphNodeComplete _ _ => none
  | .compComplete _ => none
  | .inswDiscovery _ _ _ => none
  | .inswRefusal _ _ => none
  | .linkSwingDirWrite _ _ _ _ => none
  | .swingTurnComplete _ _ _ => none
  | .flitReceive _ _ _ => none
  | .retryRequest _ _ _ => none
  | .laneDiagnosis _ _ _ _ _ => none
  | .managementPacket _ => none
  | .ptpMessage _ _ _ => none
  | .ptpLockLost _ _ => none
  | .peerLost _ _ _ => none
  | .portPeerClrGo _ _ _ => none
  | .haltCmdHalt _ _ _ => none
  | .haltCmdThawArm _ _ _ => none
  | .haltCmdGo _ _ _ => none
  | .haltCmdStep _ _ _ _ _ _ _ => none
  | .haltTokenHalt _ => none
  | .haltTokenThawArm _ => none
  | .haltTokenGo _ => none
  | .haltDrained _ _ => none
  | .haltDrainTimeout _ _ => none
  | .haltGoAtT _ _ => none
  | .stepComplete _ _ => none
  | .warmReset _ _ _ => none
  | .coldReset _ _ _ _ => none
  | .powerUp _ => none
  | .powerOff => none
  | .imageLoadGo _ _ _ => none
  | .imageCheckComplete => none
  | .getVersion _ => none
  | .getCapabilities _ => none
  | .negotiateAlgorithms _ => none
  | .getDigests _ => none
  | .getCertificate _ => none
  | .challenge _ _ => none
  | .getMeasurements _ => none
  | .modIdWrite _ _ _ => none
  | .jobKillGo _ _ _ => none
  | .jobKillComplete _ => none
  | .unitOffGo _ _ _ => none
  | .eccScrub _ => none
  | .hostBar4Read _ _ _ => none
  | .hostBar4Write _ _ _ _ => none
  | .hostCompletionTimeout _ _ _ => none
  | .hostPortLinkDown _ => none
  | .portCeStatusRead _ _ => none
  | .dieFltLostRead _ _ => none
  | .dieEccRead _ _ => none
  | .dieLinkErrRead _ _ _ => none
  | .portNackRxRead _ _ => none
  | .portCeFallbkRead _ _ => none
  | .portInswRefusedRead _ _ => none
  | .dieHaltStateRead _ _ _ => none
  | .registerWrite _ _ _ _ => none
  | .unassignedOpcode _ => none
  | .instructionFetchFault => none
  | .softError _ _ => none
  | .msiXUnmask _ _ => none
  | .transportRetransmission _ => none
  | .hostReservedOffsetAccess _ _ _ => none

/-- The words of an instruction: the word and its literal, where one follows. -/
def encode (i : Instr) : List Word :=
  match i.fields with
  | some (f, some l) => [f.toWord, l]
  | some (f, none) => [f.toWord]
  | none => []

/-- The bytes of an instruction in memory (R3, R208). -/
def encodeBytes (i : Instr) : List Byte := (encode i).flatMap bytesOfWord

end Sys2Proof
end

