-- ==== Sys2Proof/Machine/State.lean ====
section
/-! DEFINITION. The state of the module: everything the manual gives it, as plain data in lists keyed by the manual's own
numbers (a core is named by 128 × die + core within the die), the reasons a step can stop, and the state after reset. -/

namespace Sys2Proof.Machine

/-- Why the machine stops with a fault of the model. -/
inductive Fault where
  /-- power is off (R340: nothing is available in OFF); raised by every step of a module that is off but POWER_UP; safe -/
  | poweredOff
  deriving DecidableEq, Repr

/-- Why the model gives an instruction no meaning. -/
inductive Refusal where
  /-- the instruction has no meaning in this model yet; raised by an arm of exec; safe -/
  | notModelled (mnemonic : String)
  deriving DecidableEq, Repr

/-! ## Threads -/

/-- A register with its format tag (R28, R124). -/
structure Reg where
  /-- the 32 bits -/
  bits : Word
  /-- the tag code, 0 to 15 -/
  tag : BitVec 4
  deriving DecidableEq, Repr

/-- A segment register: base and limit in the units of R94. -/
structure Seg where
  /-- base -/
  base : Nat
  /-- limit -/
  limit : Nat
  deriving DecidableEq, Repr

/-- What a register write can target within a switch region (R219, R371). -/
inductive Target where
  /-- register of the allocation -/
  | v (idx : Nat)
  /-- s register of the flock -/
  | s (idx : Nat)
  /-- guard bit -/
  | g
  /-- tile of the flock -/
  | tile (idx : Nat)
  deriving DecidableEq, Repr

/-- A wait condition: handle and threshold (R66). -/
structure Cond where
  /-- the counter's handle -/
  handle : DWord
  /-- the threshold -/
  thresh : DWord
  deriving DecidableEq, Repr

/-- What a thread waits for room in, keeping its PC (R272). -/
inductive Room where
  /-- copy queue of the core (R291) -/
  | copy
  /-- sweep queue of the core (R87) -/
  | sweep
  /-- matrix unit of the core (R301) -/
  | matrix
  /-- traversal unit of the core (R306) -/
  | rays
  /-- Harrow of the cluster (R307) -/
  | harrow
  /-- network port of the die (R313) -/
  | port
  /-- collective engine of the die (R320) -/
  | replay
  deriving DecidableEq, Repr

/-- What keeps a thread from issuing, beside being parked, trapped or halted. -/
inductive Waiting where
  /-- nothing -/
  | none
  /-- results of earlier instructions, before the instruction at PC takes effect (R265, R266, R270, R294, R322) -/
  | results
  /-- room in a queue -/
  | room (k : Room)
  /-- `cwt` (R284) -/
  | cwt (scope : Nat) (c : Cond)
  /-- `cwait` (R286): tested once (TIMEOUT 0), all-of, deadline, destination register, D field, conditions, conditions satisfied so
  far -/
  | cwait (scope : Nat) (once all : Bool) (deadline : Option Nat) (dest dfield : Nat) (cs : List Cond) (mask : Nat)
  /-- `fence` (R279): accesses before this sequence number -/
  | fence (scope seq : Nat)
  /-- what the thread made before this sequence number has still to take effect, before the instruction at PC does (R119, R301, R310) -/
  | before (seq : Nat)
  /-- a placement that waits for a free slot (R38, R263) -/
  | place
  /-- a translation or page request of the port (R381) -/
  | page (req : Nat)
  /-- `tfree` of a binding, by its number (R296), and its switch bit -/
  | tfree (bind : Nat) (sbit : Bool)
  /-- `carve` to n ways whose departing ways drain what was stored before a number (R326): D field; n = 0 for one behind another -/
  | carve (n dest seq : Nat)
  /-- `step` (R330): the halt slot, the D field, and the issue's lowest lane; D field 128 for `ctxsave` and `ctxload` that wait for
  STEPBUSY to clear (R327) -/
  | step (slot dest lead : Nat)
  /-- `rwsend` until its record has its channel (R316): the port operation -/
  | rwsend (op : Nat)
  /-- a `cwait` that ended while its flock was saved: its result, which is written when the flock is restored (R56, R286) -/
  | ended (dest value : Nat)
  /-- a routine thread between visits (R88, R294) -/
  | idle
  deriving DecidableEq, Repr

/-- What a thread runs for. -/
inductive Role where
  /-- launched or spawned -/
  | plain
  /-- routine thread of a sweep, with its tensor slot and element (R88) -/
  | sweep (slot elem : Nat)
  /-- coverage routine thread of a Harrow's candidate (R162) -/
  | cover (harrow cand : Nat)
  deriving DecidableEq, Repr

/-- A thread (R28). -/
structure Thread where
  /-- the model's own name of the thread -/
  uid : Nat
  /-- core, 128 × die + core within the die -/
  core : Nat
  /-- LANE -/
  lane : Nat
  /-- SLOT -/
  slot : Nat
  /-- job number -/
  job : Nat
  /-- index of its flock (FLOCK[15:0]) -/
  flock : Nat
  /-- the bin that holds it, before its flock exists (R36) -/
  bin : Option Nat
  /-- PC -/
  pc : VAddr
  /-- ALLOC -/
  alloc : Nat
  /-- WB -/
  wb : Nat
  /-- first register of its allocation in the lane's register file (R27) -/
  rbase : Nat
  /-- registers of the allocation that differ from 0 with tag RAW -/
  regs : List (Nat × Reg)
  /-- guard bit -/
  g : Bool
  /-- SG.G in 4 KiB units -/
  segG : Seg
  /-- SG.L in bytes -/
  segL : Seg
  /-- SG.C in cells -/
  segC : Seg
  /-- TNUM -/
  tnum : Word
  /-- STATUS -/
  status : BitVec 16
  /-- WAITST and every other wait -/
  wait : Waiting
  /-- parked at a switch bit (R46) -/
  parked : Bool
  /-- trapped (R352) -/
  trapped : Bool
  /-- PRIO of the parent, for a thread in a bin (R36) -/
  prio : Nat
  /-- what it runs for -/
  role : Role
  /-- the launch whose local-store region it shares (R51) -/
  launch : Option Nat
  /-- latched by %ftlo (R213) -/
  ftHi : Word
  /-- latched by %cyclo (R213) -/
  cycHi : Word
  /-- targets written since the last switch bit (R371) -/
  region : List Target
  /-- core cycle in which it last became eligible (R41) -/
  age : Nat
  /-- 1 + core cycle of its last issue, 0 for none (R41, R42) -/
  last : Nat
  /-- treated as PRIO 3 when next chosen (R42) -/
  aged : Bool
  /-- destinations whose packets failed, as (module, die) (R399) -/
  failed : List (Nat × Nat)
  /-- PC that it takes at its restore, where a wait has ended or a fault has been found while its flock was saved (R56) -/
  newPc : Option VAddr
  deriving DecidableEq, Repr

/-- An accumulator tile (R30): elements that differ from 0, by 32 × row + column. -/
structure Tile where
  /-- format tag -/
  tag : BitVec 4
  /-- elements -/
  elems : List (Nat × Word)
  /-- number of the issue that wrote the tag last (R304) -/
  stamp : Nat
  deriving DecidableEq, Repr

/-- A flock (R30). Its LANEMAP and SLOTMAP are those of its members. -/
structure Flock where
  /-- core -/
  core : Nat
  /-- index, FLOCK[15:0] -/
  idx : Nat
  /-- JOB -/
  job : Nat
  /-- PRIO -/
  prio : Nat
  /-- s registers that differ from 0 -/
  sregs : List (Nat × Word)
  /-- tiles, TCOUNT of them -/
  tiles : List Tile
  /-- KEY -/
  key : Option Word
  /-- resident (R54) -/
  resident : Bool
  /-- field time from which its residency counts (R55) -/
  since : Nat
  /-- the tensor slot of the sweep it is the sweep flock of (R88) -/
  sweep : Option Nat
  /-- chosen as a victim and not yet evicted: a sweep flock with a group open (R92), or a flock whose register results are awaited
  (R56) -/
  evicting : Bool
  /-- offset of its blocks in the save area while evicted (R56, R327) -/
  saved : Option Nat
  deriving DecidableEq, Repr

/-- An open bin (R36). Its places are the threads that name it. -/
structure Bin where
  /-- the model's own number; a lower number was opened earlier -/
  id : Nat
  /-- core -/
  core : Nat
  /-- key: job -/
  job : Nat
  /-- key: entry address -/
  entry : VAddr
  /-- key: SG.L base -/
  sgl : Nat
  /-- field time at which its timer runs out -/
  deadline : Nat
  /-- field time of its first placement (R55) -/
  since : Nat
  /-- registers per thread -/
  alloc : Nat
  /-- tiles of its flock -/
  tiles : Nat
  /-- priority of its flock -/
  prio : Nat
  /-- due to launch (R39) -/
  due : Bool
  deriving DecidableEq, Repr

/-- A child that a spawn has still to place: its state as R262 makes it, before it has a lane and a slot. -/
structure Kid where
  /-- the parent's lane, from which candidate lanes are taken (R37) -/
  lane : Nat
  /-- TILES of its entry header -/
  tiles : Nat
  /-- BINTIME of its entry header -/
  bintime : Nat
  /-- its state -/
  th : Thread
  deriving DecidableEq, Repr

/-- A spawn that waits for a free slot (R38, R263), or a handler thread that does (R355). -/
structure Placing where
  /-- core -/
  core : Nat
  /-- threads that wait for it: the active lanes of the `spawn`; none for a handler -/
  group : List Nat
  /-- children still to be placed, in order -/
  kids : List Kid
  /-- length of the word and its literal -/
  len : Nat
  /-- switch bit -/
  sbit : Bool
  deriving DecidableEq, Repr

/-- A launch's local-store region on a core (R51, R344). -/
structure Launch where
  /-- the model's own number -/
  id : Nat
  /-- core -/
  core : Nat
  /-- base in bytes; 2^32 while the region is not allocated -/
  base : Nat
  /-- size in bytes -/
  size : Nat
  deriving DecidableEq, Repr

/-! ## Results, stores, packets -/

/-- A write to a register of an allocation. -/
structure VWrite where
  /-- thread -/
  uid : Nat
  /-- register of the allocation -/
  idx : Nat
  /-- value and tag -/
  reg : Reg
  deriving DecidableEq, Repr

/-- A write to an s register. -/
structure SWrite where
  /-- core of the flock -/
  core : Nat
  /-- flock -/
  flock : Nat
  /-- register -/
  idx : Nat
  /-- value -/
  val : Word
  deriving DecidableEq, Repr

/-- How the bytes of a load become register or tile writes (R273, R302, R309). -/
inductive LoadFmt where
  /-- consecutive registers from `idx`, one per 4 bytes, with these tags -/
  | regs (uid idx : Nat) (tags : List (BitVec 4))
  /-- one register from 1 or 2 bytes, sign-extended or not -/
  | ext (uid idx : Nat) (sx : Bool)
  /-- one register from bit k of the bytes, tagged N32 (R295) -/
  | bit (uid idx k : Nat)
  /-- elements of a row of a tile, from a column on; the number with which the issue wrote the tile's tag, and the tag and number before
  (R304) -/
  | row (core flock tile row col stamp : Nat) (was : BitVec 4 × Nat)
  deriving DecidableEq, Repr

/-- A result in flight (R46, R220): it counts as outstanding for its threads until written. -/
structure Result where
  /-- number; a lower number was issued earlier -/
  id : Nat
  /-- threads for which it is outstanding -/
  uids : List Nat
  /-- its value has returned -/
  ready : Bool
  /-- register writes -/
  v : List VWrite
  /-- s register writes -/
  s : List SWrite
  /-- guard-bit writes -/
  g : List (Nat × Bool)
  /-- STATUS bits to set -/
  st : List (Nat × BitVec 16)
  /-- bytes of a load, absent until they return -/
  buf : List (Option Byte)
  /-- what the bytes become -/
  fmt : Option LoadFmt
  /-- the bytes or the value are poisoned (R358, R399) -/
  poisoned : Bool
  /-- address of the instruction that waits for it (R352) -/
  pc : VAddr
  /-- 1 + core cycle of the issue that made it: results of one issue count as one instruction (R220) -/
  at_ : Nat
  /-- global address of a load, or handle of a counter, for its fault record -/
  addr : Nat
  /-- the answer of a counter's home, no load -/
  counter : Bool
  /-- `cadd`: the packet with whose departure from the core it counts as returned (R281) -/
  left : Option Nat
  deriving DecidableEq, Repr

/-- An operation in a thread's store FIFO (R115, R274, R276, R278, R303). -/
inductive StoreOp where
  /-- global store that merges into L1 -/
  | glob (pa : Nat) (bytes : List Byte)
  /-- tile row that goes to its homes without being held in L1, with its chunk addition (R303) -/
  | row (pa : Nat) (bytes : List Byte) (chunk : Option Nat)
  /-- store to local store -/
  | locl (off : Nat) (bytes : List Byte)
  /-- reduction at a home: function, operand (R277) -/
  | red (fn pa : Nat) (x : DWord)
  /-- reduction at the local-store banks -/
  | redLs (fn off : Nat) (x : DWord)
  /-- deterministic contribution: target, node (k, i), value, tag, contributing job (R278) -/
  | redDet (pa va k i : Nat) (x : Word) (tag : BitVec 4) (job : Nat)
  deriving DecidableEq, Repr

/-- An entry of a store FIFO; the list of all of them is in issue order. -/
structure StoreEnt where
  /-- sequence number -/
  seq : Nat
  /-- thread -/
  uid : Nat
  /-- core -/
  core : Nat
  /-- job -/
  job : Nat
  /-- the issue that made it, by 1 + core cycle (R272) -/
  grp : Nat
  /-- address of its word -/
  pc : VAddr
  /-- what it stores -/
  op : StoreOp
  deriving DecidableEq, Repr

/-- A write-combined byte of a core's L1 (R106). -/
structure WcByte where
  /-- core -/
  core : Nat
  /-- physical address -/
  pa : Nat
  /-- value -/
  val : Byte
  /-- thread that stored it -/
  uid : Nat
  /-- its job -/
  job : Nat
  /-- sequence number of the store -/
  seq : Nat
  /-- the issue that made it: 1 + core cycle, and the address of its word (R272) -/
  grp : Nat × VAddr
  /-- address and size of the store (R96) -/
  unit : Nat × Nat
  deriving DecidableEq, Repr

/-- A clean line of a core's L1 (R106). -/
structure CleanLine where
  /-- core -/
  core : Nat
  /-- physical line address -/
  pa : Nat
  /-- its 128 bytes -/
  bytes : List Byte
  deriving DecidableEq, Repr

/-- A waiter entry (R69), with the model's name of the waiting thread. -/
structure Waiter where
  /-- THRESH -/
  thresh : DWord
  /-- DEADLINE -/
  deadline : Option Nat
  /-- handle of the cell (INDEX, LEVEL and the home) -/
  handle : DWord
  /-- KIND 0 to 6 -/
  kind : Nat
  /-- COND -/
  cond : Nat
  /-- JOB -/
  job : Nat
  /-- waiter's module (R69, R77) -/
  module : Nat
  /-- waiter's core (128 × die + core), or the die of a port -/
  unit : Nat
  /-- LANE, for kinds 0, 1 and 5 -/
  lane : Nat
  /-- SLOT, for kinds 0 and 1 -/
  slot : Nat
  /-- TAG -/
  tag : Nat
  /-- waiting thread, for kinds 0 and 1; the binding, for kind 5 -/
  uid : Nat
  /-- effective scope of its acquire -/
  scope : Nat
  /-- held in the home's spill segment (R70) -/
  spilled : Bool
  deriving DecidableEq, Repr

/-- An operation on a counter, on its way to the home (R176 TYPE 5). -/
inductive CtrOp where
  /-- add an amount -/
  | add (amount : Nat)
  /-- add and return to a result -/
  | addRet (amount rid : Nat)
  /-- read to a result -/
  | read (rid : Nat)
  /-- register a wait -/
  | wait (w : Waiter)
  /-- withdraw the waits of a thread or a binding -/
  | withdraw (kind uid : Nat)
  /-- `cinit` -/
  | set (v : DWord)
  deriving DecidableEq, Repr

/-- What a packet carries (R176). -/
inductive Body where
  /-- write: address and bytes -/
  | write (bytes : List (Nat × Byte)) (chunk : Option Nat)
  /-- read request: address, size, result, whether L1 keeps the line, validity class and tag of a glean fill -/
  | read (pa n rid : Nat) (keep : Bool) (glean : Option (Nat × DWord))
  /-- read response: bytes, the line that L1 keeps, the line of a glean fill with its class and tag -/
  | readResp (rid : Nat) (bytes : List Byte) (line : Option (Nat × List Byte)) (glean : Option (Nat × DWord × Nat × List Byte)) (poisoned : Bool)
  /-- reduction -/
  | red (fn pa : Nat) (x : DWord)
  /-- deterministic contribution -/
  | redDet (pa va k i : Nat) (x : Word) (tag : BitVec 4) (job : Nat)
  /-- counter operation -/
  | ctr (handle : DWord) (op : CtrOp)
  /-- counter response -/
  | ctrResp (rid : Nat) (v : DWord) (poisoned : Bool)
  /-- wake of a waiter -/
  | wake (w : Waiter)
  /-- acknowledgement of a write or reduction -/
  | ack
  /-- management: translation invalidation of a job's pages (all, first page, log2 of their number) -/
  | tlbi (job : Nat) (all : Bool) (va log2 : Nat)
  /-- management: capability change: KIND and NUM of the unit, and its die -/
  | capChange (kind num die : Nat)
  deriving DecidableEq, Repr

/-- A packet under way within the module, or to a home beyond it. -/
structure Packet where
  /-- number; packets of one channel are delivered in this order -/
  id : Nat
  /-- sending unit: a core; 2000000 + die for a unit of a die; 3000000 + port for a host; 4000000 + 16 × module + die for a home -/
  src : Nat
  /-- least sequence number of the stores it carries; its own number for other packets -/
  seq : Nat
  /-- receiving unit: 512 × die + home number (R70), 10000 + core for a core -/
  dst : Nat
  /-- the channel keeps its order (R118) -/
  ordered : Bool
  /-- issuing thread -/
  uid : Option Nat
  /-- job -/
  job : Nat
  /-- release that it waits for: scope (R116); all earlier accesses of the thread -/
  release : Option Nat
  /-- the issue that sent it, by 1 + core cycle, 0 for none (R272); 2^64 for a wait that its home has refused, 2^64 + 1 for one that
  may be tried again (R386) -/
  grp : Nat
  /-- address of the instruction that sent it, for a release that faults (R399) -/
  pc : VAddr
  /-- core cycle in which it was made (R398) -/
  sent : Nat
  /-- the issues whose stores a write carries, as (1 + core cycle, address of the word) (R272) -/
  issues : List (Nat × VAddr)
  /-- addresses and sizes of those stores (R96) -/
  units : List (Nat × Nat)
  /-- bytes of a write that are poisoned (R358) -/
  bad : List Nat
  /-- TAG that it carries on a link: that of the packet it answers; none for its own number (R174, R177) -/
  tag : Option Nat
  /-- the engine operation whose bytes it writes or reads, or for which it adds (R119, R169) -/
  eng : Option Nat
  /-- address in the job of an engine's first byte; for its addition the core within the die, or 127 -/
  va : Nat
  /-- contents -/
  body : Body
  deriving DecidableEq, Repr

/-- Bytes that an engine has asked another die, another module or a host for (R169, R176). -/
structure EngLine where
  /-- number that their response names -/
  rid : Nat
  /-- the engine operation -/
  op : Nat
  /-- place -/
  pa : Nat
  /-- number of bytes -/
  n : Nat
  /-- the bytes, once they have come -/
  bytes : Option (List Byte)
  /-- the class-4 code with which the read failed, or 8 for poison (R389, R399, R413) -/
  fail : Option Nat
  deriving DecidableEq, Repr

/-- What an engine operation has failed at beside its reads. -/
structure EngFail where
  /-- the engine operation -/
  op : Nat
  /-- a page of a port that the host has refused, with its PASID and whether for a write; none for bytes that did not reach their
  home -/
  page : Option (Nat × Nat × Nat × Bool)
  /-- address in the job of the bytes -/
  va : Nat
  /-- class-4 code -/
  code : Nat
  deriving DecidableEq, Repr

/-- A precise fault found after its issue, whose record waits until all lanes of the issue are known (R367). -/
structure LateTrap where
  /-- core -/
  core : Nat
  /-- flock -/
  flock : Nat
  /-- job -/
  job : Nat
  /-- 1 + core cycle of the issue; 0 for a fence -/
  at_ : Nat
  /-- address of the word -/
  pc : VAddr
  /-- thread, lane, slot, and CLASS, CODE, AUX and ADDR of its failure -/
  fails : List (Nat × Nat × Nat × List Nat)
  deriving DecidableEq, Repr

/-! ## Engines -/

/-- An accepted copy (R288 to R291). -/
structure CopyOp where
  /-- number -/
  id : Nat
  /-- core -/
  core : Nat
  /-- issuing thread -/
  uid : Nat
  /-- job -/
  job : Nat
  /-- address of the word, for the fault record -/
  pc : VAddr
  /-- `copyx` -/
  expand : Bool
  /-- local-store address of the request -/
  req : Nat
  /-- SADDR, DADDR -/
  saddr : Nat
  /-- DADDR -/
  daddr : Nat
  /-- source in local store -/
  sls : Bool
  /-- destination in local store -/
  dls : Bool
  /-- SSTRIDE -/
  sstride : Nat
  /-- DSTRIDE -/
  dstride : Nat
  /-- ROWLEN -/
  rowlen : Nat
  /-- ESZ -/
  esz : Nat
  /-- L -/
  len : Nat
  /-- completion counter -/
  handle : DWord
  /-- rows whose bytes have set out (R289) -/
  done : List Nat
  /-- sources and destinations of those rows, as places and numbers of bytes -/
  src : List (Nat × Nat)
  /-- destinations -/
  dst : List (Nat × Nat)
  /-- bytes for local store that have not landed there: key and value -/
  pend : List (Nat × Byte)
  /-- the read or write at which it stopped: address and code (R389) -/
  stop : Option (Nat × Nat)
  deriving DecidableEq, Repr

/-- An accepted `mma` (R300, R301). -/
structure MmaOp where
  /-- number; also the number of its result -/
  id : Nat
  /-- core -/
  core : Nat
  /-- flock -/
  flock : Nat
  /-- tile -/
  tile : Nat
  /-- FMT -/
  fmt : Nat
  /-- active lanes with thread and A row address -/
  rows : List (Nat × Nat × Nat)
  /-- descriptor: BADDR, LDB -/
  baddr : Nat
  /-- LDB -/
  ldb : Nat
  /-- ASOFF -/
  asoff : Int
  /-- ASIDE -/
  aside : Int
  /-- BSOFF -/
  bsoff : Int
  /-- BSIDE -/
  bside : Int
  /-- job -/
  job : Nat
  /-- address of the word -/
  pc : VAddr
  deriving DecidableEq, Repr

/-- A chunk addition of `mst.ctr` that waits for its rows (R303). -/
structure ChunkAdd where
  /-- number -/
  id : Nat
  /-- issuing die -/
  core : Nat
  /-- threads whose rows and earlier writes it releases, with the number before which they count -/
  uids : List Nat
  /-- chunk handle -/
  handle : DWord
  /-- job -/
  job : Nat
  /-- address of the word -/
  pc : VAddr
  /-- 1 + core cycle of the issue -/
  at_ : Nat
  deriving DecidableEq, Repr

/-- A traversal stack entry (R146, R153). -/
structure StackEnt where
  /-- address -/
  addr : Nat
  /-- INST flag -/
  inst : Bool
  /-- TNEAR, F32 -/
  tnear : Word
  /-- KIND -/
  kind : Nat
  /-- COUNT -/
  count : Nat
  deriving DecidableEq, Repr

/-- The best hit so far (R146, R153). -/
structure Hit where
  /-- t, F32 -/
  t : Word
  /-- u -/
  u : Word
  /-- v -/
  v : Word
  /-- PRIM -/
  prim : Word
  /-- INST -/
  inst : Word
  /-- 0 triangle, 1 curve, 2 patch -/
  kind : Nat
  /-- FRONT -/
  front : Bool
  /-- leaf -/
  leaf : Nat
  /-- shard number of its key -/
  shard : Nat
  deriving DecidableEq, Repr

/-- A remote crossing (R155). -/
structure Crossing where
  /-- TNEAR -/
  tnear : Word
  /-- SHARD -/
  shard : Nat
  /-- MODULE -/
  module : Nat
  /-- ALT -/
  alt : Nat
  /-- ALTV -/
  altv : Bool
  deriving DecidableEq, Repr

/-- A ray in traversal (R146 to R155). -/
structure RayState where
  /-- world origin, F32 -/
  o : List Word
  /-- world direction -/
  d : List Word
  /-- TMIN -/
  tmin : Word
  /-- TMAX -/
  tmax : Word
  /-- object origin -/
  oo : List Word
  /-- object direction -/
  od : List Word
  /-- the object ray is in use -/
  instOn : Bool
  /-- CURINST -/
  curInst : Word
  /-- best hit -/
  best : Option Hit
  /-- stack, top first -/
  stack : List StackEnt
  /-- crossings held -/
  rem : List Crossing
  /-- REMOVF -/
  remOvf : Bool
  /-- shard number for keys -/
  shard : Nat
  /-- shard map -/
  smap : Nat
  /-- SPILL -/
  spill : Nat
  /-- SPILLCAP -/
  cap : Nat
  /-- SPILLN -/
  spilln : Nat
  /-- traced by a traversal unit, which holds 16 entries (R154) -/
  unit : Bool
  /-- CULLB -/
  cullb : Bool
  /-- ANYHIT -/
  anyhit : Bool
  /-- SKIPM -/
  skipm : Bool
  deriving DecidableEq, Repr

/-- A ray accepted by a traversal unit (R306). -/
structure RayOp where
  /-- number -/
  id : Nat
  /-- core -/
  core : Nat
  /-- issuing thread -/
  uid : Nat
  /-- job -/
  job : Nat
  /-- address of the word -/
  pc : VAddr
  /-- address of the ray block -/
  block : Nat
  /-- the thread's SG.G when it issued -/
  segG : Seg
  /-- completion counter -/
  handle : DWord
  /-- amount -/
  amount : Nat
  /-- the traversal so far, once it has started -/
  st : Option RayState
  /-- its end: RES, and the reason and address of a malformed record; its records are then being written (R155, R409) -/
  fin : Option (Nat × Option (Nat × Nat))
  /-- the bytes of its records have set out -/
  written : Bool
  deriving DecidableEq, Repr

/-- A candidate hit of a masked triangle that waits for its routine's answer (R162). -/
structure Cand where
  /-- number -/
  id : Nat
  /-- pixel x -/
  x : Nat
  /-- pixel y -/
  y : Nat
  /-- sample k -/
  k : Nat
  /-- address of the sample -/
  addr : Nat
  /-- hit it would write -/
  hit : Hit
  /-- the answer: accepted or rejected -/
  answer : Option Bool
  /-- the thread has been spawned -/
  placed : Bool
  deriving DecidableEq, Repr

/-- What a Harrow's walk has yet to do in a tile (R160 to R164). -/
inductive BeamWork where
  /-- visit the node at an address -/
  | node (addr : Nat)
  /-- visit child c of the node whose 128 bytes these are, at an address -/
  | child (bytes : List Byte) (c addr : Nat)
  /-- test entry i of a triangle leaf with n entries -/
  | tri (leaf i n : Nat)
  /-- run the samples from number j on through child c of a node alone -/
  | split (bytes : List Byte) (c addr j : Nat)
  /-- a sample's ray (pixel x, y, sample k) goes on at entry i of a triangle leaf with n entries, or at its stack when i = n -/
  | ray (x y k : Nat) (r : RayState) (inst : Bool) (leaf i n : Nat)
  deriving DecidableEq, Repr

/-- A beam accepted by a Harrow (R307). -/
structure BeamOp where
  /-- number -/
  id : Nat
  /-- Harrow: 8 × die + cluster -/
  harrow : Nat
  /-- issuing core -/
  core : Nat
  /-- issuing thread -/
  uid : Nat
  /-- job -/
  job : Nat
  /-- address of the word -/
  pc : VAddr
  /-- segments of the issuing thread -/
  segG : Seg
  /-- SG.L -/
  segL : Seg
  /-- SG.C -/
  segC : Seg
  /-- PRIO of the issuing thread's flock -/
  prio : Nat
  /-- launch of the issuing thread -/
  launch : Option Nat
  /-- address of the view record -/
  view : Nat
  /-- TX0 -/
  tx0 : Nat
  /-- TY0 -/
  ty0 : Nat
  /-- TX1 -/
  tx1 : Nat
  /-- TY1 -/
  ty1 : Nat
  /-- completion counter -/
  handle : DWord
  /-- amount -/
  amount : Nat
  /-- the view record's 128 bytes, once the walk has started -/
  viewBytes : Option (List Byte)
  /-- the tile being walked -/
  cur : Nat × Nat
  /-- the tile to look at next -/
  next : Nat × Nat
  /-- HZ of the tile (R160), F32 -/
  hz : Word
  /-- what is still to do -/
  work : List BeamWork
  /-- candidates whose answers are awaited -/
  cands : List Cand
  deriving DecidableEq, Repr

/-- A bound tensor slot (R80, R292). -/
structure Tensor where
  /-- core -/
  core : Nat
  /-- slot 0 to 7 -/
  slot : Nat
  /-- job that bound it -/
  job : Nat
  /-- number of the binding -/
  bind : Nat
  /-- local-store address of the record -/
  recAt : Nat
  /-- BASE -/
  base : Nat
  /-- ESIZE -/
  esize : Nat
  /-- XCTX -/
  xctx : Nat
  /-- ROUTINE -/
  routine : Nat
  /-- REGS -/
  regs : Nat
  /-- FALLOW -/
  fallow : Nat
  /-- ETAG -/
  etag : BitVec 4
  /-- COUNT -/
  count : Nat
  /-- PRIO -/
  prio : Nat
  /-- CTRBASE -/
  ctrbase : DWord
  /-- SWEEPS -/
  sweeps : Word
  /-- CURSOR -/
  cursor : Nat
  /-- ACTIVE -/
  active : Bool
  /-- TSTART -/
  tstart : DWord
  /-- the thread whose `tdecl` has bound it and still registers the waits of its elements (R292, R297) -/
  binder : Option Nat
  /-- these waits have been sent to their homes -/
  asked : Bool
  deriving DecidableEq, Repr

/-- A word written by `eyield`, or the way a visit ended without one (R294, R391). -/
structure Visit where
  /-- lane -/
  lane : Nat
  /-- thread -/
  uid : Nat
  /-- element -/
  elem : Nat
  /-- how it ended: none while it runs; the yield word; or a visit ended without `eyield` -/
  yielded : Option (Option Word)
  /-- its v4 to v17 as they stood at `eyield` (R89) -/
  regs : List (Nat × Reg)
  deriving DecidableEq, Repr

/-- A queued or running sweep (R87, R293). -/
structure SweepOp where
  /-- number -/
  id : Nat
  /-- core -/
  core : Nat
  /-- tensor slot -/
  slot : Nat
  /-- issuing thread -/
  uid : Nat
  /-- job -/
  job : Nat
  /-- segments of the issuing thread -/
  segG : Seg
  /-- SG.L -/
  segL : Seg
  /-- SG.C -/
  segC : Seg
  /-- launch of the issuing thread -/
  launch : Option Nat
  /-- address of the word -/
  pc : VAddr
  /-- completion counter -/
  handle : DWord
  /-- amount -/
  amount : Nat
  /-- it has started -/
  started : Bool
  /-- number s of the sweep -/
  num : Nat
  /-- index of the sweep flock -/
  flock : Nat
  /-- visits of the open group, none between groups -/
  open_ : Option (List Visit)
  deriving DecidableEq, Repr

/-- A launch queue at work (R53, R417). -/
structure LaunchQ where
  /-- die -/
  die : Nat
  /-- queue 0 to 7 -/
  q : Nat
  /-- T0, once it has been read -/
  t0 : Option DWord
  /-- H0, once it has been read -/
  h0 : Option DWord
  /-- record number k -/
  k : Nat
  /-- the record read and not yet placed, its 64 bytes, and its dependency conditions -/
  record : Option (List Byte × List Cond)
  /-- the number that the waits for the record's conditions carry, once they are registered (R69, kind 2) -/
  wid : Option Nat
  /-- conditions that have woken, bit c for condition c -/
  mask : Nat
  /-- the record is placed or rejected, and its addition to the head counter is due -/
  placed : Bool
  /-- held at a step that failed (R417) -/
  held : Bool
  /-- the cause of the hold: 0 tail handle, 1 head handle, 2 dependency handle, 3 record read, 4 dependency block read (R417) -/
  cause : Nat
  deriving DecidableEq, Repr

/-! ## Network port and engines of the port -/

/-- A collective chunk (R189, R192). -/
structure Chunk where
  /-- the receiver's number of the connection -/
  conn : Nat
  /-- job -/
  job : Nat
  /-- graph slot -/
  slot : Nat
  /-- node -/
  node : Nat
  /-- DB: base-table entry of the destination -/
  db : Nat
  /-- offset from it -/
  off : Nat
  /-- bytes of data before coding -/
  len : Nat
  /-- FMT -/
  fmt : Nat
  /-- MODE -/
  mode : Nat
  /-- FRONT -/
  front : Bool
  /-- combine at the peer (OP 1) -/
  combine : Bool
  /-- coded under R192 -/
  coded : Bool
  /-- handed to the switch to combine (R198) -/
  insw : Bool
  /-- (k, i) of a deterministic tree -/
  tree : Option (Nat × Nat)
  /-- the data, or the coded stream -/
  data : List Byte
  /-- last chunk of its node -/
  last : Bool
  /-- counter to signal at the destination end -/
  sig : Option DWord
  deriving DecidableEq, Repr

/-- What a message on the fabric carries (R169, R180, R187, R189, R200). -/
inductive NetBody where
  /-- `put`: connection, job, region, offset, data -/
  | put (conn job region off : Nat) (data : List Byte)
  /-- `get`: connection, job, region, offset, length -/
  | getReq (conn job region off len : Nat)
  /-- the bytes of a `get` -/
  | getData (data : List Byte)
  /-- `send`: connection, job, slot number m, data -/
  | send (conn job m : Nat) (data : List Byte)
  /-- remote work record: sending channel, sequence number, bytes; none for a void header -/
  | rw (ch seq : Nat) (job : Nat) (bytes : List Byte) (void : Bool)
  /-- the whole operation is acknowledged -/
  | done
  /-- NACK with its reason -/
  | nack (reason : Nat)
  /-- collective chunk -/
  | chunk (c : Chunk)
  /-- acknowledgement of a chunk of a node, or its refusal (R404) -/
  | chunkAck (node : Nat) (ok : Bool)
  /-- halt token: OPC, STAMP, HSEQ, origin (module, die, core, lane, slot), CAUSE, PC (R200) -/
  | token (opc job : Nat) (stamp : DWord) (hseq : Nat) (origin : List Nat) (cause : Nat) (pc : VAddr)
  deriving DecidableEq, Repr

/-- A message of the network ports, or a halt token on a link. -/
structure NetMsg where
  /-- number; messages of one connection are delivered in this order -/
  id : Nat
  /-- sending module -/
  smod : Nat
  /-- sending die -/
  sdie : Nat
  /-- receiving module -/
  dmod : Nat
  /-- receiving die -/
  ddie : Nat
  /-- the port operation, node or channel it belongs to -/
  op : Nat
  /-- times it has been sent (R397) -/
  sends : Nat
  /-- core cycle in which it was made (R398) -/
  sent : Nat
  /-- its receiver has taken it from its link, or has accepted it after its checks (R174, R181) -/
  got : Bool
  /-- its bytes have set out for their homes -/
  written : Bool
  /-- TAG that it carries on a link: that of the message it answers; none for its own number (R174) -/
  tag : Option Nat
  /-- contents -/
  body : NetBody
  deriving DecidableEq, Repr

/-- Kinds of port operations (R313). -/
inductive PortKind where
  /-- `put` -/
  | put
  /-- `get` -/
  | get
  /-- `send` -/
  | send
  /-- `rwsend` -/
  | rwsend (alt : Bool)
  /-- `cgraph` -/
  | cgraph
  /-- `coll` -/
  | coll
  /-- `comp` -/
  | comp
  deriving DecidableEq, Repr

/-- An accepted operation of a network port (R313 to R320). -/
structure PortOp where
  /-- number; a lower number was accepted earlier -/
  id : Nat
  /-- die of the port -/
  die : Nat
  /-- kind -/
  kind : PortKind
  /-- issuing core -/
  core : Nat
  /-- job -/
  job : Nat
  /-- address of the word -/
  pc : VAddr
  /-- the request read at issue, as its 64-bit words -/
  req : List DWord
  /-- 16 base addresses of a replay -/
  base : List DWord
  /-- completion counter -/
  handle : DWord
  /-- amount -/
  amount : Nat
  /-- armed-request index, when an armed request started it -/
  armed : Option Nat
  /-- it has been sent, or its replay runs -/
  started : Bool
  /-- thread that issued it, or that armed its request -/
  uid : Nat
  /-- channel that the record took (R186) -/
  chan : Nat
  /-- the record could not be read and went as a void header (R389) -/
  void : Bool
  /-- the bytes that it writes have set out -/
  written : Bool
  deriving DecidableEq, Repr

/-- A node of a running replay (R189). -/
inductive NodeState where
  /-- its waits have not begun -/
  | waiting
  /-- its dependence waits at the counter's home (R69, kind 4) -/
  | asked
  /-- its dependence holds -/
  | ready
  /-- it has started, and the host's translation of its data is awaited -/
  | begun
  /-- its transfer or combine runs -/
  | running
  /-- complete -/
  | done
  /-- failed (R404) -/
  | failed
  deriving DecidableEq, Repr

/-- A node of the tree of a deterministic combine at a destination (R122, R194): one that waits for its sibling, or the one for which the
destination's own bytes stand. -/
structure TreeNode where
  /-- die -/
  die : Nat
  /-- address of the destination's bytes, in the job -/
  addr : Nat
  /-- job -/
  job : Nat
  /-- level k -/
  k : Nat
  /-- index i -/
  i : Nat
  /-- its bytes; none for those at the destination -/
  bytes : Option (List Byte)
  deriving DecidableEq, Repr

/-- A running replay (R188, R189). -/
structure Replay where
  /-- die -/
  die : Nat
  /-- graph slot -/
  slot : Nat
  /-- the port operation -/
  op : Nat
  /-- replay number r -/
  r : Nat
  /-- T0 -/
  t0 : DWord
  /-- runs untimed (R407) -/
  untimed : Bool
  /-- state of each node -/
  nodes : List NodeState
  deriving DecidableEq, Repr

/-- A bound graph slot (R188, R320). -/
structure GraphSlot where
  /-- die -/
  die : Nat
  /-- slot 0 to 7 -/
  slot : Nat
  /-- N -/
  n : Nat
  /-- GCB -/
  gcb : DWord
  /-- SLOTW -/
  slotw : Nat
  /-- job -/
  job : Nat
  /-- next replay number -/
  r : Nat
  /-- bound (R404) -/
  bound : Bool
  deriving DecidableEq, Repr

/-- A held node (k, i) of a DET reduction or of a switch is in memory; an arrival of a record that waits its turn (R187). -/
structure Arrival where
  /-- number -/
  id : Nat
  /-- receiving die -/
  die : Nat
  /-- sender: module, die, channel -/
  sender : Nat × Nat × Nat
  /-- SEQ -/
  seq : Nat
  /-- arrival counter -/
  handle : DWord
  /-- job -/
  job : Nat
  deriving DecidableEq, Repr

/-- SEQ that the next arrival addition of a channel must have (R187). -/
structure ArrivalNext where
  /-- receiving die -/
  die : Nat
  /-- sender -/
  sender : Nat × Nat × Nat
  /-- next SEQ -/
  seq : Nat
  deriving DecidableEq, Repr

/-- A `revoke` under way (R181). -/
structure Revoke where
  /-- die -/
  die : Nat
  /-- region -/
  region : Nat
  /-- completion counter -/
  handle : DWord
  /-- amount -/
  amount : Nat
  /-- job -/
  job : Nat
  /-- address of the word -/
  pc : VAddr
  /-- issuing core -/
  core : Nat
  /-- issuing thread -/
  uid : Nat
  /-- number of the `revoke`, before which the thread's accesses count that its addition releases (R116) -/
  seq : Nat
  deriving DecidableEq, Repr

/-- What the port keeps of an armed request beside its entry (R182, R183). -/
structure Armed where
  /-- die -/
  die : Nat
  /-- entry -/
  idx : Nat
  /-- thread that posted it -/
  uid : Nat
  /-- its core -/
  core : Nat
  /-- job -/
  job : Nat
  /-- address of the word -/
  pc : VAddr
  /-- number of the `post` -/
  seq : Nat
  deriving DecidableEq, Repr

/-! ## Halting, translation, hosts, links -/

/-- What a halt slot keeps beside its registers (R201 to R207). -/
structure HaltWork where
  /-- die -/
  die : Nat
  /-- slot -/
  slot : Nat
  /-- field time at which PHASE became 1 -/
  since : Nat
  /-- resume time T, once a go has arrived -/
  goT : Option DWord
  /-- the thaw-arm token held until PHASE 2 -/
  armHeld : Option NetBody
  /-- least key of the tokens forwarded for this HSEQ; with HSEQ before it on a die where the job has no slot, whose entry has the
  number 16 + job -/
  least : Option (List Nat)
  /-- threads that the running step has still to issue -/
  stepping : List Nat
  /-- threads whose results the step waits for -/
  stepped : List Nat
  /-- number at which the step began: what has a higher one is its own traffic (R204) -/
  stepAt : Nat
  /-- thread that waits for the step's result, with its register -/
  asker : Option (Nat × Nat)
  /-- step commands that wait behind the running one (R330): SKIND, SCORE, SLANE, SSLOT, and the thread that waits for the result -/
  queue : List (List Nat × Option (Nat × Nat))
  /-- once T has come: the number before which held traffic is handed over before issue resumes, and the resume time (R205, R207) -/
  going : Option (Nat × Nat)
  deriving DecidableEq, Repr

/-- A cached translation (R100). -/
structure TlbEnt where
  /-- die whose job table gave it -/
  die : Nat
  /-- job -/
  job : Nat
  /-- number of its first 4 KiB page -/
  page : Nat
  /-- leaf entry and its level -/
  leaf : DWord
  /-- level of the leaf -/
  level : Nat
  deriving DecidableEq, Repr

/-- A translation invalidation in progress (R100, R101). -/
structure Tlbi where
  /-- die that started it -/
  die : Nat
  /-- job -/
  job : Nat
  /-- every translation of the job -/
  all : Bool
  /-- first page -/
  va : Nat
  /-- log2 of the number of pages -/
  log2 : Nat
  /-- DONE handle -/
  handle : DWord
  /-- packets in flight when it began, which must be performed first -/
  before : Nat
  deriving DecidableEq, Repr

/-- An entry of a port's address translation cache (R102). -/
structure AtcEnt where
  /-- port: 0 A, 1 B -/
  port : Nat
  /-- PASID -/
  pasid : Nat
  /-- virtual page -/
  page : Nat
  /-- host page -/
  bus : Nat
  /-- writes allowed -/
  w : Bool
  deriving DecidableEq, Repr

/-- A translation or page request outstanding (R381). -/
structure PageReq where
  /-- number -/
  id : Nat
  /-- port -/
  port : Nat
  /-- PASID -/
  pasid : Nat
  /-- virtual page -/
  page : Nat
  /-- for a write -/
  write : Bool
  /-- a page request has been sent and its response is awaited -/
  asked : Bool
  /-- a page request is to be sent, and waits for one of the port's 512 to free -/
  queued : Bool
  /-- a page request has succeeded before: a second miss fails -/
  retried : Bool
  /-- field time at which the response is overdue -/
  deadline : Nat
  /-- engine operations that wait for it -/
  engs : List Nat
  /-- a thread or an engine asked, not prefetches alone (R275) -/
  real : Bool
  /-- prefetches that wait for it: core, job and offset in the page (R275) -/
  pref : List (Nat × Nat × Nat)
  /-- host-window cells whose shadow write waits for it (R76) -/
  cells : List Nat
  /-- threads whose access needs it, and which wait behind a lower lane of their issue (R272) -/
  behind : List Nat
  deriving DecidableEq, Repr

/-- An ATS invalidation whose completion is to be sent (R102). -/
structure AtsInv where
  /-- number -/
  id : Nat
  /-- port -/
  port : Nat
  /-- accesses before this number may have used an old entry; 0 where none was held -/
  before : Nat
  deriving DecidableEq, Repr

/-- A window of a counter aperture (R74). -/
structure Window where
  /-- port -/
  port : Nat
  /-- window -/
  w : Nat
  /-- HANDLE -/
  handle : DWord
  /-- LAST -/
  last : DWord
  /-- FIRED -/
  fired : Bool
  deriving DecidableEq, Repr

/-- A line of the glean partition (R111). -/
structure GleanLine where
  /-- die -/
  die : Nat
  /-- line address -/
  pa : Nat
  /-- validity class -/
  cls : Nat
  /-- tag: the counter's value when the fetch began -/
  tag : DWord
  /-- its 128 bytes -/
  bytes : List Byte
  deriving DecidableEq, Repr

/-- One end of a die-to-die link (R170 to R174, R394 to R396). -/
structure LinkEnd where
  /-- this die -/
  die : Nat
  /-- peer die -/
  peer : Nat
  /-- number of the next flit sent -/
  tx : Nat
  /-- number of the next flit expected -/
  rx : Nat
  /-- retries in a row -/
  retries : Nat
  /-- the last flits sent, newest first, at most 1,024 -/
  kept : List (BitVec 512)
  /-- flits to send again, oldest first -/
  resend : List (BitVec 512)
  /-- flits of the packet being received -/
  partFlits : List (BitVec 512)
  /-- bytes 0 to 61 of the flits that are still to be sent (R173) -/
  queue : List (List Byte)
  /-- packets and messages sent from this end, in order: number, and the number of the flit after their last (R174) -/
  out : List (Nat × Nat)
  /-- swing groups that turn, with the field time at which they drive again -/
  turning : List (Nat × Nat)
  deriving DecidableEq, Repr

/-- What the module sends to a host or keeps of a host access (outputs of the model). -/
inductive HostOut where
  /-- MSI-X message -/
  | msix (port vec : Nat)
  /-- read completion -/
  | readData (port : Nat) (data : DWord)
  /-- Unsupported Request -/
  | unsupported (port : Nat)
  /-- ATS Translation Request -/
  | atsRequest (port pasid page : Nat) (write : Bool)
  /-- PRI Page Request -/
  | pageRequest (port pasid page : Nat) (write : Bool)
  /-- ATS Invalidation Completion -/
  | invalCompletion (port n : Nat)
  /-- shadow write of a host-window cell -/
  | shadow (port : Nat) (addr : Nat) (v : DWord)
  /-- answer to an SPDM request, by its index in R339 -/
  | spdm (port req : Nat) (data : List Byte)
  deriving DecidableEq, Repr

/-- Power state (R340). -/
inductive Power where
  /-- OFF -/
  | off
  /-- LOCKED -/
  | locked
  /-- RUN -/
  | run
  deriving DecidableEq, Repr

/-- What a fault record says (R353). -/
structure FaultRec where
  /-- CLASS -/
  cls : Nat
  /-- CODE -/
  code : Nat
  /-- JOB -/
  job : Nat
  /-- DIE -/
  die : Nat
  /-- CORE -/
  core : Nat
  /-- LANE -/
  lane : Nat
  /-- SLOT -/
  slot : Nat
  /-- PRECISE -/
  precise : Bool
  /-- WITHHELD -/
  withheld : Bool
  /-- PC -/
  pc : Nat
  /-- ADDR -/
  addr : Nat
  /-- CTR -/
  ctr : Nat
  /-- AMOUNT -/
  amount : Nat
  /-- AUX -/
  aux : Nat
  /-- INFO -/
  info : Nat
  deriving DecidableEq, Repr

/-- What happens next, as plain data: the order of steps that the manual does not promise, and what arrives from outside.
Nothing constrains it, so a statement about every state holds for every order and every input. -/
inductive Agenda where
  /-- a step of another agent -/
  | event (i : Instr)
  /-- the issue stage of a core issues its next group -/
  | issue (core : Nat)
  /-- core cycles pass -/
  | idle (cycles : Nat)
  /-- a message arrives from another module -/
  | inject (m : NetMsg)
  /-- a packet of another module reaches a home: a write, a read, a reduction or a counter operation (R169, R176, R177) -/
  | peer (p : Packet)
  /-- a host reads a register through BAR 0 (bar 0) or BAR 2 (bar 2) -/
  | hostRead (port bar addr : Nat)
  /-- a host writes the MSI-X table in BAR 2 (R331) -/
  | hostMsix (port addr : Nat) (v : Word)
  /-- a copy reads and sends out these rows before the others, and then of its bytes for local store those at these positions land before
  the others (R119, R289) -/
  | copyPart (op : Nat) (rows bytes : List Nat)
  /-- a read and a write of another size or address, both at their home, meet: the read takes these bytes from the write and the others
  from before it (R96) -/
  | mixRead (rd wr : Nat) (new : List Nat)
  /-- two writes of different sizes or addresses meet at their home: these bytes end with the first one's value (R96) -/
  | mixWrite (a b : Nat) (first : List Nat)
  /-- another module or a host changes memory outside this module -/
  | outside (addr : Nat) (b : Byte)
  deriving DecidableEq, Repr

/-- The module. -/
structure State where
  /-- power state -/
  power : Power
  /-- core cycles since reset -/
  cycle : Nat
  /-- field time of a die less cycle ÷ 4, for the dies where it is not 0 (R178) -/
  ftime : List (Nat × Nat)
  /-- ticks by which a die's field time is still to fall back, running at half rate (R406) -/
  slew : List (Nat × Nat)
  /-- core cycle at which a die's port has taken its last Sync (R406) -/
  syncAt : List (Nat × Nat)
  /-- memory: this module's HBM at its module physical address, the memory of other modules and of the hosts above it -/
  mem : List Host.Cell
  /-- local store of each core, by core × 2^32 + offset -/
  locl : List Host.Cell
  /-- counter cells that differ from 0, by the number of their handle -/
  cells : List (Nat × DWord)
  /-- management registers that differ from their reset value, by die × 2^27 + offset; module registers under die 0 -/
  mregs : List (Nat × DWord)
  /-- cores' L1WAYS less 4 modulo 16 (R104), where it is not 0 -/
  carve : List (Nat × Nat)
  /-- L2 slices and network lanes taken out of use, as (KIND of R359, die, number) -/
  unitsOff : List (Nat × Nat × Nat)
  /-- cores whose CORE_STRICT.EN is set (R324) -/
  strict : List Nat
  /-- threads, in order of creation -/
  threads : List Thread
  /-- flocks -/
  flocks : List Flock
  /-- key tables: (core, job, key, flock), most recently used first (R34) -/
  keys : List (Nat × Nat × Word × Nat)
  /-- open bins, in opening order -/
  bins : List Bin
  /-- spawns that wait for a slot -/
  placing : List Placing
  /-- waiting sets: (core, flock), in order of entry (R54) -/
  waitset : List (Nat × Nat)
  /-- groups that have issued in this core cycle, as (core, class): 1 scalar, 2 memory and engine, 0 other (R41) -/
  issuedNow : List (Nat × Nat)
  /-- lanes that have issued in this core cycle, as (core, lane) (R41) -/
  lanesNow : List (Nat × Nat)
  /-- threads of groups passed over in this core cycle (R41) -/
  passed : List Nat
  /-- the last rotation point that a core has taken: its field time ÷ 100,000, where not 0 (R55) -/
  rotated : List (Nat × Nat)
  /-- local-store regions of launches -/
  launches : List Launch
  /-- results in flight, in order of issue -/
  results : List Result
  /-- store FIFOs, in order of issue -/
  fifo : List StoreEnt
  /-- write-combined bytes -/
  wc : List WcByte
  /-- clean lines -/
  clean : List CleanLine
  /-- packets under way -/
  packets : List Packet
  /-- packets that have left for other modules in answer to theirs: responses, acknowledgements and wakes; newest first -/
  peerOut : List Packet
  /-- bytes that engines have asked for -/
  engLines : List EngLine
  /-- what engine operations have failed at -/
  engFails : List EngFail
  /-- waiters at their homes, in order of registration -/
  waiters : List Waiter
  /-- copies accepted -/
  copies : List CopyOp
  /-- matrix operations accepted -/
  mmas : List MmaOp
  /-- chunk additions that wait -/
  chunks : List ChunkAdd
  /-- rays accepted -/
  rays : List RayOp
  /-- beams accepted -/
  beams : List BeamOp
  /-- bound tensor slots -/
  tensors : List Tensor
  /-- queued and running sweeps -/
  sweeps : List SweepOp
  /-- launch queues at work -/
  lqs : List LaunchQ
  /-- messages of the network ports -/
  fabric : List NetMsg
  /-- operations accepted by the ports -/
  portOps : List PortOp
  /-- sends counted per connection: (4096 × die + connection, count) (R180) -/
  sendCount : List (Nat × Nat)
  /-- graph slots -/
  graphs : List GraphSlot
  /-- running replays -/
  replays : List Replay
  /-- nodes of deterministic combines at destinations (R194) -/
  trees : List TreeNode
  /-- arrivals that wait their turn -/
  arrivals : List Arrival
  /-- next sequence number per sending channel -/
  arrivalNext : List ArrivalNext
  /-- revokes under way -/
  revokes : List Revoke
  /-- armed requests -/
  armed : List Armed
  /-- base table that a die's collective engine used last -/
  ceBase : List (Nat × List DWord)
  /-- halt slots at work -/
  halts : List HaltWork
  /-- cached translations -/
  tlb : List TlbEnt
  /-- invalidations in progress -/
  tlbis : List Tlbi
  /-- address translation caches -/
  atc : List AtcEnt
  /-- translation and page requests outstanding -/
  pageReqs : List PageReq
  /-- ATS invalidations to complete -/
  atsInvs : List AtsInv
  /-- aperture windows that differ from all 0 -/
  windows : List Window
  /-- glean partitions -/
  glean : List GleanLine
  /-- link ends that differ from their state after training -/
  links : List LinkEnd
  /-- endpoints marked lost: (die, module, peer die) (R398) -/
  lost : List (Nat × Nat × Nat)
  /-- jobs being ended: (die, job) (R356) -/
  kills : List (Nat × Nat)
  /-- MSI-X vectors that the host has unmasked: 512 × port + vector (R357) -/
  msixOpen : List Nat
  /-- message addresses and data of the MSI-X tables (R331): 32-bit words by 2,048 × port + 4 × vector + word, where not 0 -/
  msixTab : List (Nat × Word)
  /-- MSI-X vectors pending -/
  msixPend : List Nat
  /-- host ports whose link is down (R413) -/
  portDown : List Nat
  /-- host-window cells whose shadow writes have stopped (R413) -/
  shadowOff : List Nat
  /-- faults detected in this core cycle, whose records are written at its end (R354) -/
  detected : List FaultRec
  /-- precise faults whose records wait for the other lanes of their issue (R367) -/
  late : List LateTrap
  /-- fault records written per die (R353), where not 0 -/
  faultSeq : List (Nat × Nat)
  /-- bits in error of stored data: place and number of wrong bits (R358) -/
  flips : List (Place × Nat)
  /-- poisoned places (R358) -/
  poison : List Place
  /-- the image that is being checked: port (R338) -/
  imgPort : Option Nat
  /-- digest of the accepted image (R339) -/
  imgDigest : Option (BitVec 384)
  /-- outputs to the hosts, newest first -/
  hostOut : List HostOut
  /-- the model's own: the core that issues next -/
  focus : Nat
  /-- the model's own: next number for threads, results, packets and stores -/
  fresh : Nat
  /-- the model's own: free values used so far -/
  free : Nat
  /-- the model's own: what happens next -/
  agenda : List Agenda
  deriving DecidableEq, Repr

/-- The module right after a cold reset (R341, R8): LOCKED, no thread, memory and cells 0, every register at its reset
value. -/
def State.reset : State where
  power := .locked
  cycle := 0
  ftime := []
  slew := []
  syncAt := []
  mem := []
  locl := []
  cells := []
  mregs := []
  carve := []
  unitsOff := []
  strict := []
  threads := []
  flocks := []
  keys := []
  bins := []
  placing := []
  waitset := []
  issuedNow := []
  lanesNow := []
  passed := []
  rotated := []
  launches := []
  results := []
  fifo := []
  wc := []
  clean := []
  packets := []
  peerOut := []
  engLines := []
  engFails := []
  waiters := []
  copies := []
  mmas := []
  chunks := []
  rays := []
  beams := []
  tensors := []
  sweeps := []
  lqs := []
  fabric := []
  portOps := []
  sendCount := []
  graphs := []
  replays := []
  trees := []
  arrivals := []
  arrivalNext := []
  revokes := []
  armed := []
  ceBase := []
  halts := []
  tlb := []
  tlbis := []
  atc := []
  pageReqs := []
  atsInvs := []
  windows := []
  glean := []
  links := []
  lost := []
  kills := []
  msixOpen := []
  msixTab := []
  msixPend := []
  portDown := []
  shadowOff := []
  detected := []
  late := []
  faultSeq := []
  flips := []
  poison := []
  imgPort := none
  imgDigest := none
  hostOut := []
  focus := 0
  fresh := 0
  free := 0
  agenda := []

end Sys2Proof.Machine
end

