-- ==== Sys2Proof/Machine/Regs.lean ====
section
/-! DEFINITION. The management block of a die: its registers and table entries as fields with access codes and reset values
(00 R7 to R9; the register maps of 01, 02, 03, 05, 08, 09, 14, 17, 19, 20), field time, and the units that are enabled. -/

namespace Sys2Proof.Machine

/-- Access codes (R7). -/
inductive Acc where
  /-- read only -/
  | ro
  /-- read and write -/
  | rw
  /-- write only, reads 0 -/
  | wo
  /-- write 1 to clear -/
  | w1c
  /-- read clears -/
  | rc
  deriving DecidableEq, Repr

/-- A field of a register: lowest bit, width, access. -/
structure RField where
  /-- lowest bit -/
  lo : Nat
  /-- width -/
  w : Nat
  /-- access -/
  acc : Acc
  deriving DecidableEq, Repr

/-- A 64-bit handle register. -/
def rfHandle : List RField := [⟨0, 64, .rw⟩]

/-- Fields of the graph of registers below 0x0300. -/
def regFieldsLow (off : Nat) : Option (List RField) :=
  if off = 0x0 then some [⟨0, 13, .rw⟩]
  else if off = 0x8 then some [⟨0, 16, .ro⟩]
  else if off = 0x10 then some [⟨0, 32, .ro⟩]
  else if off = 0x20 then some [⟨0, 29, .ro⟩]
  else if off = 0x28 ∨ off = 0x30 then some [⟨0, 64, .ro⟩]
  else if off = 0x38 then some [⟨0, 23, .ro⟩]
  else if off = 0x40 ∨ off = 0x48 ∨ off = 0x50 ∨ off = 0x58 then some [⟨0, 38, .ro⟩]
  else if off = 0x60 ∨ off = 0x68 then some [⟨0, 48, .ro⟩]
  else if off = 0x70 then some [⟨0, 64, .ro⟩]
  else if off = 0x80 then some [⟨0, 24, .ro⟩]
  else if off = 0x88 then some [⟨0, 64, .ro⟩]
  else if off = 0x90 then some [⟨0, 32, .ro⟩]
  else if off = 0xA0 then some [⟨0, 1, .wo⟩, ⟨1, 1, .wo⟩]
  else if off = 0xC0 then some [⟨0, 64, .rw⟩]
  else if off = 0xC8 then some [⟨0, 32, .rw⟩]
  else if off = 0xD0 then some [⟨0, 1, .wo⟩]
  else if off = 0xD8 then some [⟨0, 2, .ro⟩, ⟨8, 40, .ro⟩]
  else if off = 0xE0 then some [⟨0, 16, .rw⟩]
  else if off = 0xE8 then some [⟨0, 16, .ro⟩]
  else if off = 0x100 then some [⟨12, 45, .rw⟩]
  else if off = 0x108 then some [⟨0, 5, .rw⟩, ⟨16, 16, .rw⟩, ⟨32, 16, .rw⟩]
  else if off = 0x110 ∨ off = 0x118 then some rfHandle
  else if off = 0x120 then some [⟨0, 32, .rc⟩]
  else if off = 0x128 then some [⟨0, 57, .rw⟩]
  else if off = 0x130 then some [⟨0, 7, .rw⟩]
  else if off = 0x138 then some [⟨0, 16, .rw⟩, ⟨16, 1, .wo⟩]
  else if off = 0x140 then some rfHandle
  else if off = 0x148 then some [⟨0, 32, .rc⟩, ⟨32, 16, .rc⟩]
  else if off = 0x150 then some [⟨0, 3, .rw⟩, ⟨8, 8, .rw⟩, ⟨16, 1, .wo⟩, ⟨17, 1, .ro⟩]
  else if 0x200 ≤ off ∧ off < 0x300 then some [⟨0, 16, .rw⟩, ⟨16, 1, .rw⟩, ⟨17, 2, .rw⟩]
  else none

/-- Fields of the registers from 0x0300 to 0xFFFF. -/
def regFieldsMid (off : Nat) : Option (List RField) :=
  if off = 0x300 then some [⟨6, 51, .rw⟩]
  else if 0x400 ≤ off ∧ off < 0x500 then
    match off % 32 with
    | 0 => some [⟨6, 51, .rw⟩]
    | 8 => some [⟨0, 16, .rw⟩, ⟨16, 5, .rw⟩, ⟨32, 1, .rw⟩]
    | _ => some rfHandle
  else if off = 0x500 ∨ off = 0x510 then some [⟨12, 45, .rw⟩]
  else if off = 0x508 then some [⟨0, 37, .rw⟩]
  else if off = 0x518 then some [⟨0, 5, .rw⟩]
  else if off = 0x520 then some [⟨0, 32, .ro⟩, ⟨32, 32, .w1c⟩]
  else if off = 0x528 then some [⟨3, 61, .rw⟩]
  else if off = 0x600 then some [⟨12, 45, .rw⟩]
  else if off = 0x608 then some [⟨0, 16, .rw⟩, ⟨16, 5, .rw⟩, ⟨21, 1, .rw⟩]
  else if off = 0x610 then some rfHandle
  else if off = 0x618 then some [⟨0, 1, .wo⟩]
  else if off = 0x620 then some [⟨0, 7, .rw⟩]
  else if 0x628 ≤ off ∧ off < 0x648 then some rfHandle
  else if 0x700 ≤ off ∧ off < 0x760 then some [⟨0, 8, .rw⟩, ⟨8, 8, .ro⟩, ⟨16, 8, .ro⟩]
  else if 0x780 ≤ off ∧ off < 0x7E0 then some [⟨0, 32, .rc⟩]
  else if off = 0x808 then some [⟨0, 37, .rw⟩]
  else if off = 0x810 then some [⟨0, 16, .rc⟩, ⟨16, 16, .ro⟩, ⟨32, 32, .rc⟩]
  else if off = 0x818 then some [⟨0, 2, .ro⟩]
  else if off = 0x820 then some [⟨0, 16, .rw⟩]
  else if off = 0x828 then some [⟨0, 32, .rw⟩]
  else if off = 0x830 then some [⟨0, 17, .rw⟩, ⟨17, 1, .wo⟩]
  else if off = 0x838 ∨ off = 0x850 then some [⟨0, 32, .rc⟩]
  else if off = 0x840 then some [⟨0, 1, .ro⟩, ⟨32, 32, .ro⟩]
  else if off = 0x848 then some [⟨0, 16, .rc⟩]
  else if 0x900 ≤ off ∧ off < 0xD00 then
    match off % 64 with
    | 0 => some [⟨0, 16, .rw⟩, ⟨16, 1, .rw⟩, ⟨17, 24, .rw⟩]
    | 8 => some rfHandle
    | 16 => some [⟨0, 21, .ro⟩, ⟨32, 32, .rc⟩]
    | 24 => some [⟨0, 64, .ro⟩]
    | 32 => some [⟨0, 64, .ro⟩]
    | 40 => some [⟨0, 57, .ro⟩]
    | 48 => some [⟨0, 23, .wo⟩]
    | _ => some rfHandle
  else if off = 0xD00 then some [⟨0, 32, .rw⟩]
  else if off = 0xE00 ∨ off = 0xE08 ∨ off = 0xE10 then
    some ((upFrom 0 15).map fun k => ⟨2 * k, 2, .rw⟩)
  else none

/-- Fields of the table entries from 0x1_0000 on (R179, R182, R185, R188). -/
def regFieldsTable (off : Nat) : Option (List RField) :=
  if off < 0x30000 then
    match off % 32 with
    | 0 => some [⟨0, 29, .rw⟩, ⟨32, 17, .rw⟩]
    | 8 => some [⟨0, 57, .rw⟩]
    | 16 => some [⟨0, 16, .rw⟩, ⟨16, 4, .rw⟩]
    | _ => some rfHandle
  else if off < 0x38000 then
    match off % 32 with
    | 0 => some [⟨0, 23, .rw⟩, ⟨23, 9, .rw⟩, ⟨32, 16, .rw⟩, ⟨48, 1, .rw⟩]
    | 8 => some [⟨0, 32, .rw⟩]
    | 16 => some [⟨0, 64, .rw⟩]
    | _ => some []
  else if off < 0x38800 then
    match off % 32 with
    | 0 => some [⟨0, 57, .rw⟩, ⟨57, 3, .rw⟩]
    | 8 => some [⟨0, 33, .rw⟩]
    | 16 => some rfHandle
    | _ => some []
  else if off < 0x3C000 then none
  else if off < 0x40000 then
    match off % 16 with
    | 0 => some [⟨0, 57, .rw⟩]
    | _ => some [⟨0, 60, .rw⟩]
  else if off < 0x50000 then some [⟨0, 64, .ro⟩]
  else if off < 0x70000 then some [⟨0, 64, .ro⟩]
  else none

/-- Fields of the register at an offset of the management block; none for a reserved offset. Regions fill 16 of their 32
bytes: words 2 and 3 are reserved and read 0. -/
def regFields (off : Nat) : Option (List RField) :=
  if off % 8 ≠ 0 then none
  else if off < 0x300 then regFieldsLow off
  else if off < 0x10000 then regFieldsMid off
  else if 0x3C000 ≤ off ∧ off < 0x40000 ∧ 16 ≤ off % 32 then some []
  else regFieldsTable off

/-- Fields of the register at an offset of die d's block: DIE_HWC_SHADOW is present on dies 0 and 6 alone (R76). -/
def regFieldsOn (d off : Nat) : Option (List RField) :=
  if off = 0x528 ∧ d ≠ 0 ∧ d ≠ 6 then none else regFields off

/-- Whether the register is one of the module's, alike on every die (R19). -/
def isModReg (off : Nat) : Bool :=
  off == 0 || off == 0x8 || off == 0x10 || off == 0x80 || off == 0x88 || off == 0x90 || off == 0xA0 ||
    (0xC0 ≤ off && off ≤ 0xE8)

/-- Reset value of the register at an offset of die d's block (R8 and the register maps; a full part for access C). -/
def regReset (d off : Nat) : DWord :=
  if off < 0x300 then
    if off = 0x8 then 0xCFFF#64
    else if off = 0x20 then BitVec.ofNat 64 (d + (if d = 0 then 16 else 0) + (if d = 6 then 32 else 0))
    else if off = 0x28 ∨ off = 0x30 then BitVec.allOnes 64
    else if off = 0x38 then BitVec.ofNat 64 (160 + 64 * 2 ^ 8 + 15 * 2 ^ 16 + 4 * 2 ^ 20)
    else if off = 0x40 ∨ off = 0x48 ∨ off = 0x50 ∨ off = 0x58 then 0x20FFFFFFFF#64
    else if off = 0x60 ∨ off = 0x68 then BitVec.ofNat 64 (0x888888888888 - 8 * 2 ^ (4 * d))
    else if off = 0x80 then BitVec.ofNat 64 (0xA712 + Config.step.toNat * 2 ^ 16)
    else if off = 0x88 then Config.serial
    else if off = 0x90 then BitVec.ofNat 64 Config.svnFloor.toNat
    else 0#64
  else if off < 0x700 then 0#64
  else if off < 0x760 then
    let j := (off - 0x700) / 8
    if j = d then 0#64 else BitVec.ofNat 64 ((if d < j then 0x0F else 0xF0) + 0xFF0000)
  else if off = 0x820 then 1000#64
  else if off = 0x828 then 1000000#64
  else if off = 0x840 then 0xFFFFFFFF00000000#64
  else if off = 0xD00 then 2000000#64
  else if off = 0xE00 ∨ off = 0xE08 then 0x3FFFFFFF#64
  else if off = 0xE10 then BitVec.ofNat 64 (0x3FFFFFFF - 2 ^ 17)
  else 0#64

/-- Key of a register in State.mregs. -/
def mkey (d off : Nat) : Nat := (if isModReg off then 0 else d) * 2 ^ 27 + off

/-- The stored value of a register. -/
def getReg (s : State) (d off : Nat) : Nat :=
  (mapGet (regReset (if isModReg off then 0 else d) off) s.mregs (mkey d off)).toNat

/-- Store a register. -/
def setReg (s : State) (d off v : Nat) : State :=
  { s with mregs := mapSet (regReset (if isModReg off then 0 else d) off) s.mregs (mkey d off) (BitVec.ofNat 64 v) }

/-- A field of a register. -/
def getField (s : State) (d off hi lo : Nat) : Nat := bits (getReg s d off) hi lo

/-- Set a field of a register. -/
def setField (s : State) (d off hi lo v : Nat) : State := setReg s d off (setBits (getReg s d off) hi lo v)

/-- Add 1 to a field that stays at all ones once reached. -/
def bumpField (s : State) (d off hi lo : Nat) : State :=
  let v := getField s d off hi lo
  setField s d off hi lo (if v + 1 = 2 ^ (hi + 1 - lo) then v else v + 1)

/-- Field time of a die (R178): it runs with the core clock, four core cycles to a tick (R4). -/
def ftime (s : State) (d : Nat) : Nat := (mapGet 0 s.ftime d + s.cycle / 4) % 2 ^ 64

/-- Field time of a die without its wrap at 2^64, for lengths of time (R68). -/
def ftimeRun (s : State) (d : Nat) : Nat := mapGet 0 s.ftime d + s.cycle / 4

/-- MOD_ID.MODULE (R20). -/
def moduleId (s : State) : Nat := getReg s 0 0

/-- Whether die d is enabled (R20). -/
def dieOn (s : State) (d : Nat) : Bool := d < 12 && bit (getReg s 0 0x8) d

/-- The enabled dies, ascending. -/
def diesOn (s : State) : List Nat := (upFrom 0 12).filter (dieOn s)

/-- Whether core c of die d is enabled (R21, R24). -/
def coreOn (s : State) (d c : Nat) : Bool :=
  dieOn s d && c < 128 && (if c < 64 then bit (getReg s d 0x28) c else bit (getReg s d 0x30) (c - 64))

/-- The enabled cores of a die, ascending. -/
def coresOn (s : State) (d : Nat) : List Nat := (upFrom 0 128).filter (coreOn s d)

/-- Number of enabled cores of a die. -/
def numCoresOn (s : State) (d : Nat) : Nat :=
  if dieOn s d then popcount 64 (getReg s d 0x28) + popcount 64 (getReg s d 0x30) else 0

/-- Enabled L2 slices of a die (R21). -/
def slicesOn (s : State) (d : Nat) : Nat := getField s d 0x38 7 0

/-- The numbers of a die's units of a kind (R359) that have been taken out of use, ascending. -/
def unitsOffOf (s : State) (kind d : Nat) : List Nat :=
  sortBy id ((s.unitsOff.filter fun u => u.1 == kind && u.2.1 == d).map (·.2.2))

/-- The k-th number, from 0, that is not among these ascending numbers. -/
def skipOff : List Nat → Nat → Nat
  | [], k => k
  | o :: r, k => skipOff r (if o ≤ k then k + 1 else k)

/-- Number of the k-th enabled L2 slice of a die (R18, R62). -/
def sliceAt (s : State) (d k : Nat) : Nat := skipOff (unitsOffOf s 1 d) k

/-- Enabled HBM channels of a die, each as 32 × stack + channel, in ascending order (R99). -/
def channelList (s : State) (d : Nat) : List Nat :=
  (upFrom 0 128).filter fun c => bit (getReg s d (0x40 + 8 * (c / 32))) (c % 32)

/-- The HBM channel of an offset of a die, and the offset within it (R99). -/
def channelOf (s : State) (d a : Nat) : Nat × Nat :=
  let cs := channelList s d
  (nthD 0 cs (a / 256 % cs.length), a / (256 * cs.length) * 256 + a % 256)

/-- Enabled HBM channels of a die (R99). -/
def channelsOn (s : State) (d : Nat) : Nat :=
  getField s d 0x40 37 32 + getField s d 0x48 37 32 + getField s d 0x50 37 32 + getField s d 0x58 37 32

/-- Bytes of HBM of a die (R99). -/
def hbmBytes (s : State) (d : Nat) : Nat := if dieOn s d then channelsOn s d * 2 ^ 31 else 0

/-- Die of a core number. -/
def dieOf (core : Nat) : Nat := core / 128

/-- Block number of an offset of the management block (R332). -/
def blockOf (off : Nat) : Nat :=
  if off < 0xA0 then 0 else if off < 0x300 then 1 else if off < 0x500 then 2 else if off < 0x600 then 3 else if off < 0x700 then 4
  else if off < 0x800 then 5 else if off < 0x900 then 6 else if off < 0xE00 then 7 else if off < 0x10000 then 8 else if off < 0x30000 then 9
  else if off < 0x40000 then 10 else if off < 0x50000 then 11 else 12

/-- Master m's rights to block k of a die: 0 none, 1 read, 3 read and write (R333). -/
def rightTo (s : State) (m d k : Nat) : Nat := getField s d (0xE00 + 8 * m) (2 * k + 1) (2 * k)

/-- Whether a value is in the range that a field's Meaning gives, or what is stored in its place (R9); `new` is the register
with the fields judged before. The manual leaves open which KIND judges the NUM of one write of DIE_UNIT_OFF, and whether R9 holds for
the ranges of table entries, whose tables have no Access column (RLOG2, RSLOTS, SLOG2 of R179 and R185): the KIND held after the write
does, and R9 does (DESIGN CHOICE, log entry 98). -/
def fieldStore (s : State) (d off lo new v : Nat) : Option Nat :=
  if off = 0x108 ∧ lo = 0 then (if v = 0 ∨ (6 ≤ v ∧ v ≤ 20) then some v else none)
  else if 0x200 ≤ off ∧ off < 0x300 ∧ lo = 17 then (if v ≤ 2 then some v else none)
  else if off = 0x150 ∧ lo = 0 then (if v ≤ 4 then some v else none)
  else if off = 0x150 ∧ lo = 8 then
    (let top := match bits new 2 0 with
      | 0 => 127
      | 1 => 159
      | 2 => 127
      | 3 => 3
      | _ => 11
     if v ≤ top then some v else none)
  else if 0x400 ≤ off ∧ off < 0x500 ∧ off % 32 = 8 ∧ lo = 16 then (if 1 ≤ v ∧ v ≤ 16 then some v else none)
  else if 0x400 ≤ off ∧ off < 0x500 ∧ off % 32 = 8 ∧ lo = 32 then
    (if v = 0 ∨ (1 ≤ bits new 20 16 ∧ bits new 20 16 ≤ 16) then some v else none)
  else if off = 0xC0 then (if v % 4096 = 0 then some v else none)
  else if 0x10000 ≤ off ∧ off < 0x30000 ∧ off % 32 = 16 ∧ lo = 16 then (if v ≤ 7 then some v else none)
  else if 0x30000 ≤ off ∧ off < 0x38000 ∧ off % 32 = 0 ∧ lo = 23 then (if 1 ≤ v ∧ v ≤ 256 then some v else none)
  else if 0x30000 ≤ off ∧ off < 0x38000 ∧ off % 32 = 0 ∧ lo = 48 then
    (if v = 0 ∨ (1 ≤ bits new 31 23 ∧ bits new 31 23 ≤ 256) then some v else none)
  else if 0x38000 ≤ off ∧ off < 0x38800 ∧ off % 32 = 0 ∧ lo = 57 then (if v ≤ 6 then some v else none)
  else if off = 0x518 then (if v ≤ 20 then some v else none)
  else if off = 0x620 then (if v ≤ getField s d 0x38 15 8 then some v else none)
  else if off = 0x820 then some (if v = 0 then 1 else v)
  else if off = 0x828 then some (if 10000 ≤ v ∧ v ≤ 1000000 then v else 1000000)
  else if off = 0xE00 ∨ off = 0xE08 ∨ off = 0xE10 then
    (if v = 2 then none else some (if lo = 0 ∧ v = 0 then 1 else v))
  else some v

/-- The register after a write of `v`, each field by its access code and range (R7, R9). -/
def regAfterWrite (s : State) (d off v : Nat) : List RField → Nat → Nat
  | [], new => new
  | f :: r, new =>
    let hi := f.lo + f.w - 1
    let x := bits v hi f.lo
    regAfterWrite s d off v r (match f.acc with
      | .rw => match fieldStore s d off f.lo new x with
        | some y => setBits new hi f.lo y
        | none => new
      | .w1c => setBits new hi f.lo (bits new hi f.lo &&& (2 ^ f.w - 1 - x))
      | _ => new)

/-- Store a write to a register, without what its GO bits and enabling bits start. -/
def regWritePlain (s : State) (d off v : Nat) : State :=
  match regFieldsOn d off with
  | some fs => setReg s d off (regAfterWrite s d off v fs (getReg s d off))
  | none => s

/-- The register with its fields of access RC set to 0. -/
def regAfterRead : List RField → Nat → Nat
  | [], v => v
  | f :: r, v => regAfterRead r (if f.acc = .rc then setBits v (f.lo + f.w - 1) f.lo 0 else v)

/-- Take the next free value's number. -/
def takeFree (s : State) : Nat × State := (s.free, { s with free := s.free + 1 })

/-- Spilled waiter entries of a die (R72 NOW). -/
def spilledNow (s : State) (d : Nat) : Nat :=
  (s.waiters.filter fun w => w.spilled && bits w.handle.toNat 47 44 == d).length

/-- What a register reads as: stored fields, and those that hold what the die measures. -/
def regValue (s : State) (d off : Nat) : Nat :=
  if off = 0x20 then setBits (getReg s d off) 28 16 (moduleId s)
  else if off = 0x70 then ftime s d
  else if off = 0x520 then setBits (getReg s d off) 31 0 (spilledNow s d)
  else match regFieldsOn d off with
    | none => 0
    | some fs => fs.foldl (fun v f => if f.acc = .wo then setBits v (f.lo + f.w - 1) f.lo 0 else v) (getReg s d off)

/-- Read a register (R7): fields of access RC are cleared. The power reading has its reset value for the 1,000,000 ticks over which the
first mean is taken, and is a free value then: the manual gives no number for it (R343). -/
def regRead (s : State) (d off : Nat) : Nat × State :=
  if off = 0xE8 ∧ 4000000 ≤ s.cycle then ((Config.freeWord s.free).toNat % 65536, (takeFree s).2)
  else
    let v := regValue s d off
    match regFieldsOn d off with
    | some fs => (v, setReg s d off (regAfterRead fs (getReg s d off)))
    | none => (0, s)

end Sys2Proof.Machine
end

