-- ==== Sys2Proof/Machine/Ops.lean ====
section
/-! DEFINITION. The named operations over the state: threads, flocks and registers, memory bytes, results in flight, the choice
of the group that issues, counters at their homes, placement of children, the halt wave's start, fault records, and taking a
trap (17 R352 to R357) with its return. -/

namespace Sys2Proof.Machine

/-! ## Threads, flocks, registers -/

/-- A thread in its state at creation (R29), with everything else 0. -/
def Thread.blank : Thread where
  uid := 0
  core := 0
  lane := 0
  slot := 0
  job := 0
  flock := 0
  bin := none
  pc := 0#57
  alloc := 32
  wb := 0
  rbase := 0
  regs := []
  g := true
  segG := ⟨0, 0⟩
  segL := ⟨0, 0⟩
  segC := ⟨0, 0⟩
  tnum := 0#32
  status := 0#16
  wait := .none
  parked := false
  trapped := false
  prio := 0
  role := .plain
  launch := none
  ftHi := 0#32
  cycHi := 0#32
  region := []
  age := 0
  last := 0
  aged := false
  failed := []
  newPc := none

/-- A fresh flock's state (R39). -/
def Flock.blank : Flock where
  core := 0
  idx := 0
  job := 0
  prio := 0
  sregs := []
  tiles := []
  key := none
  resident := true
  since := 0
  sweep := none
  evicting := false
  saved := none

/-- The supervisor job (R334). -/
def supJob : Nat := 0xFFFF

/-- The thread of that name. -/
def findThread (s : State) (uid : Nat) : Option Thread := s.threads.find? fun t => t.uid == uid

/-- The thread of that name, or a blank one. -/
def threadOf (s : State) (uid : Nat) : Thread := (findThread s uid).getD Thread.blank

/-- Change a thread. -/
def modThread (s : State) (uid : Nat) (f : Thread → Thread) : State :=
  { s with threads := s.threads.map fun t => if t.uid == uid then f t else t }

/-- Change several threads. -/
def modThreads (s : State) (uids : List Nat) (f : Thread → Thread) : State :=
  { s with threads := s.threads.map fun t => if has uids t.uid then f t else t }

/-- The flock of a core with that index. -/
def findFlock (s : State) (core idx : Nat) : Option Flock := s.flocks.find? fun f => f.core == core && f.idx == idx

/-- The flock of a core with that index, or a blank one. -/
def flockOf (s : State) (core idx : Nat) : Flock := (findFlock s core idx).getD Flock.blank

/-- Change a flock. -/
def modFlock (s : State) (core idx : Nat) (f : Flock → Flock) : State :=
  { s with flocks := s.flocks.map fun k => if k.core == core && k.idx == idx then f k else k }

/-- Members of a flock, by ascending lane (R30). -/
def membersOf (s : State) (core idx : Nat) : List Thread :=
  sortBy (·.lane) (s.threads.filter fun t => t.core == core && t.flock == idx && t.bin.isNone)

/-- FLOCK (R30). -/
def flockId (core idx : Nat) : Nat := (core % 128) * 2 ^ 16 + idx

/-- The 0 register with tag RAW. -/
def rawZero : Reg := ⟨0#32, 0#4⟩

/-- A register of a thread's allocation. -/
def getIdx (t : Thread) (i : Nat) : Reg := mapGet rawZero t.regs i

/-- Win(n, t) (R45, R222). -/
def getV (t : Thread) (n : Nat) : Reg := getIdx t (t.wb + n)

/-- Bits of Win(n, t). -/
def vBits (t : Thread) (n : Nat) : Nat := (getV t n).bits.toNat

/-- Pair(n, t) (R215, R222). -/
def vPair (t : Thread) (n : Nat) : Nat := vBits t n + 2 ^ 32 * vBits t (n + 1)

/-- An s register of a flock. -/
def getS (f : Flock) (i : Nat) : Word := mapGet 0#32 f.sregs i

/-- The s register pair. -/
def sPair (f : Flock) (i : Nat) : Nat := (getS f i).toNat + 2 ^ 32 * (getS f (i + 1)).toNat

/-- Write a register of an allocation; a written register is no longer in error (R358). -/
def setIdx (s : State) (uid i : Nat) (r : Reg) : State :=
  { modThread s uid (fun t => { t with regs := mapSet rawZero t.regs i r }) with
    poison := s.poison.filter (· ≠ .vreg uid i)
    flips := s.flips.filter (fun p => p.1 ≠ .vreg uid i) }

/-- Places that have been written hold sound data again (R358). -/
def cure (s : State) (gone : Place → Bool) : State :=
  { s with poison := s.poison.filter (fun p => !gone p), flips := s.flips.filter fun p => !gone p.1 }

/-- Write an s register; a written register is no longer in error (R358). -/
def setS (s : State) (core flock i : Nat) (v : Word) : State :=
  cure (modFlock s core flock fun f => { f with sregs := mapSet 0#32 f.sregs i v }) (· == .sreg core flock i)

/-- An element of a tile. -/
def tileElem (t : Tile) (r c : Nat) : Word := mapGet 0#32 t.elems (32 * r + c)

/-- Set an element of a tile. -/
def Tile.set (t : Tile) (r c : Nat) (v : Word) : Tile := { t with elems := mapSet 0#32 t.elems (32 * r + c) v }

/-- A tile of 0 with tag RAW. -/
def Tile.zero : Tile := ⟨0#4, [], 0⟩

/-- A tile of a flock. -/
def tileOf (f : Flock) (i : Nat) : Tile := nthD Tile.zero f.tiles i

/-- The tag of a tile as the issue of that number writes it: tags are written in issue order (R304). -/
def Tile.retag (t : Tile) (n : Nat) (tag : BitVec 4) : Tile := if t.stamp ≤ n then { t with tag := tag, stamp := n } else t

/-- Change a tile. -/
def modTile (s : State) (core flock i : Nat) (g : Tile → Tile) : State :=
  modFlock s core flock fun f => { f with tiles := modNth g i f.tiles }

/-! ## Memory (05 R93, R99) -/

/-- What memory nobody has written reads as: HBM is written 0 by a cold reset (R341). -/
def memDefault : Byte := 0#8

/-- The canonical form of a memory: addresses strictly rising, no entry equal to what an unlisted address reads as. -/
def Memory.wf (m : List Host.Cell) : Bool := mapWf memDefault m

/-- A byte of memory. -/
def memByte (s : State) (a : Nat) : Byte := mapGet memDefault s.mem a

/-- `n` bytes of memory. -/
def memBytes (s : State) (a n : Nat) : List Byte := mapRange memDefault s.mem a n

/-- A little-endian value of `n` bytes (R3). -/
def memNat (s : State) (a n : Nat) : Nat := leNat (memBytes s a n)

/-- Whether a place is one of the bytes from `a` on. -/
def inHbm (a n : Nat) : Place → Bool
  | .hbm b => decide (a ≤ b) && decide (b < a + n)
  | _ => false

/-- Whether a place is a byte of HBM whose 64-byte location lies whole within the bytes from `a` on: a poisoned location stays poisoned until
it is written whole (R358). -/
def inWhole (a n : Nat) : Place → Bool
  | .hbm b => decide (a ≤ b / 64 * 64) && decide (b / 64 * 64 + 64 ≤ a + n)
  | _ => false

/-- Write bytes of memory. A location written whole is no longer in error (R358). -/
def memWrite (s : State) (a : Nat) (bs : List Byte) : State :=
  { s with
    mem := mapSetAll memDefault s.mem (atKeys a bs)
    poison := s.poison.filter (fun p => !inWhole a bs.length p)
    flips := s.flips.filter (fun p => !inWhole a bs.length p.1) }

/-- Write a little-endian value of `n` bytes. -/
def memWriteNat (s : State) (a n v : Nat) : State := memWrite s a (natLe n v)

/-- Whether a place is a byte of HBM of whose 64-byte location every byte is among these. -/
def amongWhole (bs : List (Nat × Byte)) : Place → Bool
  | .hbm b => (upFrom (b / 64 * 64) 64).all fun a => bs.any (·.1 == a)
  | _ => false

/-- Write bytes at their addresses, as one access. A location written whole is no longer in error (R358). -/
def memWriteEach (s : State) (bs : List (Nat × Byte)) : State :=
  { s with
    mem := mapSetAll memDefault s.mem bs
    poison := s.poison.filter (fun p => !amongWhole bs p)
    flips := s.flips.filter (fun p => !amongWhole bs p.1) }

/-- Whether one of these bytes is poisoned (R358). -/
def memPoisoned (s : State) (a n : Nat) : Bool := s.poison.any (inHbm a n)

/-- Key of a byte of a core's local store. -/
def lkey (core off : Nat) : Nat := core * 2 ^ 32 + off

/-- Bytes of local store. -/
def lsBytes (s : State) (core off n : Nat) : List Byte := mapRange 0#8 s.locl (lkey core off) n

/-- A value in local store. -/
def lsNat (s : State) (core off n : Nat) : Nat := leNat (lsBytes s core off n)

/-- Whether a place is one of these bytes of local store. -/
def inLs (core off n : Nat) : Place → Bool
  | .locl c b => c == core && decide (off ≤ b) && decide (b < off + n)
  | _ => false

/-- Write local store. -/
def lsWrite (s : State) (core off : Nat) (bs : List Byte) : State :=
  { s with
    locl := mapSetAll 0#8 s.locl (atKeys (lkey core off) bs)
    poison := s.poison.filter (fun p => !inLs core off bs.length p)
    flips := s.flips.filter (fun p => !inLs core off bs.length p.1) }

/-- Whether one of these bytes of local store is poisoned. -/
def lsPoisoned (s : State) (core off n : Nat) : Bool := s.poison.any (inLs core off n)

/-- L1WAYS of a core (R104). -/
def l1Ways (s : State) (core : Nat) : Nat := (mapGet 0 s.carve core + 4) % 16

/-- Bytes of local store of a core (R104). -/
def lsSize (s : State) (core : Nat) : Nat := (15 - l1Ways s core) * 32768

/-- CORE_CARVE (R104). -/
def carveReg (s : State) (core : Nat) : Nat := l1Ways s core + (lsSize s core / 1024) * 2 ^ 16

/-! ## Soft errors (17 R358) -/

/-- Whether a place is one of these bytes of a core's L1. -/
def inL1 (core a n : Nat) : Place → Bool
  | .l1 c b false => c == core && decide (a ≤ b) && decide (b < a + n)
  | _ => false

/-- Whether a place is looked at by an access of a core's L1 at these bytes: they, and the tags of their lines. -/
def nearL1 (core a n : Nat) : Place → Bool
  | .l1 c b t => c == core && (if t then a / 128 ≤ b / 128 && b / 128 ≤ (a + n - 1) / 128 else a ≤ b && b < a + n)
  | _ => false

/-- Whether a place is looked at by an access of L2 or HBM at these bytes. -/
def nearHbm (a n : Nat) : Place → Bool
  | .hbm b => a / 64 ≤ b / 64 && b / 64 ≤ (a + n - 1) / 64
  | .l2 b _ => a / 128 ≤ b / 128 && b / 128 ≤ (a + n - 1) / 128
  | _ => false

/-- Whether a place is one of these bytes of a die's glean partition. -/
def inGlean (die a n : Nat) : Place → Bool
  | .glean d b => d == die && decide (a ≤ b) && decide (b < a + n)
  | _ => false

/-- Whether one of these bytes of L1 is poisoned. -/
def l1Poisoned (s : State) (core a n : Nat) : Bool := s.poison.any (inL1 core a n)

/-- The entry of an operation in its queue or request table is poisoned. -/
def entryBad (s : State) (id : Nat) : Bool := s.poison.any (· == .entry id)

/-- The die whose storage holds a place. -/
def placeDie (s : State) : Place → Nat
  | .hbm a => a / 2 ^ 44
  | .vreg u _ => dieOf (threadOf s u).core
  | .tile c _ _ _ => dieOf c
  | .locl c _ => dieOf c
  | .cell h _ => h / 2 ^ 44 % 16
  | .sreg c _ _ => dieOf c
  | .l1 c _ _ => dieOf c
  | .l2 a _ => a / 2 ^ 44
  | .glean d _ => d
  | .waiter h _ _ _ => h / 2 ^ 44 % 16
  | .entry id =>
    match s.copies.find? (·.id == id), s.results.find? (·.id == id), s.portOps.find? (·.id == id) with
    | some o, _, _ => dieOf o.core
    | _, some r, _ => dieOf (threadOf s (r.uids.headD 0)).core
    | _, _, some o => o.die
    | _, _, _ => ((s.rays.find? (·.id == id)).map fun o => dieOf o.core).getD
        (((s.beams.find? (·.id == id)).map fun o => dieOf o.core).getD (((s.sweeps.find? (·.id == id)).map fun o => dieOf o.core).getD 0))

/-- Two places are checked by one code word: 64 bytes of HBM; 64 bits of L1, L2 and the glean partition, or a line's tag; 32 bits elsewhere;
an entry. -/
def sameWord : Place → Place → Bool
  | .hbm a, .hbm b => a / 64 == b / 64
  | .locl c a, .locl e b => c == e && a / 4 == b / 4
  | .l1 c a t, .l1 e b u => c == e && t == u && (if t then a / 128 == b / 128 else a / 8 == b / 8)
  | .l2 a t, .l2 b u => t == u && (if t then a / 128 == b / 128 else a / 8 == b / 8)
  | .glean d a, .glean e b => d == e && a / 8 == b / 8
  | p, q => p == q

/-- The places that an error of a place's code word poisons. A datum of L2 is poisoned at its home; an entry of a waiter list is read by its
home, which then poisons the cell. -/
def wordPlaces : Place → List Place
  | .hbm a => (upFrom (a / 64 * 64) 64).map .hbm
  | .locl c a => (upFrom (a / 4 * 4) 4).map (.locl c)
  | .l1 c a t => (if t then upFrom (a / 128 * 128) 128 else upFrom (a / 8 * 8) 8).map fun b => .l1 c b false
  | .l2 a t => (if t then upFrom (a / 128 * 128) 128 else upFrom (a / 8 * 8) 8).map .hbm
  | .glean d a => (upFrom (a / 8 * 8) 8).map (.glean d)
  | .waiter h _ _ _ => [.cell h false, .cell h true]
  | p => [p]

/-- The errors in a place's code word can be corrected: one symbol in HBM, one bit elsewhere. -/
def correctable (s : State) (p : Place) : Bool :=
  let es := s.flips.filter fun q => sameWord p q.1
  match p with
  | .hbm _ => es.length ≤ 1
  | _ => es.foldl (fun n q => n + q.2) 0 ≤ 1

/-- The device checks a place's code word: an error is corrected in the storage and counted in CE, or, when it has left poison, counted in
UE (R358). -/
def eccWord (s : State) (place : Place) : State :=
  if s.flips.any fun q => sameWord place q.1 then
    let s1 := { s with flips := s.flips.filter fun q => !sameWord place q.1 }
    let d := placeDie s place
    if correctable s place then bumpField s1 d 0x148 31 0
    else setField s1 d 0x148 47 32 (getField s1 d 0x148 47 32 + 1)
  else s

/-- A read of these places checks their code words (R358). -/
def eccRead (s : State) (at_ : Place → Bool) : State := (s.flips.filter fun q => at_ q.1).foldl (fun s q => eccWord s q.1) s

/-! ## Jobs and their halt slots (02 R48, 09 R199) -/

/-- Address of a job's descriptor on a die (R48). -/
def jobDesc (s : State) (d job : Nat) : Nat := getReg s d 0x300 + 64 * job

/-- HALT_EN of a job; 0 for the supervisor job (R334). -/
def haltEn (s : State) (d job : Nat) : Bool := job ≠ supJob && bit (memNat s (jobDesc s d job) 8) 20

/-- Offset of a halt slot's registers. -/
def hoff (h : Nat) : Nat := 0x900 + 64 * h

/-- The valid halt slot of a job on a die. -/
def haltSlot (s : State) (d job : Nat) : Option Nat :=
  (upFrom 0 16).find? fun h => bit (getReg s d (hoff h)) 16 && getField s d (hoff h) 15 0 == job

/-- PHASE of a halt slot. -/
def phaseOf (s : State) (d h : Nat) : Nat := getField s d (hoff h + 16) 1 0

/-- Whether a job is stopping, halted or armed on a die. -/
def jobHeld (s : State) (d job : Nat) : Bool :=
  match haltSlot s d job with
  | some h => phaseOf s d h ≠ 0
  | none => false

/-- What a halt slot keeps beside its registers. -/
def haltWorkOf (s : State) (d h : Nat) : Option HaltWork := s.halts.find? fun w => w.die == d && w.slot == h

/-- Change what a halt slot keeps, making it when there is none. -/
def modHaltWork (s : State) (d h : Nat) (f : HaltWork → HaltWork) : State :=
  match haltWorkOf s d h with
  | some _ => { s with halts := s.halts.map fun w => if w.die == d && w.slot == h then f w else w }
  | none => { s with halts := s.halts ++ [f ⟨d, h, 0, none, none, none, [], [], 0, none, [], none⟩] }

/-- Whether a thread may issue although its job is halted: a step runs on it (R204). -/
def steppedNow (s : State) (t : Thread) : Bool :=
  s.halts.any fun w => w.die == dieOf t.core && has w.stepping t.uid

/-- Whether the halt wave keeps a wait of a thread from ending: not that of a thread that is stepped (R203, R204). -/
def waitHeld (s : State) (t : Thread) : Bool :=
  jobHeld s (dieOf t.core) t.job && !s.halts.any fun w => w.die == dieOf t.core && (has w.stepping t.uid || has w.stepped t.uid)

/-- Whether the halt wave holds a thread (R203). -/
def heldBack (s : State) (t : Thread) : Bool := jobHeld s (dieOf t.core) t.job && !steppedNow s t

/-! ## Which group issues (02 R40 to R42) -/

/-- Whether a thread has its slot: it is in a bin or its flock is resident (R36, R54). -/
def holdsSlot (s : State) (t : Thread) : Bool := t.bin.isSome || (flockOf s t.core t.flock).resident

/-- Eligible (R40). A core that has been taken out of use issues nothing (R24). -/
def eligible (s : State) (t : Thread) : Bool :=
  let f := flockOf s t.core t.flock
  coreOn s (dieOf t.core) (t.core % 128) && t.bin.isNone && f.resident && !(f.evicting && f.sweep.isNone) && !t.parked && !t.trapped && t.wait == .none &&
    !heldBack s t && s.power == .run

/-- The eligible threads of a core. -/
def eligibleOn (s : State) (core : Nat) : List Thread := s.threads.filter fun t => t.core == core && eligible s t

/-- The issue group of a thread: eligible threads of its flock at its PC, by ascending lane (R40). -/
def groupOf (el : List Thread) (t : Thread) : List Thread :=
  sortBy (·.lane) (el.filter fun u => u.flock == t.flock && u.pc == t.pc)

/-- What R41 compares: priority, age, FLOCK and lowest lane of a group. -/
structure GroupKey where
  /-- 3 less the priority -/
  prio : Nat
  /-- age -/
  age : Nat
  /-- FLOCK index -/
  flock : Nat
  /-- lowest lane -/
  lane : Nat
  deriving DecidableEq, Repr

/-- A group has been eligible, and has not issued, for 4,096 core cycles (R42). -/
def groupOld (s : State) (g : List Thread) : Bool := !g.isEmpty && g.all fun t => t.age + 4096 ≤ s.cycle && t.last + 4095 ≤ s.cycle

/-- The key of a group; its age is that of the member that became eligible last, and a group that has waited for 4,096 cycles has PRIO 3
(R42): every member has, and has been raised or is about to be. -/
def groupKey (s : State) (g : List Thread) : GroupKey where
  prio := match g with
    | [] => 3
    | t :: _ => if groupOld s g then 0 else 3 - (flockOf s t.core t.flock).prio
  age := g.foldl (fun m t => max m t.age) 0
  flock := match g with
    | [] => 0
    | t :: _ => t.flock
  lane := match g with
    | [] => 0
    | t :: _ => t.lane

/-- The order of R41. -/
def GroupKey.before (a b : GroupKey) : Bool :=
  if a.prio ≠ b.prio then a.prio < b.prio
  else if a.age ≠ b.age then a.age < b.age
  else if a.flock ≠ b.flock then a.flock < b.flock
  else a.lane < b.lane

/-- Lanes of a core that have issued in this cycle. -/
def busyLanes (s : State) (core : Nat) : List Nat := (s.lanesNow.filter fun p => p.1 == core).map (·.2)

/-- Groups that a core has issued in this cycle, of a class or of any (R41). -/
def issuedOn (s : State) (core : Nat) (cls : Option Nat) : Nat :=
  (s.issuedNow.filter fun p => p.1 == core && (cls == none || cls == some p.2)).length

/-- The groups that a core can still issue in this cycle: it has issued less than four, their lanes have not issued, and they have not been
passed over (R41). -/
def openGroups (s : State) (core : Nat) : List (List Thread) :=
  let el := eligibleOn s core
  let busy := busyLanes s core
  if 4 ≤ issuedOn s core none then []
  else (el.map (groupOf el)).filter fun g => !g.any fun t => has busy t.lane || has s.passed t.uid

/-- The group that a core issues next (R41). -/
def nextGroup (s : State) (core : Nat) : List Thread :=
  match bestBy (fun a b : List Thread => (groupKey s a).before (groupKey s b)) (openGroups s core) with
  | some g => g
  | none => []

/-! ## An issue -/

/-- The issue of one word by one group (R221). -/
structure Issue where
  /-- core -/
  core : Nat
  /-- flock -/
  flock : Nat
  /-- job -/
  job : Nat
  /-- the group, by ascending lane -/
  group : List Nat
  /-- the threads in which the word is active (R217) -/
  act : List Nat
  /-- address of the word -/
  pc : VAddr
  /-- the word -/
  word : Word
  /-- length of the word and its literal -/
  len : Nat
  /-- switch bit -/
  sbit : Bool
  deriving DecidableEq, Repr

/-- Die of an issue. -/
def Issue.die (i : Issue) : Nat := dieOf i.core

/-- The issue of a word by the next group of the core in focus; none when no group is eligible. -/
def mkIssue (s : State) (f : Fields) : Option Issue :=
  match nextGroup s s.focus with
  | [] => none
  | t :: r => some
    { core := s.focus
      flock := t.flock
      job := t.job
      group := (t :: r).map (·.uid)
      act := ((t :: r).filter fun u => !f.g || u.g).map (·.uid)
      pc := t.pc
      word := f.toWord
      len := if f.hasLiteral then 8 else 4
      sbit := f.s }

/-! ## Results in flight (02 R46, 10 R220) -/

/-- Instructions of a thread whose results are outstanding: the results of one issue are those of one instruction (R220). -/
def outstanding (s : State) (uid : Nat) : Nat :=
  (s.results.foldl (fun l r => if has r.uids uid && !has l r.at_ then r.at_ :: l else l) []).length

/-- A thread none of whose results is outstanding unparks (R46). -/
def unpark (s : State) (uids : List Nat) : State :=
  modThreads s (uids.filter fun u => outstanding s u == 0) fun t => if t.parked then { t with parked := false, age := s.cycle + 1 } else t

/-- A thread waits for results with the word at its PC, and so do the others of its group: no result of any of them is outstanding. -/
def groupSettled (s : State) (t : Thread) : Bool :=
  t.wait == .results && !s.threads.any fun u =>
    u.core == t.core && u.flock == t.flock && u.pc == t.pc && u.wait == .results && outstanding s u.uid ≠ 0

/-- Groups that wait for results issue again once every result of their threads has been written: they issue as one group, as they
would have at once (R220, R266). -/
def endWaits (s : State) : State :=
  { s with threads := s.threads.map fun t => if groupSettled s t then { t with wait := .none, age := s.cycle + 1 } else t }

/-- Threads none of whose results is outstanding unpark, and waits for results end (R46, R220). -/
def settle (s : State) (uids : List Nat) : State := endWaits (unpark s uids)

/-- Write the register writes of a result. -/
def applyV (s : State) : List VWrite → State
  | [] => s
  | w :: r => applyV (setIdx s w.uid w.idx w.reg) r

/-- Write its s register writes. -/
def applySr (s : State) : List SWrite → State
  | [] => s
  | w :: r => applySr (setS s w.core w.flock w.idx w.val) r

/-- Write its guard bits. -/
def applyG (s : State) : List (Nat × Bool) → State
  | [] => s
  | (u, b) :: r => applyG (modThread s u fun t => { t with g := b }) r

/-- Set its STATUS bits (R131). -/
def applySt (s : State) : List (Nat × BitVec 16) → State
  | [] => s
  | (u, b) :: r => applySt (modThread s u fun t => { t with status := t.status ||| b }) r

/-- The bytes of a load, those that have not returned as 0. -/
def bufBytes (b : List (Option Byte)) : List Byte := b.map (·.getD 0#8)

/-- Register writes from bytes: one register per 4 bytes (R273). -/
def regWrites (uid idx : Nat) : List (BitVec 4) → List Byte → List VWrite
  | [], _ => []
  | tag :: r, bs => ⟨uid, idx, ⟨BitVec.ofNat 32 (leNat (bs.take 4)), tag⟩⟩ :: regWrites uid (idx + 1) r (bs.drop 4)

/-- Whether a place is one of these elements of a tile. -/
def inRow (core flock tile e n : Nat) : Place → Bool
  | .tile c f t i => c == core && f == flock && t == tile && decide (e ≤ i) && decide (i < e + n)
  | _ => false

/-- Write the bytes of a load to what they become (R273, R302). -/
def applyFmt (s : State) (bs : List Byte) : LoadFmt → State
  | .regs uid idx tags => applyV s (regWrites uid idx tags bs)
  | .ext uid idx sx =>
    let n := 8 * bs.length
    let v := if sx then patN 32 (signedN n (leNat bs)) else leNat bs
    applyV s [⟨uid, idx, ⟨BitVec.ofNat 32 v, 0#4⟩⟩]
  | .bit uid idx k => applyV s [⟨uid, idx, ⟨BitVec.ofNat 32 (leNat bs / 2 ^ k % 2), 2#4⟩⟩]
  | .row core flock tile row col _ _ =>
    cure (modTile s core flock tile fun t =>
      { t with
        elems := mapSetAll 0#32 t.elems
          ((upFrom 0 (bs.length / 4)).map fun c => (32 * row + col + c, BitVec.ofNat 32 (leNat ((bs.drop (4 * c)).take 4)))) })
      (inRow core flock tile (32 * row + col) (bs.length / 4))

/-- Places that a result writes. -/
def resultPlaces (r : Result) : List Place :=
  r.v.map (fun w => .vreg w.uid w.idx) ++ (match r.fmt with
    | some (.regs uid idx tags) => (upFrom idx tags.length).map fun i => .vreg uid i
    | some (.ext uid idx _) => [.vreg uid idx]
    | some (.bit uid idx _) => [.vreg uid idx]
    | some (.row c f t row col _ _) => (upFrom (32 * row + col) (r.buf.length / 4)).map fun i => .tile c f t i
    | none => [])

/-- Write a result and settle its threads. Poison travels to what it writes (R358). -/
def writeResult (s : State) (r : Result) : State :=
  let s1 := applySt (applyG (applySr (applyV s r.v) r.s) r.g) r.st
  let s2 := match r.fmt with
    | some f => applyFmt s1 (bufBytes r.buf) f
    | none => s1
  let s3 := if r.poisoned then { s2 with poison := s2.poison ++ resultPlaces r } else s2
  settle { s3 with results := s3.results.filter fun q => q.id ≠ r.id } r.uids

/-- Write several results, oldest first. -/
def writeResults (s : State) : List Result → State
  | [] => s
  | r :: q => writeResults (writeResult s r) q

/-- A result with nothing to write. -/
def Result.empty : Result where
  id := 0
  uids := []
  ready := true
  v := []
  s := []
  g := []
  st := []
  buf := []
  fmt := none
  poisoned := false
  pc := 0#57
  at_ := 0
  addr := 0
  counter := false
  left := none

/-- Put a result in flight under the next number. -/
def addResult (s : State) (r : Result) : State :=
  { s with results := s.results ++ [{ r with id := s.fresh, at_ := s.cycle + 1 }], fresh := s.fresh + 1 }

/-- Before a group reads or copies s registers, the s writes that other groups of its flock issued earlier are done (R44). -/
def interlock (s : State) (core flock : Nat) (group : List Nat) : State :=
  writeResults s (s.results.filter fun r =>
    r.ready && r.s.any (fun w => w.core == core && w.flock == flock) && !(r.uids.any (has group)))

/-! ## Faults as they are detected (17 R352, R354) -/

/-- An asynchronous record of a unit of a die, with nothing filled in. -/
def FaultRec.blank : FaultRec := ⟨0, 0, 0, 0, 127, 0, 0, false, false, 0, 0, 0, 0, 0, 0⟩

/-- Detect a fault. Its record is written at the end of the core cycle, with those of the same cycle in their order (R354). -/
def raise (s : State) (r : FaultRec) : State := { s with detected := s.detected ++ [r] }

/-- An asynchronous fault of an engine operation, with the addition it withholds (R352, R353). -/
def raiseAsync (s : State) (cls code job die core pc addr : Nat) (held : Option (Nat × Nat)) (aux info : Nat) : State :=
  raise s
    { FaultRec.blank with
      cls := cls, code := code, job := job, die := die, core := core, pc := pc, addr := addr,
      withheld := held.isSome, ctr := (held.getD (0, 0)).1, amount := (held.getD (0, 0)).2, aux := aux, info := info }

/-- The die of a host port. -/
def portDie (m : Nat) : Nat := if m = 0 then 0 else 6

/-- The record of a request to a host that failed: 0 a time-out, 1 UR, 2 CA (R413); one that meets a link that is down ends as a time-out
does (DEDUCED, log entry 27). -/
def hostFail (s : State) (port kind : Nat) : State := raiseAsync s 12 4 supJob (portDie port) 127 0 0 none kind port

/-! ## Counters at their homes (03 R58 to R79) -/

/-- LEVEL of a handle (R59). -/
def hLevel (h : Nat) : Nat := bits h 63 61
/-- MODULE of a handle. -/
def hModule (h : Nat) : Nat := bits h 60 48
/-- DIE of a handle. -/
def hDie (h : Nat) : Nat := bits h 47 44
/-- Core within the die that a handle names: CLUSTER × 16 + CORE. -/
def hCore (h : Nat) : Nat := bits h 43 37
/-- INDEX of a handle. -/
def hIndex (h : Nat) : Nat := bits h 36 0

/-- Whether a handle names a semaphore cell (R79). -/
def isSemaphore (h : Nat) : Bool := hLevel h == 3 && hDie h == 0 && hIndex h < 2

/-- The reason for which a handle is malformed, in the order 0, 1, 3, 4, 2 (R384). Of another module's units only a die that no module has is
known not to be enabled (DEDUCED, log entry 117). -/
def badHandle (s : State) (h : Nat) : Option Nat :=
  let l := hLevel h
  let d := hDie h
  if 6 ≤ l then some 0
  else if (l ≠ 0 && bits h 40 37 ≠ 0) || (2 ≤ l && bits h 43 41 ≠ 0) then some 1
  else if l ≠ 4 && hModule h ≠ moduleId s then some 3
  else if l = 4 && hModule h ≠ moduleId s then (if 12 ≤ d then some 4 else none)
  else if !dieOn s d then some 4
  else if l = 0 && !coreOn s d (hCore h) then some 4
  else if l = 1 && !((upFrom (16 * bits h 43 41) 16).any (coreOn s d)) then some 4
  else if l = 5 && d ≠ 0 && d ≠ 6 then some 4
  else
    let n := if l = 0 ∨ l = 5 then 4096 else if l = 1 then 16384 else getReg s d 0x508
    if isSemaphore h || hIndex h < n then none else some 2

/-- Whether the cell is homed on this module. -/
def localHandle (s : State) (h : Nat) : Bool := hModule h == moduleId s

/-- The home number on its die (R62, R70). Where no slice is enabled, x mod N has no value: the model takes home number 136 (DESIGN CHOICE,
log entry 99). -/
def homeNumber (s : State) (h : Nat) : Nat :=
  match hLevel h with
  | 0 => hCore h
  | 1 => 128 + bits h 43 41
  | 4 => 296
  | 5 => 297
  | _ =>
    let i := hIndex h
    let n := slicesOn s (hDie h)
    136 + (if n = 0 then 0 else sliceAt s (hDie h) ((i ^^^ (i >>> 13) ^^^ (i >>> 26)) % n))

/-- The receiving unit of packets to a counter's home: 512 × die + home number; another module's gateways lie above. -/
def homeUnit (s : State) (h : Nat) : Nat :=
  if localHandle s h then 512 * hDie h + homeNumber s h else 2 ^ 20 * (1 + hModule h) + 512 * hDie h + 296

/-- Whether a cell lives in the backing area of its die: levels 2 to 4 of this module, but for the semaphore's cells (R61, R79). -/
def inBacking (s : State) (h : Nat) : Bool := localHandle s h && 2 ≤ hLevel h && hLevel h ≤ 4 && !isSemaphore h

/-- The place of a cell in the backing area (R71). -/
def cellPlace (s : State) (h : Nat) : Nat :=
  getReg s (hDie h) 0x500 + 8 * (getReg s (hDie h) 0x508 * (hLevel h - 2) + hIndex h)

/-- The value of a cell. -/
def cellGet (s : State) (h : Nat) : Nat := if inBacking s h then memNat s (cellPlace s h) 8 else (mapGet 0#64 s.cells h).toNat

/-- Set a cell. A home's cache is written through to the backing area, which the manual calls invisible (R61; log entry 53). -/
def cellSet (s : State) (h v : Nat) : State :=
  if inBacking s h then memWriteNat s (cellPlace s h) 8 v
  else { s with cells := mapSet 0#64 s.cells h (BitVec.ofNat 64 v) }

/-- Whether a cell is poisoned (R358). -/
def cellPoisoned (s : State) (h : Nat) : Bool :=
  s.poison.any (fun p => p == .cell h false || p == .cell h true) || (inBacking s h && memPoisoned s (cellPlace s h) 8)

/-- Whether a place is one of the cell's. -/
def inCell (s : State) (h : Nat) (p : Place) : Bool :=
  p == .cell h false || p == .cell h true || (inBacking s h && inHbm (cellPlace s h) 8 p) || (match p with
    | .waiter k _ _ _ => k == h
    | _ => false)

/-- A condition holds (R66). -/
def condMet (value thresh : Nat) : Bool := 0 ≤ signedN 64 (value + 2 ^ 64 - thresh % 2 ^ 64)

/-- A packet with nothing filled in. -/
def Packet.blank : Packet where
  id := 0
  src := 0
  seq := 0
  dst := 0
  ordered := true
  uid := none
  job := 0
  release := none
  grp := 0
  pc := 0#57
  sent := 0
  issues := []
  units := []
  bad := []
  tag := none
  eng := none
  va := 0
  body := .ack

/-- Send a packet under the next number. -/
def sendPacket (s : State) (p : Packet) : State :=
  { s with packets := s.packets ++ [{ p with id := s.fresh, seq := s.fresh, sent := s.cycle }], fresh := s.fresh + 1 }

/-- Send packets, in order. -/
def sendPackets (s : State) : List Packet → State
  | [] => s
  | p :: r => sendPackets (sendPacket s p) r

/-- The packet of a number. -/
def findPacket (s : State) (id : Nat) : Option Packet := s.packets.find? fun p => p.id == id

/-- Drop a packet. -/
def dropPacket (s : State) (id : Nat) : State := { s with packets := s.packets.filter fun p => p.id ≠ id }

/-- The sending unit of the engines and the port of a die. -/
def engSrc (d : Nat) : Nat := 2000000 + d

/-- The receiving unit of what is sent back to a unit: a core, or the engines and the port of a die. -/
def backUnit (src : Nat) : Nat :=
  if 3000000 ≤ src then 512 * portDie (src - 3000000) + 400 else if 2000000 ≤ src then 512 * (src - 2000000) + 400 else 10000 + src

/-- Die of the receiving unit of an answer. -/
def backDie (dst : Nat) : Nat := if dst < 6144 then dst / 512 else dieOf (dst - 10000)

/-- Module and die of a receiving unit. -/
def unitEnd (s : State) (u : Nat) : Nat × Nat :=
  if u < 6144 then (moduleId s, u / 512) else if u < 2 ^ 20 then (moduleId s, dieOf (u - 10000)) else (u / 2 ^ 20 - 1, u % 2 ^ 20 / 512)

/-- The sending unit of what a home sends, by its module and die. -/
def homeSrc (m d : Nat) : Nat := 4000000 + 16 * m + d

/-- A packet leaves for another module, in answer to one of that module (R77, R177). -/
def sendOut (s : State) (p : Packet) : State :=
  { s with peerOut := { p with id := s.fresh, seq := s.fresh, sent := s.cycle } :: s.peerOut, fresh := s.fresh + 1 }

/-- The wake of a waiter: to the unit that waits, or to the module of a remote thread (R67, R77). -/
def sendWake (s : State) (w : Waiter) : State :=
  let p : Packet := { Packet.blank with
    src := homeSrc (hModule w.handle.toNat) (hDie w.handle.toNat), dst := 10000 + w.unit, ordered := false, job := w.job, body := .wake w }
  if w.module = moduleId s then sendPacket s p else sendOut s { p with dst := 2 ^ 20 * (1 + w.module) + 512 * dieOf w.unit + 296 }

/-- Send the wakes of waiters, in the order of their registration (R67). -/
def sendWakes (s : State) : List Waiter → State
  | [] => s
  | w :: r => sendWakes (sendWake s w) r

/-- Entries that a home lists on chip (R70); the manual gives the cluster unit no number. -/
def homeCap (n : Nat) : Nat := if n < 136 ∨ n = 297 then 512 else 2048

/-- Waiters that a home holds, by its unit. -/
def waitersAt (s : State) (unit : Nat) : List Waiter := s.waiters.filter fun w => homeUnit s w.handle.toNat == unit

/-- A waiter entry as its 32 bytes (R69). CORE of a waiter that is no core is 127 for the launcher and the units of a port, and the port's
number for a window of an aperture (DESIGN CHOICE, log entry 100). -/
def waiterBytes (w : Waiter) : List Byte :=
  let h := w.handle.toNat
  let core := if w.kind = 2 ∨ w.kind = 3 ∨ w.kind = 4 then 127 else if w.kind = 6 then w.lane else w.unit % 128
  let lane := if w.kind ≤ 1 ∨ w.kind = 5 then w.lane % 32 else 0
  let slot := if w.kind ≤ 1 then w.slot % 64 else 0
  natLe 8 w.thresh.toNat ++ natLe 8 (match w.deadline with | some d => d | none => 2 ^ 64 - 1) ++
    natLe 8 (hIndex h + hLevel h * 2 ^ 37 + w.kind * 2 ^ 40 + w.cond * 2 ^ 44 + 2 ^ 47 + w.job % 65536 * 2 ^ 48) ++
    natLe 8 (w.module % 8192 + dieOf w.unit % 16 * 2 ^ 13 + core * 2 ^ 17 + lane * 2 ^ 24 + slot * 2 ^ 29 + w.tag % 65536 * 2 ^ 35)

/-- Entries of a home that are in its segment of the spill area. -/
def spilledAt (s : State) (unit : Nat) : Nat := ((waitersAt s unit).filter (·.spilled)).length

/-- Write a home's spilled entries to its segment of the spill area, from its first place on; the places that held the `old` entries of
before and hold none now are cleared, VALID with them (R69, R70, R72). -/
def writeSpill (s : State) (unit old : Nat) : State :=
  let d := unit / 512
  let sp := (waitersAt s unit).filter (·.spilled)
  let base := getReg s d 0x510 + 32 * 2 ^ getField s d 0x518 4 0 * (unit % 512)
  memWrite s base (sp.flatMap waiterBytes ++ natLe (32 * (old - sp.length)) 0)

/-- When entries of a home's list are free, spilled entries move back in the order in which they spilled (R70). -/
def respillFrom (s : State) (unit room : Nat) : List Waiter → Nat → List Waiter
  | [], _ => []
  | w :: r, n =>
    if n < room && w.spilled && homeUnit s w.handle.toNat == unit then { w with spilled := false } :: respillFrom s unit room r (n + 1)
    else w :: respillFrom s unit room r n

/-- A home of which `old` entries were spilled, and some of whose entries have gone: spilled ones move back as far as its list has room. -/
def respill (s : State) (unit old : Nat) : State :=
  if old = 0 then s
  else
    let onChip := ((waitersAt s unit).filter fun w => !w.spilled).length
    writeSpill { s with waiters := respillFrom s unit (homeCap (unit % 512) - onChip) s.waiters 0 } unit old

/-- Homes whose lists these entries have left take spilled ones back. -/
def respillAt (old : State) : State → List Waiter → State
  | s, [] => s
  | s, w :: r => let u := homeUnit old w.handle.toNat; respillAt old (respill s u (spilledAt old u)) r

/-- Waiter entries leave the lists of their homes. -/
def takeWaiters (s : State) (gone : Waiter → Bool) : State :=
  cure (respillAt s { s with waiters := s.waiters.filter fun w => !gone w } (s.waiters.filter gone)) fun p => match p with
    | .waiter h k u c => (s.waiters.filter gone).any fun w => w.handle.toNat == h && w.kind == k && w.uid == u && w.cond == c
    | _ => false

/-- After each addition the home tests the cell's waiters (R67), but for those of a job that is halted on its die (R203). -/
def wakeWaiters (s : State) (h : Nat) : State :=
  let v := cellGet s h
  let hit : Waiter → Bool := fun w => w.handle.toNat == h && condMet v w.thresh.toNat && !(localHandle s h && jobHeld s (hDie h) w.job)
  if s.waiters.any hit then takeWaiters (sendWakes s (s.waiters.filter hit)) hit else s

/-- The PASID with which a port translates for itself; no job has it, and the manual names none (DESIGN CHOICE, log entry 118). -/
def noPasid : Nat := 2 ^ 20

/-- Plain translation requests that a port asks for a page, where the request of the same kind is not under way already. -/
def findPageReq (s : State) (port pasid page : Nat) (write : Bool) : Option PageReq :=
  s.pageReqs.find? fun r => r.port == port && r.pasid == pasid && r.page == page && r.write == write

/-- A new translation request of a port, which its ATS Translation Request tells the host (R381). -/
def newPageReq (s : State) (r : PageReq) : State :=
  { s with
    pageReqs := s.pageReqs ++ [{ r with id := s.fresh + 1 }]
    fresh := s.fresh + 2
    hostOut := .atsRequest r.port r.pasid r.page r.write :: s.hostOut }

/-- A shadow write waits for the translation of its page (R76, R381). -/
def askShadow (s : State) (port page h : Nat) : State :=
  match findPageReq s port noPasid page true with
  | some r => { s with pageReqs := s.pageReqs.map fun q => if q.id == r.id then { q with cells := if has q.cells h then q.cells else q.cells ++ [h] } else q }
  | none => newPageReq s ⟨0, port, noPasid, page, true, false, false, false, 0, [], true, [], [h], []⟩

/-- Shadow writes stop for a cell, for a reason of `hostFail` (R413). -/
def stopShadow (s : State) (port kind h : Nat) : State := hostFail { s with shadowOff := h :: s.shadowOff } port kind

/-- The shadow of a host-window cell, written through its port's translation (R76); where the port's link is down it fails (R413). -/
def shadowOut (s : State) (h : Nat) : State :=
  if hLevel h = 5 && !has s.shadowOff h then
    let port := if hDie h = 0 then 0 else 1
    let a := getReg s (hDie h) 0x528 + 8 * hIndex h
    if has s.portDown port then stopShadow s port 0 h
    else match s.atc.find? fun e => e.port == port && e.pasid == noPasid && e.page == a / 4096 && e.w with
      | some e => { s with hostOut := .shadow port (e.bus * 4096 + a % 4096) (BitVec.ofNat 64 (cellGet s h)) :: s.hostOut }
      | none => askShadow s port (a / 4096) h
  else s

/-- The counter of a validity class of a die (R110). -/
def classCounter (s : State) (die cls : Nat) : Nat := getReg s die (0x628 + 8 * cls)

/-- When a class's counter changes, the class's lines are dropped, and reads under way leave none (R110, R112). -/
def dropClass (s : State) (h : Nat) : State :=
  { s with
    glean := s.glean.filter fun l => classCounter s l.die l.cls ≠ h
    packets := s.packets.map fun p => match p.body with
      | .read pa m rid keep (some g) => if classCounter s (if p.src < 1536 then dieOf p.src else p.src - 2000000) g.1 = h then
          { p with body := .read pa m rid keep none } else p
      | .readResp rid bs l (some g) x => if classCounter s (backDie p.dst) g.1 = h then { p with body := .readResp rid bs l none x } else p
      | _ => p }

/-- A home applies an addition to a sound cell (R64). -/
def cellAdd (s : State) (h amount : Nat) : State :=
  let s0 := if amount % 2 ^ 64 = 0 then s else dropClass s h
  let s1 := cellSet s0 h (cellGet s0 h + amount)
  shadowOut (wakeWaiters s1 h) h

/-! ## Fault records (17 R353, R354, R357) -/

/-- Word 1 of a record (R353). -/
def FaultRec.word1 (r : FaultRec) : Nat :=
  r.cls % 16 + (r.code % 4096) * 2 ^ 4 + (r.job % 65536) * 2 ^ 16 + (r.die % 16) * 2 ^ 32 + (r.core % 128) * 2 ^ 36 +
    (r.lane % 32) * 2 ^ 43 + (r.slot % 64) * 2 ^ 48 + (if r.precise then 2 ^ 54 else 0) +
    (if r.withheld then 2 ^ 55 else 0) + 2 ^ 63

/-- The 64 bytes of a record with its STAMP and SEQ (R353). -/
def FaultRec.bytes (r : FaultRec) (stamp seq : Nat) : List Byte :=
  natLe 8 stamp ++ natLe 8 r.word1 ++ natLe 8 (r.pc % 2 ^ 57) ++ natLe 8 r.addr ++ natLe 8 r.ctr ++
    natLe 8 (r.amount % 2 ^ 32 + (r.aux % 2 ^ 32) * 2 ^ 32) ++ natLe 8 r.info ++ natLe 8 (seq % 2 ^ 32)

/-- Send an MSI-X message, or keep it pending while it is masked (R357). -/
def sendMsix (s : State) (port vec : Nat) : State :=
  if has s.portDown port || !dieOn s (portDie port) then s
  else if has s.msixOpen (512 * port + vec) then { s with hostOut := .msix port vec :: s.hostOut }
  else if has s.msixPend (512 * port + vec) then s
  else { s with msixPend := s.msixPend ++ [512 * port + vec] }

/-- Number of records a die has written. -/
def faultSeqOf (s : State) (d : Nat) : Nat := mapGet 0 s.faultSeq d

/-- Address of the die's next record, when the ring has room (R354). -/
def ringSlot (s : State) (d : Nat) : Option Nat :=
  let n := getField s d 0x108 4 0
  let k := faultSeqOf s d
  let head := cellGet s (getReg s d 0x118)
  if n = 0 then none
  else if condMet head (k + 1 + 2 ^ 64 - 2 ^ n) then some (getReg s d 0x100 + 64 * (k % 2 ^ n))
  else none

/-- Write a record to its die's ring, count it at the tail and signal the ports; or count it in LOST (R354, R357). Answers the
record's address and SEQ when it was written. -/
def writeRecord (s : State) (r : FaultRec) : State × Option (Nat × Nat) :=
  match ringSlot s r.die with
  | none => (bumpField s r.die 0x120 31 0, none)
  | some a =>
    let k := faultSeqOf s r.die
    let s1 := memWrite s a (r.bytes (ftime s r.die) k)
    let s2 := { s1 with faultSeq := mapSet 0 s1.faultSeq r.die (k + 1) }
    let tail := getReg s2 r.die 0x110
    let s3 := if (badHandle s2 tail).isNone && !cellPoisoned s2 tail then cellAdd s2 tail 1 else s2
    let ctl := getReg s3 r.die 0x108
    let vec := 256 + 16 * r.die + r.cls
    let s4 := if bit ctl (16 + r.cls) then sendMsix s3 0 vec else s3
    (if bit ctl (32 + r.cls) then sendMsix s4 1 vec else s4, some (a, k))

/-! ## Placement of children: slots, bins, flocks (02 R36 to R39) -/

/-- Threads that hold a slot in a lane of a core. -/
def laneThreads (s : State) (core lane : Nat) : List Thread :=
  s.threads.filter fun t => t.core == core && t.lane == lane && holdsSlot s t

/-- The lowest start of a free run of a length among runs, out of 0 and the ends of the runs. -/
def lowestFree (runs : List (Nat × Nat)) (n : Nat) : Nat :=
  ((sortBy id (0 :: runs.map fun r => r.1 + r.2)).find? fun a => !runs.any fun r => a < r.1 + r.2 && r.1 < a + n).getD 0

/-- The lowest place of a lane's register file at which `alloc` registers lie together free beside these allocations (R15, R27). The manual
does not say which free place an allocation takes (DESIGN CHOICE, log entry 44). -/
def regRoom (runs : List (Nat × Nat)) (alloc : Nat) : Option Nat :=
  let a := lowestFree runs alloc
  if a + alloc ≤ Config.regsPerLane then some a else none

/-- The allocations of a lane's register file. -/
def regRuns (ts : List Thread) : List (Nat × Nat) := ts.map fun t => (t.rbase, t.alloc)

/-- The lowest free slot of a lane, and the place of the allocation in its register file (R15, R27). The manual says only that the slot is free
(DESIGN CHOICE, log entry 44). -/
def freeSlot (s : State) (core lane alloc : Nat) : Option (Nat × Nat) :=
  let ts := laneThreads s core lane
  match regRoom (regRuns ts) alloc, (upFrom 0 Config.slotsPerLane).find? fun k => !ts.any fun t => t.slot == k with
  | some a, some k => some (k, a)
  | _, _ => none

/-- Tiles held on a core (R15). -/
def tilesHeld (s : State) (core : Nat) : Nat :=
  (s.flocks.filter fun f => f.core == core && f.resident).foldl (fun n f => n + f.tiles.length) 0

/-- The lowest flock index that no live flock of the core holds (R31). -/
def freeIndex (s : State) (core : Nat) : Nat :=
  ((upFrom 0 (s.flocks.length + 1)).find? fun i => !s.flocks.any fun f => f.core == core && f.idx == i).getD 0

/-- The places of a bin, by lane (R36). -/
def binMembers (s : State) (id : Nat) : List Thread := s.threads.filter fun t => t.bin == some id

/-- A bin becomes a flock (R39). -/
def launchBin (s : State) (b : Bin) : State :=
  let idx := freeIndex s b.core
  let f : Flock := { Flock.blank with core := b.core, idx := idx, job := b.job, prio := b.prio, tiles := List.replicate b.tiles Tile.zero, since := b.since }
  { s with
    flocks := s.flocks ++ [f]
    bins := s.bins.filter fun c => c.id ≠ b.id
    threads := s.threads.map fun t => if t.bin == some b.id then { t with bin := none, flock := idx, age := s.cycle + 1 } else t }

/-- Launch these bins in their order as far as their tiles fit; the ones behind wait (R39). -/
def launchInOrder (s : State) : List Bin → State
  | [] => s
  | b :: r =>
    if tilesHeld s b.core + b.tiles ≤ Config.tilesPerCore then launchInOrder (launchBin s b) r else s

/-- Launch the due bins of a core that is not held back by the halt wave (R39, R203). -/
def launchDue (s : State) (core : Nat) : State :=
  launchInOrder s (s.bins.filter fun b => b.core == core && b.due && !jobHeld s (dieOf core) b.job)

/-- Mark a bin as due. -/
def markDue (s : State) (id : Nat) : State :=
  { s with bins := s.bins.map fun b => if b.id == id then { b with due := true } else b }

/-- The first flock of a core's waiting set. -/
def firstWaiting (s : State) (core : Nat) : Option Flock :=
  match s.waitset.find? fun p => p.1 == core with
  | some p => findFlock s core p.2
  | none => none

/-- Whether a lane's resources are kept for the first waiting flock (R55): it has a member there that would not fit beside one
more thread of `alloc` registers. -/
def keptLane (s : State) (core lane alloc : Nat) : Bool :=
  match firstWaiting s core with
  | none => false
  | some f => (membersOf s core f.idx).any fun m =>
      m.lane == lane &&
        (let ts := laneThreads s core lane
         let runs := regRuns ts
         (match regRoom runs alloc with
         | some a => (regRoom ((a, alloc) :: runs) m.alloc).isNone
         | none => true) || Config.slotsPerLane ≤ ts.length + 1)

/-- The open bin of a key that is not due. -/
def openBin (s : State) (core job : Nat) (entry : VAddr) (sgl : Nat) : Option Bin :=
  s.bins.find? fun b => b.core == core && b.job == job && b.entry == entry && b.sgl == sgl && !b.due

/-- The candidate lanes for a child, from its parent's lane upwards (R37): the lane, the slot and the place of the registers. -/
def candidates (s : State) (core lane alloc : Nat) (taken : List Nat) : Option (Nat × Nat × Nat) :=
  ((upFrom lane 32).map (· % 32)).findSome? fun l =>
    if has taken l || keptLane s core l alloc then none
    else (freeSlot s core l alloc).map fun k => (l, k)

/-- Bins of a core that are open (R36). -/
def binsOn (s : State) (core : Nat) : List Bin := s.bins.filter fun b => b.core == core

/-- Open a bin for a child's key; the oldest open bin launches first when 32 are open (R37, R38). None while that one cannot launch: a core
keeps no more than 32 (R36). The PRIO of the flock is that of the child that opens the bin, where parents differ (DESIGN CHOICE, log
entry 101). -/
def openFor (s : State) (core : Nat) (k : Kid) : State × Option Bin :=
  let s1 := if (binsOn s core).length < 32 then s else (match binsOn s core with
    | b :: _ => launchDue (markDue s b.id) core
    | [] => s)
  if 32 ≤ (binsOn s1 core).length then (s1, none)
  else
    let now := ftime s1 (dieOf core)
    let b : Bin := ⟨s1.fresh, core, k.th.job, k.th.pc, k.th.segL.base, now + k.bintime, now, k.th.alloc, k.tiles, k.th.prio, false⟩
    ({ s1 with bins := s1.bins ++ [b], fresh := s1.fresh + 1 }, some b)

/-- Place one child (R37, R38): its bin, its lane and slot. None when no lane has room: an open bin for the key then launches
and the spawn waits. -/
def placeKid (s : State) (core : Nat) (k : Kid) : State × Bool :=
  match (match openBin s core k.th.job k.th.pc k.th.segL.base with
    | some b => (s, some b, false)
    | none => let (s1, b) := openFor s core k; (s1, b, true)) with
  | (s1, none, _) => (s1, false)
  | (s1, some b, fresh) =>
    match candidates s1 core k.lane k.th.alloc ((binMembers s1 b.id).map (·.lane)) with
    | none => (if fresh then { s1 with bins := s1.bins.filter fun c => c.id ≠ b.id, fresh := s.fresh } else launchDue (markDue s1 b.id) core, false)
    | some (l, slot, base) =>
      let t := { k.th with uid := s1.fresh, core := core, lane := l, slot := slot, rbase := base, bin := some b.id, age := s1.cycle + 1 }
      let s2 := { s1 with threads := s1.threads ++ [t], fresh := s1.fresh + 1 }
      (if (binMembers s2 b.id).length = 32 then launchDue (markDue s2 b.id) core else s2, true)

/-- Place children in order until one has to wait; answers those left. -/
def placeKids (s : State) (core : Nat) : List Kid → State × List Kid
  | [] => (s, [])
  | k :: r =>
    match placeKid s core k with
    | (s1, true) => placeKids s1 core r
    | (s1, false) => (s1, k :: r)

/-- Timer test of a core's bins: those that ran out are due (R38, R207). -/
def timeBins (s : State) (core : Nat) : State :=
  let now := ftime s (dieOf core)
  launchDue { s with bins := s.bins.map fun b =>
    if b.core == core && b.deadline ≤ now && !jobHeld s (dieOf core) b.job then { b with due := true } else b } core

/-! ## Taking a trap, and the return from it (17 R352, R355; 18 R366, R367, R372) -/

/-- Why a thread traps. -/
structure Trap where
  /-- CLASS -/
  cls : Nat
  /-- CODE -/
  code : Nat
  /-- AUX -/
  aux : Nat
  /-- ADDR -/
  addr : Nat := 0
  deriving DecidableEq, Repr

/-- POLICY of a job on a die (R355). -/
def policyOf (s : State) (d job : Nat) : Nat :=
  if job = supJob then 0
  else
    match (upFrom 0 32).find? fun k =>
      bit (getReg s d (0x200 + 8 * k)) 16 && getField s d (0x200 + 8 * k) 15 0 == job with
    | some k => getField s d (0x200 + 8 * k) 18 17
    | none => 0

/-- The handler thread of policy 1 (R355): job 0xFFFF, PRIO 3, the supervisor's segments, v0:v1 and TNUM from the record. -/
def handlerKid (s : State) (d : Nat) (rec : Option (Nat × Nat)) : Kid :=
  let entry := getReg s d 0x128
  let hdr := memNat s (entry - 12) 4
  let (a, seq) := rec.getD (0, 2 ^ 32 - 1)
  { lane := 0
    tiles := bits hdr 9 6
    bintime := memNat s (entry - 16) 4
    th := { Thread.blank with
      job := supJob
      pc := BitVec.ofNat 57 entry
      alloc := 32 * bits hdr 5 0
      prio := 3
      segG := ⟨0, 2 ^ 45⟩
      segL := ⟨0, 2 ^ 32⟩
      segC := ⟨0, 2 ^ 37⟩
      tnum := BitVec.ofNat 32 seq
      regs := mapSetAll rawZero [] [(0, ⟨BitVec.ofNat 32 a, 2#4⟩), (1, ⟨BitVec.ofNat 32 (a / 2 ^ 32), 2#4⟩)] } }

/-- Spawn a handler thread on a core, in a bin of its own key; it waits for room like any spawn (R262, R355). -/
def spawnHandler (s : State) (core : Nat) (k : Kid) : State :=
  let (s1, left) := placeKids s core [k]
  if left.isEmpty then timeBins s1 core
  else { s1 with placing := s1.placing ++ [⟨core, [], left, 0, false⟩] }

/-- Lanes of threads as a mask. -/
def laneMask (s : State) (uids : List Nat) : Nat := maskOf (uids.map fun u => (threadOf s u).lane)

/-- Take a trap: the threads are held at the word's PC, and one record names the lowest trapped lane and lists all of them
(R352, R366, R367). The fields of the record come from that lane's failure. -/
def takeTrap (s : State) (i : Issue) (fails : List (Nat × Trap)) : State :=
  match fails with
  | [] => s
  | (u, f) :: _ =>
    let uids := fails.map (·.1)
    let t := threadOf s u
    let s1 := modThreads s uids fun t => { t with trapped := true }
    raise s1
      { FaultRec.blank with
        cls := f.cls, code := f.code, job := i.job, die := i.die, core := i.core % 128, lane := t.lane, slot := t.slot,
        precise := true, pc := i.pc.toNat, addr := f.addr, aux := f.aux, info := laneMask s uids }

/-- A thread's failure joins those of the same issue, in lane order (R367). -/
def joinLate (l : LateTrap) (f : Nat × Nat × Nat × List Nat) : LateTrap := { l with fails := sortBy (·.2.1) (l.fails ++ [f]) }

/-- A thread leaves the placement that it waits for: its own child is not placed (R374). -/
def leavePlacing (s : State) (t : Thread) : State :=
  let left : Placing → Placing := fun p =>
    if has p.group t.uid then { p with group := p.group.filter (· ≠ t.uid), kids := p.kids.filter fun k => k.lane ≠ t.lane } else p
  { s with placing := (s.placing.map left).filter fun p => !p.group.isEmpty || !p.kids.isEmpty }

/-- A precise fault that is found after the word has issued, at its load or its counter (R352, R386, R387): the thread is held at
the word again. Its record is written with those of the other lanes of the issue, which was made in core cycle `at_` − 1 (R367). -/
def trapLate (s : State) (uid : Nat) (pc : VAddr) (at_ : Nat) (f : Trap) : State :=
  match findThread s uid with
  | none => s
  | some t =>
    let s1 := leavePlacing (modThread s uid fun t =>
      { t with trapped := true, pc := pc, wait := .none, parked := false, newPc := if holdsSlot s t then none else some pc }) t
    let same : LateTrap → Bool := fun l => l.core == t.core && l.flock == t.flock && l.at_ == at_ && l.pc == pc
    let e := (t.uid, t.lane, t.slot, [f.cls, f.code, f.aux, f.addr])
    endWaits (if s1.late.any same then { s1 with late := s1.late.map fun l => if same l then joinLate l e else l }
      else { s1 with late := s1.late ++ [⟨t.core, t.flock, t.job, at_, pc, [e]⟩] })

/-- A thread of the flock of a late fault. -/
def ofLate (s : State) (l : LateTrap) (uid : Nat) : Bool := (findThread s uid).any fun t => t.core == l.core && t.flock == l.flock

/-- Other lanes of the issue of a late fault may still fail: results, packets or fences of it are under way. -/
def lateOpen (s : State) (l : LateTrap) : Bool :=
  s.results.any (fun r => r.at_ == l.at_ && r.pc == l.pc && r.uids.any (ofLate s l)) ||
    s.packets.any (fun p => p.grp == l.at_ && p.pc == l.pc && p.uid.any (ofLate s l)) ||
    (l.at_ == 0 && s.threads.any fun t => t.core == l.core && t.flock == l.flock && t.pc == l.pc + 4#57 && (match t.wait with
      | .fence _ _ => true
      | _ => false))

/-- The record of a late fault: the lowest lane's failure, and the lanes of all (R352, R367). -/
def lateRecord (l : LateTrap) : FaultRec :=
  let x := l.fails.headD (0, 0, 0, [])
  let f : Nat → Nat := nthD 0 x.2.2.2
  { FaultRec.blank with
    cls := f 0, code := f 1, aux := f 2, addr := f 3, job := l.job, die := dieOf l.core, core := l.core % 128, lane := x.2.1, slot := x.2.2.1
    precise := true, pc := l.pc.toNat, info := maskOf (l.fails.map (·.2.1)) }

/-- Late faults all of whose lanes are known are recorded. -/
def raiseLate (s : State) : State :=
  { s with
    late := s.late.filter (lateOpen s)
    detected := s.detected ++ (s.late.filter fun l => !lateOpen s l).map lateRecord }

/-- The return from a trap: the job is halted and resumed, and its trapped threads issue again from their saved PC (R355,
R372). -/
def resumeTrapped (s : State) (d job : Nat) : State :=
  { s with threads := s.threads.map fun t =>
      if dieOf t.core == d && t.job == job && t.trapped then { t with trapped := false, age := s.cycle + 1 } else t }

/-! ## Additions by engines, and packets to homes -/

/-- A read under way for a core no longer leaves a clean line of these bytes: the line may be older than what the core has
written or acquired since (R106, R114). -/
def unkeep (s : State) (core k n : Nat) : State :=
  let meets : Nat → Bool := fun a => a < k + n && k < a + 128
  { s with packets := s.packets.map fun p => match p.body with
      | .read pa m rid keep g =>
        if p.src == core && keep && meets (pa / 128 * 128) then { p with body := .read pa m rid false g } else p
      | .readResp rid bs (some l) g x =>
        if p.dst == 10000 + core && meets l.1 then { p with body := .readResp rid bs none g x } else p
      | _ => p }

/-- Drop the core's clean lines (R106, R116). -/
def dropClean (s : State) (core : Nat) : State :=
  { s with
    clean := s.clean.filter fun l => l.core ≠ core
    packets := s.packets.map fun p => match p.body with
      | .read pa m rid _ g => if p.src == core then { p with body := .read pa m rid false g } else p
      | .readResp rid bs _ g x => if p.dst == 10000 + core then { p with body := .readResp rid bs none g x } else p
      | _ => p }

/-- The L1 of a core whose engine completes on a core-level counter evicts its clean lines: a thread that acquires at core scope, which
drops none, must see what the engine has written to the homes (R117, R289; log entry 102). -/
def engineEvicts (s : State) (die core h : Nat) : State :=
  if hLevel h = 0 && hDie h == die && hCore h == core then dropClean s (128 * die + core) else s

/-- An engine adds to its counter as its completion: it has released its bytes, which are in memory when it adds (R65). A
malformed handle withholds the addition (R384), a poisoned cell too (R387). A counter of another die or module is reached by a packet (R169).
`core` is the core within the die, or 127. -/
def engineAdd (s : State) (die core job pc h amount : Nat) : State :=
  match badHandle s h with
  | some r => raiseAsync s 5 1 job die core pc h (some (h, amount)) r 0
  | none =>
    if localHandle s h && hDie h == die then
      if cellPoisoned s h then raiseAsync s 5 5 job die core pc h (some (h, amount)) 0 0
      else cellAdd (engineEvicts s die core h) h amount
    else sendPacket s { Packet.blank with
      src := engSrc die, dst := homeUnit s h, ordered := localHandle s h, job := job, pc := BitVec.ofNat 57 pc, eng := some 0, va := core
      body := .ctr (BitVec.ofNat 64 h) (.add amount) }

/-- Whether a place is an s register or a tile element of a flock. -/
def inFlock (core idx : Nat) : Place → Bool
  | .sreg c f _ => c == core && f == idx
  | .tile c f _ _ => c == core && f == idx
  | _ => false

/-- A flock loses its last member (R31): its registers, tiles and key entry go, and their contents are lost. -/
def dissolveEmpty (s : State) (core idx : Nat) : State :=
  if s.threads.any fun t => t.core == core && t.flock == idx && t.bin.isNone then s
  else
    { s with
      flocks := s.flocks.filter fun f => !(f.core == core && f.idx == idx)
      keys := s.keys.filter fun k => !(k.1 == core && k.2.2.2 == idx)
      waitset := s.waitset.filter (· ≠ (core, idx))
      poison := s.poison.filter fun p => !inFlock core idx p
      flips := s.flips.filter fun p => !inFlock core idx p.1 }

/-- End a thread (R265): its slot, registers and results go; its stores and engine operations go on. -/
def endThread (s : State) (uid : Nat) : State :=
  match findThread s uid with
  | none => s
  | some t =>
    let s1 := { s with
      threads := s.threads.filter fun u => u.uid ≠ uid
      poison := s.poison.filter fun p => match p with
        | .vreg u _ => u ≠ uid
        | _ => true
      flips := s.flips.filter fun p => match p.1 with
        | .vreg u _ => u ≠ uid
        | _ => true
      halts := s.halts.map fun w => { w with stepping := w.stepping.filter (· ≠ uid), stepped := w.stepped.filter (· ≠ uid) } }
    if t.bin.isNone then dissolveEmpty s1 t.core t.flock else s1

/-- Local-store regions of launches with no thread left are free again (R51). -/
def freeLaunches (s : State) : State :=
  { s with launches := s.launches.filter fun l => 
    s.threads.any (fun t => t.core == l.core && t.launch == some l.id) ||
      s.sweeps.any (fun w => w.core == l.core && w.launch == some l.id) ||
      s.beams.any (fun b => b.core == l.core && b.launch == some l.id) }

end Sys2Proof.Machine
end

