-- ==== Sys2Proof/Machine/Operands.lean ====
section
/-! DEFINITION. Operands (10 R210 to R215) and the issue of a word by a group (R217 to R221), with the checks of 18 R365: the two
forms every instruction word has, once per thread and once per group. -/

namespace Sys2Proof.Machine

/-! ## The B selector (R211 to R214) -/

/-- The format a selector operand is read in (R212). -/
inductive SFmt where
  /-- 32-bit integer or bits -/
  | int
  /-- F32 -/
  | f32
  /-- BF16x2 -/
  | bf16x2
  /-- F16x2 -/
  | f16x2
  /-- I64: immediates and literals are sign-extended -/
  | i64
  /-- N64: immediates are sign-extended, literals zero-extended -/
  | n64
  deriving DecidableEq, Repr

/-- Whether the operand has 64 bits. -/
def SFmt.wide : SFmt → Bool
  | .i64 => true
  | .n64 => true
  | _ => false

/-- An immediate in a format (R212). -/
def immBits (f : SFmt) (v : Int) : Nat :=
  let enc : FFmt → Nat := fun m => (fround m (v < 0) v.natAbs 0 .rn false).1
  match f with
  | .int => patN 32 v
  | .f32 => enc fmtF32
  | .bf16x2 => enc fmtBF16 * 65537
  | .f16x2 => enc fmtF16 * 65537
  | .i64 => patN 64 v
  | .n64 => patN 64 v

/-- A special source for a thread (R213). -/
def special (s : State) (i : Issue) (t : Thread) (b : Nat) : Nat :=
  let f := flockOf s t.core t.flock
  match b with
  | 96 => t.lane
  | 97 => t.slot
  | 98 => t.tnum.toNat
  | 99 => flockId t.core t.flock
  | 100 => t.core % 128
  | 101 => t.core % 128 / 16
  | 102 => dieOf t.core
  | 103 => moduleId s
  | 104 => ftime s (dieOf t.core) % 2 ^ 32
  | 105 => t.ftHi.toNat
  | 106 => match t.role with
    | .sweep _ e => if t.wait = .idle then 2 ^ 32 - 1 else e
    | _ => 2 ^ 32 - 1
  | 107 => maskOf ((membersOf s t.core t.flock).map (·.lane))
  | 108 => laneMask s i.group
  | 109 => t.job
  | 110 => f.prio
  | 111 => t.wb
  | 112 => t.alloc
  | 113 => t.status.toNat
  | 114 => s.cycle % 2 ^ 32
  | 115 => t.cycHi.toNat
  | 116 => numCoresOn s (dieOf t.core)
  | 117 => if t.g then 1 else 0
  | 118 => (f.key.getD 0#32).toNat
  | _ => 2 ^ 32 - 1

/-- Src(b, t) in a format (R211, R212, R222). -/
def src (s : State) (i : Issue) (t : Thread) (b : Nat) (lit : Word) (f : SFmt) : Nat :=
  if b < 64 then
    let fl := flockOf s t.core t.flock
    if f.wide then sPair fl b else (getS fl b).toNat
  else if b < 96 then immBits f ((b : Int) - 80)
  else if b < 120 then special s i t b % 2 ^ 32
  else if b = 126 then (match f with
    | .i64 => patN 64 (signedN 32 lit.toNat)
    | _ => lit.toNat)
  else 0

/-- Reading %ftlo or %cyclo latches the high half (R213). -/
def latch (s : State) (uids : List Nat) (b : Nat) : State :=
  if b = 104 then modThreads s uids fun t => { t with ftHi := BitVec.ofNat 32 (ftime s (dieOf t.core) / 2 ^ 32) }
  else if b = 114 then modThreads s uids fun t => { t with cycHi := BitVec.ofNat 32 (s.cycle / 2 ^ 32) }
  else s

/-- Selector values that are reserved (R211). -/
def selRsv (b : Nat) : Bool := 120 ≤ b && b ≤ 125

/-- s registers that a selector names. -/
def selS (b : Nat) (wide : Bool) : List Nat := if b < 64 then (if wide then [b, b + 1] else [b]) else []

/-! ## What a word names, and its checks (R365) -/

/-- Tags that a read as I32, N32, I64 or N64 accepts (R130). -/
def tagsInt : List Nat := [1, 2, 0]

/-- What a word names in a thread: runs of v registers read and written (first, count), s registers, tiles, the guard bit; the
tag checks in the order D, A, B as (field, register, accepted tags); operand limits as (broken, field). -/
structure Names where
  /-- v registers read -/
  vr : List (Nat × Nat) := []
  /-- v registers written -/
  vw : List (Nat × Nat) := []
  /-- s registers read -/
  sr : List Nat := []
  /-- s registers written -/
  sw : List Nat := []
  /-- reads g beside the guard -/
  gr : Bool := false
  /-- writes g -/
  gw : Bool := false
  /-- tiles named, and whether they are written -/
  ti : List Nat := []
  /-- tiles are written -/
  tw : Bool := false
  /-- typed reads of tiles: tile and accepted tags, in field D -/
  tileTags : List (Nat × List Nat) := []
  /-- typed reads -/
  tags : List (Nat × Nat × List Nat) := []
  /-- limits -/
  limits : List (Bool × Nat) := []
  deriving DecidableEq, Repr

/-- Registers of runs: v0 to v127, for there are no others (R45). -/
def runRegs (l : List (Nat × Nat)) : List Nat := (l.flatMap fun p => upFrom p.1 p.2).filter (· < 128)

/-- Whether switch regions are checked on a core (R371). -/
def strictOn (s : State) (core : Nat) : Bool := has s.strict core

/-- Targets of a word, with the fields of their fault: register number and kind (R364). -/
def targetsOf (t : Thread) (guard : Bool) (n : Names) : List (Target × Nat × Nat) :=
  (runRegs (n.vw ++ n.vr)).map (fun r => (Target.v (t.wb + r), r, 0)) ++ (n.sw ++ n.sr).map (fun r => (Target.s r, r, 1)) ++
    (if guard || n.gr || n.gw then [(Target.g, 0, 2)] else []) ++ n.ti.map (fun r => (Target.tile r, r, 3))

/-- Targets that a word writes. -/
def writtenBy (t : Thread) (n : Names) : List Target :=
  (runRegs n.vw).map (fun r => Target.v (t.wb + r)) ++ n.sw.map Target.s ++ (if n.gw then [Target.g] else []) ++
    (if n.tw then n.ti.map Target.tile else [])

/-- Check 4: registers at or beyond ALLOC, tiles at or beyond TCOUNT. -/
def check4 (s : State) (t : Thread) (n : Names) : Option Trap :=
  match (runRegs (n.vw ++ n.vr)).find? fun r => t.alloc < 128 && t.alloc ≤ r with
  | some r => some { cls := 2, code := 3, aux := r }
  | none =>
    match n.ti.find? fun k => (flockOf s t.core t.flock).tiles.length ≤ k with
    | some k => some { cls := 2, code := 4, aux := k }
    | none => none

/-- Check 5: switch regions under CORE_STRICT. -/
def check5 (s : State) (t : Thread) (guard : Bool) (n : Names) : Option Trap :=
  if strictOn s t.core then
    match (targetsOf t guard n).find? fun p => t.region.any (· == p.1) with
    | some p => some { cls := 2, code := 5, aux := p.2.1 + p.2.2 * 2 ^ 7 }
    | none => none
  else none

/-- AUX of an unaccepted tag: register, tag found, first accepted tag, field (R364). -/
def tagAux (reg found first field : Nat) : Nat := reg % 128 + found * 2 ^ 7 + first * 2 ^ 11 + field * 2 ^ 15

/-- Tags of tiles (R130). -/
def checkTiles (s : State) (t : Thread) (n : Names) : Option Trap :=
  let tag : Nat → Nat := fun k => (tileOf (flockOf s t.core t.flock) k).tag.toNat
  match n.tileTags.find? fun p => !has p.2 (tag p.1) with
  | some p => some { cls := 2, code := 1, aux := tagAux p.1 (tag p.1) (nthD 0 p.2 0) 0 }
  | none => none

/-- Check 6: tags (R130, R364); a register above v127 has none. -/
def check6 (t : Thread) (n : Names) : Option Trap :=
  match n.tags.find? fun p => p.2.1 < 128 && !has p.2.2 (getV t p.2.1).tag.toNat with
  | some p => some { cls := 2, code := 1, aux := tagAux p.2.1 (getV t p.2.1).tag.toNat (nthD 0 p.2.2 0) p.1 }
  | none => none

/-- Check 7: operand limits. -/
def check7 (n : Names) : Option Trap :=
  match n.limits.find? (·.1) with
  | some p => some { cls := 1, code := 4, aux := p.2 }
  | none => none

/-- A place that a word reads in a thread: a v register, an s register, or an element of a tile. -/
def Names.reads (n : Names) (t : Thread) : Place → Bool
  | .vreg u r => u == t.uid && (runRegs n.vr).any fun k => t.wb + k == r
  | .sreg c f k => c == t.core && f == t.flock && has n.sr k
  | .tile c f k _ => c == t.core && f == t.flock && has n.ti k && (!n.tw || !n.tileTags.isEmpty)
  | _ => false

/-- Reading a poisoned register traps (R358). -/
def checkPoison (s : State) (t : Thread) (n : Names) : Option Trap :=
  if s.poison.any (n.reads t) then
    some { cls := 7, code := Config.class7Code.toNat, aux := 0 }
  else none

/-- Checks 4 to 7 in a thread, and poison. -/
def checkThread (s : State) (t : Thread) (guard : Bool) (n : Names) : Option Trap :=
  check4 s t n <|> check5 s t guard n <|> checkTiles s t n <|> check6 t n <|> check7 n <|> checkPoison s t n

/-! ## What a word does -/

/-- Register results, guard bits, STATUS bits and branches of a word. -/
structure Eff where
  /-- v registers -/
  v : List VWrite := []
  /-- s registers -/
  s : List SWrite := []
  /-- guard bits -/
  g : List (Nat × Bool) := []
  /-- STATUS bits -/
  st : List (Nat × BitVec 16) := []
  /-- branch targets -/
  pc : List (Nat × VAddr) := []
  deriving DecidableEq, Repr

/-- The outcome of a word in a thread, or in the group. -/
inductive Out where
  /-- it takes effect -/
  | eff (e : Eff)
  /-- it traps -/
  | trap (f : Trap)
  /-- it waits and issues again -/
  | wait (w : Waiting)
  /-- it takes effect, and the thread waits with its PC advanced -/
  | hold (e : Eff) (w : Waiting)
  deriving DecidableEq, Repr

/-- What the threads of a group came to. -/
structure Acc4 where
  /-- effects -/
  e : Eff := {}
  /-- trapped threads, by ascending lane -/
  fails : List (Nat × Trap) := []
  /-- threads that keep their PC and wait -/
  waits : List Nat := []
  deriving DecidableEq, Repr

/-- Join effects. -/
def Eff.append (a b : Eff) : Eff :=
  { v := a.v ++ b.v, s := a.s ++ b.s, g := a.g ++ b.g, st := a.st ++ b.st, pc := a.pc ++ b.pc }

/-- Whether a word has a register result (R46). -/
def Eff.hasResult (e : Eff) : Bool := !e.v.isEmpty || !e.s.isEmpty || !e.g.isEmpty || !e.st.isEmpty

/-- Threads whose results an effect holds. -/
def Eff.uids (e : Eff) (act : List Nat) : List Nat :=
  if e.s.isEmpty then act.filter fun u => e.v.any (·.uid == u) || e.g.any (·.1 == u) || e.st.any (·.1 == u) else act

/-- Put the results of a word in flight. -/
def commit (s : State) (act : List Nat) (e : Eff) : State :=
  if e.hasResult then
    addResult s { Result.empty with uids := e.uids act, v := e.v, s := e.s, g := e.g, st := e.st.filter fun p => p.2 ≠ 0#16 }
  else s

/-- The end of an issue: PCs, switch regions and parking (R46, R221); trapped and waiting threads stay at the word. -/
def finish (s : State) (i : Issue) (stay : List Nat) (br : List (Nat × VAddr)) (wrote : Nat → List Target) : State :=
  let go := i.group.filter fun u => !has stay u
  let split := go.any (fun u => br.any (·.1 == u)) && go.any (fun u => !br.any (·.1 == u))
  let next : VAddr := i.pc + BitVec.ofNat 57 i.len
  let s1 := modThreads s go fun t =>
    { t with
      pc := match br.find? (·.1 == t.uid) with
        | some p => p.2
        | none => next
      parked := i.sbit
      region := if i.sbit then [] else if strictOn s i.core then t.region ++ wrote t.uid else t.region
      age := if split then s.cycle + 1 else t.age
      last := s.cycle + 1
      aged := false }
  if i.sbit then unpark s1 go else s1

/-- One thread's outcome entered. -/
def enter (s : State) (u : Nat) (acc : Acc4) : Out → State × Acc4
  | .eff e => (s, { acc with e := acc.e.append e })
  | .trap f => (s, { acc with fails := acc.fails ++ [(u, f)] })
  | .wait w => (modThread s u fun t => { t with wait := w }, { acc with waits := acc.waits ++ [u] })
  | .hold e w => (modThread s u fun t => { t with wait := w }, { acc with e := acc.e.append e })

/-- A thread whose access needs a page request waits behind a lower lane. -/
def pageBehind (s : State) (req u : Nat) : State :=
  { s with pageReqs := s.pageReqs.map fun q => if q.id == req && !has q.behind u then { q with behind := q.behind ++ [u] } else q }

/-- Of threads that wait behind a lower lane, those whose own access needs the host ask it too; nothing else of the word happens (R272, R381). -/
def askBehind (i : Issue) (ask : State → Issue → Thread → State × Out) : State → List Nat → State
  | s, [] => s
  | s, u :: r =>
    match ask s i (threadOf s u) with
    | (s1, .wait (.page n)) => askBehind i ask (if n = 0 then s else pageBehind s1 n u) r
    | _ => askBehind i ask s r

/-- Higher lanes wait behind a lane that waits: what the lanes of a group send out leaves in ascending lane order (R272, R313, R327). -/
def waitBehind (s : State) (u : Nat) (w : Waiting) (rest : List Nat) (acc : Acc4) : State × Acc4 :=
  (modThreads s (u :: rest) fun t => { t with wait := w }, { acc with waits := acc.waits ++ u :: rest })

/-- Run a word in each active thread, by ascending lane (R221). -/
def eachThread (i : Issue) (guard : Bool) (names : Thread → Names) (body : State → Issue → Thread → State × Out) :
    State → Acc4 → List Nat → State × Acc4
  | s, acc, [] => (s, acc)
  | s, acc, u :: r =>
    let t := threadOf s u
    let (s1, o) := match checkThread s t guard (names t) with
      | some f => (s, Out.trap f)
      | none => body s i t
    match o with
    | .wait w =>
      let (s2, acc2) := waitBehind s1 u w r acc
      (match w with
      | .page _ => askBehind i (fun s i t => if (checkThread s t guard (names t)).isSome then (s, .eff {}) else body s i t) s2 r
      | _ => s2, acc2)
    | o => let (s2, acc2) := enter s1 u acc o; eachThread i guard names body s2 acc2 r

/-- Checks 1 to 3 concern the word and trap the whole group (R365, R366). -/
def wordTrap (s : State) (i : Issue) (code : Nat) : State :=
  takeTrap s i (i.group.map fun u => (u, { cls := 1, code := code, aux := i.word.toNat }))

/-- Whether a thread runs at supervisor level (R334). -/
def Issue.sup (i : Issue) : Bool := i.job == supJob

/-- A thread holds at most 32 results in flight (R220). -/
def tooMany (s : State) (i : Issue) : Bool := i.act.any fun u => 32 ≤ outstanding s u

/-- Let the group wait for the results of its threads and issue the word again. -/
def waitResults (s : State) (i : Issue) : State :=
  modThreads s i.group fun t => { t with wait := .results }

/-- Whether an active thread has results outstanding. -/
def pending (s : State) (i : Issue) : Bool := i.act.any fun u => outstanding s u ≠ 0

/-- The parts of a word that its checks read. -/
structure Word4 where
  /-- the fields -/
  f : Fields
  /-- a field holds a reserved value (check 2) -/
  rsv : Bool := false
  /-- the code is privileged (check 3, R234) -/
  priv : Bool := false
  /-- it takes effect only after every result of the thread's earlier instructions (R265, R266, R270, R322) -/
  last : Bool := false
  /-- its selector B, for the latches of %ftlo and %cyclo, and for %gval -/
  sel : Option (BitVec 7) := none

/-- What a word names, with g where its selector is %gval (R213, R371). -/
def Word4.names (w : Word4) (names : Thread → Names) (t : Thread) : Names :=
  if w.sel = some 117#7 then { names t with gr := true } else names t

/-- Something holds in a thread of the group that issues, the threads among them in which the guard turns the word off (R365). -/
def groupAny (s : State) (f : Fields) (p : Thread → Bool) : Bool :=
  match mkIssue s f with
  | some i => i.group.any fun u => p (threadOf s u)
  | none => false

/-- Issue a word that acts in each thread. -/
def perThread (w : Word4) (names : Thread → Names) (body : State → Issue → Thread → State × Out) (s0 : State) : State :=
  match mkIssue s0 w.f with
  | none => s0
  | some i =>
    if w.rsv then wordTrap s0 i 2
    else if w.priv && !i.sup then wordTrap s0 i 3
    else if tooMany s0 i || (w.last && pending s0 i) then waitResults s0 i
    else
      let s1 := interlock s0 i.core i.flock i.group
      let (s2, acc) := eachThread i w.f.g (w.names names) body s1 {} i.act
      let s3 := commit s2 i.act acc.e
      let s4 := match w.sel with
        | some b => latch s3 (i.act.filter fun u => !acc.fails.any (·.1 == u)) b.toNat
        | none => s3
      let stay := acc.fails.map (·.1) ++ acc.waits
      let s5 := finish s4 i stay acc.e.pc fun u => if has i.act u then writtenBy (threadOf s1 u) (names (threadOf s1 u)) else []
      takeTrap s5 i acc.fails

/-- The first failing check of the active threads (R366). -/
def firstFail (s : State) (guard : Bool) (names : Thread → Names) : List Nat → Option Trap
  | [] => none
  | u :: r => checkThread s (threadOf s u) guard (names (threadOf s u)) <|> firstFail s guard names r

/-- Issue a word that acts once for its group: a failure in any active lane traps every active thread (R218, R366). `body` is
given the thread of the lowest active lane. -/
def oncePerGroup (w : Word4) (names : Thread → Names) (body : State → Issue → Thread → State × Out) (s0 : State) : State :=
  match mkIssue s0 w.f with
  | none => s0
  | some i =>
    if w.rsv then wordTrap s0 i 2
    else if w.priv && !i.sup then wordTrap s0 i 3
    else if tooMany s0 i || (w.last && pending s0 i) then waitResults s0 i
    else
      let s1 := interlock s0 i.core i.flock i.group
      match i.act with
      | [] => finish s1 i [] [] fun _ => []
      | lead :: _ =>
        let (s2, o) := match firstFail s1 w.f.g (w.names names) i.act with
          | some f => (s1, Out.trap f)
          | none => body s1 i (threadOf s1 lead)
        let wrote : Nat → List Target := fun u => if has i.act u then writtenBy (threadOf s1 u) (names (threadOf s1 u)) else []
        let latched : State → State := fun s => match w.sel with
          | some b => latch s [lead] b.toNat
          | none => s
        match o with
        | .eff e => finish (latched (commit s2 i.act e)) i [] e.pc wrote
        | .hold e q => finish (modThreads (latched (commit s2 i.act e)) i.act fun t => { t with wait := q }) i [] e.pc wrote
        | .wait q => finish (modThreads s2 i.act fun t => { t with wait := q }) i i.act [] fun _ => []
        | .trap f => takeTrap (finish s2 i i.act [] fun _ => []) i (i.act.map fun u => (u, f))

/-- One v register write of a thread, window-relative. -/
def wr (t : Thread) (n : Nat) (v : Nat) (tag : Nat) : VWrite := ⟨t.uid, t.wb + n, ⟨BitVec.ofNat 32 v, BitVec.ofNat 4 tag⟩⟩

/-- A pair write of a thread (R215). -/
def wr2 (t : Thread) (n : Nat) (v : Nat) (tag : Nat) : List VWrite := [wr t n v tag, wr t (n + 1) (v / 2 ^ 32) tag]

/-- STATUS bits of a thread, when there are any. -/
def stOf (t : Thread) (f : Flags) : List (Nat × BitVec 16) := if f = 0#16 then [] else [(t.uid, f)]

/-- Everything the issue stage does ends in a next state. -/
def issued (s : State) : Host.Outcome State Fault Refusal := .next s

end Sys2Proof.Machine
end

