-- ==== Sys2Proof/Machine/Alu.lean ====
section
/-! DEFINITION. The arithmetic operations of the vector and scalar classes, and the two ways they are run: on v registers in
each thread (11 R235, R236) and on s registers once for the group (R253). -/

namespace Sys2Proof.Machine

/-! ## Integer and bitwise results (R237) -/

/-- (a + b) mod 2^n. -/
def opAddN (n a b : Nat) : Nat := (a + b) % 2 ^ n
/-- (a − b) mod 2^n. -/
def opSubN (n a b : Nat) : Nat := (a + (2 ^ n - b % 2 ^ n)) % 2 ^ n
/-- (a × b) mod 2^32. -/
def opMul32 (a b : Nat) : Nat := (a * b) % 2 ^ 32
/-- Bits [63:32] of the signed product. -/
def opMulhiI (a b : Nat) : Nat := patN 64 (signedN 32 a * signedN 32 b) / 2 ^ 32
/-- Bits [63:32] of the unsigned product. -/
def opMulhiN (a b : Nat) : Nat := a * b / 2 ^ 32
/-- Signed minimum. -/
def opMinI (a b : Nat) : Nat := if signedN 32 b < signedN 32 a then b else a
/-- Signed maximum. -/
def opMaxI (a b : Nat) : Nat := if signedN 32 a < signedN 32 b then b else a
/-- Logical left shift; 0 from 32 on. -/
def opShl (a b : Nat) : Nat := if 32 ≤ b then 0 else (a * 2 ^ b) % 2 ^ 32
/-- Logical right shift; 0 from 32 on. -/
def opShrN (a b : Nat) : Nat := if 32 ≤ b then 0 else a / 2 ^ b
/-- Arithmetic right shift by min(b, 31). -/
def opShrI (a b : Nat) : Nat := patN 32 (signedN 32 a / ((2 ^ (min b 31) : Nat) : Int))
/-- Leading zero bits. -/
def opClz (b : Nat) : Nat := 32 - bitLen b
/-- Byte selection (R244). -/
def opPerm (a b d : Nat) : Nat :=
  let x := a + 2 ^ 32 * b
  let byte : Nat → Nat := fun k =>
    let n := bits d (4 * k + 3) (4 * k)
    if 8 ≤ n then 0 else x / 2 ^ (8 * n) % 256
  byte 0 + 2 ^ 8 * byte 1 + 2 ^ 16 * byte 2 + 2 ^ 24 * byte 3

/-- Signed three-way order. -/
def cmpI (a b : Nat) : Int :=
  if signedN 32 a < signedN 32 b then -1 else if signedN 32 a = signedN 32 b then 0 else 1
/-- Unsigned three-way order. -/
def cmpN (a b : Nat) : Int := if a < b then -1 else if a = b then 0 else 1

/-- A round of `rngk` on (x0, x1, x2, x3) (R311). -/
def rngkRound (r : Nat) (x : Word × Word × Word × Word) : Word × Word × Word × Word :=
  let (x0, x1, x2, x3) := x
  let x0 := x0 + x1
  let x3 := rotR (x3 ^^^ x0) 16
  let x2 := x2 + x3
  let x1 := rotR (x1 ^^^ x2) 20
  let x0 := x0 + x1 + BitVec.ofNat 32 r
  let x3 := rotR (x3 ^^^ x0) 24
  let x2 := x2 + x3
  let x1 := rotR (x1 ^^^ x2) 25
  (x0, x1, x2, x3)

/-- The random word of a key and an index (R311). -/
def opRngk (key n : Nat) : Nat :=
  let (x0, x1, x2, x3) := (upFrom 0 8).foldl (fun x r => rngkRound r x)
    (BitVec.ofNat 32 n, BitVec.ofNat 32 key, BitVec.ofNat 32 (key / 2 ^ 32), 0x6A09E667#32)
  (x0 ^^^ x1 ^^^ x2 ^^^ x3).toNat

/-! ## What an operation reads and writes -/

/-- An arithmetic operation: what it reads and how, what it writes, and its result from a, b and d. -/
structure AluOp where
  /-- it reads A -/
  useA : Bool := true
  /-- it reads D -/
  useD : Bool := false
  /-- tags its typed operands accept; none for bits (R130) -/
  acc : Option (List Nat) := none
  /-- operands and result are pairs -/
  wide : Bool := false
  /-- how a selector operand is read (R212) -/
  fmt : SFmt := .int
  /-- tag of the result -/
  tag : Nat := 0
  /-- result and STATUS -/
  op : Nat → Nat → Nat → Nat × Flags

/-- The B operand of a vector word. -/
inductive BOp where
  /-- a v register -/
  | reg (n : BitVec 7)
  /-- a selector, with the literal -/
  | sel (b : BitVec 7) (lit : Word)
  deriving DecidableEq, Repr

/-- Registers per operand. -/
def AluOp.count (o : AluOp) : Nat := if o.wide then 2 else 1

/-- Whether a selector is reserved. -/
def BOp.rsv : BOp → Bool
  | .reg _ => false
  | .sel b _ => selRsv b.toNat

/-- The selector, for the latches. -/
def BOp.selector : BOp → Option (BitVec 7)
  | .reg _ => none
  | .sel b _ => some b

/-- The run of v registers that B names. -/
def BOp.runs (b : BOp) (k : Nat) : List (Nat × Nat) :=
  match b with
  | .reg n => [(n.toNat, k)]
  | .sel _ _ => []

/-- The s registers that B names. -/
def BOp.sregs (b : BOp) (wide : Bool) : List Nat :=
  match b with
  | .reg _ => []
  | .sel n _ => selS n.toNat wide

/-- B names an odd pair. -/
def BOp.oddPair : BOp → Bool
  | .reg n => n.toNat % 2 == 1
  | .sel b _ => b.toNat < 64 && b.toNat % 2 == 1

/-- The value of B for a thread. -/
def BOp.val (s : State) (i : Issue) (t : Thread) (b : BOp) (f : SFmt) : Nat :=
  match b with
  | .reg n => if f.wide then vPair t n.toNat else vBits t n.toNat
  | .sel n lit => src s i t n.toNat lit f

/-- The tag of B; RAW from a selector. -/
def BOp.tag (t : Thread) : BOp → Nat
  | .reg n => (getV t n.toNat).tag.toNat
  | .sel _ _ => 0

/-- Tag checks of a field's registers. -/
def tagsOf (field n k : Nat) (acc : Option (List Nat)) : List (Nat × Nat × List Nat) :=
  match acc with
  | some l => (upFrom n k).map fun r => (field, r, l)
  | none => []

/-- Tag checks of B. -/
def BOp.tags (b : BOp) (k : Nat) (acc : Option (List Nat)) : List (Nat × Nat × List Nat) :=
  match b with
  | .reg n => tagsOf 2 n.toNat k acc
  | .sel _ _ => []

/-- What a vector arithmetic word names (R236). -/
def aluNames (o : AluOp) (d a : Nat) (b : BOp) : Names where
  vr := (if o.useD then [(d, o.count)] else []) ++ (if o.useA then [(a, o.count)] else []) ++ b.runs o.count
  vw := [(d, o.count)]
  sr := b.sregs o.wide
  tags := (if o.useD then tagsOf 0 d o.count o.acc else []) ++ (if o.useA then tagsOf 1 a o.count o.acc else []) ++ b.tags o.count o.acc
  limits := if o.wide then [(d % 2 == 1, 0), (a % 2 == 1, 1), (b.oddPair, 2)] else []

/-- The result of a vector arithmetic word in a thread. -/
def aluEff (o : AluOp) (d a : Nat) (b : BOp) (s : State) (i : Issue) (t : Thread) : Eff :=
  let av := if o.wide then vPair t a else vBits t a
  let (r, f) := o.op av (b.val s i t o.fmt) (vBits t d)
  { v := if o.wide then wr2 t d r o.tag else [wr t d r o.tag], st := stOf t f }

/-- A vector arithmetic word (R236); `rsv`: a control field holds a reserved value. -/
def aluVec (o : AluOp) (f : Fields) (rsv : Bool) (d a : BitVec 7) (b : BOp) (s : State) : State :=
  perThread { f := f, rsv := b.rsv || rsv, sel := b.selector } (fun _ => aluNames o d.toNat a.toNat b)
    (fun s i t => (s, .eff (aluEff o d.toNat a.toNat b s i t))) s

/-- What a scalar arithmetic word names (R253). -/
def aluSNames (o : AluOp) (d a b : Nat) : Names where
  sr := (if o.useD then upFrom d o.count else []) ++ (if o.useA then upFrom a o.count else []) ++ selS b o.wide
  sw := upFrom d o.count
  limits := if o.wide then [(d % 2 == 1, 0), (a % 2 == 1, 1), (b < 64 && b % 2 == 1, 2)] else []

/-- s register writes of a group. -/
def swr (i : Issue) (n v : Nat) (wide : Bool) : List SWrite :=
  if wide then [⟨i.core, i.flock, n, BitVec.ofNat 32 v⟩, ⟨i.core, i.flock, n + 1, BitVec.ofNat 32 (v / 2 ^ 32)⟩]
  else [⟨i.core, i.flock, n, BitVec.ofNat 32 v⟩]

/-- STATUS bits of every active thread (R131, R253). -/
def stAll (i : Issue) (f : Flags) : List (Nat × BitVec 16) := if f = 0#16 then [] else i.act.map fun u => (u, f)

/-- A scalar arithmetic word (R253); `rsv`: field A holds a reserved value. -/
def aluScalar (o : AluOp) (f : Fields) (rsv : Bool) (d a b : BitVec 7) (lit : Word) (s : State) : State :=
  oncePerGroup { f := f, rsv := selRsv b.toNat || 64 ≤ d.toNat || rsv, sel := some b }
    (fun _ => aluSNames o d.toNat a.toNat b.toNat)
    (fun s i t =>
      let fl := flockOf s i.core i.flock
      let av := if o.wide then sPair fl a.toNat else (getS fl a.toNat).toNat
      let (r, g) := o.op av (src s i t b.toNat lit o.fmt) (getS fl d.toNat).toNat
      (s, .eff { s := swr i d.toNat r o.wide, st := stAll i g })) s

/-! ## The operations (R237 to R239, R244, R311) -/

/-- An integer operation on 32 bits. -/
def intOp (tag : Nat) (op : Nat → Nat → Nat) : AluOp := { acc := some tagsInt, tag := tag, op := fun a b _ => (op a b, 0#16) }
/-- An operation on bits. -/
def bitOp (op : Nat → Nat → Nat) : AluOp := { op := fun a b _ => (op a b, 0#16) }
/-- A unary operation on bits. -/
def bitOp1 (op : Nat → Nat) : AluOp := { useA := false, op := fun _ b _ => (op b, 0#16) }
/-- A 64-bit integer operation. -/
def wideOp (tag : Nat) (fmt : SFmt) (op : Nat → Nat → Nat) : AluOp :=
  { acc := some tagsInt, wide := true, fmt := fmt, tag := tag, op := fun a b _ => (op a b, 0#16) }
/-- An F32 operation. -/
def f32Op (op : Nat → Nat → Nat × Flags) : AluOp := { acc := some [3], fmt := .f32, tag := 3, op := fun a b _ => op a b }

/-- `add.i32`. -/
def aluAddI32 : AluOp := intOp 1 (opAddN 32)
/-- `add.n32`. -/
def aluAddN32 : AluOp := intOp 2 (opAddN 32)
/-- `sub.i32`. -/
def aluSubI32 : AluOp := intOp 1 (opSubN 32)
/-- `sub.n32`. -/
def aluSubN32 : AluOp := intOp 2 (opSubN 32)
/-- `mul.i32`. -/
def aluMulI32 : AluOp := intOp 1 opMul32
/-- `mul.n32`. -/
def aluMulN32 : AluOp := intOp 2 opMul32
/-- `mulhi.i32`. -/
def aluMulhiI32 : AluOp := intOp 1 opMulhiI
/-- `mulhi.n32`. -/
def aluMulhiN32 : AluOp := intOp 2 opMulhiN
/-- `min.i32`. -/
def aluMinI32 : AluOp := intOp 1 opMinI
/-- `min.n32`. -/
def aluMinN32 : AluOp := intOp 2 min
/-- `max.i32`. -/
def aluMaxI32 : AluOp := intOp 1 opMaxI
/-- `max.n32`. -/
def aluMaxN32 : AluOp := intOp 2 max
/-- `and.b32`. -/
def aluAndB32 : AluOp := bitOp (· &&& ·)
/-- `or.b32`. -/
def aluOrB32 : AluOp := bitOp (· ||| ·)
/-- `xor.b32`. -/
def aluXorB32 : AluOp := bitOp (· ^^^ ·)
/-- `not.b32`. -/
def aluNotB32 : AluOp := bitOp1 fun b => 2 ^ 32 - 1 - b
/-- `shl.b32`. -/
def aluShlB32 : AluOp := bitOp opShl
/-- `shr.n32`. -/
def aluShrN32 : AluOp := intOp 2 opShrN
/-- `shr.i32`. -/
def aluShrI32 : AluOp := intOp 1 opShrI
/-- `popc.b32`. -/
def aluPopcB32 : AluOp := bitOp1 (popcount 32)
/-- `clz.b32`. -/
def aluClzB32 : AluOp := bitOp1 opClz
/-- `add.i64`. -/
def aluAddI64 : AluOp := wideOp 1 .i64 (opAddN 64)
/-- `add.n64`. -/
def aluAddN64 : AluOp := wideOp 2 .n64 (opAddN 64)
/-- `sub.i64`. -/
def aluSubI64 : AluOp := wideOp 1 .i64 (opSubN 64)
/-- `sub.n64`. -/
def aluSubN64 : AluOp := wideOp 2 .n64 (opSubN 64)
/-- `add.f32`. -/
def aluAddF32 : AluOp := f32Op (opAdd fmtF32)
/-- `sub.f32`. -/
def aluSubF32 : AluOp := f32Op (opSub fmtF32)
/-- `mul.f32`. -/
def aluMulF32 : AluOp := f32Op (opMul fmtF32)
/-- `fma.f32`: d is read and its tag checked. -/
def aluFmaF32 : AluOp := { useD := true, acc := some [3], fmt := .f32, tag := 3, op := opFma fmtF32 }
/-- `min.f32`. -/
def aluMinF32 : AluOp := f32Op fun a b => (opMin fmtF32 a b, 0#16)
/-- `max.f32`. -/
def aluMaxF32 : AluOp := f32Op fun a b => (opMax fmtF32 a b, 0#16)
/-- `sfn.f32` with its function code. -/
def aluSfnF32 (code : BitVec 7) : AluOp :=
  { useA := false, acc := some [3], fmt := .f32, tag := 3, op := fun _ b _ => opSfn code.toNat b }
/-- `mov.b32`. -/
def aluMovB32 : AluOp := bitOp1 id
/-- `perm.b32`. -/
def aluPermB32 : AluOp := { useD := true, op := fun a b d => (opPerm a b d, 0#16) }
/-- A packed operation on a and b (R239). -/
def packedOp (tag : Nat) (fmt : SFmt) (op : Nat → Nat → Nat × Flags) : AluOp :=
  { acc := some [tag], fmt := fmt, tag := tag, op := fun a b _ => packed2 (fun x y _ => op x y) a b 0 }
/-- `add.bf16x2`. -/
def aluAddBf16x2 : AluOp := packedOp 4 .bf16x2 (opAdd fmtBF16)
/-- `mul.bf16x2`. -/
def aluMulBf16x2 : AluOp := packedOp 4 .bf16x2 (opMul fmtBF16)
/-- `fma.bf16x2`. -/
def aluFmaBf16x2 : AluOp := { useD := true, acc := some [4], fmt := .bf16x2, tag := 4, op := packed2 (opFma fmtBF16) }
/-- `add.f16x2`. -/
def aluAddF16x2 : AluOp := packedOp 5 .f16x2 (opAdd fmtF16)
/-- `mul.f16x2`. -/
def aluMulF16x2 : AluOp := packedOp 5 .f16x2 (opMul fmtF16)
/-- `fma.f16x2`. -/
def aluFmaF16x2 : AluOp := { useD := true, acc := some [5], fmt := .f16x2, tag := 5, op := packed2 (opFma fmtF16) }

/-! ## Compares, selects, moves, guard, tags, cross-lane reads, conversions -/

/-- A compare: how its operands are read, and whether a condition holds (R240). -/
structure CmpOp where
  /-- accepted tags -/
  acc : List Nat
  /-- selector format -/
  fmt : SFmt
  /-- the condition on a and b -/
  holds : Nat → Nat → Nat → Bool

/-- `cmp.cond.i32`. -/
def cmpOpI32 : CmpOp := ⟨tagsInt, .int, fun c a b => condHolds c (cmpI a b)⟩
/-- `cmp.cond.n32`. -/
def cmpOpN32 : CmpOp := ⟨tagsInt, .int, fun c a b => condHolds c (cmpN a b)⟩
/-- `cmp.cond.f32`. -/
def cmpOpF32 : CmpOp := ⟨[3], .f32, opCmpF⟩

/-- A vector compare (R240). -/
def cmpVec (o : CmpOp) (f : Fields) (c a : BitVec 7) (b : BOp) (s : State) : State :=
  perThread { f := f, rsv := b.rsv || 6 ≤ c.toNat, sel := b.selector }
    (fun _ => { vr := (a.toNat, 1) :: b.runs 1, sr := b.sregs false, gw := true, tags := tagsOf 1 a.toNat 1 (some o.acc) ++ b.tags 1 (some o.acc) })
    (fun s i t => (s, .eff { g := [(t.uid, o.holds c.toNat (vBits t a.toNat) (b.val s i t o.fmt))] })) s

/-- A scalar compare writes g in every active thread (R253). -/
def cmpScalar (o : CmpOp) (f : Fields) (c a b : BitVec 7) (lit : Word) (s : State) : State :=
  oncePerGroup { f := f, rsv := selRsv b.toNat || 6 ≤ c.toNat || 64 ≤ a.toNat, sel := some b }
    (fun _ => { sr := a.toNat :: selS b.toNat false, gw := true })
    (fun s i t =>
      let g := o.holds c.toNat (getS (flockOf s i.core i.flock) a.toNat).toNat (src s i t b.toNat lit o.fmt)
      (s, .eff { g := i.act.map fun u => (u, g) })) s

/-- `mov.b32`: b with its tag (R241). -/
def movVec (f : Fields) (d : BitVec 7) (b : BOp) (s : State) : State :=
  perThread { f := f, rsv := b.rsv, sel := b.selector }
    (fun _ => { vr := b.runs 1, vw := [(d.toNat, 1)], sr := b.sregs false })
    (fun s i t => (s, .eff { v := [wr t d.toNat (b.val s i t .int) (b.tag t)] })) s

/-- `sel.b32`: a where g is 1, b where it is 0, with the tag (R241). -/
def selVec (f : Fields) (d a : BitVec 7) (b : BOp) (s : State) : State :=
  perThread { f := f, rsv := b.rsv, sel := b.selector }
    (fun _ => { vr := (a.toNat, 1) :: b.runs 1, vw := [(d.toNat, 1)], sr := b.sregs false, gr := true })
    (fun s i t => (s, .eff { v := [
      if t.g then wr t d.toNat (vBits t a.toNat) (getV t a.toNat).tag.toNat
      else wr t d.toNat (b.val s i t .int) (b.tag t)] })) s

/-- The guard after `gset` (R242). -/
def gsetBit (c : Nat) (g x : Bool) : Bool :=
  match c with
  | 0 => x
  | 1 => g && x
  | 2 => g || x
  | _ => g != x

/-- `gset` (R242). -/
def gsetVec (f : Fields) (c a : BitVec 7) (b : BOp) (s : State) : State :=
  perThread { f := f, rsv := b.rsv || 4 ≤ c.toNat, sel := b.selector }
    (fun _ => { vr := (a.toNat, 1) :: b.runs 1, sr := b.sregs false, gr := c ≠ 0#7, gw := true, tags := tagsOf 1 a.toNat 1 (some tagsInt) })
    (fun s i t => (s, .eff { g := [(t.uid, gsetBit c.toNat t.g (bit (b.val s i t .int) (vBits t a.toNat % 32)))] })) s

/-- `tagset` (R243). -/
def tagsetVec (f : Fields) (d a : BitVec 7) (b : BOp) (s : State) : State :=
  perThread { f := f, rsv := b.rsv, sel := b.selector }
    (fun _ => { vr := (a.toNat, 1) :: b.runs 1, vw := [(d.toNat, 1)], sr := b.sregs false })
    (fun s i t =>
      let k := b.val s i t .int % 16
      if 12 ≤ k then (s, .trap { cls := 1, code := 4, aux := 2 })
      else (s, .eff { v := [wr t d.toNat (vBits t a.toNat) k] })) s

/-- The register that `xlr` delivers (R245). -/
def xlrReg (s : State) (t : Thread) (a lane : Nat) : Reg :=
  match (membersOf s t.core t.flock).find? fun m => m.lane == lane with
  | some m => if m.wb + a < m.alloc then getV m a else rawZero
  | none => rawZero

/-- `xlr` (R245). -/
def xlrVec (f : Fields) (d a : BitVec 7) (b : BOp) (s : State) : State :=
  perThread { f := f, rsv := b.rsv, sel := b.selector }
    (fun _ => { vr := b.runs 1, vw := [(d.toNat, 1)], sr := b.sregs false, tags := b.tags 1 (some tagsInt) })
    (fun s i t =>
      let r := xlrReg s t a.toNat (b.val s i t .int % 32)
      (s, .eff { v := [wr t d.toNat r.bits.toNat r.tag.toNat] })) s

/-- `rngk` (R311). -/
def rngkVec (f : Fields) (d a : BitVec 7) (b : BOp) (s : State) : State :=
  perThread { f := f, rsv := b.rsv, sel := b.selector }
    (fun _ =>
      { vr := (a.toNat, 2) :: b.runs 1, vw := [(d.toNat, 1)], sr := b.sregs false
        tags := tagsOf 1 a.toNat 2 (some tagsInt) ++ b.tags 1 (some tagsInt), limits := [(a.toNat % 2 == 1, 1)] })
    (fun s i t => (s, .eff { v := [wr t d.toNat (opRngk (vPair t a.toNat) (b.val s i t .int)) 2] })) s

/-- The source format of a conversion: the tag, RAW read as I32; without a tag I32 for DF F32 and F32 otherwise (R248). -/
def cvtSource (tag : Option Nat) (df : Nat) : Nat :=
  match tag with
  | some t => if t = 0 then 1 else t
  | none => if df = 3 then 1 else 3

/-- DF of the control field (R247). -/
def cvtDf (c : BitVec 7) : Nat := c.toNat % 16
/-- MODE or Q of the control field (R247). -/
def cvtMq (c : BitVec 7) : Nat := c.toNat / 16

/-- The conversion reads a stochastic word (R251). -/
def cvtStochastic (sf : Nat) (c : BitVec 7) : Bool := cvtKind sf (cvtDf c) == 1 && (cvtMq c == 4 || cvtMq c == 6)

/-- The source format of `cvt` in a thread. -/
def cvtSf (t : Thread) (c : BitVec 7) (b : BOp) : Nat :=
  match b with
  | .reg n => cvtSource (some (getV t n.toNat).tag.toNat) (cvtDf c)
  | .sel _ _ => cvtSource none (cvtDf c)

/-- What `cvt` names: the old D of a narrowing conversion and the word of a stochastic one are read. -/
def cvtNames (d c : BitVec 7) (b : BOp) (t : Thread) : Names :=
  let sf := cvtSf t c b
  let df := cvtDf c
  { vr := b.runs 1 ++ (if elemCount sf < elemCount df then [(d.toNat, 1)] else []) ++ (if cvtStochastic sf c then [((d ^^^ 1#7).toNat, 1)] else [])
    vw := [(d.toNat, 1)]
    sr := b.sregs false
    tags := b.tags 1 (some (upFrom 0 12))
    limits := [(cvtKind sf df == 0, 1)] }

/-- A reserved Q, which depends on the source's tag in a thread (R250). -/
def cvtQBad (t : Thread) (c : BitVec 7) (b : BOp) : Bool :=
  let sf := cvtSf t c b
  cvtKind sf (cvtDf c) == 2 && elemCount sf / elemCount (cvtDf c) ≤ cvtMq c

/-- `cvt` (R247 to R251). A reserved Q in a thread of the group is a reserved value of the word: check 2, which traps the group (R365, R366). -/
def cvtVec (f : Fields) (d c : BitVec 7) (b : BOp) (s : State) : State :=
  perThread { f := f, rsv := b.rsv || !(1 ≤ cvtDf c && cvtDf c ≤ 10) || groupAny s f (cvtQBad · c b), sel := b.selector } (cvtNames d c b)
    (fun s i t =>
      let df := cvtDf c
      let fmt : SFmt := if df = 3 then .int else .f32
      let (r, st) := opCvt (cvtSf t c b) df (cvtMq c) (b.val s i t fmt) (vBits t d.toNat) (getV t (d ^^^ 1#7).toNat).bits
      (s, .eff { v := [wr t d.toNat r df], st := stOf t st })) s

/-- `scvt` (R253): the source has no tag. -/
def cvtScalar (f : Fields) (d c b : BitVec 7) (lit : Word) (s : State) : State :=
  let df := cvtDf c
  let sf := cvtSource none df
  oncePerGroup { f := f, rsv := selRsv b.toNat || 64 ≤ d.toNat || !(1 ≤ df && df ≤ 10), sel := some b }
    (fun _ =>
      { sr := selS b.toNat false ++ (if elemCount sf < elemCount df then [d.toNat] else []) ++ (if cvtStochastic sf c then [(d ^^^ 1#7).toNat] else [])
        sw := [d.toNat]
        limits := [(cvtKind sf df == 0, 1)] })
    (fun s i t =>
      let fl := flockOf s i.core i.flock
      let fmt : SFmt := if df = 3 then .int else .f32
      let (r, st) := opCvt sf df (cvtMq c) (src s i t b.toNat lit fmt) (getS fl d.toNat).toNat (getS fl (d ^^^ 1#7).toNat)
      (s, .eff { s := swr i d.toNat r false, st := stAll i st })) s

/-- `cvtq.e2m1` (R252). The word b is read as bits, with no tag check (DEDUCED, log entry 119). -/
def cvtqVec (f : Fields) (d a : BitVec 7) (b : BOp) (s : State) : State :=
  perThread { f := f, rsv := b.rsv, sel := b.selector }
    (fun _ =>
      { vr := (a.toNat, 32) :: b.runs 1, vw := [(d.toNat, 8)], sr := b.sregs false
        tags := tagsOf 1 a.toNat 32 (some [3]), limits := [(120 < d.toNat, 0), (96 < a.toNat, 1)] })
    (fun s i t =>
      let w := b.val s i t .int
      if w % 256 = 255 ∨ 4 ≤ bits w 10 8 then (s, .trap { cls := 1, code := 4, aux := 2 })
      else
        let (codes, side, st) := opCvtq ((upFrom a.toNat 32).map (vBits t)) (w % 256) (bits w 10 8)
        let cw := (upFrom 0 4).map fun k => wr t (d.toNat + k) (codes / 2 ^ (32 * k)) 8
        let sw := (upFrom 0 4).map fun k => wr t (d.toNat + 4 + k) (nthD 0 side k) 0
        (s, .eff { v := cw ++ sw, st := stOf t st })) s

/-- `svote.b32`: lanes of the active threads whose g is 1 (R254). -/
def voteScalar (f : Fields) (d : BitVec 7) (s : State) : State :=
  oncePerGroup { f := f, rsv := 64 ≤ d.toNat } (fun _ => { sw := [d.toNat], gr := true })
    (fun s i _ => (s, .eff { s := swr i d.toNat (laneMask s (i.act.filter fun u => (threadOf s u).g)) false })) s

/-- `slane.b32`: register A of the active thread in a lane (R255). -/
def laneScalar (f : Fields) (d a b : BitVec 7) (lit : Word) (s : State) : State :=
  oncePerGroup { f := f, rsv := selRsv b.toNat || 64 ≤ d.toNat, sel := some b }
    (fun _ => { vr := [(a.toNat, 1)], sr := selS b.toNat false, sw := [d.toNat] })
    (fun s i t =>
      let lane := src s i t b.toNat lit .int % 32
      let v := match i.act.find? fun u => (threadOf s u).lane == lane with
        | some u => vBits (threadOf s u) a.toNat
        | none => 0
      (s, .eff { s := swr i d.toNat v false })) s

end Sys2Proof.Machine
end

