-- ==== Sys2Proof/Machine/Access.lean ====
section
/-! DEFINITION. Addresses: segments, translation and its faults (05 R94 to R103, 19 R378 to R383), the view a core has of memory
(05 R106, R115), and instruction fetch (R94, R379). -/

namespace Sys2Proof.Machine

/-! ## Physical places -/

/-- Where another module's memory begins in the model's numbering: module m at (m + 1) × 2^48. -/
def remoteBase (m : Nat) : Nat := (m + 1) * 2 ^ 48

/-- Where the memory behind a host port begins: port p at (p + 1) × 2^64. -/
def hostBase (p : Nat) : Nat := (p + 1) * 2 ^ 64

/-- Place of an address of a module. -/
def placeOf (s : State) (module pa : Nat) : Nat := if module = moduleId s then pa else remoteBase module + pa

/-- Die and offset in a management block, for a module physical address in one (R332). -/
def mgmtOff (pa : Nat) : Option (Nat × Nat) :=
  if pa < 2 ^ 48 ∧ 2 ^ 43 ≤ pa % 2 ^ 44 ∧ pa % 2 ^ 44 < 2 ^ 43 + 2 ^ 27 then some (pa / 2 ^ 44, pa % 2 ^ 44 - 2 ^ 43) else none

/-- A physical address in HBM of this module (R99). -/
def inHbmSpace (s : State) (pa : Nat) : Bool := pa < 2 ^ 48 && pa % 2 ^ 44 < hbmBytes s (pa / 2 ^ 44)

/-- The receiving unit that is a byte's home: the slice of its line (R107), a gateway of another module, or a host port. -/
def byteHome (s : State) (k : Nat) : Nat :=
  if k < 2 ^ 48 then
    let d := k / 2 ^ 44
    let l := k % 2 ^ 44 / 128
    let n := slicesOn s d
    512 * d + 136 + (if n = 0 then 0 else sliceAt s d ((l ^^^ (l >>> 13) ^^^ (l >>> 26)) % n))
  else if k < 2 ^ 64 then 2 ^ 20 * (k / 2 ^ 48) + 512 * (k % 2 ^ 48 / 2 ^ 44) + 296
  else 512 * (if k < 2 ^ 65 then 0 else 6) + 297

/-! ## Translation (05 R97, R98; 19 R380) -/

/-- A class 4 trap. -/
def trap4 (code aux addr : Nat) : Trap := { cls := 4, code := code, aux := aux, addr := addr }

/-- Bits that must be 0 in an entry at a level (R98). -/
def pteReserved (e level : Nat) : Bool := bits e 11 10 ≠ 0 || bits e 63 61 ≠ 0 || (level ≠ 0 && bit e 4)

/-- The 16 entries of a 64 KiB page agree (R97). -/
def c64Consistent (s : State) (table idx : Nat) : Bool :=
  let base := table + 8 * (idx / 16 * 16)
  let e0 := memNat s base 8
  (upFrom 0 16).all fun k => memNat s (base + 8 * k) 8 == e0 + k * 4096 && bit e0 4

/-- Bytes of HBM of a die of a module, as a walk knows them: of another module, those of a die of a full part (R13, R17, R99; DEDUCED, log
entry 117). -/
def hbmEnd (s : State) (m d : Nat) : Nat := if m = moduleId s then hbmBytes s d else if d < Config.numDies then 2 ^ 38 else 0

/-- The first reason for which a valid entry is malformed (R380). -/
def pteBad (s : State) (table idx level e : Nat) : Option Nat :=
  let leaf := level = 0 || bit e 3
  if pteReserved e level then some 0
  else if level = 3 && bit e 3 then some 1
  else if !leaf && bits e 60 48 ≠ moduleId s then some 2
  else if level = 0 && bit e 4 && !c64Consistent s table idx then some 3
  else if leaf && bit e 3 && !bit e 5 && hbmEnd s (bits e 60 48) (bits e 47 44) ≤ bits e 43 12 * 4096 then some 4
  else if leaf && bit e 5 && !dieOn s (if bit e 9 then 6 else 0) then some 5
  else if level = 0 && !bit e 3 then some 6
  else none

/-- Index of an address in the table of a level (R97). -/
def levelIndex (level va : Nat) : Nat :=
  match level with
  | 3 => bits va 56 39
  | 2 => bits va 38 30
  | 1 => bits va 29 21
  | _ => bits va 20 12

/-- The walk from the table of a level down (R97, R380): a leaf with its level, or the trap's code and AUX. -/
def walkFrom (s : State) (va : Nat) : Nat → Nat → Except (Nat × Nat) (Nat × Nat)
  | 0, table =>
    let i := levelIndex 0 va
    let e := memNat s (table + 8 * i) 8
    if !bit e 0 then .error (1, 0)
    else match pteBad s table i 0 e with
      | some r => .error (3, r * 16)
      | none => .ok (e, 0)
  | l + 1, table =>
    let i := levelIndex (l + 1) va
    let e := memNat s (table + 8 * i) 8
    if !bit e 0 then .error (1, l + 1)
    else match pteBad s table i (l + 1) e with
      | some r => .error (3, l + 1 + r * 16)
      | none =>
        if bit e 3 then .ok (e, l + 1)
        else walkFrom s va l (bits e 43 12 * 4096 + bits e 47 44 * 2 ^ 44)

/-- The walk of a job's address on a die. -/
def walk (s : State) (d job va : Nat) : Except (Nat × Nat) (Nat × Nat) :=
  walkFrom s va 3 (memNat s (jobDesc s d job + 8) 8 % 2 ^ 57)

/-- What a translation comes to. -/
inductive Xl where
  /-- the place, and for a glean access its validity class (R111) -/
  | at (k : Nat) (glean : Option Nat)
  /-- a trap: code and AUX of class 4 -/
  | bad (code aux : Nat)
  /-- the port's cache holds no entry for a HOST page (R381) -/
  | ask (port pasid page : Nat)
  deriving DecidableEq, Repr

/-- Bytes that a leaf of a level maps. -/
def pageSize (level : Nat) : Nat :=
  match level with
  | 0 => 4096
  | 1 => 2 ^ 21
  | _ => 2 ^ 30

/-- A leaf applied to an address, with its permission check (R98, R102). -/
def useLeaf (s : State) (d job va e level : Nat) (write fetch : Bool) : Xl :=
  if write && !bit e 1 then .bad 2 1
  else if fetch && !bit e 2 then .bad 2 2
  else if bit e 5 then
    let port := if bit e 9 then 1 else 0
    let pasid := memNat s (jobDesc s d job) 4 % 2 ^ 20
    let page := va / 4096
    if has s.portDown port then .bad 7 3
    else match s.atc.find? fun a => a.port == port && a.pasid == pasid && a.page == page && (!write || a.w) with
      | some a => .at (hostBase port + a.bus * 4096 + va % 4096) none
      | none => .ask port pasid page
  else
    let base := bits e 43 12 * 4096 / pageSize level * pageSize level
    .at (placeOf s (bits e 60 48) (bits e 47 44 * 2 ^ 44 + base + va % pageSize level))
      (if bit e 8 && bits e 60 48 ≠ moduleId s then some (bits e 7 6) else none)

/-- Pages of 4 KiB that a leaf of a level maps. -/
def leafPages (level : Nat) : Nat := pageSize level / 4096

/-- A cached leaf covers a page of a job as a die's job table gives it (R48, R100): a large leaf is one entry for all of its pages. -/
def TlbEnt.covers (t : TlbEnt) (d job page : Nat) : Bool :=
  t.die == d && t.job == job && t.page ≤ page && page < t.page + leafPages t.level

/-- A walk's leaf is cached by its die. -/
def fillTlb (s : State) (d job va : Nat) (w : Except (Nat × Nat) (Nat × Nat)) : State :=
  match w with
  | .ok (e, l) =>
    let t : TlbEnt := ⟨d, job, va / 4096 / leafPages l * leafPages l, BitVec.ofNat 64 e, l⟩
    { s with tlb := t :: s.tlb.filter fun u => !(u.die == d && u.job == job && u.page == t.page && u.level == l) }
  | .error _ => s

/-- The leaf that an access uses: the walk's, or one that the die still caches when that differs, and then either may be used
(R100, R101). A walk's leaf is cached. -/
def pickLeaf (s : State) (d job va : Nat) : State × Except (Nat × Nat) (Nat × Nat) :=
  let w := walk s d job va
  let same : TlbEnt → Bool := fun t => match w with
    | .ok (e, l) => t.leaf.toNat == e && t.level == l
    | .error _ => false
  let cached := s.tlb.filter fun t => t.covers d job (va / 4096)
  match cached.find? fun t => !same t with
  | none => (if cached.isEmpty then fillTlb s d job va w else s, w)
  | some t =>
    let (n, s1) := takeFree s
    if Config.freeBit n then (s1, .ok (t.leaf.toNat, t.level)) else (fillTlb s1 d job va w, w)

/-- An access of supervisor code to a block of a die, under the die's table for it (R333); a right that is missing is met as a permission
that an entry does not give. -/
def supAccess (s : State) (va die block : Nat) (write : Bool) : Xl :=
  if write && rightTo s 2 die block ≠ 3 then .bad 2 1
  else if !write && rightTo s 2 die block = 0 then .bad 2 0
  else .at va none

/-- Translate an address of a job on a die. The supervisor job's address is the module physical address (R334); one that names no
memory and no management block is treated as an entry beyond HBM (R380 reason 4). -/
def xlate (s : State) (d job va : Nat) (write fetch : Bool) : State × Xl :=
  if job = supJob then
    (s, match mgmtOff va with
      | some (e, off) => if dieOn s e then supAccess s va e (blockOf off) write else .bad 3 (4 * 16)
      | none => if inHbmSpace s va then supAccess s va (va / 2 ^ 44) 14 write else .bad 3 (4 * 16))
  else
    let (s1, r) := pickLeaf s d job va
    match r with
    | .ok (e, l) =>
      let x := useLeaf s1 d job va e l write fetch
      (if x = .bad 7 3 then hostFail s1 (if bit e 9 then 1 else 0) 0 else s1, x)
    | .error (c, a) => (s1, .bad c a)

/-! ## Checks of an access (R94, R378, R383) -/

/-- Inside SG.G (R94). -/
def inSegG (t : Seg) (a n : Nat) : Bool := t.base * 4096 ≤ a && a + n ≤ (t.base + t.limit) * 4096

/-- Inside SG.L (R94). -/
def inSegL (t : Seg) (a n : Nat) : Bool := t.base ≤ a && a + n ≤ t.base + t.limit

/-- Space, segment and alignment of a global access of a thread. -/
def globalPre (t : Thread) (a n al : Nat) (fetch : Bool) : Option Trap :=
  if 2 ^ 57 ≤ a then some (trap4 6 0 a)
  else if !inSegG t.segG a n then some (trap4 4 (if fetch then 4 else 0) a)
  else if a % al ≠ 0 then some (trap4 5 al a)
  else none

/-- Segment, alignment and space of a local-store access of a thread. -/
def localPre (s : State) (t : Thread) (a n al : Nat) : Option Trap :=
  if !inSegL t.segL a n then some (trap4 4 1 a)
  else if a % al ≠ 0 then some (trap4 5 al a)
  else if lsSize s t.core < a + n then some (trap4 6 1 a)
  else none

/-- What a global access of a thread comes to. -/
inductive Got where
  /-- its place, and its glean class -/
  | at (k : Nat) (glean : Option Nat)
  /-- not now -/
  | out (o : Out)
  deriving DecidableEq, Repr

/-- Ask the host for a translation; the requester waits, a thread or an engine operation (R381). Answers the number of the request. -/
def askPage (s : State) (port pasid page : Nat) (write : Bool) (eng : Option Nat) : State × Nat :=
  match findPageReq s port pasid page write with
  | some r =>
    let engs := match eng with
      | some o => if has r.engs o then r.engs else r.engs ++ [o]
      | none => r.engs
    ({ s with pageReqs := s.pageReqs.map fun q => if q.id == r.id then { q with engs := engs, real := true } else q }, r.id)
  | none => (newPageReq s ⟨0, port, pasid, page, write, false, false, false, 0, eng.toList, true, [], [], []⟩, s.fresh + 1)

/-- A prefetch asks for a translation, and for nothing more when the page is not present (R275); `p` is the line that it then brings to a core. -/
def askPref (s : State) (port pasid page : Nat) (p : Option (Nat × Nat × Nat)) : State :=
  match findPageReq s port pasid page false with
  | some r => { s with pageReqs := s.pageReqs.map fun q => if q.id == r.id then { q with pref := q.pref ++ p.toList } else q }
  | none => newPageReq s ⟨0, port, pasid, page, false, false, false, false, 0, [], false, p.toList, [], []⟩

/-- Check and translate a global access of a thread at issue (R379, R383). -/
def globalAt (s : State) (t : Thread) (a n al : Nat) (write : Bool) : State × Got :=
  match globalPre t a n al false with
  | some f => (s, .out (.trap f))
  | none =>
    match xlate s (dieOf t.core) t.job a write false with
    | (s1, .at k g) => (s1, .at k g)
    | (s1, .bad c x) => (s1, .out (.trap (trap4 c x a)))
    | (s1, .ask p q pg) => let (s2, w) := askPage s1 p q pg write none; (s2, .out (.wait (.page w)))

/-- Translate every 4 KiB piece of an extent for its check, without access (R383 step 4). -/
def extentAt (s : State) (t : Thread) (a : Nat) (write : Bool) : Nat → State × Option Out
  | 0 => (s, none)
  | n + 1 =>
    match xlate s (dieOf t.core) t.job a write false with
    | (s1, .at _ _) => extentAt s1 t ((a / 4096 + 1) * 4096) write n
    | (s1, .bad c x) => (s1, some (.trap (trap4 c x a)))
    | (s1, .ask p q pg) => let (s2, w) := askPage s1 p q pg write none; (s2, some (.wait (.page w)))

/-! ## What a core sees of memory (R106, R115) -/

/-- Bytes that a store operation holds at a place. -/
def StoreOp.byteAt (o : StoreOp) (k : Nat) : Option Byte :=
  match o with
  | .glob pa bs => if pa ≤ k ∧ k < pa + bs.length then some (nthD 0#8 bs (k - pa)) else none
  | .row pa bs _ => if pa ≤ k ∧ k < pa + bs.length then some (nthD 0#8 bs (k - pa)) else none
  | _ => none

/-- The newest byte that a thread has stored there and that is still in its store FIFO. -/
def fifoByte (s : State) (uid k : Nat) : Option Byte :=
  s.fifo.foldl (fun acc e => if e.uid == uid then (e.op.byteAt k <|> acc) else acc) none

/-- A write-combined byte of the core. -/
def wcByteAt (s : State) (core k : Nat) : Option Byte :=
  (s.wc.find? fun w => w.core == core && w.pa == k).map (·.val)

/-- A byte of a clean line of the core. -/
def cleanByte (s : State) (core k : Nat) : Option Byte :=
  (s.clean.find? fun l => l.core == core && l.pa ≤ k && k < l.pa + 128).map fun l => nthD 0#8 l.bytes (k - l.pa)

/-- The byte of the core's newest write there that is on its way to its home, unless a reduction of the core follows it. -/
def sentByte (s : State) (core k : Nat) : Option Byte :=
  s.packets.foldl (fun acc p =>
    if p.src == core then
      (match p.body with
      | .write bs _ => ((bs.find? fun q => q.1 == k).map (·.2)) <|> acc
      | .red _ pa _ => if pa ≤ k && k < pa + 8 then none else acc
      | .redDet pa _ _ _ _ _ _ => if pa ≤ k && k < pa + 64 then none else acc
      | _ => acc)
    else acc) none

/-- A byte of a store of the core that is pending (R115): in the thread's FIFO, in L1's write-combined bytes, or on its way. -/
def coreByte (s : State) (core uid k : Nat) : Option Byte := fifoByte s uid k <|> wcByteAt s core k <|> sentByte s core k

/-- The byte that a fetch sees: the core's own pending bytes, else memory. -/
def viewByte (s : State) (core uid k : Nat) : Byte := (coreByte s core uid k).getD (memByte s k)

/-- Bytes as a fetch sees them. -/
def viewBytes (s : State) (core uid k n : Nat) : List Byte := (upFrom k n).map (viewByte s core uid)

/-! ## The glean partition (R110 to R112) -/

/-- An addition of a thread to a counter is under way (R112). -/
def ownAdd (s : State) (uid h : Nat) : Bool :=
  s.packets.any fun p => p.uid == some uid && match p.body with
    | .ctr k (.add _) => k.toNat == h
    | .ctr k (.addRet _ _) => k.toNat == h
    | .ctr k (.set _) => k.toNat == h
    | _ => false

/-- Lines of 128 bytes that the partition of a die holds: MIB MiB taken evenly from the enabled slices, rounded up to whole 4 KiB per slice
(R110). -/
def gleanLines (s : State) (d : Nat) : Nat :=
  let n := slicesOn s d
  let mib := getField s d 0x620 6 0
  if n = 0 then 0 else n * ((mib * 2 ^ 20 + 4096 * n - 1) / (4096 * n)) * 32

/-- The line of the partition for a place whose tag is the class's counter value (R111); a thread whose own addition to the counter is under
way meets no older line (R112). -/
def gleanLine (s : State) (die k cls : Nat) (who : Option Nat) : Option (List Byte) :=
  if getField s die 0x620 6 0 = 0 || who.any (fun u => ownAdd s u (getReg s die (0x628 + 8 * cls))) then none
  else
    let v := cellGet s (getReg s die (0x628 + 8 * cls))
    (s.glean.find? fun l => l.die == die && l.pa == k / 128 * 128 && l.cls == cls && l.tag.toNat == v).map (·.bytes)

/-- One of these bytes is poisoned in the line of the partition that would deliver it (R358). -/
def gleanBad (s : State) (die k n : Nat) (glean : Option Nat) (who : Option Nat) : Bool :=
  match glean with
  | some cls => s.poison.any (inGlean die k n) && (upFrom k n).any fun a =>
      s.poison.any (· == .glean die a) && (gleanLine s die a cls who).isSome
  | none => false

/-- One of these bytes is poisoned as a unit of a die reads it (R358). -/
def unitBad (s : State) (die k n : Nat) (glean : Option Nat) (who : Option Nat) : Bool := memPoisoned s k n || gleanBad s die k n glean who

/-- A byte that a thread reads from its core's L1 is poisoned there: of the write-combined ones, or of a clean line (R115, R358). -/
def l1Bad (s : State) (core uid k n : Nat) (glean : Option Nat) : Bool :=
  l1Poisoned s core k n && (upFrom k n).any fun a =>
    l1Poisoned s core a 1 && (fifoByte s uid a).isNone &&
      ((wcByteAt s core a).isSome || (glean.isNone && (sentByte s core a).isNone && (cleanByte s core a).isSome))

/-- A byte that a thread's unit reads at once is poisoned where it comes from. -/
def threadBad (s : State) (t : Thread) (k n : Nat) (glean : Option Nat) : Bool :=
  l1Bad s t.core t.uid k n glean ||
    (unitBad s (dieOf t.core) k n glean (some t.uid) && (upFrom k n).any fun a =>
      (coreByte s t.core t.uid a).isNone && unitBad s (dieOf t.core) a 1 glean (some t.uid))

/-- No line of a place in the partition, and no read of it under way that would leave one: what they hold may be older than what has been
read (R114). -/
def dropGlean (s : State) (die k : Nat) : State :=
  { s with
    glean := s.glean.filter fun l => !(l.die == die && l.pa == k / 128 * 128)
    packets := s.packets.map fun p => match p.body with
      | .read pa m rid keep (some _) =>
        if (p.src == engSrc die || p.src < 1536 && dieOf p.src == die) && pa / 128 * 128 == k / 128 * 128 then { p with body := .read pa m rid keep none } else p
      | .readResp rid bs l (some g) x =>
        if backDie p.dst == die && g.2.2.1 == k / 128 * 128 then { p with body := .readResp rid bs l none x } else p
      | _ => p }

/-- A line enters a die's partition with the tag that its class's counter had when the fetch began (R111). A full partition loses its oldest
line (DESIGN CHOICE, log entry 103). -/
def fillGlean (s : State) (die : Nat) (g : Nat × DWord × Nat × List Byte) : State :=
  if getField s die 0x620 6 0 = 0 then s
  else
    let s1 := dropGlean s die g.2.2.1
    let mine := (⟨die, g.2.2.1, g.1, g.2.1, g.2.2.2⟩ : GleanLine) :: s1.glean.filter (·.die == die)
    cure { s1 with glean := mine.take (gleanLines s die) ++ s1.glean.filter (·.die ≠ die) } (inGlean die g.2.2.1 128)

/-- Bytes that a cache holds where they may have been evicted: when memory holds others, either may be delivered. -/
def cachedOr (s : State) (k n : Nat) (c : List Byte) : State × Option (List Byte) :=
  if memBytes s k n = c then (s, some c)
  else
    let (i, s1) := takeFree s
    if Config.freeBit i then (s1, some c) else (s1, none)

/-- The tag with which a fetch for the partition begins; none while glean accesses are disabled (R110, R111). -/
def gleanTag (s : State) (die cls : Nat) : Option (Nat × DWord) :=
  if getField s die 0x620 6 0 = 0 then none else some (cls, BitVec.ofNat 64 (cellGet s (getReg s die (0x628 + 8 * cls))))

/-- Bytes within one line that a unit of a die reads through the partition: the line's, or its home's, with which a miss fills it (R111). -/
def gleanPart (s : State) (die k n cls : Nat) (who : Option Nat) : State × List Byte :=
  let miss : State → State × List Byte := fun s =>
    let line := memBytes s (k / 128 * 128) 128
    (match gleanTag s die cls with
    | some g => if memPoisoned s (k / 128 * 128) 128 then dropGlean s die k else fillGlean s die (g.1, g.2, k / 128 * 128, line)
    | none => s, (line.drop (k % 128)).take n)
  match gleanLine s die k cls who with
  | some l =>
    (match cachedOr s k n ((l.drop (k % 128)).take n) with
    | (s1, some c) => (s1, c)
    | (s1, none) => miss s1)
  | none => miss s

/-- Pieces of a run of bytes that do not cross a line, at most `fuel` of them. -/
def linePieces : Nat → Nat → Nat → List (Nat × Nat)
  | 0, _, _ => []
  | f + 1, a, n =>
    if n = 0 then []
    else
      let m := min n (128 - a % 128)
      (a, m) :: linePieces f (a + m) (n - m)

/-- Read pieces through the partition. -/
def gleanPieces (s : State) (die cls : Nat) (who : Option Nat) : List (Nat × Nat) → List Byte → State × List Byte
  | [], acc => (s, acc)
  | (k, n) :: r, acc => let (s1, bs) := gleanPart s die k n cls who; gleanPieces s1 die cls who r (acc ++ bs)

/-- Bytes of memory as a unit of a die reads them: through the partition where the page is a glean page (R111). The code words that they lie
in are checked (R358). -/
def unitBytes (s0 : State) (die k n : Nat) (glean : Option Nat) (who : Option Nat) : State × List Byte :=
  let s := eccRead s0 fun p => nearHbm k n p || (glean.isSome && inGlean die k n p)
  match glean with
  | some cls => gleanPieces s die cls who (linePieces (n / 128 + 2) k n) []
  | none => (s, memBytes s k n)

/-- A core's lines of these bytes have been evicted, and no read under way leaves one: what they hold may be older than what has been read
(R106, R114). -/
def dropLines (s : State) (core k n : Nat) : State :=
  unkeep { s with clean := s.clean.filter fun l => !(l.core == core && l.pa < k + n && k < l.pa + 128) } core k n

/-- Bytes as a thread's fetch sees them: the core's own pending bytes, else memory, through the partition for a glean page. The core keeps no
line that may be older (R114). -/
def threadBytes (s0 : State) (t : Thread) (k n : Nat) (glean : Option Nat) : State × List Byte :=
  let s := dropLines s0 t.core k n
  let (s1, bs) := unitBytes s (dieOf t.core) k n glean (some t.uid)
  (s1, ((upFrom k n).zip bs).map fun p => (coreByte s1 t.core t.uid p.1).getD p.2)

/-! ## Instruction fetch (R94, R379) -/

/-- The four bytes of a word, checked, translated and read. -/
def fetch4 (s : State) (t : Thread) (a : Nat) : State × Except Out Word :=
  match globalPre t a 4 4 true with
  | some f => (s, .error (.trap f))
  | none =>
    match xlate s (dieOf t.core) t.job a false true with
    | (s1, .at k g) =>
      if threadBad s1 t k 4 g then (s1, .error (.trap { cls := 7, code := Config.class7Code.toNat, aux := 0, addr := a }))
      else
        let (s2, bs) := threadBytes s1 t k 4 g
        (s2, .ok (BitVec.ofNat 32 (leNat bs)))
    | (s1, .bad c x) => (s1, .error (.trap (trap4 c x a)))
    | (s1, .ask p q pg) => let (s2, w) := askPage s1 p q pg false none; (s2, .error (.wait (.page w)))

/-- The word at a thread's PC and its literal, where one follows. -/
def fetch (s : State) (t : Thread) : State × Except Out (Word × Word) :=
  match fetch4 s t t.pc.toNat with
  | (s1, .error o) => (s1, .error o)
  | (s1, .ok w) =>
    if wordLength w = 4 then (s1, .ok (w, 0#32))
    else match fetch4 s1 t (t.pc.toNat + 4) with
      | (s2, .error o) => (s2, .error o)
      | (s2, .ok l) => (s2, .ok (w, l))

/-- What stands at a thread's PC. -/
inductive Fetched where
  /-- an instruction -/
  | instr (i : Instr)
  /-- a word that is no instruction (R368) -/
  | unassigned (w : Word)
  /-- the fetch failed (R379) -/
  | failed
  deriving DecidableEq, Repr

/-- The instruction at a thread's PC (R221, R368). -/
def fetchInstr (s : State) (t : Thread) : State × Fetched :=
  match fetch s t with
  | (s1, .error _) => (s1, .failed)
  | (s1, .ok (w, l)) =>
    (s1, match decode (bytesOfWord w ++ bytesOfWord l) with
      | .ok (i, _) => .instr i
      | .error _ => .unassigned w)

end Sys2Proof.Machine
end

