-- ==== Sys2Proof/Machine/Mem.lean ====
section
/-! DEFINITION. The store path and the load path of a core (05 R106, R114 to R119): store FIFOs, write-combined bytes, clean
lines, packets to the homes, what a release waits for, and the reads of engines. -/

namespace Sys2Proof.Machine

/-! ## Which bytes a packet or a store concerns -/

/-- Remove later occurrences. -/
def dedup {α : Type} [BEq α] : List α → List α
  | [] => []
  | x :: r => x :: (dedup r).filter fun y => !(y == x)

/-- Bytes that a reduction code works on (R277). -/
def redSize (fn : Nat) : Nat :=
  if fn = 2 ∨ fn = 3 ∨ fn = 6 ∨ fn = 7 ∨ fn = 10 ∨ fn = 11 ∨ (15 ≤ fn ∧ fn ≤ 17) then 8 else 4

/-- Two runs of bytes overlap. -/
def runsMeet (a n b m : Nat) : Bool := a < b + m && b < a + n

/-- Runs of bytes of memory that a packet's body concerns. -/
def Body.runs : Body → List (Nat × Nat)
  | .write bs _ => bs.map fun p => (p.1, 1)
  | .read pa n _ _ _ => [(pa, n)]
  | .red fn pa _ => [(pa, redSize fn)]
  | .redDet pa _ _ _ _ _ _ => [(pa, 64)]
  | _ => []

/-- Two bodies concern a byte in common. -/
def bodiesMeet (a b : Body) : Bool := a.runs.any fun p => b.runs.any fun q => runsMeet p.1 p.2 q.1 q.2

/-- Whether a packet still changes memory at a home. -/
def Body.isStore : Body → Bool
  | .write _ _ => true
  | .red _ _ _ => true
  | .redDet _ _ _ _ _ _ _ => true
  | _ => false

/-- Bytes of memory that a store operation concerns. -/
def StoreOp.meets (o : StoreOp) (k n : Nat) : Bool :=
  match o with
  | .glob pa bs => runsMeet pa bs.length k n
  | .row pa bs _ => runsMeet pa bs.length k n
  | .red fn pa _ => runsMeet pa (redSize fn) k n
  | .redDet pa _ _ _ _ _ _ => runsMeet pa 64 k n
  | _ => false

/-- Whether a store operation is a reduction in memory or a row that no load can take from the FIFO. -/
def StoreOp.isRed : StoreOp → Bool
  | .red _ _ _ => true
  | .redDet _ _ _ _ _ _ _ => true
  | _ => false

/-! ## From the FIFO to L1, and from L1 to the homes -/

/-- Enter an operation in a thread's store FIFO (R115). -/
def pushStore (s : State) (t : Thread) (op : StoreOp) : State :=
  { s with fifo := s.fifo ++ [⟨s.fresh, t.uid, t.core, t.job, s.cycle + 1, t.pc, op⟩], fresh := s.fresh + 1 }

/-- Line address of a place (R106). -/
def lineOf (k : Nat) : Nat := k / 128 * 128

/-- Replace bytes of a line that lie in a run. -/
def patchLine (l : CleanLine) (k : Nat) (bs : List Byte) : CleanLine :=
  { l with bytes := (upFrom 0 128).map fun i =>
      let a := l.pa + i
      if k ≤ a ∧ a < k + bs.length then nthD 0#8 bs (a - k) else nthD 0#8 l.bytes i }

/-- A store also writes its bytes into the clean copies of the core (R106, R303). -/
def mergeClean (s : State) (core k : Nat) (bs : List Byte) : State :=
  cure { s with clean := s.clean.map fun l => if l.core == core && runsMeet l.pa 128 k bs.length then patchLine l k bs else l }
    (inL1 core k bs.length)

/-- Flock of a thread. -/
def ownFlock (s : State) (uid : Nat) : Option Nat := (findThread s uid).map (·.flock)

/-- Write-combined bytes of one thread within one line, with the least number of their stores. -/
def wcGroup (s : State) (core uid line : Nat) : List WcByte :=
  s.wc.filter fun w => w.core == core && w.uid == uid && lineOf w.pa == line

/-- Send write-combined bytes of one thread and line to their home as one write, which is numbered by the least number among
their stores (R106). -/
def sendWc (s : State) (core uid line : Nat) : State :=
  match wcGroup s core uid line with
  | [] => s
  | w :: r =>
    let g := w :: r
    let p : Packet := { Packet.blank with
      id := s.fresh, src := core, dst := byteHome s w.pa, ordered := w.pa < 2 ^ 48, uid := some uid, job := w.job
      issues := dedup (g.map (·.grp)), units := dedup (g.map (·.unit)), bad := (g.map (·.pa)).filter fun a => l1Poisoned s core a 1
      seq := r.foldl (fun m x => min m x.seq) w.seq
      sent := s.cycle
      body := .write (sortBy (·.1) (g.map fun x => (x.pa, x.val))) none }
    { s with wc := s.wc.filter (fun x => !g.any (· == x)), packets := s.packets ++ [p], fresh := s.fresh + 1 }

/-- Send the write-combined bytes of the listed ones, line by line. -/
def sendWcEach (s : State) : List WcByte → State
  | [] => s
  | w :: r => sendWcEach (sendWc s w.core w.uid (lineOf w.pa)) r

/-- Write-combined bytes that must leave before these: those of lower lanes of the same issue for the same home within the module, and the
bytes that leave with them (R272). -/
def wcBefore (s : State) (g : List WcByte) : List WcByte :=
  s.wc.filter fun x => g.any fun w =>
    (x.core == w.core && x.uid == w.uid && lineOf x.pa == lineOf w.pa) ||
      (x.core == w.core && x.grp == w.grp && ownFlock s x.uid == ownFlock s w.uid && x.seq < w.seq && w.pa < 2 ^ 48 && byteHome s x.pa == byteHome s w.pa)

/-- The same again, until nothing more must leave before. -/
def wcClosure (s : State) : Nat → List WcByte → List WcByte
  | 0, g => g
  | n + 1, g => let h := wcBefore s g; if h.length ≤ g.length then h else wcClosure s n h

/-- Send the write-combined bytes of the listed ones, line by line, and before them what must leave before; those of lower lanes go first. -/
def sendWcAll (s : State) (g : List WcByte) : State := sendWcEach s (sortBy (·.seq) (wcClosure s s.wc.length g))

/-- The step that runs on a thread. -/
def stepOf (s : State) (core uid : Nat) : Option HaltWork :=
  s.halts.find? fun w => w.die == dieOf core && (has w.stepping uid || has w.stepped uid)

/-- A die hands over what it held of a job, up to a number: T of its go has come (R205). -/
def handsOver (s : State) (d job n : Nat) : Bool :=
  s.halts.any fun w => w.die == d && w.going.any (n < ·.1) && haltSlot s d job == some w.slot

/-- Whether the halt wave holds an operation of a job in a core, of that number and thread (R203); the traffic of a step goes on (R204), and
so does what is handed over at a go (R205), and what an ended job had started (R356). -/
def coreHeld (s : State) (core job uid n : Nat) : Bool :=
  jobHeld s (dieOf core) job && !s.kills.any (· == (dieOf core, job)) && !handsOver s (dieOf core) job n &&
    !(stepOf s core uid).any fun w => w.stepAt ≤ n

/-- Word k of an operation's request. -/
def PortOp.w (o : PortOp) (k : Nat) : Nat := (nthD 0#64 o.req k).toNat

/-- CONN of an operation's request (R314). -/
def PortOp.conn (o : PortOp) : Nat := bits (o.w 2) 43 32

/-- Whether an operation uses a connection or a channel: its number. -/
def PortOp.connOf (o : PortOp) : Option (Bool × Nat) :=
  match o.kind with
  | .put => some (false, o.conn)
  | .get => some (false, o.conn)
  | .send => some (false, o.conn)
  | .rwsend _ => some (true, o.conn)
  | _ => none

/-- A thread that is being stepped has a later operation on the same connection or channel, which this one must precede (R204). -/
def aheadOfStep (s : State) (o : PortOp) : Bool :=
  o.connOf.isSome && s.portOps.any fun q =>
    o.id < q.id && q.die == o.die && q.connOf == o.connOf && q.armed.isNone &&
      s.halts.any fun w => w.die == o.die && w.stepAt ≤ q.id && (has w.stepping q.uid || has w.stepped q.uid)

/-- Traffic of a thread from a number on that is ordered behind the earlier stores of the thread: its stores, releases and fences, and its
engine operations (R115, R116, R119). -/
def behindStores (s : State) (uid n : Nat) : Bool :=
  s.fifo.any (fun e => e.uid == uid && n ≤ e.seq) || s.packets.any (fun p => p.uid == some uid && p.release.isSome && n ≤ p.id) ||
    s.copies.any (fun o => o.uid == uid && n ≤ o.id) || s.rays.any (fun o => o.uid == uid && n ≤ o.id) ||
    s.beams.any (fun o => o.uid == uid && n ≤ o.id) || s.sweeps.any (fun o => o.uid == uid && n ≤ o.id) ||
    s.chunks.any (fun c => has c.uids uid && n ≤ c.id) || s.mmas.any (fun o => o.rows.any (·.2.1 == uid) && n ≤ o.id) ||
    s.portOps.any (fun o => o.uid == uid && o.armed.isNone && n ≤ o.id) || s.threads.any fun t => t.uid == uid && (match t.wait with
      | .fence _ k => n ≤ k
      | .before k => n ≤ k
      | _ => false)

/-- Whether the halt wave holds a store of that number in a core (R203): not one that the traffic of a step is ordered behind, itself or
through an earlier operation on a connection (R204). -/
def storeHeld (s : State) (core job uid n : Nat) : Bool :=
  coreHeld s core job uid n && !((stepOf s core uid).any fun w => behindStores s uid w.stepAt) &&
    !s.portOps.any fun o => o.uid == uid && n < o.id && aheadOfStep s o

/-- The write-combined bytes of a core drain to their homes (R106). -/
def flushWc (s : State) (core : Nat) : State :=
  sendWcAll s (s.wc.filter fun w => w.core == core && !storeHeld s core w.job w.uid w.seq)

/-- Write-combined bytes that lie in a run drain first. -/
def flushRun (s : State) (core k n : Nat) : State :=
  sendWcAll s (s.wc.filter fun w => w.core == core && k ≤ w.pa && w.pa < k + n)

/-- The single-copy atomic accesses that make up one of these bytes: those of 16 bytes, or a shorter one whole (R96, R302, R309). -/
def atomicUnits (pa n : Nat) : List (Nat × Nat) := if n ≤ 16 then [(pa, n)] else (upFrom 0 (n / 16)).map fun k => (pa + 16 * k, 16)

/-- A packet of a store, numbered by the store. -/
def sendStore (s : State) (e : StoreEnt) (pa : Nat) (b : Body) : State :=
  { s with
    packets := s.packets ++ [{ Packet.blank with
      id := s.fresh, src := e.core, dst := byteHome s pa, ordered := pa < 2 ^ 48, uid := some e.uid,
      job := e.job, seq := e.seq, grp := e.grp, pc := e.pc, sent := s.cycle
      units := match e.op with
        | .glob pa bs => [(pa, bs.length)]
        | .row pa bs _ => atomicUnits pa bs.length
        | _ => []
      body := b }]
    fresh := s.fresh + 1 }

/-- Bytes of a run in L1 as write-combined bytes; a newer byte replaces an older one. -/
def mergeWc (s : State) (e : StoreEnt) (k : Nat) (bs : List Byte) : State :=
  { s with wc := s.wc.filter (fun w => !(w.core == e.core && k ≤ w.pa && w.pa < k + bs.length)) ++
      (atKeys k bs).map fun p => ⟨e.core, p.1, p.2, e.uid, e.job, e.seq, (e.grp, e.pc), (k, bs.length)⟩ }

/-- Bits or halves of a reduction at a 4-byte or 8-byte value: m the value held, x the operand (R277). -/
def redResult (fn m x : Nat) : Nat :=
  let bf : Nat → Nat → Nat := fun a b => (opAdd fmtBF16 a b).1
  match fn with
  | 0 => (m + x) % 2 ^ 32
  | 1 => (m + x) % 2 ^ 32
  | 2 => (m + x) % 2 ^ 64
  | 3 => (m + x) % 2 ^ 64
  | 4 => if signedN 32 x < signedN 32 m then x else m
  | 5 => min m x
  | 6 => if signedN 64 x < signedN 64 m then x else m
  | 7 => min m x
  | 8 => if signedN 32 m < signedN 32 x then x else m
  | 9 => max m x
  | 10 => if signedN 64 m < signedN 64 x then x else m
  | 11 => max m x
  | 12 => m &&& x
  | 13 => m ||| x
  | 14 => m ^^^ x
  | 15 => m &&& x
  | 16 => m ||| x
  | 17 => m ^^^ x
  | 18 => (opAdd fmtF32 m x).1
  | _ => bf (m % 65536) (x % 65536) + 65536 * bf (m / 65536) (x / 65536)

/-- Apply a reduction at a place of memory (R108). -/
def applyRed (s : State) (fn pa : Nat) (x : DWord) : State :=
  let n := redSize fn
  memWriteNat s pa n (redResult fn (memNat s pa n) (x.toNat % 2 ^ (8 * n)))

/-- An entry of a store FIFO enters the core's store order (R115): it merges into L1, is performed in local store, or leaves for
its home; earlier write-combined bytes of the same places leave before it. -/
def enterCore (s : State) (e : StoreEnt) : State :=
  let s0 := { s with fifo := s.fifo.filter fun x => x.seq ≠ e.seq }
  match e.op with
  | .glob pa bs =>
    if (mgmtOff pa).isSome then sendStore s0 e pa (.write (atKeys pa bs) none)
    else unkeep (mergeClean (mergeWc s0 e pa bs) e.core pa bs) e.core pa bs.length
  | .row pa bs chunk =>
    let s1 := flushRun s0 e.core pa bs.length
    unkeep (mergeClean (sendStore s1 e pa (.write (atKeys pa bs) chunk)) e.core pa bs) e.core pa bs.length
  | .locl off bs => lsWrite s0 e.core off bs
  | .red fn pa x =>
    let s1 := flushRun s0 e.core pa (redSize fn)
    let s2 := { s1 with clean := s1.clean.filter fun l => !(l.core == e.core && l.pa == lineOf pa) }
    unkeep (sendStore s2 e pa (.red fn pa x)) e.core pa (redSize fn)
  | .redLs fn off x =>
    let n := redSize fn
    lsWrite s0 e.core off (natLe n (redResult fn (lsNat s0 e.core off n) (x.toNat % 2 ^ (8 * n))))
  | .redDet pa va k i x tag job =>
    let s1 := flushRun s0 e.core pa 64
    let s2 := { s1 with clean := s1.clean.filter fun l => !(l.core == e.core && l.pa == lineOf pa) }
    unkeep (sendStore s2 e pa (.redDet pa va k i x tag job)) e.core pa 64

/-- Entries enter the core's store order one after another. -/
def enterAll (s : State) : List StoreEnt → State
  | [] => s
  | e :: r => enterAll (enterCore s e) r

/-- A plain store or a reduction in global memory. -/
def StoreOp.leaves : StoreOp → Bool
  | .glob _ _ => true
  | o => o.isRed

/-- Two store entries are those of one issue in global memory, whose lanes leave the core in ascending order (R272). -/
def oneIssue (s : State) (a b : StoreEnt) : Bool :=
  a.op.leaves && b.op.leaves && a.core == b.core && a.grp == b.grp && a.pc == b.pc && ownFlock s a.uid == ownFlock s b.uid

/-- A reduction of a lower lane of the same issue must leave before this entry. -/
def lanesBefore (s : State) (e : StoreEnt) : Bool := s.fifo.any fun x => x.seq < e.seq && oneIssue s x e

/-- Every entry of a thread's FIFO enters the core's store order, and before them the older entries of its flock that the halt wave does
not hold, among them the lower lanes of its reductions. -/
def drainFifo (s : State) (uid : Nat) : State :=
  let last := s.fifo.foldl (fun n e => if e.uid == uid then max n e.seq else n) 0
  enterAll s (s.fifo.filter fun e => e.uid == uid ||
    (e.seq < last && ownFlock s e.uid == ownFlock s uid && e.core == (threadOf s uid).core && !storeHeld s e.core e.job e.uid e.seq))

/-! ## Loads (R273) -/

/-- Read request for the bytes of a load's result. -/
def sendRead (s : State) (t : Thread) (pc : VAddr) (pa n rid : Nat) (keep : Bool) (glean : Option (Nat × DWord)) : State :=
  sendPacket s { Packet.blank with
    src := t.core, dst := byteHome s pa, ordered := pa < 2 ^ 48, uid := some t.uid, job := t.job, grp := s.cycle + 1, pc := pc
    body := .read pa n rid keep glean }

/-- A core's line of a place has been evicted, and of the reads under way only the next one leaves a line: a thread never reads what is
older than what it has read (R106, R114). -/
def dropLine (s : State) (core k : Nat) : State := dropLines s core (lineOf k) 128

/-- The bytes of a clean line of the core, or of the glean partition, that a load may use; where it uses none of the core, the core has
none. -/
def loadHit (s : State) (core uid k n : Nat) (glean : Option Nat) : State × Option (List Byte) :=
  match glean with
  | some cls =>
    (match gleanLine s (dieOf core) k cls (some uid) with
    | some l =>
      (match cachedOr s k n ((l.drop (k % 128)).take n) with
      | (s1, some c) => (s1, some c)
      | (s1, none) => (dropGlean s1 (dieOf core) k, none))
    | none => (dropGlean s (dieOf core) k, none))
  | none =>
    match s.clean.find? fun l => l.core == core && l.pa == lineOf k with
    | some l =>
      (match cachedOr s k n ((l.bytes.drop (k - l.pa)).take n) with
      | (s1, some c) => (s1, some c)
      | (s1, none) => (dropLine s1 core k, none))
    | none => (dropLine s core k, none)

/-- Issue a load of a thread at a place (R273, R106, R111, R115): its bytes come from the thread's FIFO and the core's
write-combined bytes, then from a cached line or a read of the home. A pending reduction of the thread at those bytes enters the
store order first, so that the read follows it. -/
def issueLoad (s0 : State) (t : Thread) (pc : VAddr) (va k n : Nat) (glean : Option Nat) (fmt : LoadFmt) : State :=
  let s := if s0.fifo.any (fun e => e.uid == t.uid && e.op.isRed && e.op.meets k n) then drainFifo s0 t.uid else s0
  let own := (upFrom k n).map (coreByte s t.core t.uid)
  let r : Result := { Result.empty with uids := [t.uid], fmt := some fmt, pc := pc, addr := va }
  if own.all (·.isSome) then addResult s { r with buf := own }
  else
    let plain := (mgmtOff k).isNone
    let (s1, hit) := if plain then loadHit s t.core t.uid k n glean else (s, none)
    match hit with
    | some bs => addResult s1 { r with buf := (own.zip bs).map fun p => some (p.1.getD p.2) }
    | none =>
      let rid := s1.fresh
      let s2 := addResult s1 { r with buf := own, ready := false }
      sendRead s2 t pc k n rid (plain && glean.isNone) (glean.bind (gleanTag s2 (dieOf t.core)))

/-- A load of a thread; a byte that is poisoned in L1 or in the partition traps it (R358). -/
def loadOrTrap (s : State) (t : Thread) (pc : VAddr) (va k n : Nat) (glean : Option Nat) (fmt : LoadFmt) : State × Option Trap :=
  let s1 := eccRead s fun p => nearL1 t.core k n p || (glean.isSome && inGlean (dieOf t.core) k n p)
  if l1Bad s1 t.core t.uid k n glean || gleanBad s1 (dieOf t.core) k n glean (some t.uid) then
    (s1, some { cls := 7, code := Config.class7Code.toNat, aux := 0, addr := va })
  else (issueLoad s1 t pc va k n glean fmt, none)

/-- Fill the bytes of a result that have not come yet. -/
def fillBuf : List (Option Byte) → List Byte → List (Option Byte)
  | [], _ => []
  | b :: r, bs => (b <|> bs.head?) :: fillBuf r bs.tail

/-! ## What a release or a fence waits for (R116) -/

/-- Earlier loads of a thread that have not returned, and earlier results whose value is not yet in its register: registers are memory
homed in their thread (R116, R120). The departure of an addition writes no register. -/
def loadsBefore (s : State) (uid seq : Nat) : Bool := s.results.any fun r => r.left.isNone && has r.uids uid && r.id < seq

/-- Earlier stores and reductions of a thread that have not entered the core's store order. -/
def fifoBefore (s : State) (uid seq : Nat) : Bool := s.fifo.any fun e => e.uid == uid && e.seq < seq

/-- Write-combined bytes of the core, and stores of the core on their way, that were made before; those that the halt wave holds leave when
their job resumes and are waited for by no other job. -/
def sentBefore (s : State) (core seq : Nat) : Bool :=
  s.wc.any (fun w => w.core == core && w.seq < seq && !storeHeld s core w.job w.uid w.seq) ||
    s.packets.any (fun p => p.src == core && p.seq < seq && p.body.isStore)

/-- Acknowledgements that the thread still awaits for earlier writes and reductions. -/
def acksBefore (s : State) (uid seq : Nat) : Bool :=
  s.packets.any fun p => p.uid == some uid && p.seq < seq && (p.body.isStore || p.body == .ack)

/-- A release or fence at a scope has nothing left to wait for (R116). -/
def quiet (s : State) (core uid seq scope : Nat) : Bool :=
  !fifoBefore s uid seq && !loadsBefore s uid seq && (scope ≤ 1 || (!sentBefore s core seq && !acksBefore s uid seq))

/-- Unit classes: the die that a sending unit belongs to. -/
def srcDie (u : Nat) : Nat := if 4000000 ≤ u then (u - 4000000) % 16 else if u < 2000 then u / 128 else if u < 3000000 then u - 2000000 else if u = 3000000 then 0 else 6

/-- Module and die of a packet's sender. -/
def senderEnd (s : State) (p : Packet) : Nat × Nat :=
  if 4000000 ≤ p.src then ((p.src - 4000000) / 16, p.src % 16) else (moduleId s, srcDie p.src)

/-- The die that a receiving unit of this module belongs to. -/
def dstDie (u : Nat) : Nat := u / 512

/-- A link's end right after training. -/
def LinkEnd.trained (die peer : Nat) : LinkEnd := ⟨die, peer, 0, 0, 0, [], [], [], [], [], []⟩

/-- The end of a link on a die. -/
def linkEnd (s : State) (die peer : Nat) : LinkEnd :=
  (s.links.find? fun l => l.die == die && l.peer == peer).getD (LinkEnd.trained die peer)

/-- Change the end of a link. -/
def modLink (s : State) (die peer : Nat) (f : LinkEnd → LinkEnd) : State :=
  { s with links := f (linkEnd s die peer) :: s.links.filter fun l => !(l.die == die && l.peer == peer) }

/-- The link that a packet travels on: the dies of this module that it goes from and to (R118, R169, R174). -/
def linkOf (s : State) (p : Packet) : Option (Nat × Nat) :=
  let (m, i) := senderEnd s p
  let (n, j) := unitEnd s p.dst
  if m = moduleId s ∧ n = m ∧ i ≠ j then some (i, j) else none

/-- The link of a message of the ports. -/
def msgLink (s : State) (m : NetMsg) : Option (Nat × Nat) :=
  if m.smod = moduleId s ∧ m.dmod = m.smod ∧ m.sdie ≠ m.ddie then some (m.sdie, m.ddie) else none

/-- The number before which a release's earlier accesses count: that of its own result where it has one, else that of its instruction. -/
def releaseSeq (p : Packet) : Nat :=
  match p.body with
  | .ctr _ (.addRet _ rid) => rid
  | _ => p.seq

/-- A packet's release is complete (R116). -/
def releaseDone (s : State) (p : Packet) : Bool :=
  match p.release, p.uid with
  | some sc, some u => quiet s p.src u (releaseSeq p) sc
  | _, _ => true

/-- A wake that has reached its die and is held there while its job is halted, and a wait that its home has refused: they are off the link
(R174, R203, R386). -/
def offLink (s : State) (p : Packet) : Bool :=
  2 ^ 64 ≤ p.grp || (match p.body with
    | .wake w => jobHeld s (dieOf w.unit) w.job
    | _ => false)

/-- The halt wave holds a release that has not left its core (R203). -/
def releaseHeld (s : State) (p : Packet) : Bool :=
  p.release.isSome && (match p.uid with
    | some u => p.src < 1536 && coreHeld s p.src p.job u p.id
    | none => false)

/-- Destinations in a thread's failed set within a scope (R113, R399). -/
def failedWithin (s : State) (t : Thread) (scope : Nat) : List (Nat × Nat) :=
  t.failed.filter fun p => if p.1 = moduleId s then 4 ≤ scope else 5 ≤ scope

/-- A release of a thread whose failed set holds a destination within its scope (R399). -/
def releaseFails (s : State) (p : Packet) : Bool :=
  match p.release, p.uid with
  | some sc, some u => ((findThread s u).any fun t => !(failedWithin s t sc).isEmpty)
  | _, _ => false

/-- A packet has left its sender. -/
def hasLeft (s : State) (p : Packet) : Bool := releaseDone s p && !releaseHeld s p && !releaseFails s p

/-- AUX of a failed set: its lowest module, and the number of its modules (R393). -/
def failedAux (l : List (Nat × Nat)) : Nat :=
  let ms := sortBy id (dedup (l.map (·.1)))
  (match ms with
  | m :: _ => m
  | [] => 0) + min ms.length 8191 * 2 ^ 16

/-- ADDR of a failed set: the failed dies of this module (R393). -/
def failedDies (s : State) (l : List (Nat × Nat)) : Nat := maskOf ((l.filter fun p => p.1 == moduleId s).map (·.2))

/-- A release or fence of a thread, issued in core cycle `at_` − 1, faults over its failed set, which the record empties (R399). -/
def failSync (s : State) (uid : Nat) (pc : VAddr) (at_ : Nat) : State :=
  let l := (threadOf s uid).failed
  modThread (trapLate s uid pc at_ { cls := 8, code := 4, aux := failedAux l, addr := failedDies s l }) uid fun t => { t with failed := [] }

/-- Two packets were sent by one issue: by one word of one flock in one core cycle (R272). -/
def samePacketIssue (s : State) (p q : Packet) : Bool :=
  p.uid.isSome && (p.uid.bind (ownFlock s)) == (q.uid.bind (ownFlock s)) &&
    ((p.grp ≠ 0 && p.grp < 2 ^ 64 && p.grp == q.grp && p.pc == q.pc) || p.issues.any fun i => q.issues.any (· == i))

/-- A wait or its withdrawal. -/
def CtrOp.isWait : CtrOp → Bool
  | .wait _ => true
  | .withdraw _ _ => true
  | _ => false

/-- An addition or setting. -/
def CtrOp.changes : CtrOp → Bool
  | .add _ => true
  | .addRet _ _ => true
  | .set _ => true
  | _ => false

/-- Operations from one sender to one home that keep their order: those of one issue's lanes, within the module; those of one thread on
counters, but additions at another module's home; a wait and its withdrawal (R64, R68, R272). -/
def homeOrder (s : State) (p q : Packet) : Bool :=
  p.src == q.src && p.dst == q.dst &&
    ((p.dst < 6144 && samePacketIssue s p q) ||
      (match p.body, q.body with
      | .ctr _ a, .ctr _ b => (a.isWait && b.isWait) || (p.uid.isSome && p.uid == q.uid && (p.dst < 6144 || (!a.changes && !b.changes)))
      | _, _ => false))

/-- Two writes of one engine operation, between which there is no order (R119). -/
def oneEngine (q p : Packet) : Bool := p.eng.isSome && q.eng == p.eng && q.body.isStore && p.body.isStore

/-- An earlier packet must be delivered before this one. A packet whose release is not complete has not left, and holds back none
but the counter operations behind it. -/
def blocks (s : State) (q p : Packet) : Bool :=
  q.id < p.id && q.grp < 2 ^ 64 && (homeOrder s q p || (q.src == p.src && bodiesMeet q.body p.body && !oneEngine q p))

/-- A packet or message of this number has not been taken from its link. -/
def onLink (s : State) (id : Nat) : Bool := (findPacket s id).any (fun p => !offLink s p) || s.fabric.any fun m => m.id == id && !m.got

/-- What goes over a link cannot be taken yet: its last flit has not been received, or what was sent before it must be taken first
(R173, R174). -/
def linkBusy (s : State) (id : Nat) : Option (Nat × Nat) → Bool
  | none => false
  | some (i, j) =>
    let out := (linkEnd s i j).out
    (out.find? fun e => e.1 == id).all fun e => (linkEnd s j i).rx < e.2 || (out.takeWhile fun q => q.1 ≠ id).any fun q => onLink s q.1

/-- A packet may be delivered now. -/
def deliverable (s : State) (p : Packet) : Bool :=
  !s.packets.any (fun q => blocks s q p) && !linkBusy s p.id (linkOf s p) && hasLeft s p

/-- The packet of a number, when it may be delivered. -/
def arriving (s : State) (id : Nat) : Option Packet :=
  match findPacket s id with
  | some p => if deliverable s p then some p else none
  | none => none

/-- A packet is off its link, and its receiver goes on with it when it can. -/
def parkPacket (s : State) (id : Nat) : State :=
  { s with packets := s.packets.map fun p => if p.id == id then { p with grp := 2 ^ 64 } else p }

/-- A packet comes from another module (R177). -/
def fromPeer (s : State) (p : Packet) : Bool := 4000000 ≤ p.src && (p.src - 4000000) / 16 ≠ moduleId s

/-- What a home sends back to a packet's sender: to the core or the engines that sent it, or to the die of another module. It carries the TAG of
what it answers (R174, R177). -/
def sendBack (s : State) (p : Packet) (b : Body) : State :=
  let (m, d) := unitEnd s p.dst
  let q : Packet := { Packet.blank with
    src := homeSrc m d, dst := backUnit p.src, ordered := false, uid := p.uid, job := p.job, grp := p.grp % 2 ^ 64, pc := p.pc
    tag := some (p.tag.getD p.id), eng := p.eng, va := p.va, body := b }
  if fromPeer s p then
    sendOut s { q with dst := 2 ^ 20 * (1 + (p.src - 4000000) / 16) + 512 * (p.src % 16) + 296 }
  else sendPacket s q

/-- Send back the acknowledgement of what a packet did, which keeps the number of its stores and its TAG (R177). Those of hosts await none, and
those of an engine none from its own die. -/
def acknowledge (s : State) (p : Packet) : State :=
  let s1 := dropPacket s p.id
  if fromPeer s p then sendBack s1 p .ack
  else if p.uid.isSome || (p.eng.isSome && senderEnd s p ≠ unitEnd s p.dst) then
    let (m, d) := unitEnd s p.dst
    { s1 with
      packets := s1.packets ++ [{ p with
        id := s.fresh, ordered := false, dst := backUnit p.src, src := homeSrc m d, sent := s.cycle, tag := some (p.tag.getD p.id), body := .ack }]
      fresh := s.fresh + 1 }
  else s1

/-! ## Reads and writes by engines (R119) -/

/-- The effective scope of an operation on a counter (R63): the wider of its suffix and the smallest scope that holds issuer and
home. -/
def effScope (s : State) (core suffix h : Nat) : Nat :=
  let d := dieOf core
  let least :=
    if hLevel h = 4 ∧ hModule h ≠ moduleId s then 5
    else if hDie h ≠ d then 4
    else match hLevel h with
      | 0 => if hCore h = core % 128 then 1 else if hCore h / 16 = core % 128 / 16 then 2 else 3
      | 1 => if bits h 43 41 = core % 128 / 16 then 2 else 3
      | _ => 3
  max suffix least

/-- What an engine's access to a global address of a job comes to: its place, the class-4 code of the failure, or a wait for the
host's translation. -/
inductive Eng where
  /-- place, and glean class -/
  | at (k : Nat) (glean : Option Nat)
  /-- class-4 code -/
  | fail (code : Nat)
  /-- the port asks the host -/
  | wait
  deriving DecidableEq, Repr

/-- Translate an address for an operation of an engine of a die (R379, R381). A page request that the host refused fails each operation that
waits for it; an engine reaches memory only, and no management block. -/
def engAt (s : State) (die job op va : Nat) (write : Bool) : State × Eng :=
  if 2 ^ 57 ≤ va then (s, .fail 6)
  else match xlate s die job va write false with
    | (s1, .at k g) => (s1, if (mgmtOff k).isSome then .fail 3 else .at k g)
    | (s1, .bad c _) => (s1, .fail c)
    | (s1, .ask p q pg) =>
      match s1.engFails.find? fun f => f.op == op && f.page == some (p, q, pg, write) with
      | some f => ({ s1 with engFails := s1.engFails.filter (· ≠ f) }, .fail f.code)
      | none => ((askPage s1 p q pg write (some op)).1, .wait)

/-- The result of an engine's read or write. -/
inductive EngRes (α : Type) where
  /-- done -/
  | ok (a : α)
  /-- failed at an address: class-4 code, or 8 for poison -/
  | fail (va code : Nat)
  /-- waits for the host -/
  | wait
  deriving DecidableEq, Repr

/-- Pieces of a run of addresses that do not cross a 4 KiB page, at most `fuel` of them. -/
def pagePieces : Nat → Nat → Nat → List (Nat × Nat)
  | 0, _, _ => []
  | f + 1, a, n =>
    if n = 0 then []
    else
      let m := min n (4096 - a % 4096)
      (a, m) :: pagePieces f (a + m) (n - m)

/-- Stores and reductions that a thread made before, which have not reached their homes yet (R119). -/
def storesPending (s : State) (uid seq : Nat) : Bool :=
  fifoBefore s uid seq || s.wc.any (fun w => w.uid == uid && w.seq < seq) ||
    s.packets.any (fun p => p.uid == some uid && p.seq < seq && p.body.isStore)

/-- An addition of a thread to one of its die's validity counters was sent before and is not applied: a glean access of the engine follows
it (R112). -/
def validityPending (s : State) (core uid seq : Nat) : Bool :=
  s.packets.any fun p => p.uid == some uid && p.id < seq &&
    (match p.body with
    | .ctr h op => op.changes && (upFrom 0 4).any fun n => getReg s (dieOf core) (0x628 + 8 * n) == h.toNat
    | _ => false)

/-- Writes that an engine operation must observe are still on their way: those its issuing thread made before (R119), and those of its
core, which the thread may have acquired (R117, R301); or additions to validity counters (R112). -/
def engineWaits (s : State) (core uid seq : Nat) : Bool :=
  storesPending s uid seq || sentBefore s core seq || validityPending s core uid seq

/-- An engine operation may not make its completion addition, a release, before its thread's earlier loads have returned (R116). -/
def engineHolds (s : State) (core uid seq : Nat) : Bool := engineWaits s core uid seq || loadsBefore s uid seq

/-- A write of an engine operation to one of these bytes is under way. -/
def ownWrite (s : State) (op k n : Nat) : Bool :=
  s.packets.any fun p => p.eng == some op && p.body.isStore && p.body.runs.any fun q => runsMeet q.1 q.2 k n

/-- Ask the home of bytes beyond an engine's die for them (R169, R176). -/
def askLine (s : State) (die job op va k n : Nat) (glean : Option Nat) : State :=
  sendPacket { s with engLines := s.engLines ++ [⟨s.fresh, op, k, n, none, none⟩], fresh := s.fresh + 1 } { Packet.blank with
    src := engSrc die, dst := byteHome s k, ordered := k < 2 ^ 48, job := job, eng := some op, va := va
    body := .read k n s.fresh false (glean.bind (gleanTag s die)) }

/-- Bytes of one line beyond an engine's die, at an address: those that have come, or those of the partition, or a request for them. -/
def engLine (s : State) (die job op va k n : Nat) (glean : Option Nat) : State × EngRes (List Byte) :=
  match s.engLines.find? fun l => l.op == op && l.pa == k && l.n == n with
  | some l => (s, match l.fail, l.bytes with
    | some c, _ => .fail va c
    | none, some bs => .ok bs
    | none, none => .wait)
  | none =>
    match glean.bind fun c => gleanLine s die k c none with
    | some l =>
      if gleanBad s die k n glean none then (s, .fail va 8)
      else (match cachedOr s k n ((l.drop (k % 128)).take n) with
        | (s1, some c) => (s1, .ok c)
        | (s1, none) => (askLine (dropGlean s1 die k) die job op va k n glean, .wait))
    | none => (askLine s die job op va k n glean, .wait)

/-- Two parts of a read: it waits for both, and fails at the first that has failed. -/
def joinRead : EngRes (List Byte) → EngRes (List Byte) → EngRes (List Byte)
  | .wait, _ => .wait
  | _, .wait => .wait
  | .fail a c, _ => .fail a c
  | .ok _, .fail a c => .fail a c
  | .ok a, .ok b => .ok (a ++ b)

/-- Read lines beyond an engine's die, which are asked for together; `off` is what an address has above its place. -/
def engLineReads (s : State) (die job op : Nat) (off : Int) (glean : Option Nat) : List (Nat × Nat) → EngRes (List Byte) → State × EngRes (List Byte)
  | [], acc => (s, acc)
  | (k, n) :: r, acc =>
    let (s1, x) := engLine s die job op (off + k).toNat k n glean
    engLineReads s1 die job op off glean r (joinRead acc x)

/-- Bytes within a page that an engine operation reads, once no write of its own to them is under way: at once from its own die. -/
def engPage (s : State) (die job op va k n : Nat) (glean : Option Nat) : State × EngRes (List Byte) :=
  if ownWrite s op k n then (s, .wait)
  else if k / 2 ^ 44 = die then
    let (s1, bs) := unitBytes s die k n none none
    (s1, if unitBad s die k n none none then .fail va 8 else .ok bs)
  else engLineReads s die job op ((va : Int) - k) glean (linePieces (n / 128 + 2) k n) (.ok [])

/-- Read pieces. -/
def engReadPieces (s : State) (die job op : Nat) : List (Nat × Nat) → List Byte → State × EngRes (List Byte)
  | [], acc => (s, .ok acc)
  | (a, n) :: r, acc =>
    match engAt s die job op a false with
    | (s1, .fail c) => (s1, .fail a c)
    | (s1, .wait) => (s1, .wait)
    | (s1, .at k g) =>
      match engPage s1 die job op a k n g with
      | (s2, .fail a c) => (s2, .fail a c)
      | (s2, .wait) => (s2, .wait)
      | (s2, .ok bs) => engReadPieces s2 die job op r (acc ++ bs)

/-- An operation of an engine of a die reads `n` bytes of global memory for a job. What lies beyond the die comes in packets, for which it waits
(R169, R176). -/
def engRead (s : State) (die job op va n : Nat) : State × EngRes (List Byte) :=
  engReadPieces s die job op (pagePieces (n / 4096 + 2) va n) []

/-- A step of an engine operation has taken the bytes that it has asked for. -/
def engTaken (s : State) (op : Nat) : State := { s with engLines := s.engLines.filter fun l => l.op ≠ op }

/-- An engine operation has ended. -/
def engEnded (s : State) (op : Nat) : State := { engTaken s op with engFails := s.engFails.filter fun f => f.op ≠ op }

/-- Places of a run of addresses for a write, found before anything is written. -/
def engPlaces (s : State) (die job op : Nat) : List (Nat × Nat) → List (Nat × Nat) → State × EngRes (List (Nat × Nat))
  | [], acc => (s, .ok acc)
  | (a, n) :: r, acc =>
    match engAt s die job op a true with
    | (s1, .fail c) => (s1, .fail a c)
    | (s1, .wait) => (s1, .wait)
    | (s1, .at k _) => engPlaces s1 die job op r (acc ++ [(k, n)])

/-- The write packets of an engine operation for bytes of a page, one for each line (R169, R176); `off` is what an address has above its place. -/
def linePackets (s : State) (die job op : Nat) (off : Int) : List (Nat × Nat) → List Byte → List Packet
  | [], _ => []
  | (k, n) :: r, bs =>
    { Packet.blank with
      src := engSrc die, dst := byteHome s k, ordered := k < 2 ^ 48, job := job, eng := some op, va := (off + k).toNat
      body := .write (atKeys k (bs.take n)) none } :: linePackets s die job op off r (bs.drop n)

/-- The write packets of an engine operation for the pieces of a run of addresses and their places. -/
def placePackets (s : State) (die job op va : Nat) : List (Nat × Nat) → List Byte → List Packet
  | [], _ => []
  | (k, n) :: r, bs =>
    linePackets s die job op ((va : Int) - k) (linePieces (n / 128 + 2) k n) (bs.take n) ++ placePackets s die job op (va + n) r (bs.drop n)

/-- An operation of an engine sends bytes for a global address to their homes, where they arrive in any order (R96, R119). A row that fails its
translation leaves its bytes unchanged (R389). -/
def engWrite (s : State) (die job op va : Nat) (bs : List Byte) : State × EngRes Unit :=
  match engPlaces s die job op (pagePieces (bs.length / 4096 + 2) va bs.length) [] with
  | (s1, .ok ps) => (sendPackets s1 (placePackets s1 die job op va ps bs), .ok ())
  | (s1, .fail a c) => (s1, .fail a c)
  | (s1, .wait) => (s1, .wait)

/-- Whether the writes of an engine operation have reached their homes, or one of them has failed on its way (R119, R399). -/
def engDone (s : State) (op : Nat) : EngRes Unit :=
  if s.packets.any fun p => p.eng == some op && (p.body.isStore || p.body == .ack) then .wait
  else match s.engFails.find? fun f => f.op == op && f.page.isNone with
    | some f => .fail f.va f.code
    | none => .ok ()

/-- Threads that wait for what an engine has asked for look again. -/
def lookAgain (s : State) : State :=
  { s with threads := s.threads.map fun t => if t.wait == .page 0 then { t with wait := .none, age := s.cycle + 1 } else t }

/-! ## The halt wave's start (09 R200, R201) -/

/-- At the cut of a halt, the additions of a job whose releases are complete have left their cores (R203). -/
def markLeft (s : State) (d job : Nat) : State :=
  { s with packets := s.packets.map fun p =>
      if p.job == job && p.src < 1536 && dieOf p.src == d && p.release.isSome && hasLeft s p then { p with release := none } else p }

/-- The key of a token: STAMP, OMOD, ODIE, OCORE, OLANE, OSLOT (R201). -/
def tokenKey (stamp : Nat) (origin : List Nat) : List Nat := stamp :: origin

/-- Lexicographic order of keys. -/
def keyLess : List Nat → List Nat → Bool
  | a :: r, b :: q => a < b || (a == b && keyLess r q)
  | [], _ :: _ => true
  | _, [] => false

/-- Word 1 of a token (R200). -/
def tokenWord1 (hseq : Nat) (origin : List Nat) (cause : Nat) : Nat :=
  hseq % 65536 + (nthD 0 origin 0 % 8192) * 2 ^ 16 + (nthD 0 origin 1 % 16) * 2 ^ 29 + (nthD 0 origin 2 % 128) * 2 ^ 33 +
    (nthD 0 origin 3 % 32) * 2 ^ 40 + (nthD 0 origin 4 % 64) * 2 ^ 45 + (cause % 32) * 2 ^ 51

/-- A message with nothing filled in. -/
def NetMsg.blank : NetMsg := ⟨0, 0, 0, 0, 0, 0, 1, 0, false, false, none, .done⟩

/-- Send a message under the next number. -/
def sendMsg (s : State) (m : NetMsg) : State :=
  { s with fabric := s.fabric ++ [{ m with id := s.fresh, sent := s.cycle }], fresh := s.fresh + 1 }

/-- Send a message to several dies of the module. -/
def sendMsgs (s : State) (m : NetMsg) : List Nat → State
  | [] => s
  | d :: r => sendMsgs (sendMsg s { m with ddie := d }) m r

/-- Forward a token on the die's links and, with `port`, to the slot's multicast group (R201); the group stands above the
module numbers as a destination. -/
def floodToken (s : State) (d : Nat) (group : Option Nat) (b : NetBody) : State :=
  let m := moduleId s
  let s1 := sendMsgs s { NetMsg.blank with smod := m, sdie := d, dmod := m, body := b } ((diesOn s).filter (· ≠ d))
  match group with
  | some g => sendMsg s1 { NetMsg.blank with smod := m, sdie := d, dmod := 8192 + g, body := b }
  | none => s1

/-- Stop a job on a die and keep a token as its cause (R201): PHASE 1 from PHASE 0, HSEQ, the CAUSE registers. -/
def takeCause (s : State) (d h : Nat) (hseq stamp : Nat) (origin : List Nat) (cause pc : Nat) : State :=
  let start := phaseOf s d h = 0
  let s1 := setField s d (hoff h + 16) 17 2 hseq
  let s2 := if start then setField s1 d (hoff h + 16) 1 0 1 else s1
  let s3 := setReg s2 d (hoff h + 24) stamp
  let s4 := setReg s3 d (hoff h + 32) (tokenWord1 hseq origin cause)
  let s5 := setReg (if start then markLeft s4 d (getField s d (hoff h) 15 0) else s4) d (hoff h + 40) (pc % 2 ^ 57)
  modHaltWork s5 d h fun w =>
    { w with
      least := some (tokenKey stamp origin)
      since := if start then ftime s d else w.since
      goT := if start then none else w.goT
      going := if start then none else w.going
      armHeld := if start then none else w.armHeld
      stepping := if start then [] else w.stepping
      stepped := if start then [] else w.stepped }

/-- A cause arises on a die: it stops the job there and sends a token (R201). -/
def startHalt (s : State) (d h : Nat) (core lane slot cause pc : Nat) : State :=
  let hseq := (getField s d (hoff h + 16) 17 2 + 1) % 65536
  let stamp := ftime s d
  let origin := [moduleId s, d, core, lane, slot]
  let s1 := takeCause s d h hseq stamp origin cause pc
  floodToken s1 d (some (getField s d (hoff h) 40 17))
    (.token 0 (getField s d (hoff h) 15 0) (BitVec.ofNat 64 stamp) hseq origin cause (BitVec.ofNat 57 pc))

/-! ## The records of faults, and what follows them (17 R354, R355) -/

/-- What follows a record under the job's trap policy (R355). -/
def actOnPolicy (s : State) (r : FaultRec) (rec : Option (Nat × Nat)) : State :=
  if jobHeld s r.die r.job then s
  else
    match policyOf s r.die r.job with
    | 1 =>
      let c := getReg s r.die 0x130
      if coreOn s r.die c then spawnHandler s (128 * r.die + c) (handlerKid s r.die rec) else s
    | 2 =>
      if haltEn s r.die r.job then
        match haltSlot s r.die r.job with
        | some h => startHalt s r.die h r.core r.lane r.slot 2 r.pc
        | none => s
      else s
    | _ => s

/-- The record of a fault, then its policy. -/
def recordFault (s : State) (r : FaultRec) : State :=
  let (s1, rec) := writeRecord s r
  actOnPolicy s1 r rec

/-- The records of faults, in order. -/
def recordFaults (s : State) : List FaultRec → State
  | [] => s
  | r :: q => recordFaults (recordFault s r) q

/-- The end of a core cycle: the faults detected in it are recorded, in ascending order of core, then lane (R354). -/
def recordDetected (s : State) : State :=
  if s.detected.isEmpty then s
  else recordFaults { s with detected := [] } (sortBy (fun r => 32 * r.core + r.lane) s.detected)

end Sys2Proof.Machine
end

