-- ==== Sys2Proof/Machine/Control.lean ====
section
/-! DEFINITION. Meanings of the control class at job level: branches, threads, flocks, the register window, breakpoints and STATUS
(11 R256 to R270, 13 R322, R323; faults 18 R369, R374, 19 R391, 20 R410). -/

namespace Sys2Proof.Machine

/-- Fields of a control word. -/
def ctlF (h : Hdr) (op : BitVec 7) (d a b : BitVec 7) : Fields := ⟨3#2, h.s, h.g, op, d, a, b⟩

/-! ## Branches (R216, R257, R258) -/

/-- Fields of a branch word. -/
def brF (h : Hdr) (op : BitVec 7) (o : BitVec 21) : Fields :=
  ctlF h op (o.extractLsb' 14 7) (o.extractLsb' 7 7) (o.extractLsb' 0 7)

/-- Target(w) (R216). -/
def brTarget (pc : VAddr) (o : BitVec 21) : VAddr := pc + 4#57 * o.signExtend 57

/-- BR: branches in each active thread (R257). -/
def execBr (h : Hdr) (o : BitVec 21) (s : State) : Host.Outcome State Fault Refusal :=
  issued (perThread { f := brF h 0#7 o } (fun _ => {}) (fun s i t => (s, .eff { pc := [(t.uid, brTarget i.pc o)] })) s)

/-- BRN: branches in each active thread whose g is 0 (R257). -/
def execBrn (h : Hdr) (o : BitVec 21) (s : State) : Host.Outcome State Fault Refusal :=
  issued (perThread { f := brF h 1#7 o } (fun _ => { gr := true })
    (fun s i t => (s, .eff { pc := if t.g then [] else [(t.uid, brTarget i.pc o)] })) s)

/-- CALL: writes PC + 4 to v126:v127 and branches (R257). -/
def execCall (h : Hdr) (o : BitVec 21) (s : State) : Host.Outcome State Fault Refusal :=
  issued (perThread { f := brF h 2#7 o } (fun _ => { vw := [(126, 2)] })
    (fun s i t => (s, .eff { v := wr2 t 126 (i.pc + 4#57).toNat 2, pc := [(t.uid, brTarget i.pc o)] })) s)

/-- JR: branches to Pair(A, t)[56:0] (R258). -/
def execJr (h : Hdr) (a : BitVec 7) (s : State) : Host.Outcome State Fault Refusal :=
  issued (perThread { f := ctlF h 3#7 0#7 a 0#7 }
    (fun _ => { vr := [(a.toNat, 2)], tags := tagsOf 1 a.toNat 2 (some tagsInt), limits := [(a.toNat % 2 == 1, 1)] })
    (fun s _ t =>
      let x := vPair t a.toNat
      if x % 4 ≠ 0 then (s, .trap { cls := 1, code := 4, aux := 1 })
      else (s, .eff { pc := [(t.uid, BitVec.ofNat 57 x)] })) s)

/-! ## Words with little effect, the window and STATUS (R259, R270, R322) -/

/-- NOP: no effect (R259). -/
def execNop (h : Hdr) (s : State) : Host.Outcome State Fault Refusal :=
  issued (perThread { f := ctlF h 14#7 0#7 0#7 0#7 } (fun _ => {}) (fun s _ _ => (s, .eff {})) s)

/-- YIELD: the age of each active thread becomes the next cycle (R259). -/
def execYield (h : Hdr) (s : State) : Host.Outcome State Fault Refusal :=
  issued (perThread { f := ctlF h 10#7 0#7 0#7 0#7 } (fun _ => {})
    (fun s _ t => (modThread s t.uid fun t => { t with age := s.cycle + 1 }, .eff {})) s)

/-- A window base that R45 allows. -/
def wbOk (alloc : Nat) (x : Int) : Bool := 0 ≤ x && x % 2 == 0 && x ≤ ((alloc - 128 : Nat) : Int)

/-- WINB: sets WB, or adds to it (R270). -/
def execWinb (h : Hdr) (c b : BitVec 7) (lit : Word) (s : State) : Host.Outcome State Fault Refusal :=
  issued (perThread { f := ctlF h 9#7 c 0#7 b, rsv := selRsv b.toNat || 2 ≤ c.toNat, last := true, sel := some b }
    (fun _ => { sr := selS b.toNat false })
    (fun s i t =>
      let x := src s i t b.toNat lit .int
      let n : Int := if c = 0#7 then (x : Int) else (t.wb : Int) + signedN 32 x
      if wbOk t.alloc n then (modThread s t.uid fun t => { t with wb := n.toNat }, .eff {})
      else (s, .trap { cls := 2, code := 2, aux := patN 32 n })) s)

/-- STATRD: reads STATUS (R322). -/
def execStatrd (h : Hdr) (d : BitVec 7) (s : State) : Host.Outcome State Fault Refusal :=
  issued (perThread { f := ctlF h 15#7 d 0#7 0#7, last := true } (fun _ => { vw := [(d.toNat, 1)] })
    (fun s _ t => (s, .eff { v := [wr t d.toNat t.status.toNat 2] })) s)

/-- STATCLR: clears the STATUS bits of b (R322). -/
def execStatclr (h : Hdr) (b : BitVec 7) (lit : Word) (s : State) : Host.Outcome State Fault Refusal :=
  issued (perThread { f := ctlF h 16#7 0#7 0#7 b, rsv := selRsv b.toNat, last := true, sel := some b }
    (fun _ => { sr := selS b.toNat false })
    (fun s i t =>
      let m := BitVec.ofNat 16 (src s i t b.toNat lit .int)
      (modThread s t.uid fun t => { t with status := t.status &&& ~~~m }, .eff {})) s)

/-! ## Ends of threads (R261, R265; R391, R410) -/

/-- End the visit of a routine thread of a sweep with what it yielded, or with none (R294, R391). What is written back is what its registers hold
now (R89). -/
def endVisit (s : State) (t : Thread) (slot : Nat) (y : Option Word) : State :=
  { s with sweeps := s.sweeps.map fun w =>
      if w.core == t.core && w.slot == slot && w.started then
        { w with open_ := w.open_.map fun vs => vs.map fun v => if v.uid == t.uid then { v with yielded := some y, regs := (upFrom 4 14).map fun n => (n, getV t n) } else v }
      else w }

/-- The candidate that a coverage thread answers for. -/
def findCand (s : State) (harrow cand : Nat) : Option Cand :=
  match s.beams.find? fun b => b.harrow == harrow && b.cands.any (·.id == cand) with
  | some b => b.cands.find? (·.id == cand)
  | none => none

/-- Record a coverage thread's answer (R261). -/
def answerCand (s : State) (harrow cand : Nat) (a : Bool) : State :=
  { s with beams := s.beams.map fun b =>
      if b.harrow == harrow then { b with cands := b.cands.map fun c => if c.id == cand then { c with answer := some a } else c } else b }

/-- A thread ends (R265). A routine thread of a sweep ends its visit only (R391); a coverage thread without an answer counts as a
rejection and is reported (R410). -/
def exitThread (s : State) (t : Thread) : State × Out :=
  match t.role with
  | .sweep slot _ => (endVisit s t slot none, .hold {} .idle)
  | .cover hr cand =>
    let c := findCand s hr cand
    let s1 := answerCand s hr cand false
    let s2 := raise s1 { FaultRec.blank with
      cls := 9, code := 3, job := t.job, die := dieOf t.core, pc := t.pc.toNat,
      aux := (match c with | some c => c.hit.prim.toNat | none => 0), info := (match c with | some c => c.addr | none => 0) }
    (freeLaunches (endThread s2 t.uid), .eff {})
  | .plain => (freeLaunches (endThread s t.uid), .eff {})

/-- EXIT: ends each active thread once its results are written (R265). -/
def execExit (h : Hdr) (s : State) : Host.Outcome State Fault Refusal :=
  issued (perThread { f := ctlF h 5#7 0#7 0#7 0#7, last := true } (fun _ => {}) (fun s _ t => exitThread s t) s)

/-- End a coverage routine thread with its answer (R261, R369). -/
def coverEnd (h : Hdr) (op : BitVec 7) (yes : Bool) (s : State) : State :=
  perThread { f := ctlF h op 0#7 0#7 0#7, last := true } (fun _ => {})
    (fun s _ t =>
      match t.role with
      | .cover hr cand => (freeLaunches (endThread (answerCand s hr cand yes) t.uid), .eff {})
      | _ => (s, .trap { cls := 3, code := 2, aux := 0 })) s

/-- CVACC: accepts the sample and ends the coverage thread (R261). -/
def execCvacc (h : Hdr) (s : State) : Host.Outcome State Fault Refusal := issued (coverEnd h 12#7 true s)

/-- CVREJ: rejects the sample and ends the coverage thread (R261). -/
def execCvrej (h : Hdr) (s : State) : Host.Outcome State Fault Refusal := issued (coverEnd h 13#7 false s)

/-! ## Moves between flocks (R31 to R34, R266 to R269) -/

/-- Move a thread into a flock of its core; the flock it leaves is dissolved when it was the last member (R31). -/
def moveThread (s : State) (t : Thread) (idx : Nat) : State :=
  dissolveEmpty (modThread s t.uid fun t => { t with flock := idx, age := s.cycle + 1 }) t.core t.flock

/-- Make a fresh flock for a thread (R33, R266): s registers and PRIO copied, no tiles, the lowest free index. -/
def freshFlock (s : State) (t : Thread) (key : Option Word) : State × Nat :=
  let old := flockOf s t.core t.flock
  let idx := freeIndex s t.core
  ({ s with flocks := s.flocks ++ [{ Flock.blank with
      core := t.core, idx := idx, job := t.job, prio := old.prio, sregs := old.sregs, key := key, since := ftime s (dieOf t.core) }] }, idx)

/-- The place of a lane in a flock is empty. -/
def placeEmpty (s : State) (core idx lane : Nat) : Bool := !(membersOf s core idx).any fun m => m.lane == lane

/-- Enter a key for a flock as the entry used last; the table of a core holds 64 (R34). A flock whose entry is replaced or dropped has no key:
`joink` finds it under none (R30). -/
def enterKey (s : State) (core job : Nat) (key : Word) (idx : Nat) : State :=
  let mine := s.keys.filter fun k => k.1 == core && !(k.2.1 == job && k.2.2.1 == key)
  let others := s.keys.filter fun k => k.1 ≠ core
  let now := ((core, job, key, idx) :: mine).take 64
  { s with
    keys := now ++ others
    flocks := s.flocks.map fun f => if f.core == core && !now.any (fun k => k.2.2.2 == f.idx && f.key == some k.2.2.1) then { f with key := none } else f }

/-- A move of a thread (R266): nothing but the end of the visit for a routine thread of a sweep (R391), else `f` after every
earlier s write of the flock; the answer is the new g. -/
def moveWord (w : Word4) (names : Thread → Names) (f : State → Thread → State × Except Trap Bool) (s : State) : State :=
  perThread { w with last := true } (fun t => { names t with gw := true })
    (fun s i t =>
      match t.role with
      | .sweep slot _ => (endVisit s t slot none, .hold {} .idle)
      | _ =>
        match f (interlock s i.core i.flock []) t with
        | (s1, .ok g) => (s1, .eff { g := [(t.uid, g)] })
        | (s1, .error e) => (s1, .trap e)) s

/-- `join` in a thread (R267). -/
def joinThread (a : Nat) (s : State) (t : Thread) : State × Except Trap Bool :=
  let f := vBits t a
  match findFlock s t.core (f % 65536) with
  | some k =>
    if f ≠ flockId t.core k.idx ∨ k.job ≠ t.job then (s, .error { cls := 3, code := 4, aux := f })
    else if k.idx = t.flock then (s, .ok true)
    else if k.resident && placeEmpty s t.core k.idx t.lane then (moveThread s t k.idx, .ok true)
    else (s, .ok false)
  | none => (s, .error { cls := 3, code := 4, aux := f })

/-- `joink` in a thread (R268). -/
def joinkThread (a : Nat) (s : State) (t : Thread) : State × Except Trap Bool :=
  let k := (getV t a).bits
  let fresh : State × Except Trap Bool :=
    let (s1, idx) := freshFlock s t (some k)
    (moveThread (enterKey s1 t.core t.job k idx) t idx, .ok true)
  match s.keys.find? fun e => e.1 == t.core && e.2.1 == t.job && e.2.2.1 == k with
  | some e =>
    let idx := e.2.2.2
    if (flockOf s t.core idx).resident && placeEmpty s t.core idx t.lane then (moveThread (enterKey s t.core t.job k idx) t idx, .ok true)
    else fresh
  | none => fresh

/-- `leave` in a thread (R269). -/
def leaveThread (s : State) (t : Thread) : State × Except Trap Bool :=
  let (s1, idx) := freshFlock s t none
  (moveThread s1 t idx, .ok true)

/-- JOIN: moves to the flock that A names, where its place is empty (R267). -/
def execJoin (h : Hdr) (a : BitVec 7) (s : State) : Host.Outcome State Fault Refusal :=
  issued (moveWord { f := ctlF h 6#7 0#7 a 0#7 } (fun _ => { vr := [(a.toNat, 1)] }) (joinThread a.toNat) s)

/-- JOINK: moves to the flock of a key, or to a fresh one with that key (R268). -/
def execJoink (h : Hdr) (a : BitVec 7) (s : State) : Host.Outcome State Fault Refusal :=
  issued (moveWord { f := ctlF h 7#7 0#7 a 0#7 } (fun _ => { vr := [(a.toNat, 1)] }) (joinkThread a.toNat) s)

/-- LEAVE: moves to a fresh flock with no key (R269). -/
def execLeave (h : Hdr) (s : State) : Host.Outcome State Fault Refusal :=
  issued (moveWord { f := ctlF h 8#7 0#7 0#7 0#7 } (fun _ => {}) leaveThread s)

/-! ## Breakpoints (R260, R323) -/

/-- The halt slot of an issue's job that is running, when the job's HALT_EN is set (R199). -/
def issueSlot (s : State) (i : Issue) : Option Nat :=
  if haltEn s i.die i.job then haltSlot s i.die i.job else none

/-- Start the halt wave from an issue (R201); under a step the job is halted already. -/
def haltFrom (s : State) (i : Issue) (h lead cause : Nat) : State :=
  let t := threadOf s lead
  if phaseOf s i.die h = 0 then startHalt s i.die h (i.core % 128) t.lane t.slot cause i.pc.toNat else s

/-- BRK: halts the job, or traps where the wave is not enabled (R260). -/
def execBrk (h : Hdr) (s : State) : Host.Outcome State Fault Refusal :=
  issued (oncePerGroup { f := ctlF h 11#7 0#7 0#7 0#7 } (fun _ => {})
    (fun s i t =>
      match issueSlot s i with
      | some k => (haltFrom s i k t.uid 0, .eff {})
      | none => (s, .trap { cls := 3, code := 1, aux := 0 })) s)

/-- HALTW: halts the job, or does nothing where the wave is not enabled (R323). -/
def execHaltw (h : Hdr) (s : State) : Host.Outcome State Fault Refusal :=
  issued (oncePerGroup { f := ctlF h 18#7 0#7 0#7 0#7 } (fun _ => {})
    (fun s i t =>
      match issueSlot s i with
      | some k => (haltFrom s i k t.uid 1, .eff {})
      | none => (s, .eff {})) s)

/-! ## Spawn (R262, R263, R374) -/

/-- An entry header is valid: REGS, TILES and the reserved bits of R35. -/
def headerOk (w12 w8 : Nat) : Bool :=
  1 ≤ bits w12 5 0 && bits w12 5 0 ≤ 32 && bits w12 9 6 ≤ 8 && bits w12 31 10 == 0 && w8 == 0

/-- The child of one thread (R262), or why there is none. -/
def kidOf (s : State) (t : Thread) (d a tnum : Nat) : State × Except Out Kid :=
  let e := vPair t a % 2 ^ 57
  if e % 16 ≠ 0 then (s, .error (.trap { cls := 1, code := 4, aux := 1 }))
  else match globalAt s t ((e + 2 ^ 64 - 16) % 2 ^ 64) 16 4 false with
    | (s1, .out o) => (s1, .error o)
    | (s1, .at k g) =>
      if threadBad s1 t k 16 g then (s1, .error (.trap { cls := 7, code := Config.class7Code.toNat, aux := 0, addr := e - 16 }))
      else
        let (s1, hdr) := threadBytes s1 t k 16 g
        let w12 := leNat ((hdr.drop 4).take 4)
        if !headerOk w12 (leNat (hdr.drop 8)) then (s1, .error (.trap { cls := 3, code := 3, aux := w12 }))
        else (s1, .ok
          { lane := t.lane
            tiles := bits w12 9 6
            bintime := leNat (hdr.take 4)
            th := { Thread.blank with
              job := t.job
              pc := BitVec.ofNat 57 e
              alloc := 32 * bits w12 5 0
              segG := t.segG
              segL := t.segL
              segC := t.segC
              tnum := BitVec.ofNat 32 tnum
              prio := (flockOf s1 t.core t.flock).prio
              launch := t.launch
              regs := mapSetAll rawZero [] ((upFrom 0 8).map fun i => (i, getV t (d + i))) } })

/-- What the active threads of a `spawn` come to: traps, threads that wait for a page and the higher lanes behind them, children. -/
def kidsOf (i : Issue) (guard : Bool) (names : Thread → Names) (d a : Nat) (b : Nat) (lit : Word) :
    State → Acc4 → List (Nat × Kid) → List Nat → State × Acc4 × List (Nat × Kid)
  | s, acc, ks, [] => (s, acc, ks)
  | s, acc, ks, u :: r =>
    let t := threadOf s u
    match checkThread s t guard (names t) with
    | some f => kidsOf i guard names d a b lit s { acc with fails := acc.fails ++ [(u, f)] } ks r
    | none =>
      match kidOf s t d a (src s i t b lit .int) with
      | (s1, .ok k) => kidsOf i guard names d a b lit (drainFifo s1 u) acc (ks ++ [(u, k)]) r
      | (s1, .error (.wait w)) => let (s2, acc2) := waitBehind s1 u w r acc; (s2, acc2, ks)
      | (s1, .error o) => let (s2, acc2) := enter s1 u acc o; kidsOf i guard names d a b lit s2 acc2 ks r

/-- Threads whose spawn is placed go on (R263), those whose flock is saved once it is restored (R56). -/
def spawnDone (s : State) (p : Placing) : State :=
  unpark (modThreads s p.group fun t =>
    let next := t.pc + BitVec.ofNat 57 p.len
    { t with
      pc := next, newPc := if holdsSlot s t then none else some next, wait := .none, parked := p.sbit
      region := if p.sbit then [] else t.region, age := s.cycle + 1 }) p.group

/-- Try to place the children of a waiting spawn (R38, R263). -/
def placeAgain (s : State) (p : Placing) : State :=
  let (s1, left) := placeKids s p.core p.kids
  let s2 := timeBins s1 p.core
  if left.isEmpty then
    spawnDone { s2 with placing := s2.placing.filter (· ≠ p) } p
  else { s2 with placing := s2.placing.map fun q => if q = p then { p with kids := left } else q }

/-- The spawns that wait for slots of a core, in the order in which they issued; those of a job that is halted wait aside (R38, R202). -/
def waitingSpawns (s : State) (core : Nat) : List Placing :=
  s.placing.filter fun p => p.core == core && !p.kids.all fun k => jobHeld s (dieOf core) k.th.job

/-- A spawn on a core waits for a slot ahead of a new one (R263). -/
def spawnsWait (s : State) (core : Nat) : Bool := !(waitingSpawns s core).isEmpty

/-- SPAWN: one child for each active thread (R262, R263, R374). -/
def execSpawn (h : Hdr) (d a b : BitVec 7) (lit : Word) (s : State) : Host.Outcome State Fault Refusal :=
  let f := ctlF h 4#7 d a b
  let names : Thread → Names := fun _ =>
    { vr := [(d.toNat, 8), (a.toNat, 2)], sr := selS b.toNat false, tags := tagsOf 1 a.toNat 2 (some tagsInt)
      limits := [(120 < d.toNat, 0), (a.toNat % 2 == 1, 1)] }
  issued (match mkIssue s f with
    | none => s
    | some i =>
      if selRsv b.toNat then wordTrap s i 2
      else
        let s1 := interlock s i.core i.flock i.group
        let (s2, acc, ks) := kidsOf i h.g (Word4.names { f := f, sel := some b } names) d.toNat a.toNat b.toNat lit s1 {} [] i.act
        let s3 := latch s2 (ks.map (·.1)) b.toNat
        let queued := spawnsWait s3 i.core
        let (s4, left) := if queued then (s3, ks.map (·.2)) else placeKids s3 i.core (ks.map (·.2))
        let s5 := timeBins s4 i.core
        let wait := if left.isEmpty then [] else ks.map (·.1)
        let s6 := if left.isEmpty then s5
          else
            let s5 := modThreads s5 wait fun t => { t with wait := .place }
            { s5 with placing := s5.placing ++ [⟨i.core, wait, left, i.len, i.sbit⟩] }
        takeTrap (finish s6 i (acc.fails.map (·.1) ++ acc.waits ++ wait) [] fun _ => []) i acc.fails)

end Sys2Proof.Machine
end

