-- ==== Sys2Proof/Machine/LoadStore.lean ====
section
/-! DEFINITION. Meanings of the loads, stores, prefetches, reductions and fences (12 R271 to R279; faults 19 R379, R383). -/

namespace Sys2Proof.Machine

/-- Fields of a word of the memory and engine class. -/
def memF (h : Hdr) (op : BitVec 7) (d a b : BitVec 7) : Fields := ⟨2#2, h.s, h.g, op, d, a, b⟩

/-- Offset that a literal gives: Signed32 (R273). -/
def offOf (lit : Word) : Int := lit.toInt

/-- A global address of a thread: (Pair(A, t) + off) mod 2^64 (R273). -/
def gAddr (t : Thread) (a : Nat) (off : Int) : Nat := patN 64 ((vPair t a : Int) + off)

/-- A local-store address of a thread: (Win(A, t) + off) mod 2^32 (R273). -/
def lAddr (t : Thread) (a : Nat) (off : Int) : Nat := patN 32 ((vBits t a : Int) + off)

/-- SZ of a modifier (R272). -/
def szOf (m : BitVec 7) : Nat := m.toNat % 8

/-- The modifier of a load holds a reserved value (R272). -/
def loadRsv (m : BitVec 7) : Bool :=
  5 ≤ szOf m || (2 ≤ szOf m && 12 ≤ m.toNat / 8) || (szOf m ≤ 1 && m.toNat / 16 ≠ 0)

/-- Registers that an access of 2^sz bytes names. -/
def szRegs (sz : Nat) : Nat := if sz ≤ 2 then 1 else 2 ^ sz / 4

/-- Limits of D for an access of 2^sz bytes (R383). -/
def dLimit (d sz : Nat) : Bool × Nat := (d % szRegs sz ≠ 0 || 127 < d + szRegs sz - 1, 0)

/-- Where the bytes of a load go (R273). -/
def loadFmt (t : Thread) (d m : BitVec 7) : LoadFmt :=
  if szOf m ≤ 1 then .ext t.uid (t.wb + d.toNat) (bit m.toNat 3)
  else .regs t.uid (t.wb + d.toNat) (List.replicate (szRegs (szOf m)) (BitVec.ofNat 4 (m.toNat / 8)))

/-- What a load names. -/
def loadNames (global : Bool) (d a m : BitVec 7) (_ : Thread) : Names :=
  let k := if global then 2 else 1
  { vr := [(a.toNat, k)], vw := [(d.toNat, szRegs (szOf m))], tags := tagsOf 1 a.toNat k (some tagsInt)
    limits := dLimit d.toNat (szOf m) :: if global then [(a.toNat % 2 == 1, 1)] else [] }

/-- What a store names. -/
def storeNames (global : Bool) (d a : BitVec 7) (sz : Nat) (_ : Thread) : Names :=
  let k := if global then 2 else 1
  { vr := [(d.toNat, szRegs sz), (a.toNat, k)], tags := tagsOf 1 a.toNat k (some tagsInt)
    limits := dLimit d.toNat sz :: if global then [(a.toNat % 2 == 1, 1)] else [] }

/-- The outcome of a load's issue. -/
def loaded (r : State × Option Trap) : State × Out :=
  match r with
  | (s, some f) => (s, .trap f)
  | (s, none) => (s, .eff {})

/-- `ld` in a thread (R273). -/
def ldThread (d a m : BitVec 7) (off : Int) (s : State) (i : Issue) (t : Thread) : State × Out :=
  let n := 2 ^ szOf m
  match globalAt s t (gAddr t a.toNat off) n n false with
  | (s1, .at k g) => loaded (loadOrTrap s1 t i.pc (gAddr t a.toNat off) k n g (loadFmt t d m))
  | (s1, .out o) => (s1, o)

/-- Bytes that a thread's FIFO holds for its core's local store. -/
def fifoLocal (s : State) (uid off : Nat) : Option Byte :=
  s.fifo.foldl (fun acc e =>
    match e.op with
    | .locl o bs => if e.uid == uid && o ≤ off && off < o + bs.length then some (nthD 0#8 bs (off - o)) else acc
    | _ => acc) none

/-- A pending reduction of a thread in local store at these bytes. -/
def redLsPending (s : State) (uid off n : Nat) : Bool :=
  s.fifo.any fun e => e.uid == uid && (match e.op with
    | .redLs fn o _ => runsMeet o (redSize fn) off n
    | _ => false)

/-- One of these bytes of local store is poisoned, and no pending store of the thread covers it (R115, R358). -/
def localBad (s : State) (t : Thread) (off n : Nat) : Bool :=
  (upFrom off n).any fun a => lsPoisoned s t.core a 1 && (fifoLocal s t.uid a).isNone

/-- Bytes of local store as a thread sees them (R115). -/
def seeLocal (s : State) (t : Thread) (off n : Nat) : List Byte :=
  ((upFrom off n).zip (lsBytes s t.core off n)).map fun p => (fifoLocal s t.uid p.1).getD p.2

/-- `ldl` in a thread (R273). -/
def ldlThread (d a m : BitVec 7) (off : Int) (s0 : State) (i : Issue) (t : Thread) : State × Out :=
  let n := 2 ^ szOf m
  let at' := lAddr t a.toNat off
  match localPre s0 t at' n n with
  | some f => (s0, .trap f)
  | none =>
    let s := eccRead (if redLsPending s0 t.uid at' n then drainFifo s0 t.uid else s0) (inLs t.core at' n)
    if localBad s t at' n then (s, .trap { cls := 7, code := Config.class7Code.toNat, aux := 0, addr := at' })
    else (addResult s { Result.empty with
      uids := [t.uid], buf := (seeLocal s t at' n).map some, fmt := some (loadFmt t d m), pc := i.pc }, .eff {})

/-- The n low bytes of registers D upwards (R274). -/
def dataBytes (t : Thread) (d n : Nat) : List Byte :=
  ((upFrom 0 ((n + 3) / 4)).flatMap fun i => natLe 4 (vBits t (d + i))).take n

/-- `st` in a thread (R274). -/
def stThread (d a : BitVec 7) (sz : Nat) (off : Int) (s : State) (_ : Issue) (t : Thread) : State × Out :=
  let n := 2 ^ sz
  match globalAt s t (gAddr t a.toNat off) n n true with
  | (s1, .at k _) => (pushStore s1 t (.glob k (dataBytes t d.toNat n)), .eff {})
  | (s1, .out o) => (s1, o)

/-- `stl` in a thread (R274). -/
def stlThread (d a : BitVec 7) (sz : Nat) (off : Int) (s : State) (_ : Issue) (t : Thread) : State × Out :=
  let n := 2 ^ sz
  let at' := lAddr t a.toNat off
  match localPre s t at' n n with
  | some f => (s, .trap f)
  | none => (pushStore s t (.locl at' (dataBytes t d.toNat n)), .eff {})

/-- LD: global load (R273). -/
def execLd (h : Hdr) (d a m : BitVec 7) (s : State) : Host.Outcome State Fault Refusal :=
  issued (perThread { f := memF h 0#7 d a m, rsv := loadRsv m } (loadNames true d a m) (ldThread d a m 0) s)

/-- LD with an offset (R273). -/
def execLdLit (h : Hdr) (d a m : BitVec 7) (lit : Word) (s : State) : Host.Outcome State Fault Refusal :=
  issued (perThread { f := memF h 1#7 d a m, rsv := loadRsv m } (loadNames true d a m) (ldThread d a m (offOf lit)) s)

/-- LDL: load from local store (R273). -/
def execLdl (h : Hdr) (d a m : BitVec 7) (s : State) : Host.Outcome State Fault Refusal :=
  issued (perThread { f := memF h 4#7 d a m, rsv := loadRsv m } (loadNames false d a m) (ldlThread d a m 0) s)

/-- LDL with an offset (R273). -/
def execLdlLit (h : Hdr) (d a m : BitVec 7) (lit : Word) (s : State) : Host.Outcome State Fault Refusal :=
  issued (perThread { f := memF h 5#7 d a m, rsv := loadRsv m } (loadNames false d a m) (ldlThread d a m (offOf lit)) s)

/-- ST: global store (R274). -/
def execSt (h : Hdr) (d a : BitVec 7) (z : BitVec 3) (s : State) : Host.Outcome State Fault Refusal :=
  issued (perThread { f := memF h 2#7 d a (z.setWidth 7), rsv := 5 ≤ z.toNat } (storeNames true d a z.toNat) (stThread d a z.toNat 0) s)

/-- ST with an offset (R274). -/
def execStLit (h : Hdr) (d a : BitVec 7) (z : BitVec 3) (lit : Word) (s : State) : Host.Outcome State Fault Refusal :=
  issued (perThread { f := memF h 3#7 d a (z.setWidth 7), rsv := 5 ≤ z.toNat } (storeNames true d a z.toNat) (stThread d a z.toNat (offOf lit)) s)

/-- STL: store to local store (R274). -/
def execStl (h : Hdr) (d a : BitVec 7) (z : BitVec 3) (s : State) : Host.Outcome State Fault Refusal :=
  issued (perThread { f := memF h 6#7 d a (z.setWidth 7), rsv := 5 ≤ z.toNat } (storeNames false d a z.toNat) (stlThread d a z.toNat 0) s)

/-- STL with an offset (R274). -/
def execStlLit (h : Hdr) (d a : BitVec 7) (z : BitVec 3) (lit : Word) (s : State) : Host.Outcome State Fault Refusal :=
  issued (perThread { f := memF h 7#7 d a (z.setWidth 7), rsv := 5 ≤ z.toNat } (storeNames false d a z.toNat) (stlThread d a z.toNat (offOf lit)) s)

/-! ## Prefetch (R275) -/

/-- The line of a place is asked for, into L1 or, for a glean access, into the glean partition. -/
def sendPref (s : State) (core job k : Nat) (glean : Option Nat) : State :=
  sendPacket (if glean.isNone then unkeep s core (lineOf k) 128 else dropGlean s (dieOf core) k) { Packet.blank with
    src := core, dst := byteHome s k, ordered := k < 2 ^ 48, job := job
    body := .read (lineOf k) 128 (2 ^ 64) glean.isNone (glean.bind (gleanTag s (dieOf core))) }

/-- `pref` in a thread: a HOST page that the port's cache does not hold is asked for first. With LVL 0 the line is then asked for, and comes as a
clean line or a glean line; with LVL 1 it comes into its home slice, which this model does not hold apart from memory. Where the access
could not be made it is dropped. -/
def prefThread (a : BitVec 7) (l : Bool) (off : Int) (s : State) (_ : Issue) (t : Thread) : State × Out :=
  let at' := gAddr t a.toNat off
  match globalPre t at' 1 1 false with
  | some _ => (s, .eff {})
  | none =>
    match xlate s (dieOf t.core) t.job at' false false with
    | (s1, .at k g) =>
      (if l || (mgmtOff k).isSome then s1 else sendPref s1 t.core t.job k g, .eff {})
    | (s1, .ask p q pg) => (askPref s1 p q pg (if l then none else some (t.core, t.job, at' % 4096)), .eff {})
    | (s1, .bad _ _) => (s1, .eff {})

/-- PREF: prefetch of a line (R275). -/
def execPref (h : Hdr) (a : BitVec 7) (l : Bool) (s : State) : Host.Outcome State Fault Refusal :=
  issued (perThread { f := memF h 8#7 0#7 a ((BitVec.ofBool l).setWidth 7) } (fun _ => {}) (prefThread a l 0) s)

/-- PREF with an offset (R275). -/
def execPrefLit (h : Hdr) (a : BitVec 7) (l : Bool) (lit : Word) (s : State) : Host.Outcome State Fault Refusal :=
  issued (perThread { f := memF h 9#7 0#7 a ((BitVec.ofBool l).setWidth 7) } (fun _ => {}) (prefThread a l (offOf lit)) s)

/-! ## Reductions (R276 to R278) -/

/-- Tags that the operand of a reduction accepts (R130, R277). -/
def redAcc (fn : Nat) : Option (List Nat) :=
  if fn ≤ 11 then some tagsInt else if fn ≤ 17 then none else if fn = 18 then some [3] else some [4]

/-- What a reduction names. -/
def redNames (global : Bool) (d a f : BitVec 7) (_ : Thread) : Names :=
  let k := if global then 2 else 1
  let n := redSize f.toNat / 4
  { vr := [(d.toNat, n), (a.toNat, k)], tags := tagsOf 0 d.toNat n (redAcc f.toNat) ++ tagsOf 1 a.toNat k (some tagsInt)
    limits := (n == 2 && d.toNat % 2 == 1, 0) :: if global then [(a.toNat % 2 == 1, 1)] else [] }

/-- Operand of a reduction. -/
def redArg (t : Thread) (d f : BitVec 7) : DWord :=
  BitVec.ofNat 64 (if redSize f.toNat = 8 then vPair t d.toNat else vBits t d.toNat)

/-- `red` in a thread (R276). -/
def redThread (d a f : BitVec 7) (off : Int) (s : State) (_ : Issue) (t : Thread) : State × Out :=
  let n := redSize f.toNat
  match globalAt s t (gAddr t a.toNat off) n n true with
  | (s1, .at k _) => (pushStore s1 t (.red f.toNat k (redArg t d f)), .eff {})
  | (s1, .out o) => (s1, o)

/-- `red.ls` in a thread (R276). -/
def redLsThread (d a f : BitVec 7) (off : Int) (s : State) (_ : Issue) (t : Thread) : State × Out :=
  let n := redSize f.toNat
  let at' := lAddr t a.toNat off
  match localPre s t at' n n with
  | some x => (s, .trap x)
  | none => (pushStore s t (.redLs f.toNat at' (redArg t d f)), .eff {})

/-- `red.det` in a thread (R278). -/
def redDetThread (d a b : BitVec 7) (off : Int) (s : State) (_ : Issue) (t : Thread) : State × Out :=
  let node := vBits t b.toNat
  if bits node 31 26 ≠ 0 then (s, .trap { cls := 1, code := 4, aux := 2 })
  else
    let va := gAddr t a.toNat off
    match globalAt s t va 64 64 true with
    | (s1, .at k _) =>
      (pushStore s1 t (.redDet k va (bits node 25 21) (bits node 20 0) (getV t d.toNat).bits (getV t d.toNat).tag t.job), .eff {})
    | (s1, .out o) => (s1, o)

/-- What `red.det` names. -/
def redDetNames (d a b : BitVec 7) (_ : Thread) : Names :=
  { vr := [(d.toNat, 1), (a.toNat, 2), (b.toNat, 1)]
    tags := tagsOf 0 d.toNat 1 (some [3, 4]) ++ tagsOf 1 a.toNat 2 (some tagsInt) ++ tagsOf 2 b.toNat 1 (some tagsInt)
    limits := [(a.toNat % 2 == 1, 1)] }

/-- RED: reduction at the home (R276). -/
def execRed (h : Hdr) (d a f : BitVec 7) (s : State) : Host.Outcome State Fault Refusal :=
  issued (perThread { f := memF h 10#7 d a f, rsv := 20 ≤ f.toNat } (redNames true d a f) (redThread d a f 0) s)

/-- RED with an offset (R276). -/
def execRedLit (h : Hdr) (d a f : BitVec 7) (lit : Word) (s : State) : Host.Outcome State Fault Refusal :=
  issued (perThread { f := memF h 11#7 d a f, rsv := 20 ≤ f.toNat } (redNames true d a f) (redThread d a f (offOf lit)) s)

/-- RED.LS: reduction in local store (R276). -/
def execRedLs (h : Hdr) (d a f : BitVec 7) (s : State) : Host.Outcome State Fault Refusal :=
  issued (perThread { f := memF h 12#7 d a f, rsv := 20 ≤ f.toNat } (redNames false d a f) (redLsThread d a f 0) s)

/-- RED.LS with an offset (R276). -/
def execRedLsLit (h : Hdr) (d a f : BitVec 7) (lit : Word) (s : State) : Host.Outcome State Fault Refusal :=
  issued (perThread { f := memF h 13#7 d a f, rsv := 20 ≤ f.toNat } (redNames false d a f) (redLsThread d a f (offOf lit)) s)

/-- RED.DET: deterministic contribution (R278). -/
def execRedDet (h : Hdr) (d a b : BitVec 7) (s : State) : Host.Outcome State Fault Refusal :=
  issued (perThread { f := memF h 14#7 d a b } (redDetNames d a b) (redDetThread d a b 0) s)

/-- RED.DET with an offset (R278). -/
def execRedDetLit (h : Hdr) (d a b : BitVec 7) (lit : Word) (s : State) : Host.Outcome State Fault Refusal :=
  issued (perThread { f := memF h 15#7 d a b } (redDetNames d a b) (redDetThread d a b (offOf lit)) s)

/-! ## Fence (R279) -/

/-- FENCE: the thread waits for everything that a release at the scope waits for (R279). -/
def execFence (h : Hdr) (c : BitVec 3) (s : State) : Host.Outcome State Fault Refusal :=
  issued (perThread { f := memF h 16#7 0#7 0#7 (c.setWidth 7), rsv := c = 7#3 } (fun _ => {})
    (fun s _ _ => ({ s with fresh := s.fresh + 1 }, .hold {} (.fence c.toNat s.fresh))) s)

end Sys2Proof.Machine
end

