-- ==== Sys2Proof/Machine/Counters.lean ====
section
/-! DEFINITION. Meanings of the counter instructions (12 R280 to R287) and of the steps of the counters' homes (03 R64 to R72; faults
19 R384 to R387). -/

namespace Sys2Proof.Machine

/-! ## At issue -/

/-- Why a thread may not use a handle: malformed, or outside SG.C (R73, R383, R384). -/
def handleTrap (s : State) (t : Thread) (h : Nat) : Option Trap :=
  match badHandle s h with
  | some r => some { cls := 5, code := 1, aux := r, addr := h }
  | none =>
    if t.segC.base ≤ hIndex h && hIndex h < t.segC.base + t.segC.limit then none
    else some { cls := 5, code := 2, aux := 0, addr := h }

/-- A counter operation leaves the core for the home (R280). -/
def sendCtr (s : State) (t : Thread) (h : Nat) (release : Option Nat) (op : CtrOp) : State :=
  sendPacket s { Packet.blank with
    src := t.core, dst := homeUnit s h, ordered := localHandle s h, uid := some t.uid, job := t.job
    release := release, grp := s.cycle + 1, pc := t.pc, body := .ctr (BitVec.ofNat 64 h) op }

/-- A result in flight for a counter's answer in a pair, tagged N32 (R282, R283). -/
def pairResult (t : Thread) (d h : Nat) (pc : VAddr) : Result :=
  { Result.empty with
    uids := [t.uid], ready := false, buf := List.replicate 8 none, fmt := some (.regs t.uid (t.wb + d) [2#4, 2#4]), pc := pc, addr := h
    counter := true }

/-- What a counter instruction names: handle pair A; registers read and written at D. -/
def ctrNames (a d : Nat) (rd wd : Nat) (_ : Thread) : Names :=
  { vr := (a, 2) :: (if rd = 0 then [] else [(d, rd)])
    vw := if wd = 0 then [] else [(d, wd)]
    tags := (if rd = 0 then [] else tagsOf 0 d rd (some tagsInt)) ++ tagsOf 1 a 2 (some tagsInt)
    limits := [((rd = 2 ∨ wd = 2) && d % 2 == 1, 0), (a % 2 == 1, 1)] }

/-- `cadd` in a thread (R281): it counts as returned when the operation has left the core. -/
def caddThread (a sc amount : Nat) (s : State) (i : Issue) (t : Thread) : State × Out :=
  let h := vPair t a
  match handleTrap s t h with
  | some f => (s, .trap f)
  | none =>
    let pkt := s.fresh
    let s1 := sendCtr s t h (some (effScope s t.core sc h)) (.add amount)
    (addResult s1 { Result.empty with uids := [t.uid], ready := false, pc := i.pc, counter := true, left := some pkt }, .eff {})

/-- `caddr` in a thread (R282). -/
def caddrThread (d a sc amount : Nat) (s : State) (i : Issue) (t : Thread) : State × Out :=
  let h := vPair t a
  match handleTrap s t h with
  | some f => (s, .trap f)
  | none =>
    let rid := s.fresh
    (sendCtr (addResult s (pairResult t d h i.pc)) t h (some (effScope s t.core sc h)) (.addRet amount rid), .eff {})

/-- `cread` in a thread (R283). -/
def creadThread (d a : Nat) (s : State) (i : Issue) (t : Thread) : State × Out :=
  let h := vPair t a
  match handleTrap s t h with
  | some f => (s, .trap f)
  | none =>
    let rid := s.fresh
    (sendCtr (addResult s (pairResult t d h i.pc)) t h none (.read rid), .eff {})

/-- A waiter entry of a condition of a thread of module m (R69). -/
def threadWaiter (m : Nat) (t : Thread) (kind cond scope h thresh : Nat) (dl : Option Nat) : Waiter where
  thresh := BitVec.ofNat 64 thresh
  deadline := dl
  handle := BitVec.ofNat 64 h
  kind := kind
  cond := cond
  job := t.job
  module := m
  unit := t.core
  lane := t.lane
  slot := t.slot
  tag := 0
  uid := t.uid
  scope := scope
  spilled := false

/-- `cwt` in a thread (R284). -/
def cwtThread (d a sc : Nat) (s : State) (_ : Issue) (t : Thread) : State × Out :=
  let h := vPair t a
  match handleTrap s t h with
  | some f => (s, .trap f)
  | none =>
    let th := vPair t d
    (sendCtr s t h none (.wait (threadWaiter (moduleId s) t 0 0 (effScope s t.core sc h) h th none)), .hold {} (.cwt sc ⟨BitVec.ofNat 64 h, BitVec.ofNat 64 th⟩))

/-- Conditions of a `cwait` block (R285). -/
def blockConds (s : State) (t : Thread) (at' : Nat) (n : Nat) : List Cond :=
  (upFrom 0 n).map fun c =>
    ⟨BitVec.ofNat 64 (leNat (seeLocal s t (at' + 16 + 16 * c) 8)), BitVec.ofNat 64 (leNat (seeLocal s t (at' + 24 + 16 * c) 8))⟩

/-- Register the conditions of a `cwait`, in order (R286). -/
def registerConds (t : Thread) (sc : Nat) (dl : Option Nat) : State → Nat → List Cond → State
  | s, _, [] => s
  | s, c, k :: r =>
    let h := k.handle.toNat
    registerConds t sc dl
      (sendCtr s t h none (.wait (threadWaiter (moduleId s) t 1 c (effScope s t.core sc h) h k.thresh.toNat dl))) (c + 1) r

/-- `cwait` in a thread (R285, R286). -/
def cwaitThread (d a sc : Nat) (s0 : State) (_ : Issue) (t : Thread) : State × Out :=
  let at' := vBits t a
  match localPre s0 t at' 80 16 with
  | some f => (s0, .trap f)
  | none =>
    let s1 := eccRead s0 (inLs t.core at' 16)
    let w := leNat (seeLocal s1 t at' 8)
    let n := bits w 2 0
    let s := eccRead s1 (inLs t.core (at' + 16) (16 * n))
    if localBad s1 t at' 16 then (s1, .trap { cls := 7, code := Config.class7Code.toNat, aux := 0, addr := at' })
    else if n = 0 ∨ 4 < n ∨ bits w 63 4 ≠ 0 then (s1, .trap { cls := 1, code := 4, aux := 4 })
    else if localBad s t (at' + 16) (16 * n) then (s, .trap { cls := 7, code := Config.class7Code.toNat, aux := 0, addr := at' })
    else
      let cs := blockConds s t at' n
      match cs.findSome? fun c => handleTrap s t c.handle.toNat with
      | some f => (s, .trap f)
      | none =>
        let tmo := leNat (seeLocal s t (at' + 8) 8)
        let dl := if tmo = 2 ^ 64 - 1 then none else some (ftimeRun s (dieOf t.core) + tmo)
        (registerConds t sc dl s 0 cs, .hold {} (.cwait sc (tmo = 0) (bit w 3) dl (t.wb + d) d cs 0))

/-- CADD: adds with release (R281). -/
def execCadd (h : Hdr) (d a : BitVec 7) (c : BitVec 3) (s : State) : Host.Outcome State Fault Refusal :=
  issued (perThread { f := memF h 18#7 d a (c.setWidth 7), rsv := c = 7#3 } (ctrNames a.toNat d.toNat 1 0)
    (fun s i t => caddThread a.toNat c.toNat (vBits t d.toNat) s i t) s)

/-- CADD with the amount in the literal (R281). -/
def execCaddLit (h : Hdr) (a : BitVec 7) (c : BitVec 3) (lit : Word) (s : State) : Host.Outcome State Fault Refusal :=
  issued (perThread { f := memF h 19#7 0#7 a (c.setWidth 7), rsv := c = 7#3 } (ctrNames a.toNat 0 0 0)
    (caddThread a.toNat c.toNat lit.toNat) s)

/-- CADDR: adds with release and returns the value before (R282). -/
def execCaddr (h : Hdr) (d a : BitVec 7) (c : BitVec 3) (s : State) : Host.Outcome State Fault Refusal :=
  issued (perThread { f := memF h 20#7 d a (c.setWidth 7), rsv := c = 7#3 } (ctrNames a.toNat d.toNat 1 2)
    (fun s i t => caddrThread d.toNat a.toNat c.toNat (vBits t d.toNat) s i t) s)

/-- CADDR with the amount in the literal (R282). -/
def execCaddrLit (h : Hdr) (d a : BitVec 7) (c : BitVec 3) (lit : Word) (s : State) : Host.Outcome State Fault Refusal :=
  issued (perThread { f := memF h 21#7 d a (c.setWidth 7), rsv := c = 7#3 } (ctrNames a.toNat d.toNat 0 2)
    (caddrThread d.toNat a.toNat c.toNat lit.toNat) s)

/-- CREAD: reads a counter (R283). -/
def execCread (h : Hdr) (d a : BitVec 7) (c : BitVec 3) (s : State) : Host.Outcome State Fault Refusal :=
  issued (perThread { f := memF h 22#7 d a (c.setWidth 7), rsv := c = 7#3 } (ctrNames a.toNat d.toNat 0 2)
    (creadThread d.toNat a.toNat) s)

/-- CWT: waits for one condition (R284). -/
def execCwt (h : Hdr) (d a : BitVec 7) (c : BitVec 3) (s : State) : Host.Outcome State Fault Refusal :=
  issued (perThread { f := memF h 24#7 d a (c.setWidth 7), rsv := c = 7#3 } (ctrNames a.toNat d.toNat 2 0)
    (cwtThread d.toNat a.toNat c.toNat) s)

/-- CWAIT: waits for the conditions of a block, with a time-out (R285, R286). -/
def execCwait (h : Hdr) (d a : BitVec 7) (c : BitVec 3) (s : State) : Host.Outcome State Fault Refusal :=
  issued (perThread { f := memF h 26#7 d a (c.setWidth 7), rsv := c = 7#3 }
    (fun _ => { vr := [(a.toNat, 1)], vw := [(d.toNat, 1)], tags := tagsOf 1 a.toNat 1 (some tagsInt) })
    (cwaitThread d.toNat a.toNat c.toNat) s)

/-- CINIT: sets a cell, as a release at system scope (R287). -/
def execCinit (h : Hdr) (d a : BitVec 7) (s : State) : Host.Outcome State Fault Refusal :=
  issued (perThread { f := ⟨3#2, h.s, h.g, 67#7, d, a, 0#7⟩, priv := true } (ctrNames a.toNat d.toNat 2 0)
    (fun s _ t =>
      let k := vPair t a.toNat
      match badHandle s k with
      | some r => (s, .trap { cls := 5, code := 1, aux := r, addr := k })
      | none => (sendCtr s t k (some 6) (.set (BitVec.ofNat 64 (vPair t d.toNat))), .eff {})) s)

/-! ## At the home -/

/-- Answer of a home to the core, or to the module, that asked. -/
def answerCtr (s : State) (p : Packet) (rid v : Nat) (poisoned : Bool) : State :=
  sendBack s p (.ctrResp rid (BitVec.ofNat 64 v) poisoned)

/-- A counter operation of another module is applied at the gateway of the home die only when it names a level 4 cell of this module that
exists (R60, R77, R177). -/
def peerRefused (s : State) (p : Packet) : Bool :=
  fromPeer s p && (match p.body with
    | .ctr h _ => localHandle s h.toNat && (hLevel h.toNat ≠ 4 || (badHandle s h.toNat).isSome)
    | _ => false)

/-- The record of an engine's addition that is not made, of a class and code (R352, R387, R399). -/
def withheldAdd (s : State) (p : Packet) (cls code aux : Nat) : State :=
  match p.body with
  | .ctr h (.add amount) => raiseAsync s cls code p.job (srcDie p.src) p.va p.pc.toNat h.toNat (some (h.toNat, amount)) aux 0
  | .ctr h (.addRet amount _) => raiseAsync s cls code p.job (srcDie p.src) p.va p.pc.toNat h.toNat (some (h.toNat, amount)) aux 0
  | _ => s

/-- A counter operation arrives at its home; one whose release fails is not made and traps its thread at its word (R399). That of a port for its
thread is withheld. -/
def ctrArrive (s : State) (pkt : Nat) (f : Packet → State) : State :=
  match findPacket s pkt with
  | some p =>
    if peerRefused s p then dropPacket s pkt
    else if releaseDone s p && !releaseHeld s p && releaseFails s p then
      let s1 := dropPacket s pkt
      let s2 := { s1 with results := s1.results.filter fun r => r.left ≠ some pkt && (match p.body with
        | .ctr _ (.addRet _ rid) => r.id ≠ rid
        | _ => true) }
      if p.eng.isSome then withheldAdd s2 p 8 5 Config.lostReason.toNat else failSync s2 (p.uid.getD 0) p.pc p.grp
    else if deliverable s p then f p
    else s
  | none => s

/-- COUNTER_ADD: an addition is applied at its home (R64, R65, R387, R399). -/
def execCounterAdd (pkt : Nat) (s : State) : Host.Outcome State Fault Refusal :=
  issued (ctrArrive s pkt fun p =>
    match p.body with
    | .ctr h (.add amount) =>
      let s1 := eccRead (dropPacket s pkt) (inCell s h.toNat)
      if cellPoisoned s1 h.toNat then
        if p.eng.isSome then withheldAdd s1 p 5 5 0
        else raiseAsync s1 5 5 p.job (hDie h.toNat) 127 0 h.toNat (some (h.toNat, amount)) 0 0
      else cellAdd (if p.eng.isSome then engineEvicts s1 (hDie h.toNat) (hCore h.toNat) h.toNat else s1) h.toNat amount
    | _ => s)

/-- COUNTER_ADD_RETURN: an addition is applied and the value before it returned (R64, R282). -/
def execCounterAddReturn (pkt : Nat) (s : State) : Host.Outcome State Fault Refusal :=
  issued (ctrArrive s pkt fun p =>
    match p.body with
    | .ctr h (.addRet amount rid) =>
      let s1 := eccRead (dropPacket s pkt) (inCell s h.toNat)
      if cellPoisoned s1 h.toNat then (if p.eng.isSome then withheldAdd s1 p 5 5 0 else answerCtr s1 p rid 1 true)
      else cellAdd (answerCtr s1 p rid (cellGet s1 h.toNat) false) h.toNat amount
    | _ => s)

/-- COUNTER_READ: the home returns the value (R64, R283). -/
def execCounterRead (pkt : Nat) (s : State) : Host.Outcome State Fault Refusal :=
  issued (ctrArrive s pkt fun p =>
    match p.body with
    | .ctr h (.read rid) =>
      let s1 := eccRead (dropPacket s pkt) (inCell s h.toNat)
      if cellPoisoned s1 h.toNat then answerCtr s1 p rid 2 true else answerCtr s1 p rid (cellGet s1 h.toNat) false
    | _ => s)

/-- Withdraw a thread's waits at every home of its conditions (R68). -/
def withdrawConds (t : Thread) (kind : Nat) : State → List Cond → State
  | s, [] => s
  | s, c :: r =>
    let h := c.handle.toNat
    withdrawConds t kind
      (sendPacket s { Packet.blank with
        src := t.core, dst := homeUnit s h, ordered := localHandle s h, uid := some t.uid, job := t.job
        body := .ctr c.handle (.withdraw kind t.uid) }) r

/-- Conditions of a thread's wait. -/
def waitConds (w : Waiting) : List Cond :=
  match w with
  | .cwt _ c => [c]
  | .cwait _ _ _ _ _ _ cs _ => cs
  | _ => []

/-- A waiter entry is that of a condition that a thread waits on now (R68). -/
def waitsFor (t : Thread) (w : Waiter) : Bool :=
  match t.wait with
  | .cwt _ c => w.kind == 0 && c == ⟨w.handle, w.thresh⟩
  | .cwait _ _ _ _ _ _ cs _ => w.kind == 1 && (cs.drop w.cond).head? == some ⟨w.handle, w.thresh⟩
  | _ => false

/-- A wait of a thread fails at its home: the thread is trapped at its `cwt` or `cwait`, whose other conditions are withdrawn
(R386, R387), which issued in core cycle `at_` − 1. A wait that has ended does not fail. The thread of another module is that module's to trap:
the home records the failure (DESIGN CHOICE, log entry 104). -/
def failWait (s : State) (w : Waiter) (at_ : Nat) (f : Trap) : State :=
  if w.module ≠ moduleId s then raiseAsync s f.cls f.code w.job (hDie w.handle.toNat) 127 0 f.addr none f.aux 0
  else
  match (findThread s w.uid).filter fun t => waitsFor t w with
  | none => s
  | some t => trapLate (withdrawConds t 1 s (if w.kind = 1 then waitConds t.wait else [])) t.uid (t.pc - 4#57) at_ f

/-- The spill segment of a home takes one more entry (R70, R72); PEAK follows NOW when an entry spills. After its bits are cleared while
entries are spilled, it is raised to NOW at the next spill and not before (DESIGN CHOICE, log entry 105). -/
def spillWaiter (s : State) (unit : Nat) (w : Waiter) : State :=
  let d := unit / 512
  let s1 := writeSpill { s with waiters := s.waiters ++ [{ w with spilled := true }] } unit 0
  let now := spilledNow s1 d
  if getField s1 d 0x520 63 32 < now then setField s1 d 0x520 63 32 now else s1

/-- A wait is not tested at its home while its job is halted there (R203), but that of a thread that is stepped is (R204). -/
def waitFrozen (s : State) (w : Waiter) : Bool :=
  let h := w.handle.toNat
  localHandle s h && jobHeld s (hDie h) w.job && !(w.kind ≤ 1 && w.module == moduleId s && (findThread s w.uid).any fun t => !waitHeld s t)

/-- A home registers a wait (R67, R70, R386, R387). The lists of another module's gateway are that module's, where no wait is refused for want of
room that the spill area has (R70). -/
def registerWait (s : State) (p : Packet) (w : Waiter) : State :=
  let h := w.handle.toNat
  let unit := homeUnit s h
  let ws := waitersAt s unit
  let s1 := dropPacket s p.id
  if cellPoisoned s h then
    if w.kind ≤ 1 then failWait s1 w p.grp { cls := 5, code := 5, aux := 3, addr := h }
    else raiseAsync s1 5 5 p.job (hDie h) 127 0 h none 3 0
  else if condMet (cellGet s h) w.thresh.toNat && !waitFrozen s w then sendWakes s1 [w]
  else if !localHandle s h || (ws.filter fun x => !x.spilled).length < homeCap (unit % 512) then { s1 with waiters := s1.waiters ++ [w] }
  else if (ws.filter (·.spilled)).length < 2 ^ getField s (unit / 512) 0x518 4 0 then spillWaiter s1 unit w
  else if w.kind ≤ 1 then failWait s1 w p.grp { cls := 5, code := 4, aux := w.kind + unit % 512 * 2 ^ 16, addr := h }
  else
    let s2 := parkPacket s p.id
    if p.grp = 2 ^ 64 + 1 then s2 else raiseAsync s2 5 4 p.job (dieOf w.unit) 127 0 h none (w.kind + unit % 512 * 2 ^ 16) 0

/-- COUNTER_REGISTER_WAIT: a wait reaches the home, which tests and lists it (R67). -/
def execCounterRegisterWait (pkt : Nat) (s : State) : Host.Outcome State Fault Refusal :=
  issued (ctrArrive s pkt fun p =>
    match p.body with
    | .ctr _ (.wait w) =>
      if p.grp = 2 ^ 64 then s
      else
        let s1 := registerWait (eccRead s (inCell s w.handle.toNat)) p w
        if w.kind = 5 then lookAgain s1 else s1
    | _ => s)

/-- COUNTER_WITHDRAW_WAIT: a withdrawal removes the entries of a thread or a binding at the home (R68). -/
def execCounterWithdrawWait (pkt : Nat) (s : State) : Host.Outcome State Fault Refusal :=
  issued (ctrArrive s pkt fun p =>
    match p.body with
    | .ctr h (.withdraw kind uid) =>
      let s1 := dropPacket s pkt
      let m := (senderEnd s p).1
      takeWaiters s1 fun w => w.kind == kind && w.uid == uid && w.module == m && homeUnit s w.handle.toNat == homeUnit s h.toNat
    | _ => s)

/-- COUNTER_SET: the home sets the cell and tests its waiters (R287). -/
def execCounterSet (pkt : Nat) (s : State) : Host.Outcome State Fault Refusal :=
  issued (ctrArrive s pkt fun p =>
    match p.body with
    | .ctr h (.set v) =>
      let s1 := dropPacket s pkt
      let s2 := cure s1 (inCell s1 h.toNat)
      shadowOut (wakeWaiters (cellSet s2 h.toNat v.toNat) h.toNat) h.toNat
    | _ => s)

/-! ## Back at the core -/

/-- An acquire at a scope (R116). -/
def acquire (s : State) (core scope : Nat) : State := if 2 ≤ scope then dropClean s core else s

/-- The acquires of the satisfied conditions of a `cwait`. -/
def acquireConds (s : State) (core sc mask : Nat) : State → Nat → List Cond → State
  | s1, _, [] => s1
  | s1, c, k :: r =>
    acquireConds s core sc mask (if bit mask c then acquire s1 core (effScope s core sc k.handle.toNat) else s1) (c + 1) r

/-- The ending condition of R68. -/
def cwaitHolds (all : Bool) (n mask : Nat) : Bool := if all then mask = 2 ^ n - 1 else mask ≠ 0

/-- A wait that ends with a value for a register, for a thread of the module: at once, or at the restore of a thread that is saved (R56). -/
def endWith (s : State) (t : Thread) (dest r : Nat) : State :=
  if holdsSlot s t then modThread (setIdx s t.uid dest ⟨BitVec.ofNat 32 r, 2#4⟩) t.uid fun t => { t with wait := .none, age := s.cycle + 1 }
  else modThread s t.uid fun t => { t with wait := .ended dest r }

/-- A word's wait ends for these threads with a value for register d of each (R56, R326, R330). -/
def endWaitsWith (s : State) (d r : Nat) : List Thread → State
  | [] => s
  | t :: ts => endWaitsWith (endWith s t (t.wb + d) r) d r ts

/-- What came to a thread while it was saved takes effect at its restore: the result of a wait that ended, and the PC at which it goes on
(R56, R286). -/
def endSaved (s : State) (t : Thread) : State :=
  let s1 := match t.wait with
    | .ended dest r => modThread (setIdx s t.uid dest ⟨BitVec.ofNat 32 r, 2#4⟩) t.uid fun t => { t with wait := .none }
    | _ => s
  match t.newPc with
  | some pc => modThread s1 t.uid fun t => { t with pc := pc, newPc := none }
  | none => s1

/-- A `cwait` ends (R286): what is left is withdrawn, the acquires are made, and the result is written; that of a thread whose flock is saved
waits for its restore (R56). -/
def endCwait (s : State) (t : Thread) (sc : Nat) (all : Bool) (dest : Nat) (cs : List Cond) (mask : Nat) : State :=
  let left := ((upFrom 0 cs.length).zip cs).filter fun p => !bit mask p.1
  let s1 := withdrawConds t 1 s (left.map (·.2))
  let s2 := acquireConds s t.core sc mask s1 0 cs
  endWith s2 t dest (mask + (if cwaitHolds all cs.length mask then 0 else 16))

/-- Wakes of a thread's `cwait` that are under way: each may have reached the core in the tick in which the wait ends, or not
(R286). -/
def alsoArrived (s : State) (uid : Nat) : State × Nat :=
  s.packets.foldl (fun acc p =>
    match p.body with
    | .wake w =>
      if w.kind == 1 && w.uid == uid && waitsFor (threadOf s uid) w then
        let (i, s1) := takeFree acc.1
        (s1, if Config.freeBit i then acc.2 ||| 2 ^ w.cond else acc.2)
      else acc
    | _ => acc) (s, 0)

/-- A wake reaches a thread's core (R67, R286). -/
def wakeThread (s : State) (w : Waiter) (t : Thread) : State :=
  match t.wait with
  | .cwt sc c =>
    if waitsFor t w then
      modThread (acquire s t.core (effScope s t.core sc c.handle.toNat)) t.uid fun t => { t with wait := .none, age := s.cycle + 1 }
    else s
  | .cwait sc once all dl dest df cs mask =>
    let late := !once && (match dl with
      | some d => d < ftimeRun s (dieOf t.core)
      | none => false)
    if !waitsFor t w || late then s
    else
      let m := mask ||| 2 ^ w.cond
      if !once && cwaitHolds all cs.length m then
        let (s1, more) := alsoArrived s t.uid
        endCwait s1 t sc all dest cs (m ||| more)
      else modThread s t.uid fun t => { t with wait := .cwait sc once all dl dest df cs m }
  | _ => s

/-! ## The windows of the counter aperture (R74) -/

/-- The registers of a window. -/
def windowOf (s : State) (port w : Nat) : Window :=
  (s.windows.find? fun x => x.port == port && x.w == w).getD ⟨port, w, 0#64, 0#64, false⟩

/-- Set the registers of a window; one whose registers are all 0 is not listed. -/
def setWindow (s : State) (x : Window) : State :=
  let others := s.windows.filter fun y => !(y.port == x.port && y.w == x.w)
  { s with windows := if x.handle = 0#64 && x.last = 0#64 && !x.fired then others else others ++ [x] }

/-- A read of a host completes with a value. -/
def hostData (s : State) (port v : Nat) : State := { s with hostOut := .readData port (BitVec.ofNat 64 v) :: s.hostOut }

/-- A read of a host completes with bytes that are poisoned: what they hold is free. -/
def hostFree (s : State) (port : Nat) (f : Nat → Nat) : State :=
  let (n, s1) := takeFree s
  let (k, s2) := takeFree s1
  hostData s2 port (f ((Config.freeWord n).toNat + 2 ^ 32 * (Config.freeWord k).toNat))

/-- What comes back for a window, numbered 256 for port B, from a counter of another module: the value before an FADD, or, from 512 on, VALUE
(R74, R75). -/
def windowResponse (s : State) (n : Nat) (v : DWord) (poisoned : Bool) : State :=
  let port := n / 256 % 2
  if 512 ≤ n then (if poisoned then hostFree s port id else hostData s port v.toNat)
  else setWindow s { windowOf s port (n % 256) with last := v }

/-- COUNTER_RESPONSE: the answer of a home returns to its thread's result (R282, R283, R387). -/
def execCounterResponse (pkt : Nat) (s : State) : Host.Outcome State Fault Refusal :=
  issued (match arriving s pkt with
    | some p =>
      (match p.body with
      | .ctrResp rid v poisoned =>
        let s1 := dropPacket s pkt
        if 2 ^ 64 ≤ rid then windowResponse s1 (rid - 2 ^ 64) v poisoned
        else (match s1.results.find? fun r => r.id == rid with
        | none => s1
        | some r =>
          if poisoned then
            let s2 := { s1 with results := s1.results.filter fun q => q.id ≠ rid }
            (match r.uids with
            | u :: _ => trapLate s2 u r.pc r.at_ { cls := 5, code := 5, aux := v.toNat, addr := r.addr }
            | [] => s2)
          else
            { s1 with results := s1.results.map fun q => if q.id == rid then { q with ready := true, buf := fillBuf q.buf (natLe 8 v.toNat) } else q })
      | _ => s)
    | none => s)

/-- A registration or a wake of a thread's `cwait` is still under way. -/
def testsUnderWay (s : State) (uid : Nat) : Bool :=
  s.packets.any fun p => match p.body with
    | .ctr _ (.wait w) => w.kind == 1 && w.uid == uid
    | .wake w => w.kind == 1 && w.uid == uid
    | _ => false

/-- CWAIT_DEADLINE: field time reaches a `cwait`'s deadline; with a time-out of 0 every condition has been tested once
(R68). While the job is halted a deadline takes no effect, but a stepped `cwait` whose one test has met its condition ends (R204, R207). -/
def execCwaitDeadline (uid : Nat) (s : State) : Host.Outcome State Fault Refusal :=
  issued (match findThread s uid with
    | some t =>
      (match t.wait with
      | .cwait sc once all (some dl) dest _ cs mask =>
        if dl ≤ ftimeRun s (dieOf t.core) && !(once && testsUnderWay s uid) &&
            (!jobHeld s (dieOf t.core) t.job || (once && !waitHeld s t && cwaitHolds all cs.length mask)) then endCwait s t sc all dest cs mask else s
      | _ => s)
    | none => s)

/-- The rows of one `mld` return together: where one of them fails, the word has no effect (R366). -/
def rowsReady (s : State) (r : Result) : Bool :=
  match r.fmt with
  | some (.row c f _ _ _ n _) => s.results.all fun q => q.ready || (match q.fmt with
    | some (.row e g _ _ _ m _) => !(e == c && g == f && m == n)
    | _ => true)
  | _ => true

/-- A result has returned: its value is there, or the operation whose departure it stands for has left the core (R46, R281). -/
def returned (s : State) (r : Result) : Bool :=
  (r.ready && rowsReady s r) || (match r.left with
    | some p => (findPacket s p).all (hasLeft s)
    | none => false)

/-- RESULT_WRITEBACK: a result in flight is written, and its threads unpark when it was their last (R46, R220). -/
def execResultWriteback (id : Nat) (s : State) : Host.Outcome State Fault Refusal :=
  issued (match s.results.find? fun r => r.id == id && returned s r with
    | some r => writeResult s r
    | none => s)

end Sys2Proof.Machine
end

