-- ==== Sys2Proof/Machine/Copy.lean ====
section
/-! DEFINITION. Meanings of the copies (12 R288 to R291) and of their completion (R289, R290, 19 R389). -/

namespace Sys2Proof.Machine

/-- Threads of a core that wait for room of a kind try again. -/
def wakeRoom (s : State) (p : Thread → Bool) (k : Room) : State :=
  { s with threads := s.threads.map fun t => if t.wait == .room k && p t then { t with wait := .none, age := s.cycle + 1 } else t }

/-- The active threads of an issue wait for room and keep their PC (R272). -/
def waitRoom (s : State) (i : Issue) (k : Room) : State :=
  finish (modThreads s i.act fun t => { t with wait := .room k }) i i.act [] fun _ => []

/-- An instruction that waits, taking no issue slots, while an engine has no room for all its active threads. One that is active in none, or that waits
for results (R220), does not. -/
def ifRoom (f : Fields) (k : Room) (full : State → Issue → Bool) (rest : State → State) (s : State) : State :=
  match mkIssue s f with
  | some i => if !tooMany s i && !i.act.isEmpty && full s i then waitRoom s i k else rest s
  | none => s

/-- Inside a segment without a translation (R94): an extent of engine memory, global or local. -/
def extentTrap (s : State) (t : Thread) (locl : Bool) (a n : Nat) : Option Trap :=
  if locl then
    (if !inSegL t.segL a n then some (trap4 4 1 a) else if lsSize s t.core < a + n then some (trap4 6 1 a) else none)
  else if 2 ^ 57 ≤ a then some (trap4 6 0 a)
  else if !inSegG t.segG a n then some (trap4 4 0 a)
  else none

/-- The rows of a request: number and length (R289). -/
def copyRows (rowlen len : Nat) : Nat × Nat := if rowlen = 0 then (1, len) else (len / rowlen, rowlen)

/-- Bytes of a full sparse record (R290). -/
def sparseSize (rowlen esz : Nat) : Nat := ((rowlen / 2 ^ esz / 8 + rowlen) + 15) / 16 * 16

/-- A copy request as the unit accepts it. -/
def copyOpOf (t : Thread) (i : Issue) (expand : Bool) (req w0 w1 w2 w3 len h : Nat) : CopyOp where
  id := 0
  core := t.core
  uid := t.uid
  job := t.job
  pc := i.pc
  expand := expand
  req := req
  saddr := bits w0 56 0
  daddr := bits w1 56 0
  sls := bit w0 57
  dls := bit w0 58
  sstride := bits w2 31 0
  dstride := bits w2 63 32
  rowlen := bits w3 31 0
  esz := bits w3 33 32
  len := len
  handle := BitVec.ofNat 64 h
  done := []
  src := []
  dst := []
  pend := []
  stop := none

/-- A request that breaks the limits of R288 to R290 and R383. -/
def badRequest (o : CopyOp) (w0 w1 w3 : Nat) : Bool :=
  bits w0 63 59 ≠ 0 || bits w1 63 57 ≠ 0 || bits w3 63 34 ≠ 0 ||
    (o.sls && bits w0 56 32 ≠ 0) || (o.dls && bits w1 56 32 ≠ 0) ||
    (if o.expand then
      (let ne := o.rowlen / 2 ^ o.esz
       o.sstride ≠ 0 || !o.dls || o.esz == 3 || o.rowlen % (32 * 2 ^ o.esz) ≠ 0 || ne < 32 || 1024 < ne || o.len % o.rowlen ≠ 0)
     else o.esz ≠ 0 || (o.rowlen ≠ 0 && o.len % o.rowlen ≠ 0))

/-- Extents of a request (R289, R290). -/
def copyExtents (s : State) (t : Thread) (o : CopyOp) : Option Trap :=
  if o.len = 0 then none
  else
    let (rows, len) := copyRows o.rowlen o.len
    let src := if o.expand then rows * sparseSize o.rowlen o.esz else (rows - 1) * o.sstride + len
    extentTrap s t o.sls o.saddr src <|> extentTrap s t o.dls o.daddr ((rows - 1) * o.dstride + len)

/-- `copy` and `copyx` in a thread (R288 to R291, R383). -/
def copyThread (expand : Bool) (d a len : Nat) (s0 : State) (i : Issue) (t : Thread) : State × Out :=
  let req := vBits t d
  match localPre s0 t req 32 16 with
  | some f => (s0, .trap f)
  | none =>
    let s := eccRead s0 (inLs t.core req 32)
    if localBad s t req 32 then (s, .trap { cls := 7, code := Config.class7Code.toNat, aux := 0, addr := req })
    else
      let w : Nat → Nat := fun k => leNat (seeLocal s t (req + 8 * k) 8)
      let h := vPair t a
      let o := copyOpOf t i expand req (w 0) (w 1) (w 2) (w 3) len h
      if badRequest o (w 0) (w 1) (w 3) then (s, .trap { cls := 1, code := 4, aux := 4 })
      else match handleTrap s t h <|> copyExtents s t o with
        | some f => (s, .trap f)
        | none => ({ s with copies := s.copies ++ [{ o with id := s.fresh }], fresh := s.fresh + 1 }, .eff {})

/-- The copy unit cannot take all requests of an issue (R291). -/
def copyFull (s : State) (i : Issue) : Bool := 64 < (s.copies.filter fun o => o.core == i.core).length + i.act.length

/-- What an engine instruction with a handle in A and an amount in B names; `rd` registers are read at D as integers. -/
def engNames (d a : Nat) (b : Option Nat) (rd : Nat) (_ : Thread) : Names :=
  { vr := (if rd = 0 then [] else [(d, rd)]) ++ [(a, 2)] ++ (match b with | some r => [(r, 1)] | none => [])
    tags := (if rd = 0 then [] else tagsOf 0 d rd (some tagsInt)) ++ tagsOf 1 a 2 (some tagsInt) ++
      (match b with | some r => tagsOf 2 r 1 (some tagsInt) | none => [])
    limits := [(a % 2 == 1, 1)] }

/-- COPY: starts a copy of the bytes that register B counts (R289). -/
def execCopy (h : Hdr) (d a b : BitVec 7) (s : State) : Host.Outcome State Fault Refusal :=
  let f := memF h 28#7 d a b
  issued (ifRoom f .copy copyFull (perThread { f := f } (engNames d.toNat a.toNat (some b.toNat) 1)
    (fun s i t => copyThread false d.toNat a.toNat (vBits t b.toNat) s i t)) s)

/-- COPY with the amount in the literal (R289). -/
def execCopyLit (h : Hdr) (d a : BitVec 7) (lit : Word) (s : State) : Host.Outcome State Fault Refusal :=
  let f := memF h 29#7 d a 0#7
  issued (ifRoom f .copy copyFull (perThread { f := f } (engNames d.toNat a.toNat none 1) (copyThread false d.toNat a.toNat lit.toNat)) s)

/-- COPYX: starts an expansion of sparse rows (R290). -/
def execCopyx (h : Hdr) (d a b : BitVec 7) (s : State) : Host.Outcome State Fault Refusal :=
  let f := memF h 30#7 d a b
  issued (ifRoom f .copy copyFull (perThread { f := f } (engNames d.toNat a.toNat (some b.toNat) 1)
    (fun s i t => copyThread true d.toNat a.toNat (vBits t b.toNat) s i t)) s)

/-- COPYX with the amount in the literal (R290). -/
def execCopyxLit (h : Hdr) (d a : BitVec 7) (lit : Word) (s : State) : Host.Outcome State Fault Refusal :=
  let f := memF h 31#7 d a 0#7
  issued (ifRoom f .copy copyFull (perThread { f := f } (engNames d.toNat a.toNat none 1) (copyThread true d.toNat a.toNat lit.toNat)) s)

/-! ## Completion -/

/-- A row that has been read: where it goes, and its bytes. -/
structure Row where
  /-- its number -/
  num : Nat
  /-- destination places: (place, bytes there); local offsets when the destination is local store -/
  dst : List (Nat × Nat)
  /-- source places -/
  src : List (Nat × Nat)
  /-- bytes -/
  bytes : List Byte
  deriving DecidableEq, Repr

/-- Read `n` bytes at an address of global memory or of local store, with their places. -/
def rowRead (s : State) (o : CopyOp) (a n : Nat) : State × EngRes (List Byte × List (Nat × Nat)) :=
  if o.sls then
    (eccRead s (inLs o.core a n), if lsPoisoned s o.core a n then .fail a 8 else .ok (lsBytes s o.core a n, [(lkey o.core a, n)]))
  else match engRead s (dieOf o.core) o.job o.id a n with
    | (s1, .ok bs) =>
      (match engPlacesR s1 a n with
      | (s2, ps) => (s2, .ok (bs, ps)))
    | (s1, .fail v c) => (s1, .fail v c)
    | (s1, .wait) => (s1, .wait)
where
  /-- places that were read -/
  engPlacesR (s : State) (a n : Nat) : State × List (Nat × Nat) :=
    (pagePieces (n / 4096 + 2) a n).foldl (fun acc p =>
      match engAt acc.1 (dieOf o.core) o.job o.id p.1 false with
      | (s2, .at k _) => (s2, acc.2 ++ [(k, p.2)])
      | (s2, _) => (s2, acc.2)) (s, [])

/-- Destination places of a row. -/
def rowPlaces (s : State) (o : CopyOp) (a n : Nat) : State × EngRes (List (Nat × Nat)) :=
  if o.dls then (s, .ok [(lkey o.core a, n)])
  else engPlaces s (dieOf o.core) o.job o.id (pagePieces (n / 4096 + 2) a n) []

/-- Dense elements of a sparse row: for each bit of the bitmap the next value, or 0 (R290). -/
def expandRow (esz : Nat) (values : List Byte) : List Bool → List Byte
  | [] => []
  | true :: r => values.take (2 ^ esz) ++ expandRow esz (values.drop (2 ^ esz)) r
  | false :: r => natLe (2 ^ esz) 0 ++ expandRow esz values r

/-- Bits of a byte string, as R3 numbers them. -/
def bitsOfBytes (bs : List Byte) : List Bool := bs.flatMap fun b => (upFrom 0 8).map fun k => bit b.toNat k

/-- Source of row r: its dense bytes, its places, and where the next sparse record starts. -/
def rowSource (s : State) (o : CopyOp) (r at' len : Nat) : State × EngRes (List Byte × List (Nat × Nat) × Nat) :=
  if o.expand then
    let nb := o.rowlen / 2 ^ o.esz / 8
    match rowRead s o at' nb with
    | (s1, .ok (bm, p1)) =>
      let bm' := bitsOfBytes bm
      let n := (bm'.filter id).length * 2 ^ o.esz
      (match rowRead s1 o (at' + nb) n with
      | (s2, .ok (vs, p2)) => (s2, .ok (expandRow o.esz vs bm', p1 ++ p2, at' + (nb + n + 15) / 16 * 16))
      | (s2, .fail v c) => (s2, .fail v c)
      | (s2, .wait) => (s2, .wait))
    | (s1, .fail v c) => (s1, .fail v c)
    | (s1, .wait) => (s1, .wait)
  else match rowRead s o (o.saddr + r * o.sstride) len with
    | (s1, .ok (bs, ps)) => (s1, .ok (bs, ps, at'))
    | (s1, .fail v c) => (s1, .fail v c)
    | (s1, .wait) => (s1, .wait)

/-- What the rows of a copy come to that have not been set out: those read and with a place to go, the failures of the others, and whether one
waits. -/
structure CopyWalk where
  /-- rows that can be written -/
  rows : List Row
  /-- failing addresses, with their codes -/
  fails : List (Nat × Nat)
  /-- a page or bytes are awaited -/
  waits : Bool
  deriving DecidableEq, Repr

/-- One row is read and its place found. -/
def walkRow (s : State) (o : CopyOp) (len r at' : Nat) (w : CopyWalk) : State × CopyWalk × Option Nat :=
  match rowSource s o r at' len with
  | (s1, .fail v c) => (s1, { w with fails := w.fails ++ [(v, c)] }, if o.expand then none else some at')
  | (s1, .wait) => (s1, { w with waits := true }, none)
  | (s1, .ok (bs, src, next)) =>
    if has o.done r then (s1, w, some next)
    else match rowPlaces s1 o (o.daddr + r * o.dstride) len with
    | (s2, .fail v c) => (s2, { w with fails := w.fails ++ [(v, c)] }, some next)
    | (s2, .wait) => (s2, { w with waits := true }, none)
    | (s2, .ok dst) => (s2, { w with rows := w.rows ++ [⟨r, dst, src, bs⟩] }, some next)

/-- The rows of a copy from row r on. The sparse record of a row lies behind that of the row before: none is found after one that fails. -/
def rowsOf (o : CopyOp) (len : Nat) : State → Nat → Nat → Nat → CopyWalk → State × CopyWalk
  | s, 0, _, _, w => (s, w)
  | s, n + 1, r, at', w =>
    if has o.done r && !o.expand then rowsOf o len s n (r + 1) at' w
    else match walkRow s o len r at' w with
    | (s1, w1, some next) => rowsOf o len s1 n (r + 1) next w1
    | (s1, w1, none) => (s1, w1)

/-- Number of rows of a copy; none of no bytes. -/
def CopyOp.rows (o : CopyOp) : Nat := if o.len = 0 then 0 else (copyRows o.rowlen o.len).1

/-- All rows of a copy that have not been set out. -/
def copyWalk (s : State) (o : CopyOp) : State × CopyWalk := rowsOf o (copyRows o.rowlen o.len).2 s o.rows 0 o.saddr ⟨[], [], false⟩

/-- Whether a place lies in one of these runs. -/
def inRuns (l : List (Nat × Nat)) (k : Nat) : Bool := l.any fun p => p.1 ≤ k && k < p.1 + p.2

/-- Whether runs of one list meet runs of another. -/
def listsMeet (a b : List (Nat × Nat)) : Bool := a.any fun p => b.any fun q => runsMeet p.1 p.2 q.1 q.2

/-- Whether a run meets a later one. -/
def runsCross : List (Nat × Nat) → Bool
  | [] => false
  | r :: q => q.any (fun p => runsMeet r.1 r.2 p.1 p.2) || runsCross q

/-- Places that a copy reads, where it reads and writes one memory. -/
def CopyOp.readRuns (o : CopyOp) (rows : List Row) : List (Nat × Nat) := if o.sls == o.dls then o.src ++ rows.flatMap (·.src) else []

/-- Places that a copy writes. -/
def CopyOp.writeRuns (o : CopyOp) (rows : List Row) : List (Nat × Nat) := o.dst ++ rows.flatMap (·.dst)

/-- Places whose bytes a copy reads too, or writes more than once: each keeps its old value or takes a value read, and which is not promised
(R289). -/
def looseAt (o : CopyOp) (rows : List Row) (k : Nat) : Bool :=
  inRuns (o.readRuns rows) k || 1 < ((o.writeRuns rows).filter fun p => p.1 ≤ k && k < p.1 + p.2).length

/-- Of these places the loose ones that keep their old value. -/
def keptOld (loose : Nat → Bool) : State → List Nat → State × List Nat
  | s, [] => (s, [])
  | s, k :: r =>
    if loose k then
      let (i, s1) := takeFree s
      let (s2, l) := keptOld loose s1 r
      (s2, if Config.freeBit i then l else k :: l)
    else keptOld loose s r

/-- Leave out of a write the bytes at these places. -/
def Packet.without (p : Packet) (ks : List Nat) : Packet :=
  match p.body with
  | .write bs c => { p with body := .write (bs.filter fun b => !has ks b.1) c }
  | _ => p

/-- A row sets out: its bytes are sent to their homes, or wait to land in local store (R289). -/
def setRow (o : CopyOp) (rows : List Row) (overlaps : Bool) (s : State) (r : Row) : State :=
  let (s1, old) := if overlaps then keptOld (looseAt o rows) s (r.dst.flatMap fun p => upFrom p.1 p.2) else (s, [])
  let s2 := if o.dls then s1
    else sendPackets s1 ((placePackets s1 (dieOf o.core) o.job o.id (o.daddr + r.num * o.dstride) r.dst r.bytes).map (·.without old))
  let pend := if o.dls then ((r.dst.flatMap fun p => upFrom p.1 p.2).zip r.bytes).filter fun b => !has old b.1 else []
  { s2 with copies := s2.copies.map fun q => if q.id == o.id then
      { q with done := q.done ++ [r.num], src := q.src ++ r.src, dst := q.dst ++ r.dst, pend := q.pend ++ pend } else q }

/-- Rows of a copy set out. -/
def setRows (s : State) (o : CopyOp) (rows : List Row) : State :=
  rows.foldl (setRow o rows (listsMeet (o.readRuns rows) (o.writeRuns rows) || runsCross (o.writeRuns rows))) s

/-- Whether a place is one of these bytes of local store. -/
def inKeys (bs : List (Nat × Byte)) : Place → Bool
  | .locl c b => bs.any fun x => x.1 == lkey c b
  | _ => false

/-- Bytes land in local store. -/
def landBytes (s : State) (bs : List (Nat × Byte)) : State := cure { s with locl := mapSetAll 0#8 s.locl bs } (inKeys bs)

/-- Bytes of a copy land in local store, those at the given positions of the ones that have not. -/
def landPend (s : State) (op : Nat) (which : Nat → Bool) : State :=
  match s.copies.find? fun o => o.id == op with
  | none => s
  | some o =>
    let xs := (upFrom 0 o.pend.length).zip o.pend
    { landBytes s ((xs.filter fun x => which x.1).map (·.2)) with
      copies := s.copies.map fun q => if q.id == op then { q with pend := (xs.filter fun x => !which x.1).map (·.2) } else q }

/-- The rows of a copy that a failing one leaves written: each may have been started before it or not (R389). -/
def startedRows : State → List Row → State × List Row
  | s, [] => (s, [])
  | s, r :: q =>
    let (n, s1) := takeFree s
    let (s2, l) := startedRows s1 q
    (s2, if Config.freeBit n then r :: l else l)

/-- The failure that stops a copy: where several rows would fail, any of them, since the order of the rows is not promised (R289, R389). -/
def stoppingFail (s : State) : List (Nat × Nat) → State × Nat × Nat
  | [] => (s, 0, 0)
  | [f] => (s, f)
  | f :: r => let (n, s1) := takeFree s; (s1, nthD f (f :: r) ((Config.freeWord n).toNat % (r.length + 1)))

/-- A copy stops: no further row starts (R389). -/
def stopCopy (s : State) (op : Nat) (f : Nat × Nat) : State :=
  { s with copies := s.copies.map fun q => if q.id == op then { q with stop := some f } else q }

/-- The rows that are left of a copy set out, or those that had started before one that fails (R289, R389). -/
def startRows (s : State) (o : CopyOp) (w : CopyWalk) : State :=
  if w.fails.isEmpty then setRows s o w.rows
  else
    let (s1, f) := stoppingFail s w.fails
    let (s2, rows) := startedRows s1 w.rows
    stopCopy (setRows s2 o rows) o.id f

/-- A copy leaves its unit. -/
def dropCopy (s : State) (o : CopyOp) : State :=
  wakeRoom (engEnded { s with copies := s.copies.filter fun q => q.id ≠ o.id } o.id) (fun t => t.core == o.core) .copy

/-- The record of a copy that has stopped, whose addition is withheld (R389). -/
def copyFault (s : State) (o : CopyOp) (f : Nat × Nat) : State :=
  raiseAsync (dropCopy s o) 6 1 o.job (dieOf o.core) (o.core % 128) o.pc.toNat f.1 (some (o.handle.toNat, o.len))
    (f.2 + (if o.expand then 16 else 0)) o.req

/-- The end of a copy all of whose rows have set out, or which has stopped, once its bytes are in place: it adds its amount, or is reported. -/
def endCopy (s0 : State) (op : Nat) : State :=
  let s := landPend s0 op fun _ => true
  match s.copies.find? fun o => o.id == op with
  | none => s
  | some o =>
    match engDone s op, o.stop with
    | .wait, _ => s
    | _, some f => copyFault s o f
    | .fail v c, none => copyFault s o (v, c)
    | .ok _, none => engineAdd (dropCopy s o) (dieOf o.core) (o.core % 128) o.job o.pc.toNat o.handle.toNat o.len

/-- COPY_COMPLETE: the rows of an accepted copy that are left are read and set out; when all its bytes are written its amount is added, or it has
stopped at a failing row (R289 to R291, R389). -/
def execCopyComplete (op : Nat) (s : State) : Host.Outcome State Fault Refusal :=
  issued (match s.copies.find? fun o => o.id == op with
    | none => s
    | some o =>
      if coreHeld s o.core o.job o.uid o.id || engineHolds s o.core o.uid o.id then s
      else if o.stop.isSome || o.rows ≤ o.done.length then endCopy s op
      else if entryBad s op then endCopy (stopCopy s op (o.saddr, 8)) op
      else match copyWalk s o with
        | (s1, w) => if w.waits then s1 else endCopy (startRows (engTaken s1 op) o w) op)

/-- Some rows of a copy set out before the others, and some bytes for local store land before the others (R6, R119, R289). -/
def copyPart (op : Nat) (rows bytes : List Nat) (s : State) : State :=
  match s.copies.find? fun o => o.id == op with
  | none => s
  | some o =>
    if coreHeld s o.core o.job o.uid o.id || engineWaits s o.core o.uid o.id || o.stop.isSome || entryBad s op then s
    else
      match copyWalk s o with
      | (s1, w) =>
        if w.waits then s1
        else landPend (setRows (engTaken s1 op) o (w.rows.filter fun r => has rows r.num)) op (has bytes)

end Sys2Proof.Machine
end

