-- ==== Sys2Proof/Machine/Trace.lean ====
section
/-! DEFINITION. Ray traversal (07 R142 to R156): exact box tests, the tests of triangles, curves and patches with one rounding for each
step, instances, crossings, the stack and its spill; `trace` and `hitget` (13 R305, R306, R309) and RAY_COMPLETE (faults 20 R409). -/

namespace Sys2Proof.Machine

/-! ## Exact values (R145, R148) -/

/-- m × 2^e. -/
def ratOf (m e : Int) : Rat := if 0 ≤ e then (m * 2 ^ e.toNat : Int) else mkRat m (2 ^ (-e).toNat)

/-- The exact value of an F32 pattern, none for NaN and infinities. -/
def f32Rat (b : Nat) : Option Rat :=
  match fdecode fmtF32 b with
  | .fin neg m e => some (ratOf (if neg then -(m : Int) else m) e)
  | _ => none

/-- An exact value rounded once to F32. -/
def ratBits (rm : RMode) (x : Rat) : Nat :=
  if x.num = 0 then 0
  else match fquot (x.num < 0) x.num.natAbs 0 x.den 0 with
    | .fin a m e => (fround fmtF32 a m e rm false).1
    | _ => 0

/-- One `:=` of the intersection tests (R148): rounded once, and none when that gives an infinity. -/
def rnd (x : Rat) : Option Rat := f32Rat (ratBits .rn x)

/-- The root of a rounded value, rounded once. -/
def rndSqrt (x : Rat) : Option Rat :=
  if x.num = 0 then some 0
  else
    -- √(num ÷ den) = √(num × den) ÷ den
    match fsqrtM (x.num.natAbs * x.den) 0 with
    | .fin _ m e => f32Rat (match fquot false m e x.den 0 with
      | .fin a n d => (fround fmtF32 a n d .rn false).1
      | _ => 0)
    | _ => none

/-- A point or a direction. -/
structure V3 where
  /-- x -/
  x : Rat
  /-- y -/
  y : Rat
  /-- z -/
  z : Rat

/-- Component by axis number. -/
def V3.get (v : V3) (a : Nat) : Rat := if a = 0 then v.x else if a = 1 then v.y else v.z

/-- Dot product. -/
def V3.dot (a b : V3) : Rat := a.x * b.x + a.y * b.y + a.z * b.z

/-- Difference. -/
def V3.sub (a b : V3) : V3 := ⟨a.x - b.x, a.y - b.y, a.z - b.z⟩

/-- A vector of three F32 patterns, none with a NaN or an infinity. -/
def v3Of (l : List Nat) : Option V3 := do
  let x ← f32Rat (nthD 0 l 0)
  let y ← f32Rat (nthD 0 l 1)
  let z ← f32Rat (nthD 0 l 2)
  some ⟨x, y, z⟩

/-- Each component rounded once. -/
def rnd3 (x y z : Rat) : Option V3 := do
  let a ← rnd x
  let b ← rnd y
  let c ← rnd z
  some ⟨a, b, c⟩

/-- Vector of F32 patterns at an offset of a record. -/
def vecAt (b : List Byte) (off : Nat) : List Nat := [blockNat4 b off, blockNat4 b (off + 4), blockNat4 b (off + 8)]
where
  /-- a 32-bit field -/
  blockNat4 (b : List Byte) (off : Nat) : Nat := leNat ((b.drop off).take 4)

/-- A field of n bytes of a record. -/
def recNat (b : List Byte) (off n : Nat) : Nat := leNat ((b.drop off).take n)

/-! ## Nodes and boxes (R143 to R146) -/

/-- A child of a node: number, reference, box. -/
structure NodeKid where
  /-- slot -/
  c : Nat
  /-- child reference -/
  ref : Nat
  /-- lower corner -/
  lo : V3
  /-- upper corner -/
  hi : V3

/-- KIND of a reference. -/
def refKind (r : Nat) : Nat := bits r 2 0
/-- COUNT of a reference: entries − 1. -/
def refCount (r : Nat) : Nat := bits r 7 3
/-- Address of a reference. -/
def refAddr (r : Nat) : Nat := bits r 63 14 * 128 % 2 ^ 57
/-- Shard number of a reference of KIND 6. -/
def refShard (r : Nat) : Nat := bits r 26 14

/-- Why a child reference is malformed (R409). -/
def refBad (r : Nat) : Option Nat :=
  let k := refKind r
  if k = 0 then none
  else if k = 7 then some 0
  else if bits r 13 8 ≠ 0 || ((k = 1 || k = 5 || k = 6) && refCount r ≠ 0) || (k = 6 && bits r 63 27 ≠ 0) then some 1
  else none

/-- Child c of a node, when it has a box (R145, R146). -/
def kidAt (b : List Byte) (c : Nat) : Option NodeKid := do
  let o ← v3Of (vecAt b 0)
  let q : Nat → Rat := fun i => (recNat b (0x10 + 6 * c + i) 1 : Nat)
  let sc : Nat → Rat := fun a => ratOf 1 (signedN 8 (recNat b (12 + a) 1))
  let ref := recNat b (0x40 + 8 * c) 8
  if refKind ref = 0 || q 3 < q 0 || q 4 < q 1 || q 5 < q 2 then none
  else
    some {
      c := c, ref := ref
      lo := ⟨o.x + q 0 * sc 0, o.y + q 1 * sc 1, o.z + q 2 * sc 2⟩
      hi := ⟨o.x + (q 3 + 1) * sc 0, o.y + (q 4 + 1) * sc 1, o.z + (q 5 + 1) * sc 2⟩ }

/-- Why a node is malformed (R143, R144, R409). -/
def nodeBad (b : List Byte) : Option Nat :=
  if recNat b 15 1 ≠ 0 then some 1
  else (upFrom 0 8).findSome? fun c => refBad (recNat b (0x40 + 8 * c) 8)

/-- The children of a node that have a box. -/
def nodeKids (b : List Byte) : List NodeKid := (upFrom 0 8).filterMap (kidAt b)

/-- The upper end of an interval: none when it admits no t at all, `some none` for +∞. -/
def upperOf (w : Nat) : Option (Option Rat) :=
  match fdecode fmtF32 w with
  | .nan => none
  | .inf neg => if neg then none else some none
  | .fin neg m e => some (some (ratOf (if neg then -(m : Int) else m) e))

/-- The interval of t in which a ray lies within a box on the axes listed (R146). -/
def clipAxes (o d lo hi : V3) : List Nat → Rat × Option Rat → Option (Rat × Option Rat)
  | [], i => some i
  | a :: r, (t0, t1) =>
    if d.get a = 0 then
      (if lo.get a ≤ o.get a && o.get a ≤ hi.get a then clipAxes o d lo hi r (t0, t1) else none)
    else
      let p := (lo.get a - o.get a) / d.get a
      let q := (hi.get a - o.get a) / d.get a
      clipAxes o d lo hi r (max t0 (min p q), some (match t1 with
        | some x => min x (max p q)
        | none => max p q))

/-- tnear of a ray and a box within [tmin, top], exactly (R146). -/
def enterBox (o d lo hi : V3) (tmin : Rat) (top : Nat) : Option Rat :=
  match upperOf top with
  | none => none
  | some t1 =>
    match clipAxes o d lo hi [0, 1, 2] (tmin, t1) with
    | some (a, some b) => if a ≤ b then some a else none
    | some (a, none) => some a
    | none => none

/-- Insert by a strict order, after equal ones. -/
def insertLt {α : Type} (lt : α → α → Bool) (x : α) : List α → List α
  | [] => [x]
  | y :: r => if lt x y then x :: y :: r else y :: insertLt lt x r

/-- Stable sort by a strict order. -/
def sortLt {α : Type} (lt : α → α → Bool) (l : List α) : List α := l.foldl (fun acc x => insertLt lt x acc) []

/-! ## Intersection tests (R148 to R151) -/

/-- A candidate of a test: t, u, v as F32 patterns, FRONT, and the sign of det for culling. -/
structure Meet where
  /-- t -/
  t : Nat
  /-- u -/
  u : Nat
  /-- v -/
  v : Nat
  /-- FRONT -/
  front : Bool
  deriving DecidableEq, Repr

/-- Axes and shear of a ray (R149): kx, ky, kz, sx, sy, sz. -/
structure Shear where
  /-- kx -/
  kx : Nat
  /-- ky -/
  ky : Nat
  /-- kz -/
  kz : Nat
  /-- sx -/
  sx : Rat
  /-- sy -/
  sy : Rat
  /-- sz -/
  sz : Rat

/-- Magnitude. -/
def ratAbs (x : Rat) : Rat := if x < 0 then -x else x

/-- The shear of a direction. -/
def shearOf (d : V3) : Option Shear := do
  let kz := if ratAbs d.x < ratAbs d.y then (if ratAbs d.y < ratAbs d.z then 2 else 1) else (if ratAbs d.x < ratAbs d.z then 2 else 0)
  let kx := (kz + 1) % 3
  let ky := (kx + 1) % 3
  let dz := d.get kz
  if dz = 0 then none
  let (kx, ky) := if dz < 0 then (ky, kx) else (kx, ky)
  let sx ← rnd (d.get kx / dz)
  let sy ← rnd (d.get ky / dz)
  let sz ← rnd (1 / dz)
  some ⟨kx, ky, kz, sx, sy, sz⟩

/-- A vertex sheared (R149). -/
def shearPt (h : Shear) (o q : V3) : Option V3 := do
  let px ← rnd (q.get h.kx - o.get h.kx)
  let py ← rnd (q.get h.ky - o.get h.ky)
  let pz ← rnd (q.get h.kz - o.get h.kz)
  rnd3 (px - h.sx * pz) (py - h.sy * pz) (h.sz * pz)

/-- A quotient rounded once, as its pattern, none for an infinity. -/
def quotBits (a b : Rat) : Option Nat := do
  let r ← rnd (a / b)
  some (if r.num = 0 then ratBits .rn (a / b) else ratBits .rn r)

/-- The triangle test (R149). -/
def meetTri (o d : V3) (a0 b0 c0 : V3) : Option Meet := do
  let h ← shearOf d
  let a ← shearPt h o a0
  let b ← shearPt h o b0
  let c ← shearPt h o c0
  let ue := c.x * b.y - c.y * b.x
  let ve := a.x * c.y - a.y * c.x
  let we := b.x * a.y - b.y * a.x
  if (ue < 0 || ve < 0 || we < 0) && (0 < ue || 0 < ve || 0 < we) then none
  let u ← rnd ue
  let v ← rnd ve
  let w ← rnd we
  let det ← rnd (u + v + w)
  if det = 0 then none
  let t ← rnd (u * a.z + v * b.z + w * c.z)
  let tb ← quotBits t det
  let ub ← quotBits v det
  let vb ← quotBits w det
  some ⟨tb, ub, vb, 0 < det⟩

/-- A point of a curve at s = j ÷ 8 (R150). -/
def curvePt (p : List V3) (j : Nat) : Option V3 :=
  let s : Rat := mkRat j 8
  let w : Nat → Rat := fun i => match i with
    | 0 => (1 - s) * (1 - s) * (1 - s)
    | 1 => 3 * s * (1 - s) * (1 - s)
    | 2 => 3 * s * s * (1 - s)
    | _ => s * s * s
  let g : (V3 → Rat) → Rat := fun f => ((upFrom 0 4).zip p).foldl (fun acc q => acc + w q.1 * f q.2) 0
  rnd3 (g V3.x) (g V3.y) (g V3.z)

/-- One root of a segment, before its rounding: whether it is a candidate, and which. -/
def curveRoot (j : Nat) (aa ad aw rb dr x : Rat) : Option (List Meet) := do
  let t ← rnd x
  let h ← rnd ((aw + t * ad) / aa)
  if 0 ≤ h && (h < 1 || (j = 7 && h = 1)) && 0 ≤ rb + dr * h then
    let u ← rnd (((j : Nat) + h) / 8)
    some [⟨ratBits .rn x, ratBits .rn u, 0, true⟩]
  else some []

/-- The test of cone segment j (R150). -/
def meetSegment (o d : V3) (p : List V3) (rb0 re : Rat) (j : Nat) : Option (List Meet) := do
  let pj ← curvePt p j
  let pk ← curvePt p (j + 1)
  let rb ← rnd (rb0 + (re - rb0) * mkRat j 8)
  let rk ← rnd (rb0 + (re - rb0) * mkRat (j + 1) 8)
  let a ← rnd3 (pk.x - pj.x) (pk.y - pj.y) (pk.z - pj.z)
  let w ← rnd3 (o.x - pj.x) (o.y - pj.y) (o.z - pj.z)
  let dr ← rnd (rk - rb)
  let aa ← rnd (a.dot a)
  let ad ← rnd (a.dot d)
  let aw ← rnd (a.dot w)
  let dd ← rnd (d.dot d)
  let dw ← rnd (d.dot w)
  let ww ← rnd (w.dot w)
  if aa = 0 then some []
  else
    let ca ← rnd (aa * aa * dd - aa * ad * ad - dr * dr * ad * ad)
    let cb ← rnd (aa * aa * dw - aa * aw * ad - (rb * aa + dr * aw) * dr * ad)
    let cc ← rnd (aa * aa * ww - aa * aw * aw - (rb * aa + dr * aw) * (rb * aa + dr * aw))
    if ca = 0 then some []
    else
      let disc ← rnd (cb * cb - ca * cc)
      if disc < 0 then some []
      else
        let q ← rndSqrt disc
        let x0 := (-cb - q) / ca
        let x1 := (-cb + q) / ca
        let m0 ← curveRoot j aa ad aw rb dr (min x0 x1)
        let m1 ← curveRoot j aa ad aw rb dr (max x0 x1)
        some (m0 ++ m1)

/-- The test of a curve: its segments in order (R150). -/
def meetCurve (o d : V3) (p : List V3) (rb re : Rat) : List Meet :=
  (upFrom 0 8).flatMap fun j => (meetSegment o d p rb re j).getD []

/-- The basis functions of a patch (R151). -/
def basis (i : Nat) (s : Rat) : Rat :=
  match i with
  | 0 => (1 - s) * (1 - s) * (1 - s) / 6
  | 1 => (3 * s * s * s - 6 * s * s + 4) / 6
  | 2 => (-3 * s * s * s + 3 * s * s + 3 * s + 1) / 6
  | _ => s * s * s / 6

/-- Grid point (i, j) of a patch (R151). -/
def gridPt (p : List V3) (d i j : Nat) : Option V3 :=
  let g : (V3 → Rat) → Rat := fun f =>
    ((upFrom 0 16).zip p).foldl (fun acc q => acc + basis (q.1 / 4) (mkRat i (2 ^ d)) * basis (q.1 % 4) (mkRat j (2 ^ d)) * f q.2) 0
  rnd3 (g V3.x) (g V3.y) (g V3.z)

/-- One root of a patch cell. -/
def cellRoot (dice i j : Nat) (q00 q10 q01 q11 : V3) (ex ey fx fy gx gy uq : Rat) : Option (List Meet) := do
  if uq < 0 || 1 < uq then some []
  else
    let px ← rnd (fx + uq * gx)
    let py ← rnd (fy + uq * gy)
    let useX := decide (ratAbs py ≤ ratAbs px)
    let den := if useX then px else py
    if den = 0 then some []
    else
      let vq ← rnd (if useX then -(q00.x + uq * ex) / px else -(q00.y + uq * ey) / py)
      if vq < 0 || 1 < vq then some []
      else
        let x := (1 - uq) * (1 - vq) * q00.z + uq * (1 - vq) * q10.z + (1 - uq) * vq * q01.z + uq * vq * q11.z
        let _ ← rnd x
        let u ← rnd (((i : Nat) + uq) / ((2 ^ dice : Nat) : Rat))
        let v ← rnd (((j : Nat) + vq) / ((2 ^ dice : Nat) : Rat))
        some [⟨ratBits .rn x, ratBits .rn u, ratBits .rn v, true⟩]

/-- The test of a patch cell (R151). -/
def meetCell (h : Shear) (o : V3) (p : List V3) (dice i j : Nat) : Option (List Meet) := do
  let g00 ← gridPt p dice i j
  let g10 ← gridPt p dice (i + 1) j
  let g01 ← gridPt p dice i (j + 1)
  let g11 ← gridPt p dice (i + 1) (j + 1)
  let q00 ← shearPt h o g00
  let q10 ← shearPt h o g10
  let q01 ← shearPt h o g01
  let q11 ← shearPt h o g11
  let ex ← rnd (q10.x - q00.x)
  let ey ← rnd (q10.y - q00.y)
  let fx ← rnd (q01.x - q00.x)
  let fy ← rnd (q01.y - q00.y)
  let gx ← rnd (q11.x - q10.x - q01.x + q00.x)
  let gy ← rnd (q11.y - q10.y - q01.y + q00.y)
  let a2 ← rnd (ex * gy - ey * gx)
  let a1 ← rnd (q00.x * gy - q00.y * gx + ex * fy - ey * fx)
  let a0 ← rnd (q00.x * fy - q00.y * fx)
  let root := cellRoot dice i j q00 q10 q01 q11 ex ey fx fy gx gy
  if a2 = 0 then
    if a1 = 0 then some []
    else
      let r ← rnd (-a0 / a1)
      root r
  else
    let disc ← rnd (a1 * a1 - 4 * a2 * a0)
    if disc < 0 then some []
    else
      let q ← rndSqrt disc
      let r0 ← rnd ((-a1 - q) / (2 * a2))
      let r1 ← rnd ((-a1 + q) / (2 * a2))
      let m0 ← root r0
      let m1 ← root r1
      some (m0 ++ m1)

/-- The test of a patch: its cells with j ascending, then i ascending (R151). -/
def meetPatch (o d : V3) (p : List V3) (dice : Nat) : List Meet :=
  match shearOf d with
  | none => []
  | some h => (upFrom 0 (2 ^ dice)).flatMap fun j => (upFrom 0 (2 ^ dice)).flatMap fun i => (meetCell h o p dice i j).getD []

/-! ## Leaf entries (R147, R148, R409) -/

/-- Size of a leaf entry by KIND. -/
def entrySize (kind : Nat) : Nat := if kind = 2 then 48 else if kind = 3 then 64 else 256

/-- Vectors at consecutive 12-byte offsets, none when one has a NaN or an infinity. -/
def v3List (b : List Byte) : Nat → Nat → Option (List V3)
  | 0, _ => some []
  | n + 1, off => do
    let v ← v3Of (vecAt b off)
    let r ← v3List b n (off + 12)
    some (v :: r)

/-- What an entry's test gives: candidates in order, PRIM, M; or the reason for which it is malformed. -/
def entryTest (kind : Nat) (b : List Byte) (o d : V3) : Except Nat (List Meet × Nat × Bool) :=
  if kind = 2 then
    if recNat b 0x28 4 / 2 ≠ 0 || recNat b 0x2C 4 ≠ 0 then .error 1
    else .ok ((match v3List b 3 0 with
      | some [p, q, r] => (meetTri o d p q r).toList
      | _ => []), recNat b 0x24 4, bit (recNat b 0x28 4) 0)
  else if kind = 3 then
    if recNat b 0x3C 4 ≠ 0 then .error 1
    else .ok ((match v3List b 4 0, f32Rat (recNat b 0x30 4), f32Rat (recNat b 0x34 4) with
      | some p, some rb, some re => meetCurve o d p rb re
      | _, _, _ => []), recNat b 0x38 4, false)
  else
    if recNat b 0xC4 4 / 8 ≠ 0 || (b.drop 0xC8).any (· ≠ 0#8) then .error 1
    else if 5 < recNat b 0xC4 4 % 8 then .error 4
    else .ok ((match v3List b 16 0 with
      | some p => meetPatch o d p (recNat b 0xC4 4 % 8)
      | none => []), recNat b 0xC0 4, false)

/-- Lexicographic order of (t, SHARD, INST, PRIM) (R142, R148). -/
def hitLess (a b : Hit) : Bool :=
  let x := fdecode fmtF32 a.t.toNat
  let y := fdecode fmtF32 b.t.toNat
  flt x y || (feq x y && (a.shard < b.shard || (a.shard == b.shard && (a.inst.toNat < b.inst.toNat || (a.inst == b.inst && a.prim.toNat < b.prim.toNat)))))

/-- Whether a candidate is accepted (R148). -/
def accepts (r : RayState) (h : Hit) : Bool :=
  let t := fdecode fmtF32 h.t.toNat
  fle (fdecode fmtF32 r.tmin.toNat) t &&
    (match r.best with
    | some b => hitLess h b
    | none => fle t (fdecode fmtF32 r.tmax.toNat))

/-- best.t of a ray, as its pattern. -/
def bestT (r : RayState) : Nat :=
  match r.best with
  | some h => h.t.toNat
  | none => r.tmax.toNat

/-- A candidate of an entry as a hit. -/
def meetHit (r : RayState) (kind : Nat) (inst : Bool) (leaf prim : Nat) (m : Meet) : Hit where
  t := BitVec.ofNat 32 m.t
  u := BitVec.ofNat 32 m.u
  v := BitVec.ofNat 32 m.v
  prim := BitVec.ofNat 32 prim
  inst := if inst then r.curInst else 0xFFFFFFFF#32
  kind := kind - 2
  front := m.front
  leaf := leaf
  shard := r.shard

/-- Accept candidates in order; with ANYHIT the first acceptance ends the ray. -/
def takeMeets (kind : Nat) (inst : Bool) (leaf prim : Nat) : RayState → List Meet → RayState × Bool
  | r, [] => (r, false)
  | r, m :: q =>
    let h := meetHit r kind inst leaf prim m
    if accepts r h then
      (if r.anyhit then ({ r with best := some h }, true) else takeMeets kind inst leaf prim { r with best := some h } q)
    else takeMeets kind inst leaf prim r q

/-- What the entries of a leaf come to. -/
inductive LeafOut where
  /-- all are tested -/
  | next (r : RayState)
  /-- the ray ends -/
  | ends (r : RayState)
  /-- a malformed entry: reason and address -/
  | bad (reason addr : Nat) (r : RayState)
  /-- a Harrow's ray has a candidate at a masked triangle, entry i -/
  | cover (r : RayState) (h : Hit) (i : Nat)
  deriving DecidableEq, Repr

/-- The ray in use: world or object (R146). -/
def rayOD (r : RayState) (inst : Bool) : Option (V3 × V3) := do
  let o ← v3Of ((if inst then r.oo else r.o).map (·.toNat))
  let d ← v3Of ((if inst then r.od else r.d).map (·.toNat))
  some (o, d)

/-- Test entries of a leaf from number i on. -/
def leafFrom (kind : Nat) (inst : Bool) (leaf : Nat) (o d : V3) : Nat → Nat → List Byte → RayState → LeafOut
  | 0, _, _, r => .next r
  | n + 1, i, b, r =>
    let sz := entrySize kind
    match entryTest kind (b.take sz) o d with
    | .error w => .bad w (leaf + sz * i) r
    | .ok (ms, prim, masked) =>
      if masked && r.skipm then leafFrom kind inst leaf o d n (i + 1) (b.drop sz) r
      else
        let ms := if r.cullb && kind == 2 then ms.filter (·.front) else ms
        match masked && !r.unit, ms with
        | true, m :: _ =>
          let h := meetHit r kind inst leaf prim m
          if accepts r h then .cover r h i else leafFrom kind inst leaf o d n (i + 1) (b.drop sz) r
        | _, _ =>
          match takeMeets kind inst leaf prim r ms with
          | (r1, true) => .ends r1
          | (r1, false) => leafFrom kind inst leaf o d n (i + 1) (b.drop sz) r1

/-! ## The traversal (R146, R152, R154, R155) -/

/-- Who traces: die, job, and the segment that addresses are checked against. -/
structure RayCtx where
  /-- die -/
  die : Nat
  /-- job -/
  job : Nat
  /-- kept SG.G, of a `trace` (R306) -/
  seg : Option Seg
  /-- address of the ray block -/
  block : Nat
  /-- number of the operation -/
  op : Nat
  deriving DecidableEq, Repr

/-- Outside the kept segment, or the address space. -/
def rayOutside (c : RayCtx) (a n : Nat) : Bool :=
  2 ^ 57 ≤ a || (match c.seg with
    | some g => !inSegG g a n
    | none => false)

/-- Read for a ray. -/
def rayRead (s : State) (c : RayCtx) (a n : Nat) : State × EngRes (List Byte) :=
  if rayOutside c a n then (s, .fail a 4) else engRead s c.die c.job c.op a n

/-- Write for a ray. -/
def rayWrite (s : State) (c : RayCtx) (a : Nat) (bs : List Byte) : State × EngRes Unit :=
  if rayOutside c a bs.length then (s, .fail a 4) else engWrite s c.die c.job c.op a bs

/-- A stack entry as its 16 bytes (R153). -/
def entBytes (e : StackEnt) : List Byte :=
  natLe 8 (e.addr % 2 ^ 57 + (if e.inst then 2 ^ 57 else 0)) ++ natLe 4 e.tnear.toNat ++ natLe 4 (e.kind % 8 + e.count % 32 * 8)

/-- A stack entry from its bytes. -/
def entOf (b : List Byte) : StackEnt where
  addr := bits (recNat b 0 8) 56 0
  inst := bit (recNat b 0 8) 57
  tnear := BitVec.ofNat 32 (recNat b 8 4)
  kind := bits (recNat b 12 4) 2 0
  count := bits (recNat b 12 4) 7 3

/-- What a step of a ray comes to. -/
inductive RayOut where
  /-- goes on -/
  | more (r : RayState)
  /-- ended: RES 0 or 1 by its best hit, or 2 -/
  | ended (r : RayState) (exhausted : Bool)
  /-- met a malformed record, or an access failed: reason and address (R409) -/
  | bad (r : RayState) (reason addr : Nat)
  /-- a masked triangle met by a Harrow's ray: candidate, leaf, next entry and number of entries -/
  | cover (r : RayState) (h : Hit) (inst : Bool) (leaf i n : Nat)
  /-- waits for the host -/
  | wait
  deriving DecidableEq, Repr

/-- Push an entry; a push onto 16 held entries spills the bottom one (R154). -/
def rayPush (s : State) (c : RayCtx) (r : RayState) (e : StackEnt) : State × RayOut :=
  if r.unit && 16 ≤ r.stack.length then
    if r.cap ≤ r.spilln then (s, .ended r true)
    else match r.stack.getLast? with
      | none => (s, .more { r with stack := [e] })
      | some b =>
        let a := r.spill + 16 * r.spilln
        match rayWrite s c a (entBytes b) with
        | (s1, .ok _) => (s1, .more { r with stack := e :: r.stack.dropLast, spilln := r.spilln + 1 })
        | (s1, .fail _ _) => (s1, .bad r 7 a)
        | (s1, .wait) => (s1, .wait)
  else (s, .more { r with stack := e :: r.stack })

/-- Push entries one after another. -/
def rayPushAll (c : RayCtx) : State → RayState → List StackEnt → State × RayOut
  | s, r, [] => (s, .more r)
  | s, r, e :: q =>
    match rayPush s c r e with
    | (s1, .more r1) => rayPushAll c s1 r1 q
    | other => other

/-- Pop an entry (R154). -/
def rayPop (s : State) (c : RayCtx) (r : RayState) : State × EngRes (Option (StackEnt × RayState)) :=
  match r.stack with
  | e :: q => (s, .ok (some (e, { r with stack := q })))
  | [] =>
    if r.spilln = 0 then (s, .ok none)
    else match rayRead s c (r.spill + 16 * (r.spilln - 1)) 16 with
      | (s1, .ok b) => (s1, .ok (some (entOf b, { r with spilln := r.spilln - 1 })))
      | (s1, .fail v k) => (s1, .fail v k)
      | (s1, .wait) => (s1, .wait)

/-- Order of crossings: TNEAR, then SHARD (R155). -/
def crossLess (a b : Crossing) : Bool :=
  let x := fdecode fmtF32 a.tnear.toNat
  let y := fdecode fmtF32 b.tnear.toNat
  flt x y || (!flt y x && a.shard < b.shard)

/-- Hold a crossing among the four least (R155). -/
def holdCrossing (r : RayState) (x : Crossing) : RayState :=
  let l := insertLt crossLess x r.rem
  { r with rem := l.take 4, remOvf := r.remOvf || 4 < l.length }

/-- Record crossings, filled from the shard map (R142, R155). -/
def crossAll (c : RayCtx) (node : Nat) : State → RayState → List (Word × Nat) → State × RayOut
  | s, r, [] => (s, .more r)
  | s, r, (tn, sh) :: q =>
    if r.smap = 0 then (s, .bad r 5 node)
    else match rayRead s c (r.smap + 32 * sh) 32 with
      | (s1, .fail _ _) => (s1, .bad r 6 (r.smap + 32 * sh))
      | (s1, .wait) => (s1, .wait)
      | (s1, .ok b) =>
        let w := recNat b 0x18 8
        if bits w 15 13 ≠ 0 || bits w 63 30 ≠ 0 then (s1, .bad r 1 (r.smap + 32 * sh))
        else crossAll c node s1 (holdCrossing r ⟨tn, sh, bits w 12 0, bits w 28 16, bit w 29⟩) q

/-- The children of a node that a ray meets, by (tnear, c). -/
def metKids (r : RayState) (b : List Byte) (o d : V3) : List (Rat × NodeKid) :=
  match f32Rat r.tmin.toNat with
  | none => []
  | some t0 =>
    sortLt (fun x y => decide (x.1 < y.1) || (decide (x.1 = y.1) && decide (x.2.c < y.2.c)))
      ((nodeKids b).filterMap fun k => (enterBox o d k.lo k.hi t0 (bestT r)).map fun t => (t, k))

/-- Visit a node (R146). -/
def visitNode (s : State) (c : RayCtx) (r : RayState) (e : StackEnt) : State × RayOut :=
  match rayRead s c e.addr 128 with
  | (s1, .fail _ _) => (s1, .bad r 6 e.addr)
  | (s1, .wait) => (s1, .wait)
  | (s1, .ok b) =>
    match nodeBad b, rayOD r e.inst with
    | some w, _ => (s1, .bad r w e.addr)
    | none, none => (s1, .more r)
    | none, some (o, d) =>
      let h := metKids r b o d
      match if e.inst then h.find? (fun k => refKind k.2.ref == 5) else none with
      | some k => (s1, .bad r 3 (refAddr k.2.ref))
      | none =>
        let tn : Rat → Word := fun t => BitVec.ofNat 32 (ratBits .rd t)
        let remote := if r.unit then (h.filter fun k => refKind k.2.ref == 6).map fun k => (tn k.1, refShard k.2.ref) else []
        match crossAll c e.addr s1 r remote with
        | (s2, .more r2) =>
          rayPushAll c s2 r2 ((h.filter fun k => refKind k.2.ref ≠ 6).reverse.map fun k =>
            ⟨refAddr k.2.ref, e.inst, tn k.1, refKind k.2.ref, refCount k.2.ref⟩)
        | other => other

/-- A sum of products of F32 patterns, one of which is a NaN or an infinity, added to the value of another. -/
def dotBits (acc : FVal) : List Nat → List Nat → FVal
  | a :: r, b :: q => dotBits (fadd acc (fmul (fdecode fmtF32 a) (fdecode fmtF32 b)).1).1 r q
  | _, _ => acc

/-- A row of an instance's matrix times a vector, plus the last element for a point (R152). A row or vector with a NaN or an infinity follows
the special cases of the other sums of products (log entry 70). -/
def objectWord (b : List Byte) (v : List Word) (point : Bool) (i : Nat) : Word :=
  let m := vecAt b (16 * i)
  let w := if point then recNat b (16 * i + 12) 4 else 0
  let x := v.map (·.toNat)
  BitVec.ofNat 32 (match v3Of m, v3Of x, f32Rat w with
    | some r, some o, some t => ratBits .rn (r.dot o + t)
    | _, _, _ => (fencode fmtF32 (dotBits (fdecode fmtF32 w) m x) .rn false false).1)

/-- Enter an instance (R146, R152). An object ray with a NaN or an infinity meets nothing below (`rayOD`). INSTON stays 1 from here on, in the
record with PHASE 2 too: the manual does not say when it goes back to 0 (DESIGN CHOICE, log entry 123). -/
def visitInstance (s : State) (c : RayCtx) (r : RayState) (e : StackEnt) : State × RayOut :=
  match rayRead s c e.addr 128 with
  | (s1, .fail _ _) => (s1, .bad r 6 e.addr)
  | (s1, .wait) => (s1, .wait)
  | (s1, .ok b) =>
    if e.inst then (s1, .bad r 3 e.addr)
    else if (b.drop 0x3C).any (· ≠ 0#8) || recNat b 0x30 8 / 2 ^ 57 ≠ 0 then (s1, .bad r 1 e.addr)
    else
      rayPush s1 c
        { r with
          oo := (upFrom 0 3).map (objectWord b r.o true), od := (upFrom 0 3).map (objectWord b r.d false), instOn := true
          curInst := BitVec.ofNat 32 (recNat b 0x38 4) }
        ⟨recNat b 0x30 8, true, e.tnear, 1, 0⟩

/-- Test the entries of a leaf from number i on. They are read whole before the first of them is tested, so that one that cannot be read ends the
ray or the beam before those ahead of it count; the manual does not say when a unit reads each (DESIGN CHOICE, log entry 123). -/
def visitLeaf (s : State) (c : RayCtx) (r : RayState) (kind : Nat) (inst : Bool) (leaf i n : Nat) : State × RayOut :=
  let sz := entrySize kind
  match rayRead s c (leaf + sz * i) (sz * (n - i)) with
  | (s1, .fail _ _) => (s1, .bad r 6 leaf)
  | (s1, .wait) => (s1, .wait)
  | (s1, .ok b) =>
    match rayOD r inst with
    | none => (s1, .more r)
    | some (o, d) =>
      (s1, match leafFrom kind inst leaf o d (n - i) i b r with
        | .next r1 => .more r1
        | .ends r1 => .ended r1 false
        | .bad w a r1 => .bad r1 w a
        | .cover r1 h k => .cover r1 h inst leaf (k + 1) n)

/-- One popped entry of a ray (R146). An entry with KIND 0, 6 or 7, which no push makes, is walked as a node: the manual gives such an entry of a
record or of the spill area no meaning (DESIGN CHOICE, log entry 123). -/
def rayStep (s : State) (c : RayCtx) (r : RayState) : State × RayOut :=
  match rayPop s c r with
  | (s1, .fail _ _) => (s1, .bad r 7 (r.spill + 16 * (r.spilln - 1)))
  | (s1, .wait) => (s1, .wait)
  | (s1, .ok none) => (s1, .ended r false)
  | (s1, .ok (some (e, r1))) =>
    if flt (fdecode fmtF32 (bestT r1)) (fdecode fmtF32 e.tnear.toNat) then (s1, .more r1)
    else if e.addr % 128 ≠ 0 then (s1, .bad r1 2 e.addr)
    else
      let out := if e.kind = 5 then visitInstance s1 c r1 e
        else if 2 ≤ e.kind ∧ e.kind ≤ 4 then visitLeaf s1 c r1 e.kind e.inst e.addr 0 (e.count + 1)
        else visitNode s1 c r1 e
      out

/-- Up to n popped entries of a ray; a wait leaves the ray as it stood before the entry. Each entry reads anew. -/
def raySteps (c : RayCtx) : Nat → State → RayState → State × RayState × Option RayOut
  | 0, s, r => (s, r, none)
  | n + 1, s, r =>
    match rayStep s c r with
    | (s1, .more r1) => raySteps c n (engTaken s1 c.op) r1
    | (s1, .wait) => (s1, r, none)
    | (s1, out) => (engTaken s1 c.op, r, some out)

/-! ## Ray and hit records (R153, R155, R156) -/

/-- A crossing as its 16 bytes. -/
def crossBytes (x : Crossing) : List Byte :=
  natLe 4 x.tnear.toNat ++ natLe 4 (x.shard % 8192 + x.module % 8192 * 65536) ++ natLe 4 (x.alt % 8192 + (if x.altv then 8192 else 0)) ++ natLe 4 0

/-- A crossing from its bytes. -/
def crossOf (b : List Byte) : Crossing where
  tnear := BitVec.ofNat 32 (recNat b 0 4)
  shard := bits (recNat b 4 4) 12 0
  module := bits (recNat b 4 4) 28 16
  alt := bits (recNat b 8 4) 12 0
  altv := bit (recNat b 8 4) 13

/-- The best hit, or what stands in its place for a ray that has none: its TMAX, no instance, and 0 (R155, R348). -/
def hitOr (r : RayState) : Hit :=
  match r.best with
  | some h => h
  | none =>
    { t := r.tmax, u := 0#32, v := 0#32, prim := 0#32, inst := 0xFFFFFFFF#32, kind := 0, front := false, leaf := 0, shard := r.shard }

/-- The bytes of a ray record from 0x40 to 0x7F (R153). -/
def recordTail (r : RayState) : List Byte :=
  let h := hitOr r
  natLe 4 h.t.toNat ++ natLe 4 h.u.toNat ++ natLe 4 h.v.toNat ++ natLe 4 h.prim.toNat ++ natLe 4 h.inst.toNat ++
    natLe 4 (h.kind % 8 + (if h.front then 8 else 0) + (if r.best.isSome then 16 else 0) + r.rem.length % 8 * 32 + (if r.remOvf then 256 else 0)) ++
    natLe 8 (h.leaf % 2 ^ 57) ++ (r.oo ++ r.od).flatMap (fun w => natLe 4 w.toNat) ++ natLe 4 r.curInst.toNat ++ natLe 4 (r.shard % 8192)

/-- The control word of a ray record. -/
def recordCtl (r : RayState) (phase : Nat) : Nat :=
  r.cap + r.spilln * 2 ^ 9 + r.stack.length * 2 ^ 18 + phase * 2 ^ 23 + (if r.cullb then 2 ^ 25 else 0) + (if r.anyhit then 2 ^ 26 else 0) +
    (if r.skipm then 2 ^ 27 else 0) + (if r.instOn then 2 ^ 28 else 0)

/-- The hit record (R155). -/
def hitRecord (r : RayState) (res : Nat) : List Byte :=
  let h := hitOr r
  natLe 4 h.t.toNat ++ natLe 4 h.u.toNat ++ natLe 4 h.v.toNat ++ natLe 4 h.prim.toNat ++ natLe 4 h.inst.toNat ++
    natLe 4 (res + h.kind % 8 * 4 + (if h.front then 32 else 0) + r.rem.length % 8 * 64 + (if r.remOvf then 512 else 0)) ++
    natLe 8 (h.leaf % 2 ^ 57) ++ natLe 32 0 ++ (r.rem.flatMap crossBytes) ++ natLe (16 * (4 - r.rem.length)) 0

/-- Writes one after another, as far as they succeed. -/
def rayWriteAll (c : RayCtx) : State → List (Nat × List Byte) → State × EngRes Unit
  | s, [] => (s, .ok ())
  | s, (a, b) :: q =>
    match rayWrite s c a b with
    | (s1, .ok _) => rayWriteAll c s1 q
    | other => other

/-- Write a ray record with its phase (R153, R156). -/
def writeRayRecord (s : State) (c : RayCtx) (r : RayState) (phase : Nat) : State × EngRes Unit :=
  rayWriteAll c s ((c.block + 0x30, natLe 8 (recordCtl r phase)) :: (c.block + 0x40, recordTail r ++ r.stack.reverse.flatMap entBytes) ::
    (if r.rem.isEmpty then [] else [(c.block + 0x180, r.rem.flatMap crossBytes)]))

/-- A ray record that breaks its limits (R409, reason 8). -/
def rayRecordBad (b : List Byte) : Bool :=
  let c := recNat b 0x30 8
  let w := recNat b 0x54 4
  let depth := bits c 22 18
  bits c 24 23 == 3 || 256 < bits c 8 0 || 16 < depth || bits c 8 0 < bits c 17 9 || 4 < bits w 7 5 || bits c 63 29 ≠ 0 || bits w 31 9 ≠ 0 ||
    recNat b 0x7C 4 / 8192 ≠ 0 || [0x20, 0x28, 0x38, 0x58].any (fun o => recNat b o 8 / 2 ^ 57 ≠ 0) ||
    (bits c 24 23 == 1 &&
      ((upFrom 0 depth).any (fun i => bits (recNat b (0x80 + 16 * i) 8) 63 58 ≠ 0 || recNat b (0x80 + 16 * i + 13) 3 ≠ 0) ||
        (upFrom 0 (bits w 7 5)).any fun j => bits (recNat b (0x180 + 16 * j + 4) 4) 15 13 ≠ 0 || bits (recNat b (0x180 + 16 * j + 4) 4) 31 29 ≠ 0 ||
          recNat b (0x180 + 16 * j + 8) 8 / 2 ^ 14 ≠ 0))

/-- The best hit of a ray record. -/
def recordHit (b : List Byte) : Hit :=
  let w := recNat b 0x54 4
  { t := BitVec.ofNat 32 (recNat b 0x40 4), u := BitVec.ofNat 32 (recNat b 0x44 4), v := BitVec.ofNat 32 (recNat b 0x48 4)
    prim := BitVec.ofNat 32 (recNat b 0x4C 4), inst := BitVec.ofNat 32 (recNat b 0x50 4), kind := bits w 2 0, front := bit w 3
    leaf := recNat b 0x58 8 % 2 ^ 57, shard := recNat b 0x7C 4 % 8192 }

/-- A ray from its record (R146, R153, R156). A ray with a NaN, or with an infinite O, D or TMIN, meets nothing. -/
def rayOf (b : List Byte) : RayState :=
  let c := recNat b 0x30 8
  let w := recNat b 0x54 4
  let words : Nat → Nat → List Word := fun off n => (upFrom 0 n).map fun i => BitVec.ofNat 32 (recNat b (off + 4 * i) 4)
  let fresh := bits c 24 23 ≠ 1
  let o := words 0 3
  let d := words 0x10 3
  let tmin := recNat b 0xC 4
  let sound := (v3Of (o.map (·.toNat))).isSome && (v3Of (d.map (·.toNat))).isSome && (f32Rat tmin).isSome && !fisNan (fdecode fmtF32 (recNat b 0x1C 4))
  let stack := if fresh then [⟨recNat b 0x20 8 % 2 ^ 57, false, BitVec.ofNat 32 tmin, 1, 0⟩]
    else ((upFrom 0 (bits c 22 18)).map fun i => entOf ((b.drop (0x80 + 16 * i)).take 16)).reverse
  { o := o, d := d, tmin := BitVec.ofNat 32 tmin, tmax := BitVec.ofNat 32 (recNat b 0x1C 4)
    oo := if fresh then [0#32, 0#32, 0#32] else words 0x60 3, od := if fresh then [0#32, 0#32, 0#32] else words 0x6C 3
    instOn := !fresh && bit c 28, curInst := if fresh then 0#32 else BitVec.ofNat 32 (recNat b 0x78 4)
    best := if !fresh && bit w 4 then some (recordHit b) else none
    stack := if sound then stack else []
    rem := if fresh then [] else (upFrom 0 (bits w 7 5)).map fun j => crossOf ((b.drop (0x180 + 16 * j)).take 16)
    remOvf := !fresh && bit w 8, shard := recNat b 0x7C 4 % 8192, smap := recNat b 0x38 8 % 2 ^ 57, spill := recNat b 0x28 8 % 2 ^ 57
    cap := bits c 8 0, spilln := if fresh || !sound then 0 else bits c 17 9, unit := true, cullb := bit c 25, anyhit := bit c 26, skipm := bit c 27 }

/-! ## `trace` and its steps (R306, R409) -/

/-- Context of an accepted ray. -/
def rayCtx (o : RayOp) : RayCtx := ⟨dieOf o.core, o.job, some o.segG, o.block, o.id⟩

/-- The record of a ray's failure (R409). -/
def rayFault (s : State) (o : RayOp) (reason addr : Nat) (held : Bool) : State :=
  raiseAsync s 9 1 o.job (dieOf o.core) (o.core % 128) o.pc.toNat addr (if held then some (o.handle.toNat, o.amount) else none) reason 0

/-- A ray leaves the unit. -/
def dropRay (s : State) (o : RayOp) : State :=
  wakeRoom (engEnded { s with rays := s.rays.filter fun q => q.id ≠ o.id } o.id) (fun t => t.core == o.core) .rays

/-- Change a ray. -/
def modRay (s : State) (id : Nat) (f : RayOp → RayOp) : State := { s with rays := s.rays.map fun q => if q.id == id then f q else q }

/-- The amount of a ray is added (R306). -/
def addRay (s : State) (o : RayOp) : State :=
  engineAdd (dropRay s o) (dieOf o.core) (o.core % 128) o.job o.pc.toNat o.handle.toNat o.amount

/-- A write of a ray's records fails: its addition is withheld. The record is the hit record or the ray record that holds the address; a malformed
record that the ray has met before keeps its place (R409). -/
def failRay (s : State) (o : RayOp) (bad : Option (Nat × Nat)) (va : Nat) : State :=
  let f := bad.getD (6, if o.block + 0x1C0 ≤ va then o.block + 0x1C0 else o.block)
  rayFault (dropRay s o) o f.1 f.2 true

/-- Send the records of a ray that has ended with a state and a RES: the hit record, and the ray record with PHASE 2. -/
def sendRay (s : State) (o : RayOp) (r : RayState) (res : Nat) (bad : Option (Nat × Nat)) : State :=
  let c := rayCtx o
  match (match rayWriteAll c s [(c.block + 0x1C0, hitRecord r res)] with
    | (s1, .ok _) => writeRayRecord s1 c r 2
    | other => other) with
  | (s1, .wait) => s1
  | (s1, .ok _) => modRay s1 o.id fun q => { q with written := true }
  | (s1, .fail va _) => failRay s1 o bad va

/-- A ray ends; its end stands whatever its records wait for (R154, R155, R409). DEPTH and SPILLN of the record with PHASE 2 are 0 also where
entries are left: the manual does not say (DESIGN CHOICE, log entry 123). -/
def finishRay (s : State) (o : RayOp) (r0 : RayState) (res : Nat) (bad : Option (Nat × Nat)) : State :=
  let t := fdecode fmtF32 (bestT r0)
  let r := { r0 with stack := [], spilln := 0, rem := r0.rem.filter fun x => fle (fdecode fmtF32 x.tnear.toNat) t }
  sendRay (modRay s o.id fun q => { q with st := some r, fin := some (res, bad), written := false }) o r res bad

/-- A spill write of a ray has not reached its home (R399): the address of the entry. -/
def spillLost (s : State) (o : RayOp) : Option Nat :=
  (s.engFails.find? fun f => f.op == o.id && f.page.isNone && !(o.block ≤ f.va && f.va < o.block + 576)).map fun f => f.va / 16 * 16

/-- A ray whose records have set out: its amount is added when they are in place (R155, R306, R409). -/
def endRay (s : State) (o : RayOp) (r : RayState) (bad : Option (Nat × Nat)) : State :=
  match engDone s o.id, spillLost s o with
  | .wait, _ => s
  | .ok _, _ => addRay (match bad with
    | some (reason, addr) => rayFault s o reason addr false
    | none => s) o
  | .fail _ _, some a => finishRay (engEnded s o.id) o r 3 (some (bad.getD (7, a)))
  | .fail va _, none => failRay s o bad va

/-- RES of a ray that ends (R155). -/
def resOf (r : RayState) (exhausted : Bool) : Nat := if exhausted then 2 else if r.best.isSome then 1 else 0

/-- A ray goes on by some entries, and ends when its stack is empty. -/
def goOn (s : State) (o : RayOp) (r : RayState) (n : Nat) : State :=
  match spillLost s o with
  | some a => finishRay (engEnded s o.id) o r 3 (some (7, a))
  | none =>
    match raySteps (rayCtx o) n s r with
    | (s1, _, some (.ended r1 x)) => finishRay s1 o r1 (resOf r1 x) none
    | (s1, _, some (.bad r1 w a)) => finishRay s1 o r1 3 (some (w, a))
    | (s1, r1, _) => modRay s1 o.id fun q => { q with st := some r1 }

/-- A ray whose record cannot be traced ends with RES 3 and PHASE 2 in its control word `ctl`, the other bits as they are given (R409). -/
def refuseRay (s : State) (o : RayOp) (r : RayState) (ctl reason : Nat) : State :=
  let c := rayCtx o
  let bad := (reason, o.block)
  match rayWriteAll c s [(c.block + 0x1C0, hitRecord r 3), (c.block + 0x30, natLe 8 (setBits ctl 24 23 2))] with
  | (s1, .ok _) => modRay (engTaken s1 o.id) o.id fun q => { q with st := some r, fin := some (3, some bad), written := true }
  | (s1, .fail va _) => failRay s1 o (some bad) va
  | (s1, .wait) => s1

/-- A record that cannot be read: what the unit writes of TMAX, and beside PHASE of the control word, is a free value (R409; log entry 122). -/
def unreadRay (s : State) (o : RayOp) : State :=
  let (i, s1) := takeFree s
  let (j, s2) := takeFree s1
  let (k, s3) := takeFree s2
  refuseRay s3 o { rayOf [] with tmax := Config.freeWord i, stack := [] } ((Config.freeWord j).toNat + 2 ^ 32 * (Config.freeWord k).toNat) 6

/-- The unit reads a ray's record and starts or continues it (R306). -/
def startRay (s : State) (o : RayOp) (n : Nat) : State :=
  match engDone s o.id with
  | .wait => s
  | .fail va _ => failRay s o none va
  | .ok _ =>
    if entryBad s o.id then rayFault (dropRay s o) o 6 o.block true
    else match rayRead s (rayCtx o) o.block 448 with
    | (s1, .wait) => s1
    | (s1, .fail _ _) => unreadRay s1 o
    | (s1, .ok b) =>
      let ctl := recNat b 0x30 8
      if bits ctl 24 23 = 2 then addRay s1 o
      else if rayRecordBad b then refuseRay s1 o { rayOf b with best := some (recordHit b), rem := [] } ctl 8
      else goOn (engTaken s1 o.id) o (rayOf b) n

/-- Whether the thread of an operation is evicted, so that its drained rays rest (R156). -/
def threadAway (s : State) (uid : Nat) : Bool :=
  match findThread s uid with
  | some t => !holdsSlot s t
  | none => false

/-- A number of entries that no rule fixes. -/
def takeSteps (s : State) : Nat × State := (1 + (Config.freeWord s.free).toNat % 65536, (takeFree s).2)

/-- Drain rays that have started and not ended: their records are written with PHASE 1, and they continue from there (R156). A ray whose record
waits for the host stays in the unit until it is written. -/
def drainRays (s : State) : List RayOp → State
  | [] => s
  | o :: q =>
    match o.st, o.fin with
    | some r, none =>
      (match writeRayRecord s (rayCtx o) r 1 with
      | (s1, .ok _) => drainRays (modRay (engTaken s1 o.id) o.id fun p => { p with st := none }) q
      | (s1, .fail va _) => drainRays (failRay s1 o none va) q
      | (s1, .wait) => drainRays s1 q)
    | _, _ => drainRays s q

/-- RAY_COMPLETE: a ray of a traversal unit goes on, and when it ends its records are written and its amount is added (R306). It is
held while its job is halted, and while its thread is evicted; a drain of it that waited for the host is tried again (R156, R203). -/
def execRayComplete (id : Nat) (s : State) : Host.Outcome State Fault Refusal :=
  issued (match s.rays.find? fun o => o.id == id with
    | none => s
    | some o =>
      if coreHeld s o.core o.job o.uid o.id || threadAway s o.uid then drainRays s [o]
      else if engineHolds s o.core o.uid o.id then s
      else
        match o.st, o.fin with
        | some r, some (res, bad) => if o.written then endRay s o r bad else sendRay s o r res bad
        | some r, none => let (n, s1) := takeSteps s; goOn s1 o r n
        | none, _ => let (n, s1) := takeSteps s; startRay s1 o n)

/-- `trace` in a thread (R306). -/
def traceThread (d a amount : Nat) (s : State) (i : Issue) (t : Thread) : State × Out :=
  let h := vPair t a
  let block := vPair t d
  match handleTrap s t h <|> extentTrap s t false block 576 <|> (if block % 64 ≠ 0 then some (trap4 5 64 block) else none) with
  | some f => (s, .trap f)
  | none =>
    if 512 ≤ (s.rays.filter fun o => o.core == t.core).length then (s, .wait (.room .rays))
    else
      ({ s with
        rays := s.rays ++ [⟨s.fresh, t.core, t.uid, t.job, i.pc, block, t.segG, BitVec.ofNat 64 h, amount, none, none, false⟩]
        fresh := s.fresh + 1 }, .eff {})

/-- What `trace` names. -/
def traceNames (d a : Nat) (b : Option Nat) (t : Thread) : Names :=
  let n := engNames d a b 2 t
  { n with limits := (d % 2 == 1, 0) :: n.limits }

/-- TRACE: hands a ray to the traversal unit (R306). -/
def execTrace (h : Hdr) (d a b : BitVec 7) (s : State) : Host.Outcome State Fault Refusal :=
  issued (perThread { f := memF h 52#7 d a b } (traceNames d.toNat a.toNat (some b.toNat))
    (fun s i t => traceThread d.toNat a.toNat (vBits t b.toNat) s i t) s)

/-- TRACE with the amount in the literal (R306). -/
def execTraceLit (h : Hdr) (d a : BitVec 7) (lit : Word) (s : State) : Host.Outcome State Fault Refusal :=
  issued (perThread { f := memF h 53#7 d a 0#7 } (traceNames d.toNat a.toNat none) (traceThread d.toNat a.toNat lit.toNat) s)

/-- Offset in the hit record and tags of a part (R309). -/
def hitPart (p : Nat) : Nat × List (BitVec 4) :=
  if p = 0 then (0, [3#4, 3#4, 3#4, 2#4, 2#4, 2#4, 2#4, 2#4])
  else (0x20 + 0x20 * p, [3#4, 2#4, 2#4, 2#4, 3#4, 2#4, 2#4, 2#4])

/-- `hitget` in a thread (R309). -/
def hitgetThread (d a p : Nat) (s : State) (i : Issue) (t : Thread) : State × Out :=
  let block := vPair t a
  let (off, tags) := hitPart p
  let at' := (block + 0x1C0 + off) % 2 ^ 64
  match globalPre t at' 32 1 false with
  | some f => (s, .trap f)
  | none =>
    if block % 64 ≠ 0 then (s, .trap (trap4 5 64 block))
    else match globalAt s t at' 32 32 false with
      | (s1, .at k g) => loaded (loadOrTrap s1 t i.pc at' k 32 g (.regs t.uid (t.wb + d) tags))
      | (s1, .out o) => (s1, o)

/-- HITGET: loads a part of a hit record (R309). -/
def execHitget (h : Hdr) (d a : BitVec 7) (p : BitVec 2) (s : State) : Host.Outcome State Fault Refusal :=
  issued (perThread { f := memF h 56#7 d a (p.setWidth 7) }
    (fun _ =>
      { vr := [(a.toNat, 2)], vw := [(d.toNat, 8)], tags := tagsOf 1 a.toNat 2 (some tagsInt)
        limits := [(120 < d.toNat, 0), (a.toNat % 2 == 1, 1), (p = 3#2, 2)] })
    (hitgetThread d.toNat a.toNat p.toNat) s)

end Sys2Proof.Machine
end

