-- ==== Sys2Proof/Machine/Beam.lean ====
section
/-! DEFINITION. Primary visibility (07 R158 to R164): `beam` (13 R307), the Harrow's walk and the coverage unit, with their steps
BEAM_START and COVERAGE_RESOLVE; texture sampling: `tex` (07 R165, R166; 13 R310); faults 20 R409, R410. -/

namespace Sys2Proof.Machine

/-! ## The view record (R158, R410) -/

/-- What a view record says. -/
structure View where
  /-- EYE as its F32 patterns -/
  eyeBits : List Nat
  /-- ROOT -/
  root : Nat
  /-- VBASE -/
  vbase : Nat
  /-- WIDTH -/
  width : Nat
  /-- HEIGHT -/
  height : Nat
  /-- LOG2S -/
  log2s : Nat
  /-- SHARD -/
  shard : Nat
  /-- COVER -/
  cover : Nat
  /-- OWN -/
  own : Nat
  /-- EYE, F, DU, DV; none when one has a NaN or an infinity -/
  vecs : Option (V3 × V3 × V3 × V3)

/-- The fields of a view record. -/
def viewOf (b : List Byte) : View where
  eyeBits := vecAt b 0
  root := recNat b 0x40 8 % 2 ^ 57
  vbase := recNat b 0x48 8 % 2 ^ 57
  width := recNat b 0x50 2
  height := recNat b 0x52 2
  log2s := bits (recNat b 0x50 8) 34 32
  shard := bits (recNat b 0x50 8) 47 35
  cover := recNat b 0x58 8 % 2 ^ 57
  own := recNat b 0x60 6
  vecs := (v3Of (vecAt b 0)).bind fun e => (v3Of (vecAt b 0x10)).bind fun f => (v3Of (vecAt b 0x20)).bind fun u =>
    (v3Of (vecAt b 0x30)).map fun v => (e, f, u, v)

/-- Why a view record is rejected (R410). -/
def viewBad (b : List Byte) : Option Nat :=
  if 4 < bits (recNat b 0x50 8) 34 32 then some 0
  else if recNat b 0x50 2 = 0 || recNat b 0x52 2 = 0 then some 1
  else if [0x0C, 0x1C, 0x2C, 0x3C].any (fun o => recNat b o 4 ≠ 0) || [0x40, 0x48, 0x58].any (fun o => recNat b o 8 / 2 ^ 57 ≠ 0) ||
      recNat b 0x56 2 ≠ 0 || recNat b 0x66 2 ≠ 0 || (b.drop 0x68).any (· ≠ 0#8) then some 2
  else none

/-- The LOG2S low bits of k in reverse order. -/
def bitRev : Nat → Nat → Nat
  | 0, _ => 0
  | n + 1, k => (k % 2) * 2 ^ n + bitRev n (k / 2)

/-- A sample of a tile that lies in the image. -/
structure Samp where
  /-- pixel x -/
  x : Nat
  /-- pixel y -/
  y : Nat
  /-- number within the pixel -/
  k : Nat
  /-- address -/
  addr : Nat
  deriving DecidableEq, Repr

/-- The direction of a sample's ray (R158): one rounding for each component. -/
def sampDir (v : View) (p : Samp) : Option V3 :=
  v.vecs.bind fun (_, f, du, dv) =>
    let n : Rat := (2 ^ v.log2s : Nat)
    let sx := ((bitRev v.log2s p.k : Nat) + mkRat 1 2) / n
    let sy := ((p.k : Nat) + mkRat 1 2) / n
    let a := (p.x : Nat) + sx - mkRat v.width 2
    let b := (p.y : Nat) + sy - mkRat v.height 2
    rnd3 (f.x + a * du.x + b * dv.x) (f.y + a * du.y + b * dv.y) (f.z + a * du.z + b * dv.z)

/-- The samples of a tile within the image, by ascending address (R161). -/
def tileSamples (v : View) (tx ty : Nat) : List Samp :=
  let n := 2 ^ v.log2s
  let tile := (ty * ((v.width + 7) / 8) + tx) * 64
  (upFrom 0 64).flatMap fun p =>
    let x := 8 * tx + p % 8
    let y := 8 * ty + p / 8
    if x < v.width && y < v.height then (upFrom 0 n).map fun k => ⟨x, y, k, v.vbase + (tile + p) * (32 * n) + 32 * k⟩ else []

/-- The tile's slot and its owner (R159). -/
def tileOwner (v : View) (tx ty : Nat) : Nat := v.own / 16 ^ (tx % 4 + 4 * (ty % 3)) % 16

/-! ## Stored samples (R161, R163) -/

/-- A stored sample as the best hit of its ray. -/
def sampleHit (b : List Byte) : Hit where
  t := BitVec.ofNat 32 (recNat b 0 4)
  prim := BitVec.ofNat 32 (recNat b 4 4)
  u := BitVec.ofNat 32 (recNat b 8 4)
  v := BitVec.ofNat 32 (recNat b 12 4)
  inst := BitVec.ofNat 32 (recNat b 16 4)
  shard := recNat b 20 2 % 8192
  kind := recNat b 20 2 / 8192
  front := false
  leaf := 0

/-- The bytes of a sample. -/
def hitSample (h : Hit) : List Byte :=
  natLe 4 h.t.toNat ++ natLe 4 h.prim.toNat ++ natLe 4 h.u.toNat ++ natLe 4 h.v.toNat ++ natLe 4 h.inst.toNat ++
    natLe 4 (h.shard % 8192 + h.kind % 8 * 8192) ++ natLe 8 0

/-- The greater of two depths. -/
def depthMax (a b : Word) : Word :=
  let x := fdecode fmtF32 a.toNat
  let y := fdecode fmtF32 b.toNat
  if fisNan x then b else if fisNan y then a else if flt x y then b else a

/-- HZ of stored samples: the greatest depth, −∞ when there is none (R160). -/
def hzOf (l : List Hit) : Word := l.foldl (fun m h => depthMax m h.t) 0xFF800000#32

/-- The engine's context of a beam; its segments were checked at issue (R94). -/
def beamCtx (b : BeamOp) : RayCtx := ⟨b.harrow / 8, b.job, none, b.view, b.id⟩

/-- Read samples. -/
def readSamples (c : RayCtx) : State → List Samp → List (Samp × Hit) → State × EngRes (List (Samp × Hit))
  | s, [], acc => (s, .ok acc.reverse)
  | s, p :: r, acc =>
    match rayRead s c p.addr 32 with
    | (s1, .ok b) => readSamples c s1 r ((p, sampleHit b) :: acc)
    | (s1, .fail _ k) => (s1, .fail p.addr k)
    | (s1, .wait) => (s1, .wait)

/-- Addresses, places and bytes of samples that are about to be written. -/
def samplePlaces (c : RayCtx) : State → List (Samp × Hit) → List (Nat × List (Nat × Nat) × List Byte) →
    State × EngRes (List (Nat × List (Nat × Nat) × List Byte))
  | s, [], acc => (s, .ok acc.reverse)
  | s, (p, h) :: r, acc =>
    match engPlaces s c.die c.job c.op (pagePieces 2 p.addr 32) [] with
    | (s1, .ok ps) => samplePlaces c s1 r ((p.addr, ps, hitSample h) :: acc)
    | (s1, .fail _ k) => (s1, .fail p.addr k)
    | (s1, .wait) => (s1, .wait)

/-- Send samples to their homes. Each lies in one line, and ends whole as one write leaves it (R307). -/
def putSamples (c : RayCtx) : State → List (Nat × List (Nat × Nat) × List Byte) → State
  | s, [] => s
  | s, (a, ps, b) :: r => putSamples c (sendPackets s ((placePackets s c.die c.job c.op a ps b).map fun p => { p with units := ps })) r

/-- Replace stored samples by hits. -/
def replaceHits (stored new : List (Samp × Hit)) : List Hit :=
  stored.map fun p => match new.find? (·.1 == p.1) with
    | some q => q.2
    | none => p.2

/-- What a piece of a beam's work comes to. -/
inductive BeamOut where
  /-- goes on -/
  | go (b : BeamOp)
  /-- met a malformed record, or an access failed: reason and address (R409) -/
  | bad (reason addr : Nat)
  /-- waits for the host -/
  | wait
  deriving DecidableEq, Repr

/-- Write accepted hits of a tile whose stored samples are known, and recompute HZ (R161, R163). -/
def writeHits (s : State) (b : BeamOp) (stored new : List (Samp × Hit)) : State × BeamOut :=
  if new.isEmpty then (s, .go b)
  else match samplePlaces (beamCtx b) s new [] with
    | (s1, .ok ps) => (putSamples (beamCtx b) s1 ps, .go { b with hz := hzOf (replaceHits stored new) })
    | (s1, .fail v _) => (s1, .bad 6 v)
    | (s1, .wait) => (s1, .wait)

/-! ## The beam's own tests (R160, R164) -/

/-- The eight corners of a box. -/
def corners (lo hi : V3) : List V3 :=
  (upFrom 0 8).map fun i => ⟨if bit i 0 then hi.x else lo.x, if bit i 1 then hi.y else lo.y, if bit i 2 then hi.z else lo.z⟩

/-- Cross product. -/
def V3.cross (a b : V3) : V3 := ⟨a.y * b.z - a.z * b.y, a.z * b.x - a.x * b.z, a.x * b.y - a.y * b.x⟩

/-- F plus a multiple of a step. -/
def V3.along (f d : V3) (k : Rat) : V3 := ⟨f.x + k * d.x, f.y + k * d.y, f.z + k * d.z⟩

/-- The normals of the four planes of a tile, turned outwards (R160). -/
def tilePlanes (v : View) (f du dv : V3) (tx ty : Nat) : List V3 :=
  let turn : V3 → V3 → Bool → V3 := fun n step up =>
    let g := n.dot step
    let neg : V3 := ⟨-n.x, -n.y, -n.z⟩
    if g = 0 then ⟨0, 0, 0⟩ else if (0 < g) == up then n else neg
  let xp : Nat → Bool → V3 := fun x up => turn ((f.along du ((x : Nat) - mkRat v.width 2)).cross dv) du up
  let yp : Nat → Bool → V3 := fun y up => turn ((f.along dv ((y : Nat) - mkRat v.height 2)).cross du) dv up
  [xp (8 * tx) false, xp (8 * tx + 8) true, yp (8 * ty) false, yp (8 * ty + 8) true]

/-- The least of a list of values, 0 for none. -/
def leastOf : List Rat → Rat
  | [] => 0
  | x :: r => r.foldl min x

/-- Near depth of a box (R160). -/
def nearDepth (eye f lo hi : V3) : Rat := leastOf ((corners lo hi).map fun q => (q.sub eye).dot f)

/-- A value is above HZ. -/
def aboveHz (hz : Word) (x : Rat) : Bool :=
  match fdecode fmtF32 hz.toNat with
  | .nan => false
  | .inf neg => neg
  | .fin neg m e => decide (ratOf (if neg then -(m : Int) else m) e < x)

/-- A child is culled (R160). -/
def culled (v : View) (hz : Word) (tx ty : Nat) (k : NodeKid) : Bool :=
  match v.vecs with
  | none => true
  | some (eye, f, du, dv) =>
    let cs := (corners k.lo k.hi).map (·.sub eye)
    (tilePlanes v f du dv tx ty).any (fun n => cs.all fun q => decide (0 < n.dot q)) || cs.all fun q => aboveHz hz (q.dot f)

/-- The ray of a sample, with its stored sample as the best hit. -/
def sampleRay (v : View) (d : V3) (stored : Hit) (stack : List StackEnt) : RayState :=
  let w : List Nat → List Word := fun l => l.map (BitVec.ofNat 32)
  { o := w v.eyeBits, d := [d.x, d.y, d.z].map fun x => BitVec.ofNat 32 (ratBits .rn x), tmin := 0#32, tmax := 0x7F800000#32
    oo := [0#32, 0#32, 0#32], od := [0#32, 0#32, 0#32], instOn := false, curInst := 0#32, best := some stored, stack := stack
    rem := [], remOvf := false, shard := v.shard, smap := 0, spill := 0, cap := 0, spilln := 0, unit := false
    cullb := false, anyhit := false, skipm := false }

/-- The candidate of a triangle on a sample's ray, when it is accepted. -/
def triOnSample (v : View) (leaf prim : Nat) (b : List Byte) (p : Samp) (stored : Hit) : Option Hit :=
  match v.vecs, sampDir v p with
  | some (eye, _, _, _), some d =>
    (match entryTest 2 b eye d with
    | .ok (m :: _, _, _) =>
      let r := sampleRay v d stored []
      let h := meetHit r 2 false leaf prim m
      if accepts r h then some h else none
    | _ => none)
  | _, _ => none

/-! ## The walk (R159 to R164) -/

/-- Put work at the head of a beam's list. -/
def BeamOp.todo (b : BeamOp) (w : List BeamWork) : BeamOp := { b with work := w ++ b.work }

/-- Wait for the answers of masked candidates (R162). -/
def awaitCover (s : State) (b : BeamOp) (new : List (Samp × Hit)) : State × BeamOut :=
  let cs := ((upFrom s.fresh new.length).zip new).map fun (i, p, h) =>
    ({ id := i, x := p.x, y := p.y, k := p.k, addr := p.addr, hit := h, answer := none, placed := false } : Cand)
  ({ s with fresh := s.fresh + new.length }, .go { b with cands := cs })

/-- Visit a node: its children by (near depth, c) (R160). -/
def beamNode (s : State) (b : BeamOp) (v : View) (addr : Nat) : State × BeamOut :=
  if addr % 128 ≠ 0 then (s, .bad 2 addr)
  else match rayRead s (beamCtx b) addr 128 with
    | (s1, .fail _ _) => (s1, .bad 6 addr)
    | (s1, .wait) => (s1, .wait)
    | (s1, .ok bytes) =>
      match nodeBad bytes, v.vecs with
      | some w, _ => (s1, .bad w addr)
      | none, none => (s1, .go b)
      | none, some (eye, f, _, _) =>
        let ks := (nodeKids bytes).map fun k => (nearDepth eye f k.lo k.hi, k.c)
        let order := sortLt (fun x y => decide (x.1 < y.1) || (decide (x.1 = y.1) && decide (x.2 < y.2))) ks
        (s1, .go (b.todo (order.map fun p => .child bytes p.2 addr)))

/-- Visit a child that is not culled (R160, R161, R164). -/
def beamChild (s : State) (b : BeamOp) (v : View) (bytes : List Byte) (c addr : Nat) : State × BeamOut :=
  match kidAt bytes c with
  | none => (s, .go b)
  | some k =>
    if culled v b.hz b.cur.1 b.cur.2 k then (s, .go b)
    else
      let kind := refKind k.ref
      (s, .go (if kind = 1 then b.todo [.node (refAddr k.ref)]
        else if kind = 2 then b.todo [.tri (refAddr k.ref) 0 (refCount k.ref + 1)]
        else if kind = 6 then b
        else b.todo [.split bytes c addr 0]))

/-- Test an entry of a triangle leaf on every sample of the tile (R161, R162). -/
def beamTri (s : State) (b : BeamOp) (v : View) (leaf i : Nat) : State × BeamOut :=
  let c := beamCtx b
  let at' := leaf + 48 * i
  match rayRead s c at' 48 with
  | (s1, .fail _ _) => (s1, .bad 6 at')
  | (s1, .wait) => (s1, .wait)
  | (s1, .ok bytes) =>
    match entryTest 2 bytes ⟨0, 0, 0⟩ ⟨0, 0, 1⟩ with
    | .error w => (s1, .bad w at')
    | .ok (_, prim, masked) =>
      match readSamples c s1 (tileSamples v b.cur.1 b.cur.2) [] with
      | (s2, .fail a _) => (s2, .bad 6 a)
      | (s2, .wait) => (s2, .wait)
      | (s2, .ok stored) =>
        let new := stored.filterMap fun p => (triOnSample v leaf prim bytes p.1 p.2).map fun h => (p.1, h)
        if masked then (if new.isEmpty then (s2, .go b) else awaitCover s2 b new) else writeHits s2 b stored new

/-- A sample starts on its way through a child alone (R164). -/
def beamSplit (s : State) (b : BeamOp) (v : View) (bytes : List Byte) (c addr j : Nat) : State × BeamOut :=
  match (tileSamples v b.cur.1 b.cur.2)[j]?, kidAt bytes c with
  | some p, some k =>
    (match rayRead s (beamCtx b) p.addr 32 with
    | (s1, .fail _ _) => (s1, .bad 6 p.addr)
    | (s1, .wait) => (s1, .wait)
    | (s1, .ok sb) =>
      let stored := sampleHit sb
      let rest : BeamWork := .split bytes c addr (j + 1)
      match v.vecs, sampDir v p with
      | some (eye, _, _, _), some d =>
        (match enterBox eye d k.lo k.hi 0 stored.t.toNat with
        | some t =>
          let e : StackEnt := ⟨refAddr k.ref, false, BitVec.ofNat 32 (ratBits .rd t), refKind k.ref, refCount k.ref⟩
          (s1, .go (b.todo [.ray p.x p.y p.k (sampleRay v d stored [e]) false 0 0 0, rest]))
        | none => (s1, .go (b.todo [rest])))
      | _, _ => (s1, .go (b.todo [rest])))
  | _, _ => (s, .go b)

/-- Hits that a sample's ray has accepted are written (R164). -/
def keepBest (s : State) (b : BeamOp) (v : View) (p : Samp) (before after : RayState) : State × BeamOut :=
  match after.best with
  | none => (s, .go b)
  | some h =>
    if before.best = after.best then (s, .go b)
    else match readSamples (beamCtx b) s (tileSamples v b.cur.1 b.cur.2) [] with
      | (s1, .ok stored) => writeHits s1 b stored [(p, h)]
      | (s1, .fail a _) => (s1, .bad 6 a)
      | (s1, .wait) => (s1, .wait)

/-- A sample's ray goes on by one entry; what it has accepted stands also where it then meets a malformed record (R164, R409). -/
def beamRay (s : State) (b : BeamOp) (v : View) (x y k : Nat) (r : RayState) (inst : Bool) (leaf i n : Nat) : State × BeamOut :=
  let c := beamCtx b
  match (tileSamples v b.cur.1 b.cur.2).find? fun p => p.x == x && p.y == y && p.k == k with
  | none => (s, .go b)
  | some p =>
    let (s1, out) := if i < n then visitLeaf s c r 2 inst leaf i n else rayStep s c r
    match out with
    | .wait => (s1, .wait)
    | .bad r1 w a =>
      (match keepBest s1 b v p r r1 with
      | (s2, .go _) => (s2, .bad w a)
      | other => other)
    | .ended r1 _ => keepBest s1 b v p r r1
    | .more r1 =>
      (match keepBest s1 b v p r r1 with
      | (s2, .go b1) => (s2, .go (b1.todo [.ray x y k r1 false 0 0 0]))
      | other => other)
    | .cover r1 h inst1 leaf1 i1 n1 =>
      match keepBest s1 b v p r r1 with
      | (s2, .go b1) => awaitCover s2 (b1.todo [.ray x y k r1 inst1 leaf1 i1 n1]) [(p, h)]
      | other => other

/-- Take the next tile of the rectangle (R159, R160). Where EYE, F, DU or DV holds a NaN or an infinity, no ray of the beam meets anything: the tiles
are passed over and ROOT is not read, so that a malformed one is not found (DESIGN CHOICE, log entry 124). -/
def beamTile (s : State) (b : BeamOp) (v : View) : State × BeamOut :=
  let (tx, ty) := b.next
  let after := if tx < b.tx1 then (tx + 1, ty) else (b.tx0, ty + 1)
  if tileOwner v tx ty ≠ b.harrow / 8 || v.vecs.isNone then (s, .go { b with next := after })
  else match readSamples (beamCtx b) s (tileSamples v tx ty) [] with
    | (s1, .ok stored) => (s1, .go { b with next := after, cur := (tx, ty), hz := hzOf (stored.map (·.2)), work := [.node v.root] })
    | (s1, .fail a _) => (s1, .bad 6 a)
    | (s1, .wait) => (s1, .wait)

/-- One piece of a beam's work. -/
def beamStep (s : State) (b : BeamOp) (v : View) : State × BeamOut :=
  match b.work with
  | [] => beamTile s b v
  | w :: r =>
    let q := { b with work := r }
    match w with
    | .node a => beamNode s q v a
    | .child bytes c a => beamChild s q v bytes c a
    | .tri leaf i n => if i < n then beamTri s (q.todo (if i + 1 < n then [.tri leaf (i + 1) n] else [])) v leaf i else (s, .go q)
    | .split bytes c a j => beamSplit s q v bytes c a j
    | .ray x y k r inst leaf i n => beamRay s q v x y k r inst leaf i n

/-- Change a beam. -/
def setBeam (s : State) (b : BeamOp) : State := { s with beams := s.beams.map fun q => if q.id == b.id then b else q }

/-- A beam leaves its Harrow. -/
def dropBeam (s : State) (b : BeamOp) : State :=
  freeLaunches (wakeRoom (engEnded { s with beams := s.beams.filter fun q => q.id ≠ b.id } b.id)
    (fun t => 8 * dieOf t.core + t.core % 128 / 16 == b.harrow) .harrow)

/-- A beam stops, with its addition withheld (R409, R410); INFO is 1 for a record that a beam meets, and 0 for its view record (R393). -/
def beamFault (s : State) (b : BeamOp) (code reason addr : Nat) : State :=
  raiseAsync (dropBeam s b) 9 code b.job (dieOf b.core) (b.core % 128) b.pc.toNat addr (some (b.handle.toNat, b.amount)) reason (if code = 1 then 1 else 0)

/-- A beam completes (R307). -/
def finishBeam (s : State) (b : BeamOp) : State :=
  engineAdd (dropBeam s b) (dieOf b.core) (b.core % 128) b.job b.pc.toNat b.handle.toNat b.amount

/-! ### Coverage threads (R162) -/

/-- The coverage thread of a candidate. -/
def coverKid (b : BeamOp) (v : View) (hdr : List Byte) (c : Cand) : Kid :=
  let w12 := recNat hdr 4 4
  let n : Nat → Nat → Nat × Reg := fun i x => (i, ⟨BitVec.ofNat 32 x, 2#4⟩)
  let f : Nat → Word → Nat × Reg := fun i x => (i, ⟨x, 3#4⟩)
  { lane := 0
    tiles := bits w12 9 6
    bintime := recNat hdr 0 4
    th := { Thread.blank with
      job := b.job
      pc := BitVec.ofNat 57 v.cover
      alloc := 32 * bits w12 5 0
      segG := b.segG
      segL := b.segL
      segC := b.segC
      tnum := 0#32
      prio := b.prio
      launch := b.launch
      role := .cover b.harrow c.id
      regs := mapSetAll rawZero []
        [n 0 c.hit.prim.toNat, f 1 c.hit.u, f 2 c.hit.v, f 3 c.hit.t, n 4 c.x, n 5 c.y, n 6 c.k, n 7 c.hit.inst.toNat] } }

/-- Spawn the coverage threads that are not placed yet, in ascending order of sample address, until one has to wait. -/
def placeCover (b : BeamOp) (v : View) (hdr : List Byte) : State → List Cand → State
  | s, [] => s
  | s, c :: r =>
    if c.placed then placeCover b v hdr s r
    else
      let kid := coverKid b v hdr c
      let (i, s1) := takeFree s
      match placeKid s1 b.core { kid with th := { kid.th with tnum := Config.freeWord i } } with
      | (s2, true) =>
        placeCover b v hdr { s2 with beams := s2.beams.map fun q =>
          if q.id == b.id then { q with cands := q.cands.map fun d => if d.id == c.id then { d with placed := true } else d } else q } r
      | (s2, false) => s2

/-- The answers of a beam whose job is ended: a coverage thread that is discarded, or is not placed, gives none, which rejects its sample (R261,
R356). -/
def answerAll (b : BeamOp) : BeamOp :=
  { b with cands := b.cands.map fun c => { c with placed := true, answer := some (c.answer.getD false) } }

/-- Read the header of the coverage routine and spawn its threads; an ended job has no more threads (R356). A COVER that is not aligned, or whose header breaks its limits, ends the beam as
a record with reserved bits does: the manual states no fate for it (DESIGN CHOICE, log entry 124). -/
def spawnCover (s : State) (b : BeamOp) (v : View) : State :=
  if s.kills.any (· == (dieOf b.core, b.job)) then setBeam s (answerAll b)
  else match rayRead s (beamCtx b) (v.cover - 16) 16 with
  | (s1, .wait) => s1
  | (s1, .fail _ _) => beamFault s1 b 1 6 (v.cover - 16)
  | (s1, .ok hdr) =>
    if v.cover % 16 ≠ 0 || v.cover < 16 || !headerOk (recNat hdr 4 4) (recNat hdr 8 8) then beamFault s1 b 1 1 (v.cover - 16)
    else timeBins (placeCover b v hdr (engTaken s1 b.id) b.cands) b.core

/-- Go on with a beam by some pieces of work, until it waits for its coverage threads, or ends: when its samples are in place. -/
def beamWalk (v : View) : Nat → State → BeamOp → State
  | 0, s, b => setBeam s b
  | n + 1, s, b =>
    if !b.cands.isEmpty then spawnCover (setBeam s b) b v
    else if b.work.isEmpty && (b.ty1 < b.next.2 || b.tx1 < b.tx0) then
      (match engDone s b.id with
      | .ok _ => finishBeam s b
      | .wait => setBeam s b
      | .fail a _ => beamFault s b 1 6 (a / 32 * 32))
    else match beamStep s b v with
      | (s1, .go b1) => beamWalk v n (engTaken s1 b.id) b1
      | (s1, .bad w a) => beamFault s1 b 1 w a
      | (s1, .wait) => setBeam s1 b

/-- The beam that a Harrow works on. -/
def headBeam (s : State) (harrow : Nat) : Option BeamOp := s.beams.find? fun b => b.harrow == harrow

/-- A Harrow goes on with its beam. -/
def runBeam (s : State) (b : BeamOp) : State :=
  match b.viewBytes with
  | some bytes =>
    let v := viewOf bytes
    if b.cands.isEmpty then
      let (n, s1) := takeSteps s
      beamWalk v n s1 b
    else if b.cands.any (!·.placed) then spawnCover s b v
    else s
  | none =>
    if entryBad s b.id then beamFault s b 1 6 b.view
    else match rayRead s (beamCtx b) b.view 128 with
    | (s1, .wait) => s1
    | (s1, .fail _ _) => beamFault s1 b 1 6 b.view
    | (s1, .ok bytes) =>
      match viewBad bytes with
      | some w => beamFault s1 b 2 w b.view
      | none =>
        let (n, s2) := takeSteps s1
        beamWalk (viewOf bytes) n (engTaken s2 b.id) { b with viewBytes := some bytes }

/-- BEAM_START: a Harrow takes its next beam and walks its owned tiles (R307). It is held while the job is halted (R203). -/
def execBeamStart (harrow : Nat) (s : State) : Host.Outcome State Fault Refusal :=
  issued (match headBeam s harrow with
    | none => s
    | some b => if coreHeld s b.core b.job b.uid b.id || engineHolds s b.core b.uid b.id then s else runBeam s b)

/-- Stored samples of candidates, and those of them that are accepted when tested again (R162). -/
def retest (l : List (Samp × Hit)) (cs : List Cand) : List (Samp × Hit) :=
  cs.filterMap fun c =>
    match l.find? fun p => p.1.addr == c.addr with
    | some p => if c.answer == some true && hitLess c.hit p.2 then some (p.1, c.hit) else none
    | none => none

/-- The ray that led to a candidate takes the accepted hit as its best. -/
def adopt (b : BeamOp) (new : List (Samp × Hit)) : BeamOp :=
  match b.work, new with
  | .ray x y k r inst leaf i n :: q, (_, h) :: _ => { b with work := .ray x y k { r with best := some h } inst leaf i n :: q }
  | _, _ => b

/-- COVERAGE_RESOLVE: every answer for a masked triangle has arrived; the accepted samples are written, and the walk goes on
(R162, R163). -/
def execCoverageResolve (harrow : Nat) (s : State) : Host.Outcome State Fault Refusal :=
  issued (match headBeam s harrow with
    | none => s
    | some b =>
      match b.viewBytes with
      | none => s
      | some bytes =>
        if b.cands.isEmpty || b.cands.any (·.answer.isNone) || coreHeld s b.core b.job b.uid b.id then s
        else
          let v := viewOf bytes
          match readSamples (beamCtx b) s (tileSamples v b.cur.1 b.cur.2) [] with
          | (s1, .wait) => s1
          | (s1, .fail a _) => beamFault s1 b 1 6 a
          | (s1, .ok stored) =>
            let new := retest stored b.cands
            match writeHits s1 b stored new with
            | (s2, .go b1) =>
              let (n, s3) := takeSteps s2
              beamWalk v n (engTaken s3 b.id) (adopt { b1 with cands := [] } new)
            | (s2, .bad w a) => beamFault s2 b 1 w a
            | (s2, .wait) => s2)

/-! ## `beam` (R307) -/

/-- A beam as the Harrow accepts it. -/
def beamOpOf (s : State) (i : Issue) (t : Thread) (view r0 r1 h amount : Nat) : BeamOp where
  id := s.fresh
  harrow := 8 * dieOf t.core + t.core % 128 / 16
  core := t.core
  uid := t.uid
  job := t.job
  pc := i.pc
  segG := t.segG
  segL := t.segL
  segC := t.segC
  prio := (flockOf s t.core t.flock).prio
  launch := t.launch
  view := view
  tx0 := bits r0 12 0
  ty0 := bits r0 28 16
  tx1 := bits r1 12 0
  ty1 := bits r1 28 16
  handle := BitVec.ofNat 64 h
  amount := amount
  viewBytes := none
  cur := (0, 0)
  next := (bits r0 12 0, bits r0 28 16)
  hz := 0#32
  work := []
  cands := []

/-- `beam` in a thread. -/
def beamThread (d a amount : Nat) (s : State) (i : Issue) (t : Thread) : State × Out :=
  let h := vPair t a
  let view := vPair t d
  match handleTrap s t h <|> extentTrap s t false view 128 <|> (if view % 64 ≠ 0 then some (trap4 5 64 view) else none) with
  | some f => (s, .trap f)
  | none =>
    let b := beamOpOf s i t view (vBits t (d + 2)) (vBits t (d + 3)) h amount
    if b.tx1 < b.tx0 || b.ty1 < b.ty0 then
      if engineHolds s t.core t.uid s.fresh then (s, .wait (.before s.fresh))
      else (engineAdd s (dieOf t.core) (t.core % 128) t.job i.pc.toNat h amount, .eff {})
    else if 16 ≤ (s.beams.filter fun q => q.harrow == b.harrow).length then (s, .wait (.room .harrow))
    else ({ s with beams := s.beams ++ [b], fresh := s.fresh + 1 }, .eff {})

/-- What `beam` names. -/
def beamNames (d a : Nat) (b : Option Nat) (t : Thread) : Names :=
  let n := engNames d a b 4 t
  { n with limits := (d % 4 ≠ 0, 0) :: n.limits }

/-- BEAM: hands a tile rectangle to the cluster's Harrow (R307). -/
def execBeam (h : Hdr) (d a b : BitVec 7) (s : State) : Host.Outcome State Fault Refusal :=
  issued (perThread { f := memF h 54#7 d a b } (beamNames d.toNat a.toNat (some b.toNat))
    (fun s i t => beamThread d.toNat a.toNat (vBits t b.toNat) s i t) s)

/-- BEAM with the amount in the literal (R307). -/
def execBeamLit (h : Hdr) (d a : BitVec 7) (lit : Word) (s : State) : Host.Outcome State Fault Refusal :=
  issued (perThread { f := memF h 55#7 d a 0#7 } (beamNames d.toNat a.toNat none) (beamThread d.toNat a.toNat lit.toNat) s)

/-! ## `tex` (R165, R166, R310, R410) -/

/-- A texture descriptor (R165). -/
structure Texture where
  /-- BASE -/
  base : Nat
  /-- W -/
  w : Nat
  /-- H -/
  h : Nat
  /-- LEVELS -/
  levels : Nat
  /-- FMT -/
  fmt : Nat
  /-- WRAPS -/
  wraps : Nat
  /-- WRAPT -/
  wrapt : Nat
  /-- FILTER: bilinear -/
  bilinear : Bool
  deriving DecidableEq, Repr

/-- The fields of a descriptor. -/
def textureOf (b : List Byte) : Texture :=
  let w := recNat b 8 8
  ⟨recNat b 0 8 % 2 ^ 57, bits w 15 0 + 1, bits w 31 16 + 1, bits w 35 32 + 1, bits w 39 36, bits w 41 40, bits w 43 42, bit w 44⟩

/-- Why a descriptor traps (R410). Its reserved bits are not looked at: R165 calls them reserved and R410 gives no reason for them (DESIGN CHOICE, log
entry 124). -/
def textureBad (x : Texture) : Option Nat :=
  if 8 ≤ x.fmt then some 0
  else if x.wraps = 3 ∨ x.wrapt = 3 then some 1
  else if 6 ≤ x.fmt && x.bilinear then some 2
  else none

/-- Bytes of a texel. -/
def texelSize (fmt : Nat) : Nat := if fmt = 0 then 16 else if fmt = 1 ∨ fmt = 3 ∨ fmt = 4 then 8 else 4

/-- Size of a level. -/
def levelDim (n l : Nat) : Nat := max 1 (n / 2 ^ l)

/-- Start of a level (R165). -/
def levelAt (x : Texture) : Nat → Nat
  | 0 => x.base
  | l + 1 => levelAt x l + (levelDim x.w l * levelDim x.h l * texelSize x.fmt + 63) / 64 * 64

/-- A coordinate (R166): NaN as 0, others clamped to ±2^31. -/
def texCoord (b : Nat) : Rat :=
  match fdecode fmtF32 b with
  | .nan => 0
  | .inf neg => if neg then -2147483648 else 2147483648
  | .fin neg m e => max (-2147483648) (min 2147483648 (ratOf (if neg then -(m : Int) else m) e))

/-- Wrap an index (R166). -/
def wrapIdx (mode n : Nat) (i : Int) : Nat :=
  if mode = 0 then (i % (n : Int)).toNat
  else if mode = 1 then (if i < 0 then 0 else min i.toNat (n - 1))
  else
    let m := (i % (2 * n : Int)).toNat
    if m < n then m else 2 * n - 1 - m

/-- The indices that a coordinate takes with their weights of 256 (R166). -/
def texTaps (bilinear : Bool) (mode n : Nat) (c : Rat) : List (Nat × Nat) :=
  if bilinear then
    let x := c * (n : Nat) - mkRat 1 2
    let i := x.floor
    let q := ((x - i) * 256 + mkRat 1 2).floor.toNat
    [(wrapIdx mode n i, 256 - q), (wrapIdx mode n (i + 1), q)]
  else [(wrapIdx mode n (c * (n : Nat)).floor, 256)]

/-- Read for `tex`: as the thread's loads see memory, through L1 or the glean partition (R310, R111, R115). -/
def texRead (s0 : State) (t : Thread) (va n al : Nat) : State × Except Out (List Byte) :=
  match globalAt s0 t va n al false with
  | (s1, .out o) => (s1, .error o)
  | (s1, .at k g) =>
    if threadBad s1 t k n g then (s1, .error (.trap { cls := 7, code := Config.class7Code.toNat, aux := 0, addr := va }))
    else if s1.packets.any (fun p => p.src == t.core && p.body.runs.any (fun r => runsMeet r.1 r.2 k n) && (match p.body with
      | .write _ _ => false
      | .read _ _ _ _ _ => p.uid == some t.uid
      | _ => true)) then (s1, .error (.wait (.before s1.fresh)))
    else
      let s2 := if s1.fifo.any (fun e => e.uid == t.uid && e.op.isRed && e.op.meets k n) then drainFifo s1 t.uid else s1
      let own := (upFrom k n).map (coreByte s2 t.core t.uid)
      let (s3, hit) := if own.all (·.isSome) then (s2, none) else loadHit s2 t.core t.uid k n g
      let (s4, base) := match hit with
        | some b => (s3, b)
        | none => if own.all (·.isSome) then (s3, memBytes s3 k n) else unitBytes s3 (dieOf t.core) k n g (some t.uid)
      (s4, .ok ((own.zip base).map fun p => p.1.getD p.2))

/-- Read texels one after another. -/
def texReads (t : Thread) (n : Nat) : State → List Nat → List (List Byte) → State × Except Out (List (List Byte))
  | s, [], acc => (s, .ok acc.reverse)
  | s, a :: r, acc =>
    match texRead s t a n 1 with
    | (s1, .ok b) => texReads t n s1 r (b :: acc)
    | (s1, .error o) => (s1, .error o)

/-- Decoded channel c of a texel of a floating-point format, none where the format lacks it. -/
def texelVal (fmt c : Nat) (b : List Byte) : Option FVal :=
  if fmt ≤ 2 then (if c < 4 / 2 ^ fmt then some (fdecode fmtF32 (recNat b (4 * c) 4)) else none)
  else some (fdecode (if fmt = 3 then fmtF16 else fmtBF16) (recNat b (2 * c) 2))

/-- Channel c of weighted texels, with its flags (R166). -/
def texChannel (fmt c : Nat) (taps : List (Nat × List Byte)) : Nat × Flags :=
  let total := taps.foldl (fun n p => n + p.1) 0
  if 6 ≤ fmt then
    (if c = 0 then (match taps with
      | p :: _ => recNat p.2 0 4
      | [] => 0) else if c = 3 then 1 else 0, 0#16)
  else if fmt = 5 then
    let n := taps.foldl (fun m p => m + p.1 * recNat p.2 c 1) 0
    if n = 0 then (0, 0#16) else fencode fmtF32 (fquot false n 0 (255 * total) 0) .rn false false
  else
    match taps with
    | [] => (0, 0#16)
    | p :: r =>
      match texelVal fmt c p.2 with
      | none => (if c = 3 then 0x3F800000 else 0, 0#16)
      | some v0 =>
        if r.isEmpty then fencode fmtF32 v0 .rn false false
        else
          let term : Nat × List Byte → FVal := fun q => (fmul (.fin false q.1 0) ((texelVal fmt c q.2).getD .nan)).1
          let sum := r.foldl (fun acc q => (fadd acc (term q)).1) (term p)
          fencode fmtF32 (match sum with
            | .fin neg m e => .fin neg m (e - 16)
            | x => x) .rn false false

/-- `tex` in a thread. -/
def texThread (d a b : Nat) (s : State) (_ : Issue) (t : Thread) : State × Out :=
  let at' := vPair t a
  match texRead s t at' 32 32 with
  | (s1, .error o) => (s1, o)
  | (s1, .ok db) =>
    let x := textureOf db
    match textureBad x with
    | some w => (s1, .trap { cls := 9, code := 4, aux := w, addr := at' })
    | none =>
      let l := min (vBits t (b + 2)) (x.levels - 1)
      let w := levelDim x.w l
      let h := levelDim x.h l
      let size := texelSize x.fmt
      let us := texTaps x.bilinear x.wraps w (texCoord (vBits t b))
      let vs := texTaps x.bilinear x.wrapt h (texCoord (vBits t (b + 1)))
      let pts := vs.flatMap fun q => us.map fun p => (levelAt x l + (q.1 * w + p.1) * size, p.2 * q.2)
      match texReads t size s1 (pts.map (·.1)) [] with
      | (s2, .error o) => (s2, o)
      | (s2, .ok bs) =>
        let taps := (pts.map (·.2)).zip bs
        let ch := (upFrom 0 4).map fun c => (c, texChannel x.fmt c taps)
        let tag := if x.fmt = 6 then 1 else if x.fmt = 7 then 2 else 3
        let fl := ch.foldl (fun f p => f ||| p.2.2) 0#16
        (s2, .eff { v := ch.map fun p => wr t (d + p.1) p.2.1 tag, st := stOf t (fl &&& flagNX) })

/-- TEX: samples a texture (R310). -/
def execTex (h : Hdr) (d a b : BitVec 7) (s : State) : Host.Outcome State Fault Refusal :=
  issued (perThread { f := memF h 58#7 d a b, last := true }
    (fun _ =>
      { vr := [(a.toNat, 2), (b.toNat, 3)], vw := [(d.toNat, 4)]
        tags := tagsOf 1 a.toNat 2 (some tagsInt) ++ tagsOf 2 b.toNat 2 (some [3]) ++ tagsOf 2 (b.toNat + 2) 1 (some tagsInt)
        limits := [(124 < d.toNat, 0), (a.toNat % 2 == 1, 1), (125 < b.toNat, 2)] })
    (texThread d.toNat a.toNat b.toNat) s)

end Sys2Proof.Machine
end

