-- ==== Sys2Proof/Machine/Net.lean ====
section
/-! DEFINITION. The network instructions (13 R312 to R318) and the steps of the network ports: `put`, `get`, `send`, remote work records,
`revoke` and armed requests (08 R179 to R187; faults 20 R400 to R403, 19 R389). -/

namespace Sys2Proof.Machine

/-! ## Tables of a port (R179, R182, R185) -/

/-- Offset of a connection. -/
def connOff (c : Nat) : Nat := 0x10000 + 32 * c
/-- Offset of a channel. -/
def chanOff (c : Nat) : Nat := 0x30000 + 32 * c
/-- Offset of a receive queue. -/
def queueOff (q : Nat) : Nat := 0x38000 + 32 * q
/-- Offset of a region. The range 0x3_C000 to 0x3_FFFF that R179 gives ends after 512 of the 1,024 regions; the others have no offset in the
block, so that nothing makes them valid. -/
def regionOff (n : Nat) : Nat := if n < 512 then 0x3C000 + 32 * n else 0x80000 + 32 * n
/-- Offset of an armed request. -/
def armedOff (i : Nat) : Nat := 0x40000 + 64 * i

/-- VALID of a connection or channel at an offset. -/
def entryValid (s : State) (d off : Nat) : Bool := bit (getReg s d off) 48

/-- JOB of a connection or channel. -/
def entryJob (s : State) (d off : Nat) : Nat := getField s d off 47 32

/-- A connection or channel that an instruction may not use (R400). -/
def entryTrap (s : State) (d job : Nat) (chan : Bool) (c : Nat) : Option Trap :=
  let off := if chan then chanOff c else connOff c
  let kind := if chan then 1 else 0
  if chan && 1024 ≤ c then some { cls := 8, code := 6, aux := kind + 4, addr := c }
  else
    let bad := (if entryValid s d off then 0 else 4) + (if entryJob s d off = job then 0 else 8)
    if bad = 0 then none else some { cls := 8, code := 6, aux := kind + bad, addr := c }

/-! ## Accepted operations -/

/-- LADDR (R314). -/
def PortOp.laddr (o : PortOp) : Nat := bits (o.w 0) 56 0
/-- ROFF. -/
def PortOp.roff (o : PortOp) : Nat := bits (o.w 1) 39 0
/-- REGION. -/
def PortOp.region (o : PortOp) : Nat := bits (o.w 1) 49 40
/-- LEN. -/
def PortOp.len (o : PortOp) : Nat := bits (o.w 2) 31 0
/-- Whether an operation is an `rwsend`. -/
def PortOp.isRw (o : PortOp) : Bool :=
  match o.kind with
  | .rwsend _ => true
  | _ => false

/-- Operations that a port holds of the 256 of R313; an `rwsend` is accepted when it has its channel (R316). -/
def portHeld (s : State) (die : Nat) : Nat := (s.portOps.filter fun o => o.die == die && (!o.isRw || o.started)).length

/-- The operation of a number. -/
def findOp (s : State) (id : Nat) : Option PortOp := s.portOps.find? fun o => o.id == id

/-- Change an operation. -/
def modOp (s : State) (id : Nat) (f : PortOp → PortOp) : State :=
  { s with portOps := s.portOps.map fun o => if o.id == id then f o else o }

/-- An operation is over: its place is free, and threads that wait for one try again. -/
def dropOp (s : State) (o : PortOp) : State :=
  wakeRoom (wakeRoom { engEnded s o.id with portOps := s.portOps.filter fun q => q.id ≠ o.id } (fun t => dieOf t.core == o.die) .port)
    (fun t => dieOf t.core == o.die) .replay

/-- The record of an operation's failure, or that of R403 when an armed request started it; its addition is withheld. -/
def opRecord (s : State) (o : PortOp) (cls code addr aux info : Nat) : State :=
  let held := some (o.handle.toNat, o.amount)
  match o.armed with
  | some k => raiseAsync s 8 8 o.job o.die 127 o.pc.toNat addr held (cls + code * 16) k
  | none => raiseAsync s cls code o.job o.die 127 o.pc.toNat addr held aux info

/-- An operation fails and is over. -/
def failOp (s : State) (o : PortOp) (cls code addr aux info : Nat) : State := opRecord (dropOp s o) o cls code addr aux info

/-- An operation is complete: its amount is added (R180, R186, R189). -/
def completeOp (s : State) (o : PortOp) : State :=
  engineAdd (dropOp s o) o.die 127 o.job o.pc.toNat o.handle.toNat o.amount

/-- The halt wave holds an operation (R203, R204, R205); it holds nothing that an ended job has started (R356). -/
def opHeld (s : State) (o : PortOp) : Bool :=
  !aheadOfStep s o && (match o.armed with
  | some _ => jobHeld s o.die o.job && !s.kills.any (· == (o.die, o.job)) && !handsOver s o.die o.job o.id
  | none => coreHeld s o.core o.job o.uid o.id)

/-- An operation may act: its job is not held, the writes that it must observe are in memory, and the loads that its completion releases have
returned (R116, R313). -/
def opReady (s : State) (o : PortOp) : Bool := !opHeld s o && !engineHolds s o.core o.uid o.id

/-! ## `put`, `get`, `send`: start (R180, R315) -/

/-- Sends counted on a connection (R180). -/
def sendsOn (s : State) (d c : Nat) : Nat := mapGet 0 s.sendCount (4096 * d + c)

/-- A message of an operation to the peer of its connection. -/
def toPeer (s : State) (o : PortOp) (b : NetBody) : State :=
  let w := getReg s o.die (connOff o.conn)
  sendMsg s { NetMsg.blank with smod := moduleId s, sdie := o.die, dmod := bits w 12 0, ddie := bits w 16 13, op := o.id, body := b }

/-- The peer's number of an operation's connection. -/
def peerConn (s : State) (o : PortOp) : Nat := getField s o.die (connOff o.conn) 28 17

/-- What of a `put` was sent before its data failed: some of the bytes before the failing address, or nothing (R389). -/
def putPart (s : State) (o : PortOp) (va : Nat) : State :=
  let (i, s1) := takeFree s
  if Config.freeBit i && o.laddr < va then
    match engRead s1 o.die o.job o.id o.laddr (va - o.laddr) with
    | (s2, .ok bs) => toPeer s2 { o with id := 0 } (.put (peerConn s2 o) o.job o.region o.roff bs)
    | (s2, _) => s2
  else s1

/-- Start a `put`, `get` or `send`: its data is read whole. -/
def startNet (s : State) (o : PortOp) : State :=
  let go : State → State := fun s => modOp s o.id fun o => { o with started := true }
  if entryBad s o.id then failOp s o 6 1 o.laddr (8 + 4 * 16) o.conn
  else match o.kind with
  | .get => toPeer (go s) o (.getReq (peerConn s o) o.job o.region o.roff o.len)
  | _ =>
    match engRead s o.die o.job o.id o.laddr o.len with
    | (s0, .ok bs) =>
      let s1 := engTaken s0 o.id
      if o.kind = .send then
        let m := sendsOn s1 o.die o.conn
        toPeer (go { s1 with sendCount := mapSet 0 s1.sendCount (4096 * o.die + o.conn) (m + 1) }) o (.send (peerConn s1 o) o.job m bs)
      else toPeer (go s1) o (.put (peerConn s1 o) o.job o.region o.roff bs)
    | (s1, .fail va c) =>
      let s2 := if o.kind = .put then putPart s1 o va else s1
      failOp s2 o 6 1 va (c + 4 * 16) o.conn
    | (s1, .wait) => s1

/-- Kinds that use a connection. -/
def PortKind.onConn : PortKind → Bool
  | .put => true
  | .get => true
  | .send => true
  | _ => false

/-- An operation waits behind an earlier one of its connection that has not started (R313). -/
def behind (s : State) (o : PortOp) : Bool :=
  s.portOps.any fun q => q.id < o.id && q.die == o.die && q.kind.onConn && !q.started && q.conn == o.conn

/-- A `put`, `get` or `send` that can start. -/
def canStart (s : State) (o : PortOp) : Bool := o.kind.onConn && !o.started && opReady s o && !behind s o

/-- Start what can start, in order of acceptance (R313). -/
def startEach (s : State) : List PortOp → State
  | [] => s
  | o :: r => startEach (if canStart s o then startNet s o else s) r

/-- Start what can start at the ports. -/
def startOps (s : State) : State := startEach s s.portOps

/-- Accept an operation under the next number (R313). -/
def acceptOp (s : State) (o : PortOp) : State :=
  { s with portOps := s.portOps ++ [{ o with id := s.fresh }], fresh := s.fresh + 1 }

/-- An operation of a thread as its port accepts it. -/
def portOpOf (t : Thread) (i : Issue) (k : PortKind) (h amount : Nat) (req : List Nat) : PortOp where
  id := 0
  die := dieOf t.core
  kind := k
  core := t.core
  job := t.job
  pc := i.pc
  req := req.map (BitVec.ofNat 64)
  base := []
  handle := BitVec.ofNat 64 h
  amount := amount
  armed := none
  started := false
  uid := t.uid
  chan := 0
  void := false
  written := false

/-! ## The instructions `put`, `get`, `send`, `rwsend` (R312 to R316, R400) -/

/-- A request in local store, read at issue, as 64-bit words (R312, R383). -/
def readReq (s0 : State) (t : Thread) (a n al : Nat) : State × Except Trap (List Nat) :=
  match localPre s0 t a n al with
  | some f => (s0, .error f)
  | none =>
    let s := eccRead s0 (inLs t.core a n)
    if localBad s t a n then (s, .error { cls := 7, code := Config.class7Code.toNat, aux := 0, addr := a })
    else (s, .ok ((upFrom 0 (n / 8)).map fun k => leNat (seeLocal s t (a + 8 * k) 8)))

/-- A reserved value in a request (R400). -/
def reqTrap : Trap := { cls := 1, code := 4, aux := 4 }

/-- A network request with a reserved field that is not 0 (R314). -/
def netBad (k : PortKind) (w : List Nat) : Bool :=
  bits (nthD 0 w 0) 63 57 ≠ 0 || bits (nthD 0 w 1) 63 50 ≠ 0 || bits (nthD 0 w 2) 63 44 ≠ 0 || nthD 0 w 3 ≠ 0 ||
    (match k with
    | .send => nthD 0 w 1 ≠ 0
    | .rwsend _ => nthD 0 w 1 ≠ 0 || bits (nthD 0 w 2) 31 0 ≠ 0 || bit (nthD 0 w 2) 42 || bit (nthD 0 w 2) 43
    | _ => false)

/-- Extent of a request's data (R314): none for LEN 0. -/
def netExtent (s : State) (t : Thread) (a n : Nat) : Option Trap := if n = 0 then none else extentTrap s t false a n

/-- An operation is accepted, or the thread waits for room (R313). -/
def acceptOr (s : State) (o : PortOp) : State × Out :=
  if 256 ≤ portHeld s o.die then (s, .wait (.room .port)) else (acceptOp s o, .eff {})

/-- `put`, `get` and `send` in a thread. -/
def netThread (k : PortKind) (d a amount : Nat) (s0 : State) (i : Issue) (t : Thread) : State × Out :=
  match readReq s0 t (vBits t d) 32 16 with
  | (s, .error f) => (s, .trap f)
  | (s, .ok w) =>
    if netBad k w then (s, .trap reqTrap)
    else
      let h := vPair t a
      let o := portOpOf t i k h amount w
      match entryTrap s o.die t.job false o.conn <|> handleTrap s t h <|> netExtent s t o.laddr o.len with
      | some f => (s, .trap f)
      | none =>
        match acceptOr s o with
        | (s1, .eff e) => (startOps s1, .eff e)
        | r => r

/-- Bytes within a page as the thread's port reads them at issue, the thread's own pending ones among them (R119). -/
def headerPage (s : State) (t : Thread) (a k n : Nat) (g : Option Nat) : State × EngRes (List Byte) :=
  if k / 2 ^ 44 = dieOf t.core then
    if threadBad s t k n g then (s, .fail a 8)
    else let (s1, bs) := threadBytes s t k n g; (s1, .ok bs)
  else match engPage s (dieOf t.core) t.job t.uid a k n g with
    | (s1, .ok bs) => (s1, .ok (((upFrom k n).zip bs).map fun p => (coreByte s1 t.core t.uid p.1).getD p.2))
    | r => r

/-- Pieces of a record's header (R314). -/
def headerPieces (s : State) (t : Thread) : List (Nat × Nat) → List Byte → State × EngRes (List Byte)
  | [], acc => (engEnded s t.uid, .ok acc)
  | (a, n) :: r, acc =>
    match engAt s (dieOf t.core) t.job t.uid a false with
    | (s1, .fail c) => (engEnded s1 t.uid, .fail a c)
    | (s1, .wait) => (s1, .wait)
    | (s1, .at k g) =>
      match headerPage s1 t a k n g with
      | (s2, .ok bs) => headerPieces s2 t r (acc ++ bs)
      | (s2, .wait) => (s2, .wait)
      | (s2, .fail b c) => (engEnded s2 t.uid, .fail b c)

/-- The first 16 bytes of a record as the thread sees them at issue (R314). -/
def readHeader (s : State) (t : Thread) (a : Nat) : State × EngRes (List Byte) := headerPieces s t (pagePieces 2 a 16) []

/-- ALTV and ALTCH of a record's header, as the words 4 and 5 of its operation hold them. -/
def altWords (hdr : List Byte) : List DWord :=
  [BitVec.ofNat 64 (bits (leNat (hdr.take 8)) 31 31), BitVec.ofNat 64 (bits (leNat ((hdr.drop 8).take 8)) 25 16)]

/-- Bytes of a record by its header. -/
def recordLen (hdr : List Byte) : Nat := 64 * (bits (leNat (hdr.take 8)) 30 24 + 1)

/-- An `rwsend` whose record's header, where it can be read, is this: the whole record is checked, of a header that cannot be read the least that a
record has (R184, R314); the thread waits for its channel. -/
def rwsendAccept (s : State) (t : Thread) (o : PortOp) (hdr : Option (List Byte)) : State × Out :=
  match netExtent s t o.laddr ((hdr.map recordLen).getD 128) with
  | some f => (s, .trap f)
  | none => (acceptOp s { o with req := o.req ++ (hdr.map altWords).getD [] }, .hold {} (.rwsend s.fresh))

/-- `rwsend` in a thread (R316): it waits until its record has its channel. -/
def rwsendThread (d a amount : Nat) (s0 : State) (i : Issue) (t : Thread) : State × Out :=
  let k := PortKind.rwsend (a % 2 == 1)
  match readReq s0 t (vBits t d) 32 16 with
  | (s, .error f) => (s, .trap f)
  | (s, .ok w) =>
    if netBad k w then (s, .trap reqTrap)
    else
      let h := vPair t (a - a % 2)
      let o := portOpOf t i k h amount w
      match entryTrap s o.die t.job true o.conn <|> handleTrap s t h <|> netExtent s t o.laddr 16 with
      | some f => (s, .trap f)
      | none =>
        match readHeader s t o.laddr with
        | (s1, .ok b) => rwsendAccept s1 t o (some b)
        | (s1, .fail _ _) => rwsendAccept s1 t o none
        | (s1, .wait) => (s1, .wait (.page 0))

/-- What a network instruction names: the request's address in D, the handle pair, the amount. -/
def netNames (d a : Nat) (b : Option Nat) : Thread → Names := engNames d a b 1

/-- PUT (R315). -/
def execPut (h : Hdr) (d a b : BitVec 7) (s : State) : Host.Outcome State Fault Refusal :=
  issued (perThread { f := memF h 60#7 d a b } (netNames d.toNat a.toNat (some b.toNat))
    (fun s i t => netThread .put d.toNat a.toNat (vBits t b.toNat) s i t) s)

/-- PUT with the amount in the literal (R315). -/
def execPutLit (h : Hdr) (d a : BitVec 7) (lit : Word) (s : State) : Host.Outcome State Fault Refusal :=
  issued (perThread { f := memF h 61#7 d a 0#7 } (netNames d.toNat a.toNat none) (netThread .put d.toNat a.toNat lit.toNat) s)

/-- GET (R315). -/
def execGet (h : Hdr) (d a b : BitVec 7) (s : State) : Host.Outcome State Fault Refusal :=
  issued (perThread { f := memF h 62#7 d a b } (netNames d.toNat a.toNat (some b.toNat))
    (fun s i t => netThread .get d.toNat a.toNat (vBits t b.toNat) s i t) s)

/-- GET with the amount in the literal (R315). -/
def execGetLit (h : Hdr) (d a : BitVec 7) (lit : Word) (s : State) : Host.Outcome State Fault Refusal :=
  issued (perThread { f := memF h 63#7 d a 0#7 } (netNames d.toNat a.toNat none) (netThread .get d.toNat a.toNat lit.toNat) s)

/-- SEND (R315). -/
def execSend (h : Hdr) (d a b : BitVec 7) (s : State) : Host.Outcome State Fault Refusal :=
  issued (perThread { f := memF h 64#7 d a b } (netNames d.toNat a.toNat (some b.toNat))
    (fun s i t => netThread .send d.toNat a.toNat (vBits t b.toNat) s i t) s)

/-- SEND with the amount in the literal (R315). -/
def execSendLit (h : Hdr) (d a : BitVec 7) (lit : Word) (s : State) : Host.Outcome State Fault Refusal :=
  issued (perThread { f := memF h 65#7 d a 0#7 } (netNames d.toNat a.toNat none) (netThread .send d.toNat a.toNat lit.toNat) s)

/-- RWSEND (R316); `t` is ALT, the low bit of field A. -/
def execRwsend (h : Hdr) (d : BitVec 7) (a : BitVec 6) (t : Bool) (b : BitVec 7) (s : State) : Host.Outcome State Fault Refusal :=
  let f : BitVec 7 := a ++ BitVec.ofBool t
  issued (perThread { f := memF h 66#7 d f b } (netNames d.toNat (2 * a.toNat) (some b.toNat))
    (fun s i u => rwsendThread d.toNat f.toNat (vBits u b.toNat) s i u) s)

/-- RWSEND with the amount in the literal (R316). -/
def execRwsendLit (h : Hdr) (d : BitVec 7) (a : BitVec 6) (t : Bool) (lit : Word) (s : State) : Host.Outcome State Fault Refusal :=
  let f : BitVec 7 := a ++ BitVec.ofBool t
  issued (perThread { f := memF h 67#7 d f 0#7 } (netNames d.toNat (2 * a.toNat) none) (rwsendThread d.toNat f.toNat lit.toNat) s)

/-! ## Arrivals at a port (R180, R401) -/

/-- Messages that ask their receiver for an answer. -/
def NetBody.isRequest : NetBody → Bool
  | .put _ _ _ _ _ => true
  | .getReq _ _ _ _ _ => true
  | .send _ _ _ _ => true
  | .rw _ _ _ _ _ => true
  | .chunk _ => true
  | _ => false

/-- The request of an answered operation leaves the fabric: one to another module stays there until its answer comes. -/
def dropSent (s : State) (op : Nat) : State :=
  { s with fabric := s.fabric.filter fun m => !(m.op == op && m.smod == moduleId s && m.dmod ≠ moduleId s && m.body.isRequest) }

/-- The connection on which a message keeps its order, by the receiver's number. -/
def NetBody.flow : NetBody → Option Nat
  | .put c _ _ _ _ => some c
  | .getReq c _ _ _ _ => some c
  | .send c _ _ _ => some c
  | .chunk c => some c.conn
  | _ => none

/-- A message that has arrived at a port of an enabled die of this module (R24): what was sent before it on its link has been taken (R174), and the
earlier ones of its connection (R180). -/
def netArriving (s : State) (id : Nat) : Option NetMsg :=
  match s.fabric.find? fun m => m.id == id with
  | some m =>
    if m.dmod == moduleId s && dieOn s m.ddie && (m.got || !linkBusy s m.id (msgLink s m)) && !(s.fabric.any fun q =>
        q.id < m.id && q.smod == m.smod && q.sdie == m.sdie && q.dmod == m.dmod && q.ddie == m.ddie &&
          m.body.flow.isSome && q.body.flow == m.body.flow) then some m
    else none
  | none => none

/-- The receiver has taken a message from its link, and has accepted it, but waits for the host to translate an address (R174, R181). -/
def holdMsg (s : State) (id : Nat) : State :=
  { s with fabric := s.fabric.map fun m => if m.id == id then { m with got := true } else m }

/-- Take a message off the fabric. -/
def dropMsg (s : State) (id : Nat) : State := { engEnded s id with fabric := s.fabric.filter fun m => m.id ≠ id }

/-- Answer a message, under its TAG (R174). -/
def reply (s : State) (m : NetMsg) (b : NetBody) : State :=
  sendMsg (dropMsg s m.id)
    { NetMsg.blank with
      smod := m.dmod, sdie := m.ddie, dmod := m.smod, ddie := m.sdie, op := m.op, tag := some (m.tag.getD m.id), body := b }

/-- Answer a message with a NACK, which the port counts (R397, R401). -/
def refuse (s : State) (m : NetMsg) (reason : Nat) : State := reply (bumpField s m.ddie 0x838 31 0) m (.nack reason)

/-- VALID and not REVOKING: a region that accepts operations (R181). -/
def regionOpen (s : State) (d n : Nat) : Bool :=
  bit (getReg s d (regionOff n + 8)) 58 && !bit (getReg s d (regionOff n + 8)) 59

/-- A connection of another job (R401 reason 3). -/
def connOther (s : State) (d c job : Nat) : Bool := entryValid s d (connOff c) && entryJob s d (connOff c) ≠ job

/-- Checks of a `put` or `get` at the receiver (R401). -/
def regionCheck (s : State) (d conn job n off len : Nat) (write : Bool) : Option Nat :=
  let w := getReg s d (regionOff n + 8)
  if !regionOpen s d n then some 0
  else if len ≠ 0 && bits w 39 0 < off + len then some 1
  else if !bit w (if write then 56 else 57) then some 2
  else if bits w 55 40 ≠ job || connOther s d conn job then some 3
  else if !entryValid s d (connOff conn) then some 7
  else none

/-- The checks of a `put` or `get` that has not been accepted yet (R181, R401). -/
def acceptCheck (s : State) (m : NetMsg) (conn job n off len : Nat) (write : Bool) : Option Nat :=
  if m.got then none else regionCheck s m.ddie conn job n off len write

/-- The bytes of an arriving message set out for their homes, none of which may be poisoned (R401, R402); it is done when they are there
(R119). -/
def writeArrival (s : State) (m : NetMsg) (job va : Nat) (bs : List Byte) : State × EngRes Unit :=
  if m.written then (s, engDone s m.id)
  else match engPlaces s m.ddie job m.id (pagePieces (bs.length / 4096 + 2) va bs.length) [] with
    | (s1, .ok ps) =>
      if ps.any fun p => memPoisoned s1 p.1 p.2 then (s1, .fail va 8)
      else
        let s2 := sendPackets s1 (placePackets s1 m.ddie job m.id va ps bs)
        ({ s2 with fabric := s2.fabric.map fun q => if q.id == m.id then { q with got := true, written := true } else q }, engDone s2 m.id)
    | (s1, .fail a c) => (s1, .fail a c)
    | (s1, .wait) => (s1, .wait)

/-- A `put` is applied at its receiver, or refused. -/
def takePut (s : State) (m : NetMsg) (conn job n off : Nat) (bs : List Byte) : State :=
  match acceptCheck s m conn job n off bs.length true with
  | some r => refuse s m r
  | none =>
    match writeArrival s m job (getField s m.ddie (regionOff n) 56 0 + off) bs with
    | (s1, .ok _) => reply s1 m .done
    | (s1, .fail _ _) => refuse s1 m 5
    | (s1, .wait) => holdMsg s1 m.id

/-- A `get` is read at its receiver, or refused. -/
def takeGet (s : State) (m : NetMsg) (conn job n off len : Nat) : State :=
  match acceptCheck s m conn job n off len false with
  | some r => refuse s m r
  | none =>
    match engRead s m.ddie job m.id (getField s m.ddie (regionOff n) 56 0 + off) len with
    | (s1, .ok bs) => reply s1 m (.getData bs)
    | (s1, .fail _ _) => refuse s1 m 5
    | (s1, .wait) => holdMsg s1 m.id

/-- Checks of a `send` at the receiver (R401). -/
def sendCheck (s : State) (d conn job len : Nat) : Option Nat :=
  let w2 := getReg s d (connOff conn + 16)
  if connOther s d conn job then some 3
  else if 64 * 2 ^ bits w2 19 16 < len || bits w2 15 0 = 0 then some 4
  else if !entryValid s d (connOff conn) then some 7
  else none

/-- A `send` fills its ring slot and adds 1 to ARRIVE, or is refused (R180). -/
def takeSend (s : State) (m : NetMsg) (conn job k : Nat) (bs : List Byte) : State :=
  let d := m.ddie
  match if m.got then none else sendCheck s d conn job bs.length with
  | some r => refuse s m r
  | none =>
    let w2 := getReg s d (connOff conn + 16)
    let slot := k % bits w2 15 0
    match writeArrival s m job (getField s d (connOff conn + 8) 56 0 + slot * (64 * 2 ^ bits w2 19 16)) bs with
    | (s1, .ok _) => engineAdd (reply s1 m .done) d 127 job 0 (getReg s1 d (connOff conn + 24)) 1
    | (s1, .fail _ _) => refuse s1 m 5
    | (s1, .wait) => holdMsg s1 m.id

/-- PUT_ARRIVAL: accepted operations start, and a `put` is applied at its region (R180, R401). -/
def execPutArrival (msg : Nat) (s0 : State) : Host.Outcome State Fault Refusal :=
  let s := startOps s0
  issued (match netArriving s msg with
    | some m =>
      (match m.body with
      | .put conn job n off bs => takePut s m conn job n off bs
      | _ => s)
    | none => s)

/-- GET_ARRIVAL: accepted operations start, and a `get` is read at its region (R180, R401). -/
def execGetArrival (msg : Nat) (s0 : State) : Host.Outcome State Fault Refusal :=
  let s := startOps s0
  issued (match netArriving s msg with
    | some m =>
      (match m.body with
      | .getReq conn job n off len => takeGet s m conn job n off len
      | _ => s)
    | none => s)

/-- SEND_ARRIVAL: accepted operations start, and a `send` fills its ring slot (R180, R401). -/
def execSendArrival (msg : Nat) (s0 : State) : Host.Outcome State Fault Refusal :=
  let s := startOps s0
  issued (match netArriving s msg with
    | some m =>
      (match m.body with
      | .send conn job k bs => takeSend s m conn job k bs
      | _ => s)
    | none => s)

/-! ## Completion at the issuing port -/

/-- Handle of a channel's freed counter (R185). -/
def freedHandle (s : State) (d c : Nat) : Nat :=
  4 * 2 ^ 61 + moduleId s * 2 ^ 48 + d * 2 ^ 44 + (getField s d 0x808 36 0 + c) % 2 ^ 37

/-- The port frees a slot of a channel itself (R402). -/
def freeSlotOf (s : State) (d c job : Nat) : State := engineAdd s d 127 job 0 (freedHandle s d c) 1

/-- The bytes of a `get` set out for the issuer's memory; it is done when they are there (R119, R180). -/
def getWrite (s : State) (o : PortOp) (bs : List Byte) : State × EngRes Unit :=
  if o.written then (s, engDone s o.id)
  else match engWrite s o.die o.job o.id o.laddr bs with
    | (s1, .ok _) => (modOp s1 o.id fun o => { o with written := true }, engDone s1 o.id)
    | r => r

/-- NETWORK_OP_COMPLETE: the peer has acknowledged a whole operation (R180, R186, R389). -/
def execNetworkOpComplete (msg : Nat) (s0 : State) : Host.Outcome State Fault Refusal :=
  let s := startOps s0
  issued (match netArriving s msg with
    | some m =>
      (match m.body with
      | .done =>
        (match findOp s m.op with
        | some o =>
          let s1 := dropSent (dropMsg s msg) m.op
          if o.void then freeSlotOf (dropOp s1 o) o.die o.chan o.job else completeOp s1 o
        | none => dropMsg s msg)
      | .getData bs =>
        (match findOp s m.op with
        | some o =>
          (match getWrite s o bs with
          | (s1, .ok _) => completeOp (dropSent (dropMsg s1 msg) m.op) o
          | (s1, .fail va c) => failOp (dropSent (dropMsg s1 msg) m.op) o 6 1 va (c + 4 * 16) o.conn
          | (s1, .wait) => holdMsg s1 msg)
        | none => dropMsg s msg)
      | _ => s)
    | none => s)

/-- NACK_RECEIVE: the peer has refused an operation (R401, R402). -/
def execNackReceive (msg : Nat) (s0 : State) : Host.Outcome State Fault Refusal :=
  let s := startOps s0
  issued (match netArriving s msg with
    | some m =>
      (match m.body with
      | .nack r =>
        let s1 := dropSent (dropMsg s msg) m.op
        (match findOp s m.op with
        | some o =>
          (match o.kind with
          | .rwsend _ =>
            let s2 := freeSlotOf s1 o.die o.chan o.job
            if o.void then dropOp s2 o else failOp s2 o 8 5 0 6 o.chan
          | _ => failOp s1 o 8 5 0 r o.conn)
        | none => s1)
      | _ => s)
    | none => s)

/-! ## Remote work records (R184 to R187, R316, R402) -/

/-- A channel of the job has room (R186). -/
def roomOn (s : State) (d c job : Nat) : Bool :=
  c < 1024 && entryValid s d (chanOff c) && entryJob s d (chanOff c) == job &&
    (let h := freedHandle s d c
     (badHandle s h).isNone && !cellPoisoned s h &&
       condMet (cellGet s h) (getReg s d (chanOff c + 16) + 1 + 2 ^ 64 - getField s d (chanOff c) 31 23))

/-- An operation's form with the alternative channel. -/
def PortOp.altOf (o : PortOp) : Option Nat :=
  match o.kind with
  | .rwsend true => if o.w 4 = 1 then some (o.w 5) else none
  | _ => none

/-- An earlier request waits for a channel; an ALTCH that is not a VALID channel of its job is never waited for (R186). -/
def chanTaken (s : State) (o : PortOp) (c : Nat) : Bool :=
  s.portOps.any fun q => q.id < o.id && q.die == o.die && q.isRw && !q.started &&
    (q.conn == c || (q.altOf == some c && entryValid s o.die (chanOff c) && entryJob s o.die (chanOff c) == q.job))

/-- The channel that a request takes now, and REDIR. -/
def pickChannel (s : State) (o : PortOp) : Option (Nat × Bool) :=
  if roomOn s o.die o.conn o.job && !chanTaken s o o.conn then some (o.conn, false)
  else match o.altOf with
    | some c => if roomOn s o.die c o.job && !chanTaken s o c then some (c, true) else none
    | none => none

/-- The bytes of the record of an `rwsend`, whole (R389). -/
def readRecord (s : State) (o : PortOp) : State × EngRes (List Byte) :=
  match engRead s o.die o.job o.id o.laddr 16 with
  | (s1, .ok h) => engRead s1 o.die o.job o.id o.laddr (recordLen h)
  | r => r

/-- The header that the port sends (R184, R186). -/
def fillHeader (s : State) (d use k : Nat) (redir : Bool) (h : List Byte) : List Byte :=
  let c0 := getReg s d (chanOff use)
  let c1 := getReg s d (chanOff use + 8)
  let w0 := setBits (setBits (leNat (h.take 8)) 22 0 (c0 % 2 ^ 23)) 23 23 (if redir then 1 else 0)
  let slots := bits c0 31 23
  let dslot := bits c1 15 0 + (if slots = 0 then 0 else k % slots)
  let w1 := setBits (setBits (setBits (leNat ((h.drop 8).take 8)) 15 0 k) 41 26 dslot) 57 42 (bits c1 31 16)
  natLe 8 w0 ++ natLe 8 w1

/-- Give a record its channel and SEQ, and send it (R186). -/
def assignChannel (s : State) (o : PortOp) (use : Nat) (redir : Bool) : State :=
  let d := o.die
  let k := getReg s d (chanOff use + 16)
  let go : State → List Byte → Bool → State := fun s bs void =>
    let c0 := getReg s d (chanOff use)
    let s1 := setReg s d (chanOff use + 16) ((k + 1) % 2 ^ 64)
    let s2 := modOp s1 o.id fun o => { o with started := true, chan := use, void := void }
    let s3 := sendMsg s2 { NetMsg.blank with
      smod := moduleId s, sdie := d, dmod := bits c0 12 0, ddie := bits c0 16 13, op := o.id
      body := .rw use (k % 65536) o.job (fillHeader s d use k redir bs ++ bs.drop 16) void }
    modThread s3 o.uid fun t => if t.wait == .rwsend o.id then { t with wait := .none, age := s.cycle + 1 } else t
  match readRecord s o with
  | (s1, .ok bs) => go (engTaken s1 o.id) bs false
  | (s1, .wait) => s1
  | (s1, .fail va c) =>
    opRecord (go (engTaken s1 o.id) (natLe 16 0) true) o 6 1 va (c + 4 * 16) use

/-- An `.alt` request whose header could not be read at issue reads it when it is served: its words 4 and 5, or that there are none (R186, R316). -/
def needAlt (s : State) (o : PortOp) : State × Option PortOp :=
  if o.kind = .rwsend true ∧ o.req.length = 4 then
    match engRead s o.die o.job o.id o.laddr 16 with
    | (s1, .ok h) => let p := { o with req := o.req ++ altWords h }; (modOp s1 o.id fun _ => p, some p)
    | (s1, .fail _ _) => (s1, some o)
    | (s1, .wait) => (s1, none)
  else (s, some o)

/-- The oldest request of a channel that waits for room. -/
def oldestRw (s : State) (die ch : Nat) : Option PortOp := s.portOps.find? fun o => o.die == die && o.isRw && !o.started && o.conn == ch

/-- The oldest request of a channel is given room there, or on its alternative channel (R186), when the port has room for one more accepted
operation (R313, R316). -/
def assignNext (die ch : Nat) (s : State) : State :=
  match oldestRw s die ch with
    | some o =>
      if !opReady s o || (o.armed.isNone && !quiet s o.core o.uid o.id 5) || 256 ≤ portHeld s die then s
      else match needAlt s o with
        | (s1, some p) =>
          (match pickChannel s1 p with
          | some (use, redir) => assignChannel s1 p use redir
          | none => s1)
        | (s1, none) => s1
    | none => s

/-- RWSEND_CHANNEL_ASSIGN: the oldest request of a channel is given room (R186, R313, R316). -/
def execRwsendChannelAssign (die ch : Nat) (s : State) : Host.Outcome State Fault Refusal := issued (assignNext die ch s)

/-- Queue a record's arrival addition, under the number of its message (R187). -/
def queueArrival (s : State) (m : NetMsg) (ch seq job aidx q : Nat) : State :=
  let ab := getReg s m.ddie (queueOff q + 16)
  let h := setBits ab 36 0 (hIndex ab + aidx)
  { s with arrivals := s.arrivals ++ [⟨m.id, m.ddie, (m.smod, m.sdie, ch), seq, BitVec.ofNat 64 h, job⟩] }

/-- A record is discarded: the slot's void header, written in the queue's job, its record and its NACK (R402); `go` queues its arrival addition. -/
def discardRecord (s : State) (m : NetMsg) (job qjob va reason : Nat) (inside : Bool) (bs : List Byte) (go : State → State) : State :=
  let d := m.ddie
  let hdr := natLe 8 (setBits (leNat (bs.take 8)) 30 24 0) ++ (bs.drop 8).take 8
  match if inside then engWrite s d qjob m.id va hdr else (s, .ok ()) with
  | (s1, .wait) => holdMsg s1 m.id
  | (s1, _) => go (refuse (raiseAsync s1 8 7 job d 127 0 0 none reason m.smod) m 6)

/-- REMOTE_WORK_RECORD_RECEIVE: a record is written into its slot, or discarded; its arrival addition is queued (R187, R402). -/
def execRemoteWorkRecordReceive (msg : Nat) (s : State) : Host.Outcome State Fault Refusal :=
  issued (match netArriving s msg with
    | some m =>
      (match m.body with
      | .rw ch seq job bs _ =>
        let d := m.ddie
        let w0 := leNat (bs.take 8)
        let w1 := leNat ((bs.drop 8).take 8)
        let q := bits w0 22 17
        let dslot := bits w1 41 26
        let q0 := getReg s d (queueOff q)
        let q1 := getReg s d (queueOff q + 8)
        let size := 128 * 2 ^ bits q0 59 57
        let va := bits q0 56 0 + dslot * size
        let inside := dslot < bits q1 15 0
        let queue : State → State := fun s => queueArrival s m ch seq job (bits w1 57 42) q
        if m.written then
          (match engDone s msg with
          | .ok _ => queue (reply s m .done)
          | .fail _ _ => discardRecord s m job job va 4 true bs queue
          | .wait => s)
        else if !bit q1 32 then discardRecord s m job (bits q1 31 16) va 0 inside bs queue
        else if bits q1 31 16 ≠ job then discardRecord s m job (bits q1 31 16) va 1 inside bs queue
        else if !inside then discardRecord s m job job va 2 false bs queue
        else if size < bs.length then discardRecord s m job job va 3 true bs queue
        else match writeArrival s m job va bs with
          | (s1, .ok _) => queue (reply s1 m .done)
          | (s1, .fail _ _) => discardRecord s1 m job job va 4 true bs queue
          | (s1, .wait) => holdMsg s1 msg
      | _ => s)
    | none => s)

/-- SEQ of a sender's next arrival addition. -/
def nextSeq (s : State) (d : Nat) (sender : Nat × Nat × Nat) : Nat :=
  match s.arrivalNext.find? fun a => a.die == d && a.sender == sender with
  | some a => a.seq
  | none => 0

/-- ARRIVAL_ADDITION: the arrival addition of the channel's next record is made, once what the port has written of it is in place (R187). -/
def execArrivalAddition (id : Nat) (s : State) : Host.Outcome State Fault Refusal :=
  issued (match s.arrivals.find? fun a => a.id == id with
    | some a =>
      if a.seq = nextSeq s a.die a.sender && engDone s id ≠ .wait then
        let s1 := { engEnded s id with
          arrivals := s.arrivals.filter fun q => q.id ≠ id
          arrivalNext := ⟨a.die, a.sender, (a.seq + 1) % 65536⟩ :: s.arrivalNext.filter fun q => !(q.die == a.die && q.sender == a.sender) }
        engineAdd s1 a.die 127 a.job 0 a.handle.toNat 1
      else s
    | none => s)

/-! ## `revoke` (R181, R318, R401) -/

/-- A completion addition of a port that waits for nothing of the port: the release of what its thread made before number `seq` (R116). -/
def releaseAdd (s : State) (core uid seq job pc h amount : Nat) : State :=
  match badHandle s h with
  | some r => raiseAsync s 5 1 job (dieOf core) 127 pc h (some (h, amount)) r 0
  | none =>
    { s with
      packets := s.packets ++ [{ Packet.blank with
        id := s.fresh, seq := seq, sent := s.cycle, src := core, dst := homeUnit s h, ordered := localHandle s h, uid := some uid, job := job
        release := some (effScope s core 0 h), pc := BitVec.ofNat 57 pc, eng := some 0, va := 127
        body := .ctr (BitVec.ofNat 64 h) (.add amount) }]
      fresh := s.fresh + 1 }

/-- `revoke` in a thread. -/
def revokeThread (d a b : Nat) (lit : Word) (s : State) (i : Issue) (t : Thread) : State × Out :=
  let h := vPair t d
  match handleTrap s t h with
  | some f => (s, .trap f)
  | none =>
    let die := dieOf t.core
    let n := vBits t a % 1024
    let amount := src s i t b lit .int
    let w := getReg s die (regionOff n + 8)
    if bit w 58 then
      ({ setReg s die (regionOff n + 8) (setBits w 59 59 1) with
          revokes := s.revokes ++ [⟨die, n, BitVec.ofNat 64 h, amount, t.job, i.pc, t.core, t.uid, s.fresh⟩] }, .eff {})
    else (releaseAdd s t.core t.uid s.fresh t.job i.pc.toNat h amount, .eff {})

/-- REVOKE: closes a region to new operations (R181, R318). -/
def execRevoke (h : Hdr) (d a b : BitVec 7) (lit : Word) (s : State) : Host.Outcome State Fault Refusal :=
  issued (perThread { f := ⟨3#2, h.s, h.g, 70#7, d, a, b⟩, priv := true, rsv := selRsv b.toNat, sel := some b }
    (fun _ => {
      vr := [(d.toNat, 2), (a.toNat, 1)], sr := selS b.toNat false
      tags := tagsOf 0 d.toNat 2 (some tagsInt) ++ tagsOf 1 a.toNat 1 (some tagsInt), limits := [(d.toNat % 2 == 1, 0)] })
    (revokeThread d.toNat a.toNat b.toNat lit) s)

/-- An operation that a port has accepted for a region is not performed yet: its message waits for the host (R181). -/
def regionBusy (s : State) (d n : Nat) : Bool :=
  s.fabric.any fun m => m.got && m.dmod == moduleId s && m.ddie == d && (match m.body with
    | .put _ _ k _ _ => k == n
    | .getReq _ _ k _ _ => k == n
    | _ => false)

/-- REVOKE_COMPLETE: no accepted operation of the region remains; VALID and REVOKING clear, and the amount is added (R181). -/
def execRevokeComplete (die region : Nat) (s : State) : Host.Outcome State Fault Refusal :=
  issued (match s.revokes.find? fun r => r.die == die && r.region == region with
    | some r =>
      if regionBusy s die region then s
      else
      let w := getReg s die (regionOff region + 8)
      let s1 := setReg { s with revokes := s.revokes.erase r } die (regionOff region + 8) (setBits w 59 58 0)
      releaseAdd s1 r.core r.uid r.seq r.job r.pc.toNat r.handle.toNat r.amount
    | none => s)

/-! ## Armed requests (R182, R183, R317, R403) -/

/-- The lowest free entry of a port's table. -/
def freeArmed (s : State) (d : Nat) : Option Nat := (upFrom 0 1024).find? fun i => !s.armed.any fun a => a.die == d && a.idx == i

/-- Write the words of an armed request. -/
def armWords (d idx : Nat) : State → Nat → List Nat → State
  | s, _, [] => s
  | s, k, w :: r => armWords d idx (setReg s d (armedOff idx + 8 * k) w) (k + 1) r

/-- Reserved values of an armed request (R182, R400). -/
def armedBad (w : List Nat) : Bool :=
  6 ≤ bits (nthD 0 w 2) 3 0 || bits (nthD 0 w 2) 63 33 ≠ 0 || bits (nthD 0 w 3) 63 57 ≠ 0 || bits (nthD 0 w 4) 63 50 ≠ 0

/-- What `post` checks beside the request's contents (R317, R400). -/
def postTrap (s : State) (t : Thread) (w : List Nat) : Option Trap :=
  let op := bits (nthD 0 w 2) 3 0
  let conn := bits (nthD 0 w 2) 15 4
  let la := bits (nthD 0 w 3) 56 0
  (if op ≤ 3 then entryTrap s (dieOf t.core) t.job (op == 3) conn else none) <|>
    handleTrap s t (nthD 0 w 0) <|> handleTrap s t (nthD 0 w 6) <|> (if op = 4 then handleTrap s t (nthD 0 w 7) else none) <|>
    (if op ≤ 3 then netExtent s t la (bits (nthD 0 w 5) 31 0) else if op = 5 then netExtent s t la 128 else none)

/-- The waiter entry of an armed request (R69, R183). -/
def armedWaiter (s : State) (t : Thread) (die idx h thresh : Nat) : Waiter where
  thresh := BitVec.ofNat 64 thresh
  deadline := none
  handle := BitVec.ofNat 64 h
  kind := 3
  cond := 0
  job := t.job
  module := moduleId s
  unit := 128 * die + 127
  lane := 0
  slot := 0
  tag := idx
  uid := 1024 * die + idx
  scope := effScope s t.core 0 h
  spilled := false

/-- `post` in a thread (R317). -/
def postThread (d a : Nat) (s0 : State) (i : Issue) (t : Thread) : State × Out :=
  match readReq s0 t (vBits t a) 64 64 with
  | (s, .error f) => (s, .trap f)
  | (s, .ok w) =>
    if armedBad w then (s, .trap reqTrap)
    else match postTrap s t w with
      | some f => (s, .trap f)
      | none =>
        let die := dieOf t.core
        match freeArmed s die with
        | none => (s, .eff { v := [wr t d (2 ^ 32 - 1) 2] })
        | some idx =>
          let w2 := setBits (setBits (nthD 0 w 2) 31 16 t.job) 32 32 1
          let s1 := armWords die idx s 0 (modNth (fun _ => w2) 2 w)
          let h := nthD 0 w 0
          let s2 := { s1 with armed := s1.armed ++ [⟨die, idx, t.uid, t.core, t.job, i.pc, s.fresh⟩] }
          (sendPacket s2 { Packet.blank with
            src := 2000000 + die, dst := homeUnit s h, ordered := localHandle s h, job := t.job
            body := .ctr (BitVec.ofNat 64 h) (.wait (armedWaiter s t die idx h (nthD 0 w 1))) }, .eff { v := [wr t d idx 2] })

/-- POST: arms a request (R317). -/
def execPost (h : Hdr) (d a : BitVec 7) (s : State) : Host.Outcome State Fault Refusal :=
  issued (perThread { f := memF h 68#7 d a 0#7 }
    (fun _ => { vr := [(a.toNat, 1)], vw := [(d.toNat, 1)], tags := tagsOf 1 a.toNat 1 (some tagsInt) })
    (postThread d.toNat a.toNat) s)

/-- Free an armed entry. -/
def disarm (s : State) (d idx : Nat) : State :=
  setField { s with armed := s.armed.filter fun a => !(a.die == d && a.idx == idx) } d (armedOff idx + 16) 32 32 0

/-- The operation of an armed request that fires (R183). -/
def armedOp (s : State) (a : Armed) (k : PortKind) : PortOp :=
  let w : Nat → Nat := fun n => getReg s a.die (armedOff a.idx + 8 * n)
  { id := 0, die := a.die, kind := k, core := a.core, job := a.job, pc := a.pc
    req := [w 3, w 4, w 5 % 2 ^ 32 + bits (w 2) 15 4 * 2 ^ 32, w 7].map (BitVec.ofNat 64)
    base := [], handle := BitVec.ofNat 64 (if bits (w 2) 3 0 = 4 then w 7 else w 6), amount := w 5 / 2 ^ 32
    armed := some a.idx, started := false, uid := a.uid, chan := 0, void := false, written := false }

/-- 64-bit words of bytes. -/
def wordsOf : Nat → List Byte → List DWord
  | 0, _ => []
  | n + 1, b => BitVec.ofNat 64 (leNat (b.take 8)) :: wordsOf n (b.drop 8)

/-- Replays that a port's collective engine holds (R188, R320). -/
def replaysHeld (s : State) (d : Nat) : Nat := (s.portOps.filter fun o => o.die == d && o.kind == .coll).length

/-- An armed request starts its operation (R183, R403); not while the port has no room for it (R188, R313), while the stores made before the
`post` are on their way (R119), and while the port waits for the host. -/
def fireArmed (s : State) (a : Armed) : State × Bool :=
  let op := getField s a.die (armedOff a.idx + 16) 3 0
  let kind := match op with
    | 0 => PortKind.put
    | 1 => .get
    | 2 => .send
    | 3 => .rwsend false
    | _ => .coll
  let o := armedOp s a kind
  let s1 := disarm s a.die a.idx
  if (badHandle s o.handle.toNat).isSome || (badHandle s (getReg s a.die (armedOff a.idx))).isSome then (failOp s1 o 5 1 o.handle.toNat 0 0, true)
  else if op = 4 then
    (if localHandle s o.handle.toNat && cellPoisoned s o.handle.toNat then failOp s1 o 5 5 o.handle.toNat 0 0
    else releaseAdd s1 a.core a.uid a.seq a.job a.pc.toNat o.handle.toNat o.amount, true)
  else if (op ≠ 3 && 256 ≤ portHeld s a.die) || (op = 5 && (4 ≤ replaysHeld s a.die || engineWaits s a.core a.uid a.seq)) then (s, false)
  else if op = 5 then
    match engRead s a.die a.job a.seq o.laddr 128 with
    | (s2, .ok bs) =>
      (acceptOp (disarm (engEnded s2 a.seq) a.die a.idx)
        { o with
          req := [BitVec.ofNat 64 (o.conn % 8 * 2 ^ 32), BitVec.ofNat 64 (o.w 3)]
          base := wordsOf 16 bs }, true)
    | (s2, .fail va _) => (failOp (disarm (engEnded s2 a.seq) a.die a.idx) o 6 1 va 0 0, true)
    | (s2, .wait) => (s2, false)
  else match entryTrap s a.die a.job (op == 3) o.conn with
    | some _ => (failOp s1 o 8 6 0 0 0, true)
    | none => (startOps (acceptOp s1 o), true)

/-- The wake of an armed request that the same counter satisfied before at the same port, and that has not started (R67, R183). -/
def firesBefore (s : State) (id : Nat) (w : Waiter) : Bool :=
  s.packets.any fun q => q.id < id && (match q.body with
    | .wake x => x.kind == 3 && x.handle == w.handle && dieOf x.unit == dieOf w.unit
    | _ => false)

/-- The wake of an armed request reaches its port. -/
def fireWake (pkt : Nat) (s : State) : State :=
  match arriving s pkt with
    | some p =>
      (match p.body with
      | .wake w =>
        if w.kind ≠ 3 || jobHeld s (dieOf w.unit) w.job || firesBefore s pkt w then s
        else match s.armed.find? fun a => a.die == dieOf w.unit && a.idx == w.tag with
          | none => dropPacket s pkt
          | some a =>
            match fireArmed s a with
            | (s1, true) => dropPacket s1 pkt
            | (s1, false) => parkPacket s1 pkt
      | _ => s)
    | none => s

/-- ARMED_REQUEST_FIRE: the wake of an armed request reaches its port, which starts the operation and frees the entry; those that one counter
satisfied start in the order of their registration (R183). -/
def execArmedRequestFire (pkt : Nat) (s : State) : Host.Outcome State Fault Refusal := issued (fireWake pkt s)

end Sys2Proof.Machine
end

