-- ==== Sys2Proof/Machine/Coll.lean ====
section
/-! DEFINITION. The collective and compositing engine of a port (08 R188 to R198; 13 R319, R320; faults 20 R404 to R408): graphs, replays,
their nodes, coded chunks, and `comp`. -/

namespace Sys2Proof.Machine

/-! ## Combining (R194 to R197) -/

/-- Bytes of an element of FMT (R189). -/
def elemSize (fmt : Nat) : Nat := if fmt = 2 then 32 else if fmt = 3 then 16 else 4

/-- Pairs of FMT and MODE that combine (R320). -/
def pairOk (fmt mode : Nat) : Bool :=
  (fmt ≤ 1 && mode == 0) || (fmt == 2 && mode == 1) || (fmt == 3 && (mode == 2 || mode == 3))

/-- 32-bit word k of an element. -/
def wordAt (b : List Byte) (k : Nat) : Nat := leNat ((b.drop (4 * k)).take 4)

/-- −1, 0 or 1: order of two depths; a NaN is greater than every number (R195). -/
def depthOrder (a b : Nat) : Int :=
  let x := fdecode fmtF32 a
  let y := fdecode fmtF32 b
  if fisNan x then (if fisNan y then 0 else 1) else if fisNan y then -1 else fcmp3 x y

/-- The sample that wins (R195); which of two with equal depths and shards is kept is not said. -/
def nearer (tie : Bool) (d s : List Byte) : List Byte :=
  let o := depthOrder (wordAt d 0) (wordAt s 0)
  let sd := wordAt d 5 % 8192
  let ss := wordAt s 5 % 8192
  if o < 0 then d else if 0 < o then s else if sd < ss then d else if ss < sd then s else if tie then d else s

/-- f_c + (1 − f_a) × b_c, rounded once (R196). -/
def overChannel (f b : List Byte) (c : Nat) : Nat :=
  let one : FVal := .fin false 1 0
  let rest := (fadd one (fneg (fdecode fmtF32 (wordAt f 3)))).1
  let p := (fmul rest (fdecode fmtF32 (wordAt b c))).1
  (fencode fmtF32 (fadd (fdecode fmtF32 (wordAt f c)) p).1 .rn false false).1

/-- Combine(D, S) of one element (R194 to R197). -/
def combineElem (fmt mode : Nat) (front tie : Bool) (d s : List Byte) : List Byte :=
  let add : Nat → List Byte := fun k => natLe 4 (opAdd fmtF32 (wordAt d k) (wordAt s k)).1
  match mode with
  | 0 =>
    if fmt = 1 then natLe 2 (opAdd fmtBF16 (wordAt d 0 % 65536) (wordAt s 0 % 65536)).1 ++
      natLe 2 (opAdd fmtBF16 (wordAt d 0 / 65536) (wordAt s 0 / 65536)).1
    else (upFrom 0 (elemSize fmt / 4)).flatMap add
  | 1 => nearer tie d s
  | 2 =>
    let (f, b) := if front then (s, d) else (d, s)
    (upFrom 0 (elemSize fmt / 4)).flatMap fun c => natLe 4 (overChannel f b c)
  | _ => add 0 ++ add 1 ++ add 2 ++ natLe 4 (wordAt d 3 + wordAt s 3)

/-- Combine(D, S) of n elements; bytes after the last whole element stay those of D. -/
def combineN (fmt mode : Nat) (front tie : Bool) : Nat → List Byte → List Byte → List Byte
  | 0, d, _ => d
  | n + 1, d, s =>
    let z := elemSize fmt
    (combineElem fmt mode front tie (d.take z) (s.take z)).take z ++ combineN fmt mode front tie n (d.drop z) (s.drop z)

/-- Combine(D, S) over bytes. -/
def combineBytes (s : State) (fmt mode : Nat) (front : Bool) (d x : List Byte) : State × List Byte :=
  let (i, s1) := if mode = 1 then takeFree s else (0, s)
  (s1, combineN fmt mode front (mode = 1 && Config.freeBit i) (d.length / elemSize fmt) d x)

/-! ## Coded chunks (R192, R193, R405) -/

/-- Bits of a raw field, least significant first. -/
def rawBits (n v : Nat) : List Bool := (upFrom 0 n).map (bit v)

/-- Bits of a prefix code, most significant first. -/
def codeBits (n v : Nat) : List Bool := (rawBits n v).reverse

/-- Value of raw bits. -/
def bitsVal : List Bool → Nat
  | [] => 0
  | b :: r => (if b then 1 else 0) + 2 * bitsVal r

/-- Bits as bytes, the last padded with 0. -/
def packBytes : Nat → List Bool → List Byte
  | 0, _ => []
  | n + 1, l => BitVec.ofNat 8 (bitsVal (l.take 8)) :: packBytes n (l.drop 8)

/-- Bytes of a value of FMT 0 or 1. -/
def valSize (fmt : Nat) : Nat := if fmt = 0 then 4 else 2

/-- Mantissa bits. -/
def mantBits (fmt : Nat) : Nat := if fmt = 0 then 23 else 7

/-- Exponent of a value. -/
def expOf (fmt v : Nat) : Nat := v / 2 ^ mantBits fmt % 256

/-- Values of bytes. -/
def valsOf (z : Nat) : Nat → List Byte → List Nat
  | 0, _ => []
  | n + 1, b => leNat (b.take z) :: valsOf z n (b.drop z)

/-- A set of a Huffman tree: weight, lowest symbol, its symbols with their depths. -/
abbrev HuffSet := Nat × Nat × List (Nat × Nat)

/-- Merge the two least sets until one is left (R193); equal weights go to the set whose lowest symbol is lower. -/
def huffMerge : Nat → List HuffSet → List (Nat × Nat)
  | 0, _ => []
  | n + 1, l =>
    match sortBy (fun x : HuffSet => x.1 * 512 + x.2.1) l with
    | [] => []
    | [x] => x.2.2
    | x :: y :: r =>
      huffMerge n ((x.1 + y.1, min x.2.1 y.2.1, (x.2.2 ++ y.2.2).map fun p => (p.1, p.2 + 1)) :: r)

/-- Lengths of the codes of symbols with these weights (R193). -/
def huffLengths (l : List (Nat × Nat)) : List (Nat × Nat) :=
  match l with
  | [(s, _)] => [(s, 1)]
  | _ => huffMerge (l.length + 1) (l.map fun p => (p.2, p.1, [(p.1, 0)]))

/-- Canonical codes: symbols by length and then value, each with its length and code (R193). -/
def canonical (l : List (Nat × Nat)) : List (Nat × Nat × Nat) :=
  (sortBy (fun p : Nat × Nat => p.2 * 512 + p.1) l).foldl (fun acc p =>
    match acc.getLast? with
    | none => [(p.1, p.2, 0)]
    | some (_, n, c) => acc ++ [(p.1, p.2, (c + 1) * 2 ^ (p.2 - n))]) []

/-- The table that the engine chooses: up to 15 exponents with their lengths, in canonical order, and the escape's, as symbol 256 (R193). -/
def chooseTable (fmt : Nat) (vs : List Nat) : List (Nat × Nat × Nat) :=
  let es := vs.map (expOf fmt)
  let counts := ((upFrom 0 256).map fun e => (e, (es.filter (· == e)).length)).filter fun p => p.2 ≠ 0
  let top := (sortBy (fun p : Nat × Nat => (vs.length - p.2) * 256 + p.1) counts).take 15
  let covered := top.foldl (fun n p => n + p.2) 0
  canonical (huffLengths (top ++ [(256, vs.length - covered)]))

/-- The code of a symbol. -/
def codeOf (tab : List (Nat × Nat × Nat)) (sym : Nat) : List Bool :=
  match tab.find? fun p => p.1 == sym with
  | some (_, n, c) => codeBits n c
  | none => []

/-- Bits of an exponent: its code, or the escape's with its 8 raw bits (R192). -/
def expBits (tab : List (Nat × Nat × Nat)) (e : Nat) : List Bool :=
  if tab.any fun p => p.1 == e then codeOf tab e else codeOf tab 256 ++ rawBits 8 e

/-- Bits of one block of 32 values. -/
def blockBits (fmt : Nat) (tab : List (Nat × Nat × Nat)) (vs : List Nat) : List Bool :=
  vs.flatMap (fun v => expBits tab (expOf fmt v)) ++ vs.map (fun v => bit v (8 * valSize fmt - 1)) ++
    vs.flatMap fun v => rawBits (mantBits fmt) v

/-- Blocks one after another. -/
def blocksBits (fmt : Nat) (tab : List (Nat × Nat × Nat)) : Nat → List Nat → List Bool
  | 0, _ => []
  | n + 1, vs => blockBits fmt tab (vs.take 32) ++ blocksBits fmt tab n (vs.drop 32)

/-- The coded form of a chunk (R192, R193). -/
def encodeChunk (fmt : Nat) (bs : List Byte) : List Byte :=
  let z := valSize fmt
  let nblk := (bs.length / z + 31) / 32
  let vs := valsOf z (32 * nblk) bs
  let tab := chooseTable fmt vs
  let syms := tab.filter fun p => p.1 ≠ 256
  let esc := match tab.find? fun p => p.1 == 256 with
    | some p => p.2.1
    | none => 0
  let hdr := nblk + fmt * 2 ^ 16 + syms.length * 2 ^ 20 + esc * 2 ^ 24
  let all := rawBits 32 hdr ++ syms.flatMap (fun p => rawBits 12 (p.1 + p.2.1 * 256)) ++ blocksBits fmt tab nblk vs
  let n := (all.length + 7) / 8
  if n < 32 * nblk * z then packBytes n all
  else natLe 4 (nblk + fmt * 2 ^ 16 + 2 ^ 28) ++ vs.flatMap (natLe z)

/-- Take a raw field. -/
def takeRaw (n : Nat) (l : List Bool) : Option (Nat × List Bool) :=
  if l.length < n then none else some (bitsVal (l.take n), l.drop n)

/-- Read a prefix code, at most `fuel` bits more; answers its symbol. -/
def takeCode (tab : List (Nat × Nat × Nat)) : Nat → Nat → Nat → List Bool → Option (Nat × List Bool)
  | 0, _, _, _ => none
  | f + 1, n, c, l =>
    match tab.find? fun p => p.2.1 == n && p.2.2 == c && n ≠ 0 with
    | some p => some (p.1, l)
    | none =>
      match l with
      | [] => none
      | b :: r => takeCode tab f (n + 1) (2 * c + (if b then 1 else 0)) r

/-- Read exponents. -/
def takeExps (tab : List (Nat × Nat × Nat)) : Nat → List Bool → Option (List Nat × List Bool)
  | 0, l => some ([], l)
  | n + 1, l => do
    let (e, l1) ← takeCode tab 17 0 0 l
    let (e2, l2) ← if e = 256 then takeRaw 8 l1 else some (e, l1)
    let (r, l3) ← takeExps tab n l2
    some (e2 :: r, l3)

/-- Read raw fields of one width. -/
def takeRaws (w : Nat) : Nat → List Bool → Option (List Nat × List Bool)
  | 0, l => some ([], l)
  | n + 1, l => do
    let (x, l1) ← takeRaw w l
    let (r, l2) ← takeRaws w n l1
    some (x :: r, l2)

/-- Read blocks. -/
def takeBlocks (fmt : Nat) (tab : List (Nat × Nat × Nat)) : Nat → List Bool → Option (List Nat × List Bool)
  | 0, l => some ([], l)
  | n + 1, l => do
    let (es, l1) ← takeExps tab 32 l
    let (ss, l2) ← takeRaws 1 32 l1
    let (ms, l3) ← takeRaws (mantBits fmt) 32 l2
    let vs := (es.zip (ss.zip ms)).map fun p => (p.2.1 * 256 + p.1) * 2 ^ mantBits fmt + p.2.2
    let (r, l4) ← takeBlocks fmt tab n l3
    some (vs ++ r, l4)

/-- Whether a table's lengths are those of a complete prefix code, its entries distinct and in canonical order (R193, R405). -/
def tableOk (ents : List (Nat × Nat)) (esc : Nat) : Bool :=
  let all := ents ++ [(256, esc)]
  esc ≠ 0 && ents.all (fun p => p.2 ≠ 0) && (dedup (ents.map (·.1))).length == ents.length &&
    sortBy (fun p : Nat × Nat => p.2 * 512 + p.1) ents == ents &&
    (all.foldl (fun n p => n + 2 ^ (15 - p.2)) 0 == 2 ^ 15 || (ents.isEmpty && esc == 1))

/-- Restore the values of a coded chunk, or say why its stream is rejected (R405). -/
def decodeChunk (fmt len : Nat) (bs : List Byte) : Except Nat (List Byte) :=
  let z := valSize fmt
  match takeRaw 32 (bitsOfBytes bs) with
  | none => .error 4
  | some (hdr, l) =>
    let nblk := bits hdr 15 0
    if bit hdr 28 then
      if bits hdr 19 16 ≠ fmt then .error 3
      else if l.length < 256 * nblk * z || 256 * nblk * z + 8 < l.length || 32 * nblk * z < len then .error 4
      else .ok ((bs.drop 4).take len)
    else
      match takeRaws 12 (bits hdr 23 20) l with
      | none => .error 4
      | some (es, l1) =>
        let ents := es.map fun x => (x % 256, x / 256)
        if !tableOk ents (bits hdr 27 24) then .error 2
        else if bits hdr 19 16 ≠ fmt then .error 3
        else match takeBlocks fmt (canonical (ents ++ [(256, bits hdr 27 24)])) nblk l1 with
          | none => .error 4
          | some (vs, l2) =>
            if 8 < l2.length || 32 * nblk * z < len then .error 4 else .ok ((vs.flatMap (natLe z)).take len)

/-! ## `cgraph`, `coll`, `comp`: issue (R312, R319, R320, R400) -/

/-- Offset of a node of a slot (R319). -/
def nodeOff (g n : Nat) : Nat := 0x50000 + 32 * (512 * g + n)

/-- A handle that is no level-4 handle of a die: not a counter base (R319). -/
def badBase (s : State) (d h : Nat) : Bool := hLevel h ≠ 4 || hModule h ≠ moduleId s || hDie h ≠ d

/-- `cgraph` in a thread. -/
def cgraphThread (d a amount : Nat) (s0 : State) (i : Issue) (t : Thread) : State × Out :=
  match readReq s0 t (vBits t d) 32 16 with
  | (s, .error f) => (s, .trap f)
  | (s, .ok w) =>
    let w0 := nthD 0 w 0
    let w1 := nthD 0 w 1
    let die := dieOf t.core
    let n := bits w1 9 0
    if bits w0 63 57 ≠ 0 || bits w1 31 13 ≠ 0 || nthD 0 w 3 ≠ 0 || n = 0 || 512 < n || badBase s die (nthD 0 w 2) then (s, .trap reqTrap)
    else
      let h := vPair t a
      let al := if w0 % 32 = 0 then none else some (trap4 5 32 w0)
      match handleTrap s t (nthD 0 w 2) <|> handleTrap s t h <|> extentTrap s t false w0 (32 * n) <|> al with
      | some f => (s, .trap f)
      | none => acceptOr s (portOpOf t i .cgraph h amount w)

/-- `coll` in a thread: its base table is read at issue. -/
def collThread (d a amount : Nat) (s0 : State) (i : Issue) (t : Thread) : State × Out :=
  match readReq s0 t (vBits t d) 16 16 with
  | (s, .error f) => (s, .trap f)
  | (s1, .ok w) =>
    let w0 := nthD 0 w 0
    if bits w0 63 35 ≠ 0 then (s1, .trap reqTrap)
    else match readReq s1 t (bits w0 31 0) 128 16 with
      | (s, .error f) => (s, .trap f)
      | (s, .ok base) =>
        let h := vPair t a
        match handleTrap s t h with
        | some f => (s, .trap f)
        | none =>
          let o := { portOpOf t i .coll h amount [w0, nthD 0 w 1] with base := base.map (BitVec.ofNat 64) }
          if 4 ≤ replaysHeld s o.die then (s, .wait (.room .replay)) else acceptOr s o

/-- Every page of an extent is homed on a die (R320, R400). -/
def homedOn (s : State) (die job : Nat) (write : Bool) : Nat → Nat → Nat → State × Option Trap
  | 0, _, _ => (s, none)
  | f + 1, a, n =>
    if n = 0 then (s, none)
    else
      let m := min n (4096 - a % 4096)
      match xlate s die job a write false with
      | (s1, .at k _) => if k < 2 ^ 48 && k / 2 ^ 44 == die then homedOn s1 die job write f (a + m) (n - m) else (s1, some reqTrap)
      | (s1, .bad c x) => (s1, some (trap4 c x a))
      | (s1, .ask _ _ _) => (s1, some reqTrap)

/-- `comp` in a thread. -/
def compThread (d a amount : Nat) (s0 : State) (i : Issue) (t : Thread) : State × Out :=
  match readReq s0 t (vBits t d) 32 16 with
  | (s, .error f) => (s, .trap f)
  | (s, .ok w) =>
    let w2 := nthD 0 w 2
    let fmt := bits w2 33 32
    let len := bits w2 31 0
    if bits (nthD 0 w 0) 63 57 ≠ 0 || bits (nthD 0 w 1) 63 57 ≠ 0 || bits w2 63 37 ≠ 0 || nthD 0 w 3 ≠ 0 ||
        !pairOk fmt (bits w2 35 34) || len % elemSize fmt ≠ 0 then (s, .trap reqTrap)
    else
      let h := vPair t a
      match handleTrap s t h <|> netExtent s t (nthD 0 w 0) len <|> netExtent s t (nthD 0 w 1) len with
      | some f => (s, .trap f)
      | none =>
        let die := dieOf t.core
        let pages := len / 4096 + 2
        match homedOn s die t.job true pages (nthD 0 w 0) len with
        | (s1, some f) => (s1, .trap f)
        | (s1, none) =>
          match homedOn s1 die t.job false pages (nthD 0 w 1) len with
          | (s2, some f) => (s2, .trap f)
          | (s2, none) => acceptOr s2 (portOpOf t i .comp h amount w)

/-- CGRAPH (R320). -/
def execCgraph (h : Hdr) (d a b : BitVec 7) (s : State) : Host.Outcome State Fault Refusal :=
  issued (perThread { f := memF h 72#7 d a b } (netNames d.toNat a.toNat (some b.toNat))
    (fun s i t => cgraphThread d.toNat a.toNat (vBits t b.toNat) s i t) s)

/-- CGRAPH with the amount in the literal (R320). -/
def execCgraphLit (h : Hdr) (d a : BitVec 7) (lit : Word) (s : State) : Host.Outcome State Fault Refusal :=
  issued (perThread { f := memF h 73#7 d a 0#7 } (netNames d.toNat a.toNat none) (cgraphThread d.toNat a.toNat lit.toNat) s)

/-- COLL (R320). -/
def execColl (h : Hdr) (d a b : BitVec 7) (s : State) : Host.Outcome State Fault Refusal :=
  issued (perThread { f := memF h 74#7 d a b } (netNames d.toNat a.toNat (some b.toNat))
    (fun s i t => collThread d.toNat a.toNat (vBits t b.toNat) s i t) s)

/-- COLL with the amount in the literal (R320). -/
def execCollLit (h : Hdr) (d a : BitVec 7) (lit : Word) (s : State) : Host.Outcome State Fault Refusal :=
  issued (perThread { f := memF h 75#7 d a 0#7 } (netNames d.toNat a.toNat none) (collThread d.toNat a.toNat lit.toNat) s)

/-- COMP (R320). -/
def execComp (h : Hdr) (d a b : BitVec 7) (s : State) : Host.Outcome State Fault Refusal :=
  issued (perThread { f := memF h 76#7 d a b } (netNames d.toNat a.toNat (some b.toNat))
    (fun s i t => compThread d.toNat a.toNat (vBits t b.toNat) s i t) s)

/-- COMP with the amount in the literal (R320). -/
def execCompLit (h : Hdr) (d a : BitVec 7) (lit : Word) (s : State) : Host.Outcome State Fault Refusal :=
  issued (perThread { f := memF h 77#7 d a 0#7 } (netNames d.toNat a.toNat none) (compThread d.toNat a.toNat lit.toNat) s)

/-! ## Binding a graph and starting a replay (R188, R320, R404) -/

/-- The graph slot of a die. -/
def graphOf (s : State) (d g : Nat) : Option GraphSlot := s.graphs.find? fun x => x.die == d && x.slot == g

/-- Set a graph slot. -/
def setGraph (s : State) (x : GraphSlot) : State :=
  { s with graphs := s.graphs.filter (fun y => !(y.die == x.die && y.slot == x.slot)) ++ [x] }

/-- Store nodes in a slot. -/
def putNodes (d g : Nat) : State → Nat → List DWord → State
  | s, _, [] => s
  | s, k, w :: r => putNodes d g (setReg s d (nodeOff g 0 + 8 * k) w.toNat) (k + 1) r

/-- The first node that `cgraph` refuses (R404): OP 5 to 15, or a combining node whose FMT and MODE do not go together. -/
def badNode (ws : List DWord) (n : Nat) : Option Nat :=
  (upFrom 0 n).find? fun k =>
    let w := (nthD 0#64 ws (4 * k)).toNat
    let op := bits w 3 0
    5 ≤ op || ((op == 1 || op == 2) && !pairOk (bits w 5 4) (bits w 7 6))

/-- CGRAPH_BIND: the nodes are copied into the slot, and it is bound (R188, R320, R404). -/
def execCgraphBind (op : Nat) (s : State) : Host.Outcome State Fault Refusal :=
  issued (match s.portOps.find? fun o => o.id == op && o.kind == .cgraph with
    | some o =>
      let n := bits (o.w 1) 9 0
      let g := bits (o.w 1) 12 10
      let before := s.portOps.any fun q => q.id < o.id && q.die == o.die &&
        ((q.kind == .coll && bits (q.w 0) 34 32 == g) || (q.kind == .cgraph && bits (q.w 1) 12 10 == g))
      if before || !opReady s o then s
      else match engRead s o.die o.job o.id (o.w 0 % 2 ^ 57) (32 * n) with
        | (s1, .wait) => s1
        | (s1, .fail va c) =>
          let (i, s2) := takeFree s1
          failOp s2 o 6 1 va (c + 4 * 16) (Config.freeWord i).toNat
        | (s1, .ok bs) =>
          let ws := wordsOf (4 * n) bs
          let x : GraphSlot := ⟨o.die, g, n, BitVec.ofNat 64 (o.w 2), o.w 1 / 2 ^ 32, o.job, 0, true⟩
          match badNode ws n with
          | some k => failOp (setGraph s1 { x with bound := false }) o 8 9 0 (g + k * 8) 1
          | none => completeOp (setGraph (putNodes o.die g s1 0 ws) x) o
    | none => s)

/-- The running replay of a die. -/
def replayOn (s : State) (d : Nat) : Option Replay := s.replays.find? fun r => r.die == d

/-- The base table that a die's engine uses for what its peers write: the running replay's, else the earliest queued one's, else the last
one's. -/
def baseOn (s : State) (d : Nat) : List DWord :=
  match s.portOps.find? fun o => o.die == d && o.kind == .coll && o.started with
  | some o => o.base
  | none =>
    match s.portOps.find? fun o => o.die == d && o.kind == .coll with
    | some o => o.base
    | none =>
      match s.ceBase.find? fun p => p.1 == d with
      | some p => p.2
      | none => []

/-- Whether a replay that starts now runs untimed (R407). -/
def startsUntimed (s : State) (d slotw : Nat) : Bool :=
  !bit (getReg s d 0x840) 0 || slotw < getField s d 0x840 63 32

/-- REPLAY_START: the oldest queued replay starts when none runs (R188, R404, R407). A `coll` of another job than the one that the slot is bound
to finds it unbound (DESIGN CHOICE, log entry 125: R188 gives it no fate). -/
def execReplayStart (die : Nat) (s : State) : Host.Outcome State Fault Refusal :=
  issued (match replayOn s die, s.portOps.find? fun o => o.die == die && o.kind == .coll with
    | none, some o =>
      let g := bits (o.w 0) 34 32
      if !opReady s o || s.portOps.any (fun q => q.id < o.id && q.die == die && q.kind == .cgraph && bits (q.w 1) 12 10 == g) then s
      else match graphOf s die g with
        | none => failOp s o 8 9 0 g 2
        | some x =>
          if !x.bound || x.job ≠ o.job then failOp s o 8 9 0 g 2
          else
            let un := startsUntimed s die x.slotw
            let s1 := setGraph s { x with r := x.r + 1 }
            let s2 := if un then setField (bumpField s1 die 0x848 15 0) die 0x848 18 16 g else s1
            let s3 := modOp s2 o.id fun o => { o with started := true }
            { s3 with
              replays := s3.replays ++ [⟨die, g, o.id, x.r, BitVec.ofNat 64 (o.w 1), un, List.replicate x.n .waiting⟩]
              ceBase := (die, o.base) :: s3.ceBase.filter fun p => p.1 ≠ die }
    | _, _ => s)

/-! ## Nodes (R189, R191, R194, R198, R408) -/

/-- Word k of a node of a running replay. -/
def nodeW (s : State) (r : Replay) (n k : Nat) : Nat := getReg s r.die (nodeOff r.slot n + 8 * k)

/-- C(x) at a module and die (R189). -/
def graphCtr (x : GraphSlot) (m d k : Nat) : Nat :=
  4 * 2 ^ 61 + m * 2 ^ 48 + d * 2 ^ 44 + (hIndex x.gcb.toNat + k) % 2 ^ 37

/-- Base-table entry (R189). -/
def baseAddr (l : List DWord) (k : Nat) : Nat := (nthD 0#64 l k).toNat % 2 ^ 57

/-- NB of a node, when it counts: in ticks after T0 (R189, R407). -/
def notBefore (s : State) (r : Replay) (n : Nat) : Option Nat :=
  let nb := bits (nodeW s r n 1) 63 40
  if r.untimed || nb = 2 ^ 24 - 1 then none else some (r.t0.toNat + nb)

/-- The number under which a node of a replay reads and writes. -/
def nodeOp (r : Replay) (n : Nat) : Nat := 2 ^ 32 * (n + 1) + r.op

/-- Set a node's state. -/
def setNode (s : State) (r : Replay) (n : Nat) (v : NodeState) : State :=
  { s with replays := s.replays.map fun q => if q.die == r.die then { q with nodes := modNth (fun _ => v) n q.nodes } else q }

/-- A late start is recorded (R191). -/
def recordLate (s : State) (r : Replay) (n late : Nat) : State :=
  let s1 := bumpField s r.die 0x810 15 0
  let s2 := setField (setField s1 r.die 0x810 27 16 n) r.die 0x810 31 28 r.slot
  setField s2 r.die 0x810 63 32 (max (getField s2 r.die 0x810 63 32) (min late (2 ^ 32 - 1)))

/-- A node fails: its record; the replay never completes (R404). -/
def failNode (s : State) (r : Replay) (o : PortOp) (n : Nat) : State :=
  opRecord (setNode (engEnded s (nodeOp r n)) r n .failed) o 8 9 0 (r.slot + n * 8) 0

/-- The chunks of a node's data (R189, R192, R198). -/
def chunksOf (c : Chunk) (cmpr : Bool) : Nat → Nat → List Byte → List Chunk
  | 0, _, _ => []
  | f + 1, off, bs =>
    let part := bs.take 4096
    let rest := bs.drop 4096
    let code := cmpr && c.fmt ≤ 1 && part.length % 4 == 0 && !part.isEmpty
    { c with
      off := off, len := part.length, coded := code
      data := if code then encodeChunk c.fmt part else part
      last := rest.isEmpty } :: (if rest.isEmpty then [] else chunksOf c cmpr f (off + 4096) rest)

/-- Send chunks to the peer of a connection. -/
def sendChunks (d op dmod ddie : Nat) : State → List Chunk → State
  | s, [] => s
  | s, c :: r =>
    sendChunks d op dmod ddie
      (sendMsg s { NetMsg.blank with smod := moduleId s, sdie := d, dmod := dmod, ddie := ddie, op := op, body := .chunk c }) r

/-- The node of the tree to which a node of a graph contributes, with DET (R189). -/
def nodeTree (s : State) (r : Replay) (n : Nat) : Option (Nat × Nat) :=
  if bit (nodeW s r n 0) 11 then some (bits (nodeW s r n 3) 52 48, bits (nodeW s r n 2) 59 40) else none

/-- A node's send, with or without a combine at the peer (R189, R198). -/
def startSend (s : State) (r : Replay) (o : PortOp) (x : GraphSlot) (n : Nat) : State :=
  let w0 := nodeW s r n 0
  let w3 := nodeW s r n 3
  let off := connOff (bits w0 23 12)
  if !entryValid s r.die off || entryJob s r.die off ≠ o.job then failNode s r o n
  else match engRead s r.die o.job (nodeOp r n) (baseAddr o.base (bits w0 27 24) + bits (nodeW s r n 1) 39 0) (w0 / 2 ^ 32) with
    | (s1, .wait) => s1
    | (s1, .fail _ _) => failNode s1 r o n
    | (s1, .ok bs) =>
      let cw := getReg s r.die off
      let dmod := bits cw 12 0
      let sig := bits w3 47 32
      let det := bit w0 11
      let cap := getReg s r.die 0x818
      let c : Chunk :=
        { conn := bits cw 28 17, job := o.job, slot := r.slot, node := n, db := bits w0 31 28, off := 0, len := 0
          fmt := bits w0 5 4, mode := bits w0 7 6, front := bit w0 9, combine := bits w0 3 0 == 1, coded := false
          insw := bits w0 3 0 == 1 && bit w0 10 && dmod ≠ moduleId s && (if det then bit cap 1 else bit cap 0)
          tree := nodeTree s r n
          data := [], last := true
          sig := if sig = 65535 then none else some (BitVec.ofNat 64 (graphCtr x dmod (bits cw 16 13) sig)) }
      sendChunks r.die o.id dmod (bits cw 16 13) (setNode s1 r n .running)
        (chunksOf c (bit w0 8) (bs.length / 4096 + 1) (bits (nodeW s r n 2) 39 0) bs)

/-- Two nodes of a tree cover an index in common. -/
def treeMeets (k i k2 i2 : Nat) : Bool := i * 2 ^ k < (i2 + 1) * 2 ^ k2 && i2 * 2 ^ k2 < (i + 1) * 2 ^ k

/-- The destination's own bytes may stand for the sibling of a node in hand: no node stands for them yet in this round, and none that is held lies
below that sibling. -/
def ownSibling (l : List TreeNode) (n : TreeNode) : Bool :=
  n.bytes.isSome && !l.any fun m => m.bytes.isNone || treeMeets m.k m.i n.k (n.i ^^^ 1)

/-- The loop of R122 over nodes with bytes: the operand of the lower index first; `db` are the destination's bytes, for which the node without
bytes stands. A node that finds no sibling is combined with them as its sibling, or held, by a free choice as long as no node stands for
them (log entry 113). Answers the nodes that are left, that in hand among them, and the destination's new bytes. -/
def treeLoop (fmt mode : Nat) (front : Bool) (db : List Byte) : Nat → State → List TreeNode → TreeNode → List Byte → State × List TreeNode × Option (List Byte)
  | 0, s, l, n, x => (s, n :: l, if n.bytes.isNone then some x else none)
  | f + 1, s0, l0, n, x =>
    let (j, s) := if ownSibling l0 n then takeFree s0 else (0, s0)
    let l := if ownSibling l0 n && Config.freeBit j then ⟨n.die, n.addr, n.job, n.k, n.i ^^^ 1, none⟩ :: l0 else l0
    match l.find? fun m => m.k == n.k && m.i == n.i ^^^ 1 with
    | none => (s, { n with bytes := n.bytes.map fun _ => x } :: l, if n.bytes.isNone then some x else none)
    | some m =>
      let y := m.bytes.getD db
      let (s1, v) := if n.i < m.i then combineBytes s fmt mode front x y else combineBytes s fmt mode front y x
      treeLoop fmt mode front db f s1 (l.erase m)
        { n with k := n.k + 1, i := n.i / 2, bytes := if n.bytes.isNone || m.bytes.isNone then none else some v } v

/-- Nodes of a destination, that of its own bytes among them once it is known; a contribution to what these already stand for begins a new round
(R122). -/
def treeAt (s : State) (die addr job k i : Nat) : List TreeNode :=
  let l := s.trees.filter fun n => n.die == die && n.addr == addr && n.job == job
  match l.find? fun n => n.bytes.isNone with
  | some n => if treeMeets n.k n.i k i then l.erase n else l
  | none => l

/-- A write of the engines of a die to one of these runs is under way. -/
def unitWrites (s : State) (die : Nat) (ps : List (Nat × Nat)) : Bool :=
  s.packets.any fun p => p.src == engSrc die && p.body.isStore && listsMeet p.body.runs ps

/-- The bytes of a destination, read for a combine once no earlier write of the die's engines to them is under way, and their places. -/
def readDest (s : State) (die job op a n : Nat) : State × EngRes (List (Nat × Nat) × List Byte) :=
  match engPlaces s die job op (pagePieces (n / 4096 + 2) a n) [] with
  | (s1, .wait) => (s1, .wait)
  | (s1, .fail v c) => (s1, .fail v c)
  | (s1, .ok ps) =>
    if unitWrites s1 die ps then (s1, .wait)
    else match engRead s1 die job op a n with
      | (s2, .ok db) => (s2, .ok (ps, db))
      | (s2, .fail v c) => (s2, .fail v c)
      | (s2, .wait) => (s2, .wait)

/-- D := Combine(D, S) at a destination (R189, R194), whose new bytes set out; with a node of a tree, every combine is that of R122: one whose
sibling is not there waits for it. -/
def combineAt (s : State) (die job op a fmt mode : Nat) (front : Bool) (tree : Option (Nat × Nat)) (bs : List Byte) : State × EngRes Unit :=
  match readDest s die job op a bs.length with
  | (s1, .wait) => (s1, .wait)
  | (s1, .fail v c) => (s1, .fail v c)
  | (s1, .ok (ps, db)) =>
    match tree with
    | none => let (s2, v) := combineBytes s1 fmt mode front db bs; (sendPackets s2 (placePackets s2 die job op a ps v), .ok ())
    | some (k, i) =>
      match treeLoop fmt mode front db 42 s1 (treeAt s1 die a job k i) ⟨die, a, job, k, i, some bs⟩ bs with
      | (s2, l, v) =>
        ({ sendPackets s2 ((v.map (placePackets s2 die job op a ps)).getD []) with
          trees := s2.trees.filter (fun n => !(n.die == die && n.addr == a && n.job == job)) ++ l }, .ok ())

/-- A node's combine or copy on its die, whose bytes set out (R189). -/
def startLocal (s : State) (r : Replay) (o : PortOp) (n : Nat) (combine : Bool) : State :=
  let w0 := nodeW s r n 0
  let len := w0 / 2 ^ 32
  let da := baseAddr o.base (bits w0 31 28) + bits (nodeW s r n 2) 39 0
  match engRead s r.die o.job (nodeOp r n) (baseAddr o.base (bits w0 27 24) + bits (nodeW s r n 1) 39 0) len with
  | (s1, .wait) => s1
  | (s1, .fail _ _) => failNode s1 r o n
  | (s1, .ok bs) =>
    match if combine then combineAt s1 r.die o.job (nodeOp r n) da (bits w0 5 4) (bits w0 7 6) (bit w0 9) (nodeTree s r n) bs
      else engWrite s1 r.die o.job (nodeOp r n) da bs with
    | (s2, .ok _) => setNode s2 r n .running
    | (s2, .fail _ _) => failNode s2 r o n
    | (s2, .wait) => s2

/-- The waiter entry of a node's dependence on module m (R69, R189). -/
def nodeWaiter (m : Nat) (r : Replay) (o : PortOp) (n h thresh : Nat) : Waiter where
  thresh := BitVec.ofNat 64 thresh
  deadline := none
  handle := BitVec.ofNat 64 h
  kind := 4
  cond := 0
  job := o.job
  module := m
  unit := 128 * r.die + 127
  lane := 0
  slot := 0
  tag := n
  uid := 4096 * r.op + n
  scope := 5
  spilled := false

/-- A node's dependence is registered at its counter's home (R189, R386); where the handle is malformed the wait is not made, and the
node never runs (R384). -/
def askNode (s : State) (r : Replay) (o : PortOp) (x : GraphSlot) (n : Nat) : State :=
  let w := nodeW s r n 3
  let h := graphCtr x (moduleId s) r.die (bits w 15 0)
  match badHandle s h with
  | some c => raiseAsync (setNode s r n .failed) 5 1 o.job r.die 127 o.pc.toNat h (some (h, 0)) c 0
  | none =>
    sendPacket (setNode s r n .asked) { Packet.blank with
      src := 2000000 + r.die, dst := homeUnit s h, ordered := localHandle s h, job := o.job
      body := .ctr (BitVec.ofNat 64 h) (.wait (nodeWaiter (moduleId s) r o n h (bits w 31 16 * (r.r + 1)))) }

/-- What a node does once it has started (R189). -/
def nodeWork (s : State) (r : Replay) (o : PortOp) (x : GraphSlot) (n : Nat) : State :=
  match bits (nodeW s r n 0) 3 0 with
  | 0 => startSend s r o x n
  | 1 => startSend s r o x n
  | 2 => startLocal s r o n true
  | 3 => startLocal s r o n false
  | _ => setNode s r n .running

/-- A node whose dependence holds starts when its time has come; its lateness is that of its start (R189, R191). -/
def runNode (s : State) (r : Replay) (o : PortOp) (x : GraphSlot) (n : Nat) : State :=
  let now := ftime s r.die
  if (notBefore s r n).any (now < ·) then s
  else
    let s1 := match notBefore s r n with
      | some t => if t + x.slotw < now then recordLate s r n (now - t) else s
      | none => s
    nodeWork (setNode s1 r n .begun) r o x n

/-- A node's next step before it runs (R189). -/
def startNode (s : State) (die node : Nat) : State :=
  match replayOn s die with
  | none => s
  | some r =>
    match findOp s r.op, graphOf s die r.slot with
    | some o, some x =>
      if opHeld s o then s
      else match nthD .done r.nodes node with
        | .waiting => if bits (nodeW s r node 3) 31 16 = 0 then runNode s r o x node else askNode s r o x node
        | .ready => runNode s r o x node
        | .begun => nodeWork s r o x node
        | _ => s
    | _, _ => s

/-- The wake of a node's dependence arrives at its engine. -/
def wakeNode (s : State) (w : Waiter) : State :=
  match replayOn s (dieOf w.unit) with
  | some r => if w.uid = 4096 * r.op + w.tag ∧ nthD .done r.nodes w.tag = .asked then setNode s r w.tag .ready else s
  | none => s

/-- GRAPH_NODE_START: a node whose waits hold starts (R189). -/
def execGraphNodeStart (die node : Nat) (s : State) : Host.Outcome State Fault Refusal := issued (startNode s die node)

/-- NOT_BEFORE_EXPIRY: field time reaches a node's T0 + NB, and it starts when its dependence holds (R189, R191). -/
def execNotBeforeExpiry (die node : Nat) (s : State) : Host.Outcome State Fault Refusal :=
  issued (match replayOn s die with
    | some r => if (notBefore s r node).isSome then startNode s die node else s
    | none => s)

/-- The base addresses and the place at which a chunk arrives are those of the receiving die (R189). -/
def chunkAt (s : State) (d : Nat) (c : Chunk) : Nat := baseAddr (baseOn s d) c.db + c.off

/-- An earlier chunk of a node has been refused. -/
def chunkFailed (s : State) (m : NetMsg) (node : Nat) : Bool :=
  s.fabric.any fun q => q.op == m.op && q.dmod == m.smod && q.ddie == m.sdie && (match q.body with
    | .chunkAck k ok => k == node && !ok
    | _ => false)

/-- A chunk is refused: the NACK, which the port counts. -/
def refuseChunk (s : State) (m : NetMsg) (c : Chunk) : State := reply (bumpField s m.ddie 0x838 31 0) m (.chunkAck c.node false)

/-- A chunk's bytes are in place: SIG, and the acknowledgement (R189). -/
def finishChunk (s : State) (m : NetMsg) (c : Chunk) : State :=
  let failed := chunkFailed s m c.node
  let s1 := reply s m (.chunkAck c.node true)
  match c.sig with
  | some h => if c.last && !failed then engineAdd s1 m.ddie 127 c.job 0 h.toNat 1 else s1
  | none => s1

/-- A chunk's bytes have set out: it is finished when they are in place (R119). -/
def settleChunk (s : State) (m : NetMsg) (c : Chunk) : State :=
  match engDone s m.id with
  | .ok _ => finishChunk s m c
  | .fail _ _ => refuseChunk s m c
  | .wait => s

/-- A chunk's data sets out for its place, or is combined with what is there (R189, R194). -/
def placeChunk (s : State) (m : NetMsg) (c : Chunk) (bs : List Byte) : State :=
  let d := m.ddie
  let a := chunkAt s d c
  match if c.combine then combineAt s d c.job m.id a c.fmt c.mode c.front c.tree bs else engWrite s d c.job m.id a bs with
  | (s1, .ok _) =>
    settleChunk { s1 with fabric := s1.fabric.map fun q => if q.id == m.id then { q with got := true, written := true } else q } m c
  | (s1, .fail _ _) => refuseChunk s1 m c
  | (s1, .wait) => holdMsg s1 m.id

/-- COLLECTIVE_CHUNK_RECEIVE: a chunk arrives at its destination end (R189, R192 to R197, R404, R405). -/
def execCollectiveChunkReceive (msg : Nat) (s : State) : Host.Outcome State Fault Refusal :=
  issued (match netArriving s msg with
    | some m =>
      (match m.body with
      | .chunk c =>
        let off := connOff c.conn
        if m.written then settleChunk s m c
        else if !m.got && (!entryValid s m.ddie off || entryJob s m.ddie off ≠ c.job) then refuseChunk s m c
        else if c.coded then
          match decodeChunk c.fmt c.len c.data with
          | .ok bs => placeChunk s m c bs
          | .error r => refuseChunk (raiseAsync s 8 10 c.job m.ddie 127 0 0 none (c.slot + c.node * 8) r) m c
        else placeChunk s m c c.data
      | _ => s)
    | none => s)

/-- A message that belongs to a node of an operation: a chunk that it sent, or the answer to one. -/
def nodeMsg (s : State) (die op node : Nat) (m : NetMsg) : Bool :=
  m.op == op && (match m.body with
    | .chunk c => c.node == node && m.smod == moduleId s && m.sdie == die
    | .chunkAck k _ => k == node && m.dmod == moduleId s && m.ddie == die
    | _ => false)

/-- Whether the chunks of a node have all been answered. -/
def chunksAnswered (s : State) (die op node : Nat) : Bool :=
  let ms := s.fabric.filter (nodeMsg s die op node)
  let sent := ms.filter fun m => m.body.isRequest
  let far := ms.filter fun m => !m.body.isRequest && m.smod ≠ moduleId s
  sent.all (fun m => m.dmod ≠ moduleId s) && sent.length ≤ far.length

/-- Whether a chunk of a node was refused. -/
def chunksRefused (s : State) (die op node : Nat) : Bool :=
  s.fabric.any fun m => nodeMsg s die op node m && (match m.body with
    | .chunkAck _ ok => !ok
    | _ => false)

/-- A replay all of whose nodes are complete is over (R189). -/
def endReplay (s : State) (die : Nat) (o : PortOp) : State :=
  match replayOn s die with
  | some r => if r.nodes.all (· == .done) then completeOp { s with replays := s.replays.filter fun q => q.die ≠ die } o else s
  | none => s

/-- GRAPH_NODE_COMPLETE: a node's transfer is acknowledged, or its combine or copy is in memory; it signals, and the last node ends the
replay (R189, R404). -/
def execGraphNodeComplete (die node : Nat) (s : State) : Host.Outcome State Fault Refusal :=
  issued (match replayOn s die with
    | none => s
    | some r =>
      match findOp s r.op, graphOf s die r.slot with
      | some o, some x =>
        let done := engDone s (nodeOp r node)
        if nthD .done r.nodes node ≠ .running || done = .wait || !chunksAnswered s die o.id node then s
        else
          let s1 := { engEnded s (nodeOp r node) with fabric := s.fabric.filter fun m => !nodeMsg s die o.id node m }
          if chunksRefused s die o.id node || done ≠ .ok () then failNode s1 r o node
          else
            let sig := bits (nodeW s r node 3) 47 32
            let s2 := setNode s1 r node .done
            let s3 := if 2 ≤ bits (nodeW s r node 0) 3 0 && sig ≠ 65535 then
              engineAdd s2 die 127 o.job o.pc.toNat (graphCtr x (moduleId s) die sig) 1 else s2
            endReplay s3 die o
      | _, _ => s)

/-! ## `comp` (R320) -/

/-- Which bytes of the destination the second operand overlaps, by place. -/
def overlapAt (dp sp : List (Nat × Nat)) : List Bool := (dp.flatMap fun p => upFrom p.1 p.2).map (inRuns sp)

/-- Overlapped bytes end with values that are not promised (R320). -/
def looseBytes : State → List Bool → List Byte → State × List Byte
  | s, true :: r, _ :: q =>
    let (i, s1) := takeFree s
    let (s2, l) := looseBytes s1 r q
    (s2, Config.freeByte i :: l)
  | s, false :: r, b :: q => let (s2, l) := looseBytes s r q; (s2, b :: l)
  | s, _, q => (s, q)

/-- Places of an extent that an engine reads. -/
def readPlaces (s : State) (die job op a n : Nat) : List (Nat × Nat) :=
  (pagePieces (n / 4096 + 2) a n).filterMap fun p =>
    match (engAt s die job op p.1 false).2 with
    | .at k _ => some (k, p.2)
    | _ => none

/-- The bytes of a `comp` have set out: it is over when they are in memory (R119, R320, R389). -/
def endComp (s : State) (o : PortOp) (fail : State → Nat → Nat → State) : State :=
  match engDone s o.id with
  | .ok _ => completeOp s o
  | .fail va c => fail s va c
  | .wait => s

/-- COMP_COMPLETE: D := Combine(D, S) over the extents of a `comp` (R320). -/
def execCompComplete (op : Nat) (s : State) : Host.Outcome State Fault Refusal :=
  issued (match s.portOps.find? fun o => o.id == op && o.kind == .comp with
    | some o =>
      if !opReady s o then s
      else
        let w2 := o.w 2
        let len := bits w2 31 0
        let da := o.w 0 % 2 ^ 57
        let sa := o.w 1 % 2 ^ 57
        let fail : State → Nat → Nat → State := fun s va c =>
          let (i, s1) := takeFree s
          failOp s1 o 6 1 va (c + 4 * 16) (Config.freeWord i).toNat
        if o.written then endComp s o fail
        else match engRead s o.die o.job op da len with
        | (s1, .wait) => s1
        | (s1, .fail va c) => fail s1 va c
        | (s1, .ok d) =>
          match engRead s1 o.die o.job op sa len with
          | (s2, .wait) => s2
          | (s2, .fail va c) => fail s2 va c
          | (s2, .ok x) =>
            let (s3, v) := combineBytes s2 (bits w2 33 32) (bits w2 35 34) (bit w2 36) d x
            let dp := readPlaces s3 o.die o.job op da len
            let sp := readPlaces s3 o.die o.job op sa len
            let (s4, v2) := if listsMeet dp sp then looseBytes s3 (overlapAt dp sp) v else (s3, v)
            match engWrite s4 o.die o.job op da v2 with
            | (s5, .wait) => s5
            | (s5, .fail va c) => fail s5 va c
            | (s5, .ok _) => endComp (modOp s5 op fun o => { o with written := true }) o fail
    | none => s)

/-! ## In-switch reduction (R198, R408) -/

/-- INSW_DISCOVERY: the switch's discovery message sets PORT_INSW_CAP (R198). -/
def execInswDiscovery (die : Nat) (present treeExact : Bool) (s : State) : Host.Outcome State Fault Refusal :=
  issued (setReg s die 0x818 ((if present then 1 else 0) + (if treeExact then 2 else 0)))

/-- Whether a message is a chunk of a node that a switch combines. -/
def inSwitch (s : State) (die node : Nat) (m : NetMsg) : Bool :=
  m.smod == moduleId s && m.sdie == die && (match m.body with
    | .chunk c => c.node == node && c.insw
    | _ => false)

/-- Chunks refused by the switch are counted (R408). -/
def countRefused (die : Nat) : State → List NetMsg → State
  | s, [] => s
  | s, _ :: r => countRefused die (bumpField s die 0x850 31 0) r

/-- INSW_REFUSAL: a switch refuses a node; the port sends its chunks for the endpoints to combine and counts them (R408). -/
def execInswRefusal (die node : Nat) (s : State) : Host.Outcome State Fault Refusal :=
  issued (countRefused die
    { s with fabric := s.fabric.map fun m => if inSwitch s die node m then
        { m with body := match m.body with
            | .chunk c => .chunk { c with insw := false }
            | b => b } else m } (s.fabric.filter (inSwitch s die node)))

end Sys2Proof.Machine
end

