-- ==== Sys2Proof/Machine/Ctx.lean ====
section
/-! DEFINITION. The blocks of a thread's and of a flock's state (13 R327 to R329), and the save area of a job (02 R48, R56). -/

namespace Sys2Proof.Machine

/-! ## The thread block (R328) -/

/-- WKIND, WSCOPE, NCOND, ALL, MASK and WDEST as a word. -/
def waitWord (w : Waiting) : Nat :=
  match w with
  | .cwt sc _ => 1 + sc % 8 * 4 + 1 * 32
  | .cwait sc _ all _ _ df cs m => 2 + sc % 8 * 4 + cs.length % 8 * 32 + (if all then 256 else 0) + m % 16 * 512 + df % 128 * 8192
  | _ => 0

/-- DEADLINE of a wait. -/
def waitDeadline (w : Waiting) : Nat :=
  match w with
  | .cwait _ _ _ (some d) _ _ _ _ => d
  | _ => 2 ^ 64 - 1

/-- HANDLE and THRESH of the wait's four conditions. -/
def condWords (w : Waiting) : List Byte :=
  (upFrom 0 4).flatMap fun c =>
    match (waitConds w)[c]? with
    | some k => natLe 8 k.handle.toNat ++ natLe 8 k.thresh.toNat
    | none => natLe 16 0

/-- Tags of an allocation, two to a byte, in 512 bytes. -/
def tagBytes (t : Thread) : List Byte :=
  (upFrom 0 512).map fun i =>
    if 2 * i < t.alloc then BitVec.ofNat 8 ((getIdx t (2 * i)).tag.toNat + 16 * (getIdx t (2 * i + 1)).tag.toNat) else 0#8

/-- The thread block (R328). -/
def threadBlock (t : Thread) : List Byte :=
  natLe 8 t.pc.toNat ++
    natLe 8 (t.lane % 32 + t.slot % 64 * 2 ^ 5 + (t.alloc / 32 - 1) % 32 * 2 ^ 11 + t.wb % 1024 * 2 ^ 16 + (if t.g then 2 ^ 26 else 0) +
      t.status.toNat * 2 ^ 32) ++
    natLe 8 (t.tnum.toNat + flockId t.core t.flock * 2 ^ 32) ++ natLe 8 (waitWord t.wait) ++ natLe 8 (waitDeadline t.wait) ++
    natLe 8 (t.segG.base % 2 ^ 45) ++ natLe 8 (t.segG.limit % 2 ^ 45) ++ natLe 4 t.segL.base ++ natLe 4 t.segL.limit ++
    natLe 8 (t.segC.base % 2 ^ 37) ++ natLe 8 (t.segC.limit % 2 ^ 37) ++ natLe 16 0 ++ condWords t.wait ++ natLe 96 0 ++ tagBytes t ++
    (upFrom 0 t.alloc).flatMap fun i => natLe 4 (getIdx t i).bits.toNat

/-- Bytes of a thread block. -/
def threadBlockSize (t : Thread) : Nat := 0x300 + 4 * t.alloc

/-- A field of a block. -/
def blockNat (b : List Byte) (off n : Nat) : Nat := leNat ((b.drop off).take n)

/-- Tag of register i in a block. -/
def blockTag (b : List Byte) (i : Nat) : Nat := blockNat b (0x100 + i / 2) 1 / 16 ^ (i % 2) % 16

/-- The fields that are written back from a thread block (R329). The reserved bits of STATUS stay 0 (R131). -/
def loadThreadBlock (t : Thread) (b : List Byte) : Thread :=
  { t with
    pc := BitVec.ofNat 57 (blockNat b 0 8 / 4 * 4)
    g := bit (blockNat b 8 8) 26
    wb := bits (blockNat b 8 8) 25 16
    status := BitVec.ofNat 16 (bits (blockNat b 8 8) 39 32)
    segG := ⟨bits (blockNat b 0x28 8) 44 0, bits (blockNat b 0x30 8) 44 0⟩
    segL := ⟨blockNat b 0x38 4, blockNat b 0x3C 4⟩
    segC := ⟨bits (blockNat b 0x40 8) 36 0, bits (blockNat b 0x48 8) 36 0⟩
    regs := mapSetAll rawZero [] ((upFrom 0 t.alloc).map fun i =>
      (i, ⟨BitVec.ofNat 32 (blockNat b (0x300 + 4 * i) 4), BitVec.ofNat 4 (blockTag b i)⟩)) }

/-! ## The flock block (R328) -/

/-- SLOTMAP as a number. -/
def slotMap (ms : List Thread) : Nat := ms.foldl (fun n t => n + t.slot % 64 * 2 ^ (6 * t.lane)) 0

/-- A tile as its 4 KiB. -/
def tileBytes (t : Tile) : List Byte := (upFrom 0 1024).flatMap fun i => natLe 4 (mapGet 0#32 t.elems i).toNat

/-- Tags of a flock's tiles as a number. -/
def tileTags (ts : List Tile) : Nat := ((upFrom 0 ts.length).zip ts).foldl (fun n p => n + p.2.tag.toNat * 16 ^ p.1) 0

/-- The flock block (R328). -/
def flockBlock (s : State) (f : Flock) : List Byte :=
  let ms := membersOf s f.core f.idx
  natLe 4 (flockId f.core f.idx) ++ natLe 4 (maskOf (ms.map (·.lane))) ++
    natLe 4 (f.tiles.length + f.prio % 4 * 16 + (if f.key.isSome then 64 else 0) + f.job % 65536 * 65536) ++
    natLe 4 (f.key.getD 0#32).toNat ++ natLe 24 (slotMap ms) ++ natLe 24 0 ++
    ((upFrom 0 64).flatMap fun i => natLe 4 (getS f i).toNat) ++ natLe 4 (tileTags f.tiles) ++ natLe 188 0 ++ f.tiles.flatMap tileBytes

/-- Bytes of a flock block. -/
def flockBlockSize (f : Flock) : Nat := 0x200 + 4096 * f.tiles.length

/-- Tile j of a flock block, loaded by the issue of that number. -/
def blockTile (b : List Byte) (n j : Nat) : Tile :=
  { stamp := n
    tag := BitVec.ofNat 4 (blockNat b 0x140 4 / 16 ^ j)
    elems := mapSetAll 0#32 [] ((upFrom 0 1024).map fun i => (i, BitVec.ofNat 32 (blockNat b (0x200 + 4096 * j + 4 * i) 4))) }

/-- The fields that are written back from a flock block (R329). -/
def loadFlockBlock (n : Nat) (f : Flock) (b : List Byte) : Flock :=
  { f with
    prio := bits (blockNat b 8 8) 5 4
    sregs := mapSetAll 0#32 [] ((upFrom 0 64).map fun i => (i, BitVec.ofNat 32 (blockNat b (0x40 + 4 * i) 4)))
    tiles := (upFrom 0 f.tiles.length).map (blockTile b n) }

/-! ## The save area (R48, R56, R377) -/

/-- SAVE_BASE of a job on a die. -/
def saveBase (s : State) (d job : Nat) : Nat := memNat s (jobDesc s d job + 32) 8 % 2 ^ 57

/-- SAVE_SIZE of a job on a die; that of the supervisor job is 0 while there is no job table (R48, R334). -/
def saveSize (s : State) (d job : Nat) : Nat :=
  if job = supJob ∧ getReg s d 0x300 = 0 then 0 else memNat s (jobDesc s d job + 40) 8 % 2 ^ 40

/-- Bytes that a flock takes in the save area: its block and those of its members. -/
def savedSize (s : State) (f : Flock) : Nat :=
  (membersOf s f.core f.idx).foldl (fun n t => n + threadBlockSize t) (flockBlockSize f)

/-- Runs of the save area of a job that are in use: those of evicted flocks whose save area has the same base. -/
def savedRuns (s : State) (d job : Nat) : List (Nat × Nat) :=
  (s.flocks.filter fun f => f.job == job && saveBase s (dieOf f.core) job == saveBase s d job).filterMap fun f =>
    f.saved.map fun o => (o, savedSize s f)

/-- The bytes of an evicted flock: its block, then those of its members by ascending lane (the model's order, R327). -/
def savedBytes (s : State) (f : Flock) : List Byte :=
  flockBlock s f ++ (membersOf s f.core f.idx).flatMap threadBlock

/-- The number under which the device writes and reads a flock's blocks in the save area. -/
def saveOp (f : Flock) : Nat := 2 ^ 40 + f.core * 2 ^ 16 + f.idx

/-- Write a flock's blocks to its job's save area (R56). The answer is their offset, or the AUX of the abandoned eviction
(R377). The queue of a sweep flock's engine, which R92 saves with it and for which no layout is given, stays in State.sweeps and takes no
bytes of the area (DESIGN CHOICE, log entry 110). -/
def saveFlock (s : State) (f : Flock) : State × Except Nat Nat :=
  let d := dieOf f.core
  let n := savedSize s f
  let o := lowestFree (savedRuns s d f.job) n
  if saveSize s d f.job < o + n then (s, .error 0)
  else match engWrite s d f.job (saveOp f) (saveBase s d f.job + o) (savedBytes s f) with
    | (s1, .ok _) => (s1, .ok o)
    | (s1, _) => (s1, .error 1)

/-- A thread takes its state back at a restore, which changes no result (R56): the segments of the supervisor job cover everything (R334), which
no field of a block can say, and its threads keep them (DESIGN CHOICE, log entry 106). -/
def restoreThread (t : Thread) (b : List Byte) : Thread :=
  if t.job = supJob then { loadThreadBlock t b with segG := t.segG, segL := t.segL, segC := t.segC } else loadThreadBlock t b

/-- A read of part of the save area. A poisoned word leaves its bytes unknown: those of 64-byte parts that are sound are read, the others are
none (R358, R377). -/
def readSound (s : State) (die job op va : Nat) : List Nat → List (Option Byte) → State × EngRes (List (Option Byte))
  | [], acc => (s, .ok acc)
  | n :: r, acc =>
    match engRead s die job op va n with
    | (s1, .ok bs) => readSound s1 die job op (va + n) r (acc ++ bs.map some)
    | (s1, .fail _ 8) => readSound s1 die job op (va + n) r (acc ++ List.replicate n none)
    | (s1, .fail a c) => (s1, .fail a c)
    | (s1, .wait) => (s1, .wait)

/-- The parts of a run of `n` bytes from an address on that lie in 64-byte locations. -/
def soundParts : Nat → Nat → Nat → List Nat
  | 0, _, _ => []
  | f + 1, a, n => if n = 0 then [] else let m := min n (64 - a % 64); m :: soundParts f (a + m) (n - m)

/-- Threads take their state back from consecutive blocks. A thread in whose block a word is poisoned is trapped at its saved PC, and keeps what
the device holds of it (R377). -/
def loadBlocks (s : State) : List Thread → List (Option Byte) → State
  | [], _ => s
  | t :: r, b =>
    let mine := b.take (threadBlockSize t)
    loadBlocks (if mine.all (·.isSome) then modThread s t.uid fun t => restoreThread t (bufBytes mine)
      else trapLate s t.uid (t.newPc.getD t.pc) 0 { cls := 7, code := Config.class7Code.toNat, aux := 0 }) r (b.drop (threadBlockSize t))

/-- Read a flock back from the save area (R56). A word of the flock's own block that is poisoned is a word of each of its threads (R377; DEDUCED,
log entry 120). Nothing is restored while the area cannot be read. -/
def restoreFlock (s : State) (f : Flock) (o : Nat) : State × Bool :=
  let d := dieOf f.core
  let ms := membersOf s f.core f.idx
  let va := saveBase s d f.job + o
  let n := savedSize s f
  let read : State × EngRes (List (Option Byte)) := match engRead s d f.job (saveOp f) va n with
    | (s1, .ok b) => (s1, .ok (b.map some))
    | (s1, .fail _ 8) => readSound s1 d f.job (saveOp f) va (soundParts (n / 64 + 2) va n) []
    | (s1, .fail a c) => (s1, .fail a c)
    | (s1, .wait) => (s1, .wait)
  match read with
  | (s1, .ok b) =>
    let own := b.take (flockBlockSize f)
    let s2 := engEnded s1 (saveOp f)
    (if own.all (·.isSome) then
      loadBlocks (modFlock s2 f.core f.idx fun f => loadFlockBlock s2.fresh f (bufBytes own)) ms (b.drop (flockBlockSize f))
    else loadBlocks s2 ms (List.replicate n none), true)
  | (s1, _) => (s1, false)

end Sys2Proof.Machine
end

