-- ==== Sys2Proof/Machine/Place.lean ====
section
/-! DEFINITION. Residency: the waiting set of a core, admission, and the region of local store that a launch's flocks share (02 R51,
R54, R56). -/

namespace Sys2Proof.Machine

/-- The region of the launch that these members share, while it is not allocated. -/
def pendingRegion (s : State) (core : Nat) (ms : List Thread) : Option Launch :=
  s.launches.find? fun l => l.core == core && 2 ^ 32 ≤ l.base && ms.any (·.launch == some l.id)

/-- The lowest offset at which a region of a size is free in a core's local store (R344). -/
def regionAt (s : State) (core size : Nat) : Option Nat :=
  let runs := (s.launches.filter fun l => l.core == core && l.base < 2 ^ 32).map fun l => (l.base, l.size)
  let a := lowestFree runs size
  if a + size ≤ lsSize s core then some a else none

/-- Allocate a launch's region: SG.L of its threads (R51); a supervisor thread's covers everything (R334). -/
def giveRegion (s : State) (l : Launch) (a : Nat) : State :=
  { s with
    launches := s.launches.map fun k => if k.id == l.id then { k with base := a } else k
    threads := s.threads.map fun t => if t.core == l.core && t.launch == some l.id && t.job ≠ supJob then { t with segL := ⟨a, l.size⟩ } else t }

/-- Whether the members of a flock that is not resident, each in a lane of its own, all find a slot and registers, and the flock its tiles
(R54). -/
def fits (s : State) (core : Nat) (ms : List Thread) (tiles : Nat) : Bool :=
  ms.all (fun m => (freeSlot s core m.lane m.alloc).isSome) && tilesHeld s core + tiles ≤ Config.tilesPerCore

/-- Members take the lowest free slots of their lanes, and places of the register files (R27). -/
def seat (s : State) (core : Nat) (ms : List Thread) : State :=
  { s with threads := s.threads.map fun t =>
      if ms.any (·.uid == t.uid) then
        let k := (freeSlot s core t.lane t.alloc).getD (0, 0)
        { t with slot := k.1, rbase := k.2, age := s.cycle + 1 }
      else t }

/-- A flock becomes resident (R54). -/
def makeResident (s : State) (f : Flock) (ms : List Thread) : State :=
  let s1 := seat s f.core ms
  modFlock { s1 with waitset := s1.waitset.filter (· ≠ (f.core, f.idx)) } f.core f.idx fun k =>
    { k with resident := true, since := ftime s (dieOf f.core), evicting := false, saved := none }

/-- Admit a flock of the waiting set when it fits (R54); an evicted one is read back from its save area (R56). -/
def admitFlock (s : State) (f : Flock) : State × Bool :=
  let ms := membersOf s f.core f.idx
  if !fits s f.core ms f.tiles.length then (s, false)
  else
    let room := match pendingRegion s f.core ms with
      | some l => (regionAt s f.core l.size).map fun a => giveRegion s l a
      | none => some s
    match room with
    | none => (s, false)
    | some s1 =>
      match f.saved with
      | some o =>
        (match restoreFlock s1 f o with
        | (s2, true) => (makeResident (ms.foldl (fun s t => endSaved s (threadOf s t.uid)) s2) f ms, true)
        | (s2, false) => (s2, false))
      | none => (makeResident s1 f ms, true)

/-- Admit flocks from the front of a core's waiting set, in order, for as long as the first one fits (R54). -/
def admitFrom : Nat → State → Nat → State
  | 0, s, _ => s
  | n + 1, s, core =>
    match firstWaiting s core with
    | none => s
    | some f =>
      match admitFlock s f with
      | (s1, true) => admitFrom n s1 core
      | (s1, false) => s1

/-- Admit what fits on a core. -/
def admitFront (s : State) (core : Nat) : State := admitFrom (s.waitset.length + 1) s core

/-- A new flock enters its core's waiting set, and is admitted at once when it is at the front and fits. -/
def enterWaiting (s : State) (f : Flock) (ms : List Thread) : State :=
  admitFront { s with
    flocks := s.flocks ++ [{ f with resident := false }], threads := s.threads ++ ms, waitset := s.waitset ++ [(f.core, f.idx)] } f.core

end Sys2Proof.Machine
end

