-- ==== Sys2Proof/Machine/Launch.lean ====
section
/-! DEFINITION. The launcher (02 R50 to R53; 18 R375, R417): queues, launch records, and the placement of their threads. -/

namespace Sys2Proof.Machine

/-- Offset of a launch queue's registers (R52). -/
def lqOff (q : Nat) : Nat := 0x400 + 32 * q

/-- The queue at work of a die. -/
def lqOf (s : State) (d q : Nat) : Option LaunchQ := s.lqs.find? fun x => x.die == d && x.q == q

/-- Change a queue at work. -/
def modLq (s : State) (x : LaunchQ) (f : LaunchQ → LaunchQ) : State :=
  { s with lqs := s.lqs.map fun y => if y.die == x.die && y.q == x.q then f y else y }

/-- JOB of a queue. -/
def lqJob (s : State) (x : LaunchQ) : Nat := getField s x.die (lqOff x.q + 8) 15 0

/-- Why the launcher cannot use a counter: the reason of R384, or 8 for a poisoned cell (R417). -/
def lqBad (s : State) (h : Nat) : Option Nat :=
  match badHandle s h with
  | some r => some r
  | none => if cellPoisoned s h then some 8 else none

/-- The number under which a queue's launcher reads. -/
def lqOp (x : LaunchQ) : Nat := 2 ^ 41 + 8 * x.die + x.q

/-- The step at which a queue was held has succeeded: it goes on (R417). -/
def letGo (s : State) (x : LaunchQ) : State × LaunchQ := (modLq s x fun y => { y with held := false }, { x with held := false })

/-- Hold a queue; its first failure is recorded (R417). -/
def holdQueue (s : State) (x : LaunchQ) (cause detail addr : Nat) : State :=
  if x.held then s
  else
    raiseAsync (modLq s x fun y => { y with held := true, cause := cause }) 3 10 (lqJob s x) x.die 127 0 addr none (cause + detail * 16 + x.q * 256) x.k

/-- T0 and H0 are recorded (R53); a queue whose tail handle is malformed is held. No step needs H0, so a head handle that is malformed holds
the queue at step 5 alone (R417; DEDUCED). -/
def startQueue (s : State) (x : LaunchQ) : State :=
  let th := getReg s x.die (lqOff x.q + 16)
  let hh := getReg s x.die (lqOff x.q + 24)
  match lqBad s th with
  | some r => holdQueue s x 0 r th
  | none =>
    modLq s x fun y => { y with
      t0 := some (BitVec.ofNat 64 (cellGet s th))
      h0 := if (lqBad s hh).isSome then none else some (BitVec.ofNat 64 (cellGet s hh))
      held := false }

/-- EN changes from 0 to 1 (R53). -/
def enableQueue (s : State) (d q : Nat) : State :=
  let x : LaunchQ := ⟨d, q, none, none, 0, none, none, 0, false, false, 0⟩
  startQueue { s with lqs := s.lqs.filter (fun y => !(y.die == d && y.q == q)) ++ [x] } x

/-- The conditions of a record of a queue that have not woken are withdrawn at their homes (R68). -/
def withdrawDeps (s : State) (x : LaunchQ) : State :=
  match x.record, x.wid with
  | some (_, cs), some w =>
    (((upFrom 0 cs.length).zip cs).filter fun p => !bit x.mask p.1).foldl (fun s p =>
      sendPacket s { Packet.blank with
        src := 2000000 + x.die, dst := homeUnit s p.2.handle.toNat, ordered := localHandle s p.2.handle.toNat, job := lqJob s x
        body := .ctr p.2.handle (.withdraw 2 w) }) s
  | _, _ => s

/-- EN changes from 1 to 0: the launcher leaves the queue (R417). -/
def disableQueue (s : State) (d q : Nat) : State :=
  let s1 := match lqOf s d q with
    | some x => engEnded (withdrawDeps s x) (lqOp x)
    | none => s
  { s1 with lqs := s1.lqs.filter fun y => !(y.die == d && y.q == q) }

/-! ## The fields of a record (R50) -/

/-- 8-byte word k of a record. -/
def recW (b : List Byte) (k : Nat) : Nat := leNat ((b.drop (8 * k)).take 8)

/-- The byte offset of the first word of a record with a field outside its limits (R417). -/
def recordBad (b : List Byte) : Option Nat :=
  let w := recW b
  if w 0 % 4 ≠ 0 || 4 < bits (w 0) 61 59 || bit (w 0) 63 then some 0
  else if bits (w 1) 37 32 = 0 || 32 < bits (w 1) 37 32 || 8 < bits (w 1) 41 38 || bits (w 1) 63 58 ≠ 0 then some 8
  else if bits (w 4) 63 45 ≠ 0 then some 0x20
  else if bits (w 5) 63 45 ≠ 0 then some 0x28
  else if bits (w 6) 63 62 ≠ 0 then some 0x30
  else if (bits (w 0) 61 59 ≠ 0 && w 7 % 64 ≠ 0) || bits (w 7) 63 57 ≠ 0 then some 0x38
  else none

/-- Enabled cores whose PLACE bits are set, ascending (R26, R51). -/
def placeCores (s : State) (d : Nat) (b : List Byte) : List Nat :=
  (coresOn s d).filter fun c => if c < 64 then bit (recW b 2) c else bit (recW b 3) (c - 64)

/-- Conditions of a dependency block. -/
def depConds : Nat → List Byte → List Cond
  | 0, _ => []
  | n + 1, b => ⟨BitVec.ofNat 64 (leNat (b.take 8)), BitVec.ofNat 64 (leNat ((b.drop 8).take 8))⟩ :: depConds n (b.drop 16)

/-! ## Placement (R51) -/

/-- SG.L of a thread whose launch has this number on a core: the region, once an earlier flock of the launch has obtained it (R51). -/
def regionSeg (s : State) (core : Nat) (launch : Option Nat) : Seg :=
  match s.launches.find? fun l => l.core == core && launch == some l.id && l.base < 2 ^ 32 with
  | some l => ⟨l.base, l.size⟩
  | none => ⟨0, 0⟩

/-- A launched thread (R29, R51). -/
def launchedThread (s : State) (job : Nat) (b : List Byte) (core idx lane uid tnum : Nat) (launch : Option Nat) : Thread :=
  { Thread.blank with
    uid := uid
    core := core
    lane := lane
    job := job
    flock := idx
    pc := BitVec.ofNat 57 (bits (recW b 0) 56 0)
    alloc := 32 * bits (recW b 1) 37 32
    segG := if job = supJob then ⟨0, 2 ^ 45⟩ else ⟨bits (recW b 4) 44 0, bits (recW b 5) 44 0⟩
    segL := if job = supJob then ⟨0, 2 ^ 32⟩ else regionSeg s core launch
    segC := if job = supJob then ⟨0, 2 ^ 37⟩ else ⟨64 * bits (recW b 6) 30 0, 64 * bits (recW b 6) 61 31⟩
    tnum := BitVec.ofNat 32 tnum
    launch := launch
    age := s.cycle + 1 }

/-- Place flock f of a launch on a core; the launch's region there has the number `launch`. -/
def placeFlock (s : State) (job : Nat) (b : List Byte) (core f : Nat) (launch : Option Nat) : State :=
  let idx := freeIndex s core
  let n := min 32 (bits (recW b 1) 31 0 - 32 * f)
  let ms := (upFrom 0 n).map fun i => launchedThread s job b core idx i (s.fresh + i) (32 * f + i) launch
  let fl : Flock :=
    { Flock.blank with
      core := core, idx := idx, job := job, prio := bits (recW b 0) 58 57
      tiles := List.replicate (bits (recW b 1) 41 38) Tile.zero }
  enterWaiting { s with fresh := s.fresh + n } fl ms

/-- Place flocks f, f + 1, … over the cores in turn (R51). `regions` lists each core with the launch's number there. -/
def placeFlocks (job : Nat) (b : List Byte) (cores : List Nat) (regions : List (Nat × Nat)) : Nat → State → Nat → State
  | 0, s, _ => s
  | n + 1, s, f =>
    let core := nthD 0 cores (f % cores.length)
    placeFlocks job b cores regions n (placeFlock s job b core f ((regions.find? fun r => r.1 == core).map (·.2))) (f + 1)

/-- The launch's regions, one per core that a flock goes to (R51). -/
def makeRegions (size : Nat) : State → List Nat → List (Nat × Nat) → State × List (Nat × Nat)
  | s, [], acc => (s, acc)
  | s, c :: r, acc =>
    makeRegions size { s with launches := s.launches ++ [⟨s.fresh, c, 2 ^ 32, size⟩], fresh := s.fresh + 1 } r (acc ++ [(c, s.fresh)])

/-- Place the threads of a record (R51). -/
def placeRecord (s : State) (d job : Nat) (b : List Byte) : State :=
  let threads := bits (recW b 1) 31 0
  let flocks := (threads + 31) / 32
  let cores := (placeCores s d b).map (128 * d + ·)
  let size := 16 * bits (recW b 1) 57 42
  let (s1, regions) := if size = 0 then (s, []) else makeRegions size s (cores.take flocks) []
  placeFlocks job b cores regions flocks s1 0

/-! ## The steps of a queue -/

/-- The record is consumed: 1 is added to the head counter, and the queue goes on with the next (R53, R375). -/
def consumeRecord (s : State) (x : LaunchQ) : State :=
  let h := getReg s x.die (lqOff x.q + 24)
  match lqBad s h with
  | some r => holdQueue s x 1 r h
  | none =>
    engineAdd (modLq s x fun y => { y with record := none, wid := none, mask := 0, placed := false, held := false, k := y.k + 1 }) x.die 127 (lqJob s x) 0 h 1

/-- Mark a record as placed or rejected, and consume it. -/
def endRecord (s : State) (x : LaunchQ) : State :=
  let y := { x with record := none, wid := none, mask := 0, placed := true, held := false }
  consumeRecord (modLq s x fun _ => y) y

/-- Address of record k of a queue. -/
def recordAt (s : State) (x : LaunchQ) : Nat :=
  getReg s x.die (lqOff x.q) + 64 * (x.k % 2 ^ getField s x.die (lqOff x.q + 8) 20 16)

/-- The dependency block of a record is read (R53, R417); the conditions, where the read ends. A queue held at it keeps its record. -/
def readDeps (s : State) (x : LaunchQ) (b : List Byte) : State × Option (List Cond) :=
  let n := bits (recW b 0) 61 59
  if n = 0 then (s, some [])
  else
    match engRead s x.die (lqJob s x) (lqOp x) (recW b 7) (16 * n) with
    | (s1, .ok c) => (engEnded s1 (lqOp x), some (depConds n c))
    | (s1, .fail va c) => (holdQueue (modLq (engEnded s1 (lqOp x)) x fun y => { y with record := some (b, []) }) x 4 c va, none)
    | (s1, .wait) => (s1, none)

/-- A record that has been read: its limits and its dependency block (R50, R417). -/
def judgeRecord (s : State) (x : LaunchQ) (b : List Byte) : State :=
  match recordBad b with
  | some off => endRecord (raiseAsync (engEnded s (lqOp x)) 3 9 (lqJob s x) x.die 127 0 (recordAt s x) none x.q off) x
  | none =>
    match readDeps s x b with
    | (s1, some cs) => modLq (engEnded s1 (lqOp x)) x fun y => { y with record := some (b, cs), held := false }
    | (s1, none) => s1

/-- Steps 1 and 2 of R53: the tail counter shows the record, and it is read. -/
def takeRecord (s : State) (x : LaunchQ) : State :=
  let th := getReg s x.die (lqOff x.q + 16)
  match x.t0 with
  | none => startQueue s x
  | some t0 =>
    match lqBad s th with
    | some r => holdQueue s x 0 r th
    | none =>
      let (s0, y) := if x.held && x.cause == 0 then letGo s x else (s, x)
      if !condMet (cellGet s th) (t0.toNat + x.k + 1) then s0
      else match engRead s0 x.die (lqJob s x) (lqOp x) (recordAt s x) 64 with
        | (s1, .ok b) => let (s2, z) := letGo s1 y; judgeRecord s2 z b
        | (s1, .fail va c) => holdQueue (engEnded s1 (lqOp x)) y 3 c va
        | (s1, .wait) => s1

/-- The waiter entry of a condition of a record (R69); the manual gives kind 2 no TAG. -/
def depWaiter (s : State) (x : LaunchQ) (c : Nat) (k : Cond) : Waiter where
  thresh := k.thresh
  deadline := none
  handle := k.handle
  kind := 2
  cond := c
  job := lqJob s x
  module := moduleId s
  unit := 128 * x.die + 127
  lane := 0
  slot := 0
  tag := 0
  uid := s.fresh
  scope := 5
  spilled := false

/-- The conditions of a record are registered at their homes (R53, R69); a malformed handle holds the queue (R417). -/
def askDeps (s : State) (x : LaunchQ) (cs : List Cond) : State :=
  match cs.findSome? fun c => (lqBad s c.handle.toNat).map fun r => (r, c.handle.toNat) with
  | some (r, h) => holdQueue s x 2 r h
  | none =>
    let ps := ((upFrom 0 cs.length).zip cs).map fun p =>
      { Packet.blank with
        src := 2000000 + x.die, dst := homeUnit s p.2.handle.toNat, ordered := localHandle s p.2.handle.toNat, job := lqJob s x
        body := .ctr p.2.handle (.wait (depWaiter s x p.1 p.2)) }
    modLq (ps.foldl sendPacket { s with fresh := s.fresh + 1 }) x fun y => { y with wid := some s.fresh, mask := 0, held := false }

/-- The wake of a record's condition arrives at the launcher. -/
def wakeQueue (s : State) (w : Waiter) : State :=
  { s with lqs := s.lqs.map fun y => if y.wid == some w.uid then { y with mask := y.mask ||| 2 ^ w.cond } else y }

/-- The conditions of a record hold (R50, R53). -/
def depsMet (x : LaunchQ) (b : List Byte) (cs : List Cond) : Bool :=
  cs.isEmpty || (x.wid.isSome && cwaitHolds (bit (recW b 0) 62) cs.length x.mask)

/-- Steps 3 to 5 of R53: the record's conditions hold, its threads are placed, and it is consumed. -/
def placeTaken (s : State) (x : LaunchQ) (b : List Byte) (cs : List Cond) : State :=
  if !depsMet x b cs then (if x.wid.isSome then s else askDeps s x cs)
  else
    let s1 := withdrawDeps s x
    let threads := bits (recW b 1) 31 0
    if threads ≠ 0 && (placeCores s x.die b).isEmpty then
      endRecord (raiseAsync s1 3 8 (lqJob s x) x.die 127 0 (recordAt s x) none x.q threads) x
    else endRecord (placeRecord s1 x.die (lqJob s x) b) x

/-- The next step of a queue. -/
def stepQueue (s : State) (x : LaunchQ) : State :=
  if !dieOn s x.die || jobHeld s x.die (lqJob s x) then s
  else if x.placed then consumeRecord s x
  else match x.record with
    | some (b, cs) =>
      if x.held then
        match readDeps s x b with
        | (s1, some cs1) =>
          let (s2, y) := if x.cause = 4 then letGo s1 x else (s1, x)
          placeTaken (modLq s2 x fun y => { y with record := some (b, cs1) }) y b cs1
        | (s1, none) => s1
      else placeTaken s x b cs
    | none => takeRecord s x

/-- Held queues of a die repeat their failed step at a rotation point (R417). -/
def retryQueues (s : State) (d : Nat) : State :=
  (s.lqs.filter fun x => x.die == d && x.held).foldl stepQueue s

/-- LAUNCH_RECORD_TAKE: the launcher reads the next record of a queue (R53). -/
def execLaunchRecordTake (die q : Nat) (s : State) : Host.Outcome State Fault Refusal :=
  issued (match lqOf s die q with
    | some x => if x.held || x.record.isSome || x.placed then s else stepQueue s x
    | none => s)

/-- LAUNCH_RECORD_PLACE: the conditions of the record read hold, and its threads are placed (R51, R53). -/
def execLaunchRecordPlace (die q : Nat) (s : State) : Host.Outcome State Fault Refusal :=
  issued (match lqOf s die q with
    | some x => if x.held || x.record.isNone then s else stepQueue s x
    | none => s)

end Sys2Proof.Machine
end

