-- ==== Sys2Proof/Machine/Sweep.lean ====
section
/-! DEFINITION. Tensors with element contexts: `tdecl`, `sweep`, `eyield`, `ectxld`, `ectxst`, `tfree` (12 R292 to R297), and the steps of
the sweep engine (04 R80 to R92; faults 19 R391). -/

namespace Sys2Proof.Machine

/-! ## Tensors (R80 to R84) -/

/-- The tensor bound to a slot of a core. -/
def tensorAt (s : State) (core slot : Nat) : Option Tensor := s.tensors.find? fun t => t.core == core && t.slot == slot

/-- Change a bound tensor. -/
def setTensor (s : State) (tn : Tensor) : State :=
  { s with tensors := s.tensors.map fun t => if t.core == tn.core && t.slot == tn.slot then tn else t }

/-- Bytes of an element's data (R80). -/
def Tensor.dataSize (t : Tensor) : Nat := 4 * 2 ^ t.esize

/-- Number of groups (R81). -/
def Tensor.groups (t : Tensor) : Nat := (t.count + 31) / 32

/-- Block stride (R82). -/
def Tensor.stride (t : Tensor) : Nat := 32 * t.dataSize + 256 * (1 + t.xctx)

/-- Address of an element's data (R82). -/
def Tensor.dataAt (t : Tensor) (e : Nat) : Nat := t.base + e / 32 * t.stride + e % 32 * t.dataSize

/-- Address of an element's context word (R82). -/
def Tensor.ctxAt (t : Tensor) (e : Nat) : Nat := t.base + e / 32 * t.stride + 32 * t.dataSize + 8 * (e % 32)

/-- Address of an extra word (R82). -/
def Tensor.extraAt (t : Tensor) (e k : Nat) : Nat := t.ctxAt e + 256 * (1 + k)

/-- Address of a group's SLEEP word (R85). -/
def Tensor.fallowAt (t : Tensor) (g : Nat) : Nat := t.fallow + 16 * g

/-- Address of the word of a group that takes wakes (R85, R86). -/
def Tensor.wakeAt (t : Tensor) (g par : Nat) : Nat := t.fallow + 16 * g + 4 * (1 + par % 2)

/-- Handle of a counter wait (R84). -/
def Tensor.handleOf (t : Tensor) (warg : Nat) : Nat :=
  let h := t.ctrbase.toNat
  setBits h 36 0 ((hIndex h + warg) % 2 ^ 37)

/-- Write the fields marked E to the record (R80, R92). -/
def writeTensorRecord (s : State) (t : Tensor) : State :=
  let s1 := lsWrite s t.core (t.recAt + 0x18) (natLe 8 (setBits (lsNat s t.core (t.recAt + 0x18) 8) 21 19 t.slot))
  let s2 := lsWrite s1 t.core (t.recAt + 0x28) (natLe 4 t.sweeps.toNat)
  let s3 := lsWrite s2 t.core (t.recAt + 0x2C) (natLe 4 (t.cursor % 16384 + (if t.active then 16384 else 0)))
  lsWrite s3 t.core (t.recAt + 0x30) (natLe 8 t.tstart.toNat)

/-! ## Engine accesses of a sweep -/

/-- An engine's bytes for places also go into the core's clean copies (R90). -/
def mergePlaces (s : State) (core : Nat) : List (Nat × Nat) → List Byte → State
  | [], _ => s
  | (k, n) :: r, bs => mergePlaces (unkeep (mergeClean s core k (bs.take n)) core k n) core r (bs.drop n)

/-- The sweep engine of a core sends bytes for an address, whose places are found, to their homes, and into the core's clean copies (R90). -/
def sweepPut (s : State) (core job op va : Nat) (ps : List (Nat × Nat)) (bs : List Byte) : State :=
  let s1 := mergePlaces s core ps bs
  sendPackets s1 ((placePackets s1 (dieOf core) job op va ps bs).map fun p => { p with src := core })

/-- An or-reduction that the sweep engine of a core sends for a word of the fallow map: to the word's home, and the core drops its clean copy
of the line (R86, R108). -/
def sweepOr (s : State) (core job op va k m : Nat) : State :=
  unkeep (sendPacket { s with clean := s.clean.filter fun l => !(l.core == core && l.pa == lineOf k) } { Packet.blank with
    src := core, dst := byteHome s k, ordered := k < 2 ^ 48, job := job, eng := some op, va := va, body := .red 13 k (BitVec.ofNat 64 m) }) core k 4

/-- Record of a failed access of the sweep engine (R391). -/
def sweepFault (s : State) (core job slot va code pc : Nat) (held : Option (Nat × Nat)) : State :=
  raiseAsync s 6 1 job (dieOf core) (core % 128) pc va held (code + 2 * 16) slot

/-- Set the bit of an element in the word that takes wakes now (R86). -/
def setWakeBit (s : State) (tn : Tensor) (e : Nat) : State × EngRes Unit :=
  let va := tn.wakeAt (e / 32) tn.sweeps.toNat
  match engAt s (dieOf tn.core) tn.job tn.bind va true with
  | (s1, .at k _) => (sweepOr s1 tn.core tn.job tn.bind va k (2 ^ (e % 32)), .ok ())
  | (s1, .fail c) => (s1, .fail va c)
  | (s1, .wait) => (s1, .wait)

/-- The waiter entry of an element of module m (R84). -/
def elementWaiter (m : Nat) (tn : Tensor) (e h val : Nat) : Waiter where
  thresh := BitVec.ofNat 64 val
  deadline := none
  handle := BitVec.ofNat 64 h
  kind := 5
  cond := 0
  job := tn.job
  module := m
  unit := tn.core
  lane := e % 32
  slot := 0
  tag := tn.slot * 8192 + e / 32
  uid := tn.bind
  scope := 0
  spilled := false

/-- Register an element's wait at the counter's home (R84); a condition that already holds wakes the element (R87, R292). -/
def registerElement (s : State) (tn : Tensor) (e h val : Nat) : State :=
  let w := elementWaiter (moduleId s) tn e h val
  sendPacket s { Packet.blank with src := tn.core, dst := homeUnit s h, ordered := localHandle s h, job := tn.job, body := .ctr w.handle (.wait w) }

/-- Whether a packet registers or wakes an element of a binding. -/
def Packet.ofBinding (p : Packet) (bind : Nat) : Bool :=
  match p.body with
  | .ctr _ (.wait w) => w.kind == 5 && w.uid == bind
  | .wake w => w.kind == 5 && w.uid == bind
  | _ => false

/-- Waits and wakes of a binding's elements are under way: none that its home has refused, or that the host keeps waiting. -/
def bindBusy (s : State) (bind : Nat) : Bool :=
  s.packets.any fun p => (p.ofBinding bind && p.grp < 2 ^ 64) || p.eng == some bind

/-! ## `tdecl` (R292) -/

/-- The record's fields as the engine copies them. -/
def tensorOf (s : State) (t : Thread) (at' slot : Nat) : Tensor :=
  let w : Nat → Nat := fun k => lsNat s t.core (at' + 8 * k) 8
  { core := t.core, slot := slot, job := t.job, bind := s.fresh, recAt := at', base := bits (w 0) 56 0, esize := bits (w 0) 58 57
    xctx := bits (w 0) 60 59, routine := bits (w 1) 56 0, regs := bits (w 1) 62 57, fallow := bits (w 2) 56 0
    etag := BitVec.ofNat 4 (bits (w 2) 60 57), count := bits (w 3) 18 0, prio := bits (w 3) 23 22, ctrbase := BitVec.ofNat 64 (w 4)
    sweeps := BitVec.ofNat 32 (bits (w 5) 31 0), cursor := 0, active := false, tstart := BitVec.ofNat 64 (w 6), binder := none, asked := false }

/-- A record that breaks the limits of R80 and R383. -/
def badRecord (s : State) (core at' : Nat) (tn : Tensor) : Bool :=
  let w : Nat → Nat := fun k => lsNat s core (at' + 8 * k) 8
  tn.esize = 3 || tn.count = 0 || 262144 < tn.count || tn.regs = 0 || 32 < tn.regs || tn.base % 256 ≠ 0 || tn.routine % 4 ≠ 0 ||
    tn.fallow % 16 ≠ 0 || bits (w 0) 63 61 ≠ 0 || bit (w 1) 63 || bits (w 2) 63 61 ≠ 0 || bits (w 3) 63 24 ≠ 0 || bits (w 5) 63 47 ≠ 0 ||
    w 7 ≠ 0

/-- Extents of a tensor's storage and fallow map (R94). -/
def tensorExtent (s : State) (t : Thread) (tn : Tensor) : Option Trap :=
  extentTrap s t false tn.base (tn.groups * tn.stride) <|> extentTrap s t false tn.fallow (16 * tn.groups)

/-- Sleeping elements of a group that wait on counters: (element, WARG, VAL) (R292). -/
def sleepersOf (s : State) (tn : Tensor) (sleep : Nat) : List Nat → List (Nat × Nat × Nat) → State × List (Nat × Nat × Nat) × EngRes Unit
  | [], acc => (s, acc, .ok ())
  | e :: r, acc =>
    if tn.count ≤ e || !bit sleep (e % 32) then sleepersOf s tn sleep r acc
    else match engRead s (dieOf tn.core) tn.job tn.bind (tn.ctxAt e) 8 with
      | (s1, .ok bs) =>
        let c := leNat bs
        sleepersOf s1 tn sleep r (if bits c 51 48 = 1 then acc ++ [(e, bits c 47 32, bits c 31 0)] else acc)
      | (s1, .fail v c) => (s1, acc, .fail v c)
      | (s1, .wait) => (s1, acc, .wait)

/-- Sleeping elements of the groups from g on. -/
def sleepersFrom (tn : Tensor) : Nat → State → Nat → List (Nat × Nat × Nat) → State × List (Nat × Nat × Nat) × EngRes Unit
  | 0, s, _, acc => (s, acc, .ok ())
  | n + 1, s, g, acc =>
    match engRead s (dieOf tn.core) tn.job tn.bind (tn.fallowAt g) 4 with
    | (s1, .ok bs) =>
      (match sleepersOf s1 tn (leNat bs) (upFrom (32 * g) 32) acc with
      | (s2, acc2, .ok _) => sleepersFrom tn n s2 (g + 1) acc2
      | out => out)
    | (s1, .fail v c) => (s1, acc, .fail v c)
    | (s1, .wait) => (s1, acc, .wait)

/-- Register the waits of sleeping elements; a handle that is malformed, or outside SG.C, is reported (R84, R384): the wait that is not made is
what the record withholds. -/
def registerAll (tn : Tensor) (segC : Seg) (pc : Nat) : State → List (Nat × Nat × Nat) → State
  | s, [] => s
  | s, (e, warg, val) :: r =>
    let h := tn.handleOf warg
    registerAll tn segC pc (match badHandle s h with
      | some x => raiseAsync s 5 1 tn.job (dieOf tn.core) (tn.core % 128) pc h (some (h, 0)) x 0
      | none =>
        if segC.base ≤ hIndex h && hIndex h < segC.base + segC.limit then registerElement s tn e h val
        else raiseAsync s 5 2 tn.job (dieOf tn.core) (tn.core % 128) pc h none 0 0) r

/-- The lowest free tensor slot of a core. -/
def freeTensorSlot (s : State) (core : Nat) : Option Nat := (upFrom 0 8).find? fun k => (tensorAt s core k).isNone

/-- The waits of a binding's elements are registered, or nothing more is to be registered: its slot is no longer taken by its `tdecl` (R297). -/
def bindDone (s : State) (tn : Tensor) : State := setTensor s { tn with binder := none }

/-- The waits that the sleeping elements of a tensor just bound need are sent to their homes (R292): the state once they are, or what the thread
waits for. The slot is taken while they are registered (R297). -/
def bindWaits (s : State) (i : Issue) (t : Thread) (tn : Tensor) : State × Option Waiting :=
  let pc := i.pc.toNat
  let sent : State → State := fun s => setTensor (engEnded s tn.bind) { tn with asked := true }
  if tn.sweeps = 0#32 || tn.asked then (s, none)
  else if engineWaits s t.core t.uid s.fresh then (s, some (.before s.fresh))
  else match sleepersFrom tn tn.groups s 0 [] with
    | (s1, es, .ok _) => (registerAll tn t.segC pc (sent s1) es, none)
    | (s1, es, .fail v c) => (sweepFault (registerAll tn t.segC pc (sent s1) es) t.core t.job tn.slot v c pc none, none)
    | (s1, _, .wait) => (s1, some (.page 0))

/-- Bind a tensor to its slot (R292). -/
def bindTensor (s : State) (tn : Tensor) : State :=
  writeTensorRecord { s with tensors := s.tensors ++ [tn], fresh := s.fresh + 1 } tn

/-- What `tdecl` comes to once its tensor is bound: it completes when the homes have the waits of the elements. -/
def tdeclBound (d : Nat) (s : State) (i : Issue) (t : Thread) (tn : Tensor) : State × Out :=
  match bindWaits s i t tn with
  | (s1, none) => if bindBusy s1 tn.bind then (s1, .wait (.page 0)) else (bindDone s1 tn, .eff { v := [wr t d tn.slot 2] })
  | (s1, some w) => (s1, .wait w)

/-- `tdecl` in a thread (R292, R383). -/
def tdeclThread (d a : Nat) (s0 : State) (i : Issue) (t : Thread) : State × Out :=
  let at' := vBits t a
  match s0.tensors.find? fun tn => tn.binder == some t.uid with
  | some tn => tdeclBound d s0 i t tn
  | none => match localPre s0 t at' 64 64 with
  | some f => (s0, .trap f)
  | none =>
    let s := eccRead (drainFifo s0 t.uid) (inLs t.core at' 64)
    if lsPoisoned s t.core at' 64 then (s, .trap { cls := 7, code := Config.class7Code.toNat, aux := 0, addr := at' })
    else
      let tn := tensorOf s t at' ((freeTensorSlot s t.core).getD 0)
      if badRecord s t.core at' tn then (s, .trap { cls := 1, code := 4, aux := 4 })
      else match tensorExtent s t tn with
        | some f => (s, .trap f)
        | none =>
          match freeTensorSlot s t.core with
          | none => (s, .eff { v := [wr t d (2 ^ 32 - 1) 2] })
          | some _ =>
            let bound : Tensor := { tn with binder := some t.uid }
            tdeclBound d (bindTensor s bound) i t bound

/-- TDECL: binds a declaration record to the lowest free tensor slot (R292). -/
def execTdecl (h : Hdr) (d a : BitVec 7) (s : State) : Host.Outcome State Fault Refusal :=
  issued (perThread { f := memF h 32#7 d a 0#7 }
    (fun _ => { vr := [(a.toNat, 1)], vw := [(d.toNat, 1)], tags := tagsOf 1 a.toNat 1 (some tagsInt) })
    (tdeclThread d.toNat a.toNat) s)

/-! ## `sweep` and `eyield` (R293, R294) -/

/-- `sweep` in a thread. -/
def sweepThread (d a amount : Nat) (s : State) (i : Issue) (t : Thread) : State × Out :=
  let slot := vBits t d
  match tensorAt s t.core slot with
  | none => (s, .trap { cls := 1, code := 4, aux := 0 })
  | some tn =>
    if tn.job ≠ t.job then (s, .trap { cls := 1, code := 4, aux := 0 })
    else
      let h := vPair t a
      match handleTrap s t h <|> tensorExtent s t tn with
      | some f => (s, .trap f)
      | none =>
        if 8 ≤ (s.sweeps.filter fun w => w.core == t.core).length then (s, .wait (.room .sweep))
        else
          let w : SweepOp :=
            { id := s.fresh, core := t.core, slot := slot, uid := t.uid, job := t.job, segG := t.segG, segL := t.segL, segC := t.segC
              launch := t.launch, pc := i.pc, handle := BitVec.ofNat 64 h, amount := amount, started := false, num := 0, flock := 0, open_ := none }
          ({ s with sweeps := s.sweeps ++ [w], fresh := s.fresh + 1 }, .eff {})

/-- SWEEP: queues a sweep of a tensor slot (R293). -/
def execSweep (h : Hdr) (d a b : BitVec 7) (s : State) : Host.Outcome State Fault Refusal :=
  issued (perThread { f := memF h 34#7 d a b } (engNames d.toNat a.toNat (some b.toNat) 1)
    (fun s i t => sweepThread d.toNat a.toNat (vBits t b.toNat) s i t) s)

/-- SWEEP with the amount in the literal (R293). -/
def execSweepLit (h : Hdr) (d a : BitVec 7) (lit : Word) (s : State) : Host.Outcome State Fault Refusal :=
  issued (perThread { f := memF h 35#7 d a 0#7 } (engNames d.toNat a.toNat none 1) (sweepThread d.toNat a.toNat lit.toNat) s)

/-- EYIELD: ends the visit of a routine thread (R294). -/
def execEyield (h : Hdr) (a : BitVec 7) (s : State) : Host.Outcome State Fault Refusal :=
  issued (perThread { f := memF h 36#7 0#7 a 0#7, last := true } (fun _ => { vr := [(a.toNat, 1)] })
    (fun s _ t =>
      match t.role with
      | .sweep slot _ => (endVisit s t slot (some (getV t a.toNat).bits), .hold {} .idle)
      | _ => (s, .trap { cls := 1, code := 4, aux := 1 })) s)

/-! ## `ectxld` and `ectxst` (R295) -/

/-- Bytes of the word that a modifier names. -/
def ectxSize (tn : Tensor) (w : Nat) : Nat := if w = 0 then tn.dataSize else if w = 5 then 4 else 8

/-- Address of the word that a modifier names (R82, R85). -/
def ectxAt (tn : Tensor) (e w : Nat) : Nat :=
  if w = 0 then tn.dataAt e else if w = 1 then tn.ctxAt e else if w = 5 then tn.fallowAt (e / 32) else tn.extraAt e (w - 2)

/-- What the two instructions name; `st` for the store. -/
def ectxNames (s : State) (st : Bool) (d a : BitVec 7) (w k : BitVec 3) (t : Thread) : Names :=
  let n := match tensorAt s t.core k.toNat with
    | some tn => (ectxSize tn w.toNat + 3) / 4
    | none => 1
  { vr := (a.toNat, 1) :: (if st then [(d.toNat, n)] else []), vw := if st then [] else [(d.toNat, n)]
    tags := tagsOf 1 a.toNat 1 (some tagsInt) }

/-- Checks of the operands: slot, D, element, word (R383). -/
def ectxTrap (s : State) (t : Thread) (d : Nat) (e w k : Nat) : Except Trap Tensor :=
  match tensorAt s t.core k with
  | none => .error { cls := 1, code := 4, aux := 2 }
  | some tn =>
    let n := (ectxSize tn w + 3) / 4
    if tn.job ≠ t.job then .error { cls := 1, code := 4, aux := 2 }
    else if d % n ≠ 0 then .error { cls := 1, code := 4, aux := 0 }
    else if tn.count ≤ e then .error { cls := 1, code := 4, aux := 1 }
    else if 6 ≤ w ∨ (2 ≤ w ∧ w ≤ 4 ∧ tn.xctx ≤ w - 2) then .error { cls := 1, code := 4, aux := 2 }
    else .ok tn

/-- Element of an access. -/
def ectxElem (t : Thread) (a : Nat) (off : Int) : Nat := patN 32 ((vBits t a : Int) + off)

/-- `ectxld` in a thread. -/
def ectxldThread (d a : BitVec 7) (w k : BitVec 3) (off : Int) (s : State) (i : Issue) (t : Thread) : State × Out :=
  let e := ectxElem t a.toNat off
  match ectxTrap s t d.toNat e w.toNat k.toNat with
  | .error f => (s, .trap f)
  | .ok tn =>
    let n := ectxSize tn w.toNat
    let tag := if w = 0#3 then tn.etag else 0#4
    let fmt : LoadFmt := if w = 5#3 then .bit t.uid (t.wb + d.toNat) (e % 32) else .regs t.uid (t.wb + d.toNat) (List.replicate (n / 4) tag)
    match globalAt s t (ectxAt tn e w.toNat) n n false with
    | (s1, .at q g) => loaded (loadOrTrap s1 t i.pc (ectxAt tn e w.toNat) q n g fmt)
    | (s1, .out o) => (s1, o)

/-- `ectxst` in a thread. -/
def ectxstThread (d a : BitVec 7) (w k : BitVec 3) (off : Int) (s : State) (_ : Issue) (t : Thread) : State × Out :=
  let e := ectxElem t a.toNat off
  match ectxTrap s t d.toNat e w.toNat k.toNat with
  | .error f => (s, .trap f)
  | .ok tn =>
    let n := ectxSize tn w.toNat
    match globalAt s t (ectxAt tn e w.toNat) n n true with
    | (s1, .out o) => (s1, o)
    | (s1, .at q _) =>
      let m := 2 ^ (e % 32)
      (pushStore s1 t (if w = 5#3 then
          (if vBits t d.toNat % 2 = 1 then .red 13 q (BitVec.ofNat 64 m) else .red 12 q (BitVec.ofNat 64 (2 ^ 32 - 1 - m)))
        else .glob q (dataBytes t d.toNat n)), .eff {})

/-- B of `ectxld` and `ectxst`. -/
def ectxB (w k : BitVec 3) : BitVec 7 := 0#1 ++ w ++ k

/-- ECTXLD: loads one word of an element (R295). -/
def execEctxld (h : Hdr) (d a : BitVec 7) (w k : BitVec 3) (s : State) : Host.Outcome State Fault Refusal :=
  issued (perThread { f := memF h 38#7 d a (ectxB w k) } (ectxNames s false d a w k) (ectxldThread d a w k 0) s)

/-- ECTXLD with an offset (R295). -/
def execEctxldLit (h : Hdr) (d a : BitVec 7) (w k : BitVec 3) (lit : Word) (s : State) : Host.Outcome State Fault Refusal :=
  issued (perThread { f := memF h 39#7 d a (ectxB w k) } (ectxNames s false d a w k) (ectxldThread d a w k (offOf lit)) s)

/-- ECTXST: stores one word of an element (R295). -/
def execEctxst (h : Hdr) (d a : BitVec 7) (w k : BitVec 3) (s : State) : Host.Outcome State Fault Refusal :=
  issued (perThread { f := memF h 40#7 d a (ectxB w k) } (ectxNames s true d a w k) (ectxstThread d a w k 0) s)

/-- ECTXST with an offset (R295). -/
def execEctxstLit (h : Hdr) (d a : BitVec 7) (w k : BitVec 3) (lit : Word) (s : State) : Host.Outcome State Fault Refusal :=
  issued (perThread { f := memF h 41#7 d a (ectxB w k) } (ectxNames s true d a w k) (ectxstThread d a w k (offOf lit)) s)

/-! ## `tfree` (R296) -/

/-- Free a binding: its waiters are withdrawn at their homes, and none of its wakes reaches the engine (R296). -/
def freeTensor (s : State) (tn : Tensor) : State :=
  takeWaiters { s with
    tensors := s.tensors.filter fun t => !(t.core == tn.core && t.slot == tn.slot)
    packets := s.packets.filter fun p => !p.ofBinding tn.bind } fun w => w.kind == 5 && w.module == moduleId s && w.uid == tn.bind

/-- Whether a sweep of a tensor is queued or running, or bits of its WAKE words are on their way. -/
def slotBusy (s : State) (tn : Tensor) : Bool :=
  s.sweeps.any (fun w => w.core == tn.core && w.slot == tn.slot) || s.packets.any fun p => p.eng == some tn.bind

/-- TFREE: frees a tensor slot once its sweeps have completed and its wakes are in place (R296). The group waits as one, at the word (R272). -/
def execTfree (h : Hdr) (a : BitVec 7) (s : State) : Host.Outcome State Fault Refusal :=
  issued (oncePerGroup { f := memF h 42#7 0#7 a 0#7 } (fun _ => { vr := [(a.toNat, 1)], tags := tagsOf 1 a.toNat 1 (some tagsInt) })
    (fun s i t =>
      let slot := vBits t a.toNat
      match tensorAt s t.core slot with
      | none => (s, .eff {})
      | some tn =>
        if tn.job ≠ t.job then (s, .trap { cls := 1, code := 4, aux := 1 })
        else if slotBusy s tn then (s, .wait (.tfree tn.bind i.sbit))
        else (freeTensor s tn, .eff {})) s)

/-- The threads that wait on one `tfree`: those of one group, at one word of their flock. -/
def tfreeGroup (s : State) (t : Thread) : List Nat :=
  (s.threads.filter fun u => u.core == t.core && u.flock == t.flock && u.bin.isNone && u.wait == t.wait && u.pc == t.pc).map (·.uid)

/-- A `tfree` on which threads wait is done: they go on past the word. -/
def passTfree (s : State) (t : Thread) (sbit : Bool) : State :=
  let g := tfreeGroup s t
  finish (modThreads s g fun t => { t with wait := .none, age := s.cycle + 1 })
    { core := t.core, flock := t.flock, job := t.job, group := g, act := g, pc := t.pc, word := 0#32, len := 4, sbit := sbit } [] [] fun _ => []

/-- TFREE_COMPLETE: no sweep of the slot remains; the binding is freed once for the group, which goes on (R296). -/
def execTfreeComplete (uid : Nat) (s : State) : Host.Outcome State Fault Refusal :=
  issued (match findThread s uid with
    | some t =>
      (match t.wait with
      | .tfree bind sbit =>
        if waitHeld s t then s
        else (match s.tensors.find? fun tn => tn.core == t.core && tn.bind == bind with
          | some tn => if slotBusy s tn then s else passTfree (freeTensor s tn) t sbit
          | none => passTfree s t sbit)
      | _ => s)
    | none => s)

/-! ## Starting a sweep (R87, R88) -/

/-- The 32 routine threads of a sweep flock, between visits. -/
def sweepThreads (s : State) (w : SweepOp) (tn : Tensor) (idx : Nat) : List Thread :=
  (upFrom 0 32).map fun l =>
    { Thread.blank with
      uid := s.fresh + l, core := w.core, lane := l, job := w.job, flock := idx, pc := BitVec.ofNat 57 tn.routine
      alloc := 32 * tn.regs, segG := w.segG, segL := w.segL, segC := w.segC, tnum := Config.freeWord (s.free + l), wait := .idle
      role := .sweep w.slot (2 ^ 32 - 1), launch := w.launch }

/-- Change a sweep. -/
def modSweep (s : State) (id : Nat) (f : SweepOp → SweepOp) : State :=
  { s with sweeps := s.sweeps.map fun w => if w.id == id then f w else w }

/-- Start the sweep at the head of a core's queue. It has started, and its sweep flock waits, when the flock does not fit (DESIGN CHOICE, log
entry 109). -/
def startSweep (s : State) (w : SweepOp) (tn : Tensor) : State :=
  let t1 : Tensor := { tn with sweeps := tn.sweeps + 1#32, active := true, cursor := 0, tstart := BitVec.ofNat 64 (ftime s (dieOf w.core)) }
  let s1 := dropClean (writeTensorRecord (setTensor s t1) t1) w.core
  let idx := freeIndex s1 w.core
  let s2 := modSweep s1 w.id fun q => { q with started := true, num := tn.sweeps.toNat, flock := idx, open_ := none }
  let f : Flock := { Flock.blank with core := w.core, idx := idx, job := w.job, prio := tn.prio, sweep := some w.slot }
  enterWaiting { s2 with fresh := s2.fresh + 32, free := s2.free + 32 } f (sweepThreads s2 w tn idx)

/-- Threads of a sweep flock end, and the flock with them. -/
def endSweepFlock (s : State) (w : SweepOp) : State :=
  (membersOf s w.core w.flock).foldl (fun s t => endThread s t.uid) s

/-- Withhold the completions of a slot's sweeps, with one record for each (R391). -/
def withholdAll (va code : Nat) : State → List SweepOp → State
  | s, [] => s
  | s, w :: r =>
    withholdAll va code (sweepFault s w.core w.job w.slot va code w.pc.toNat (some (w.handle.toNat, w.amount))) r

/-- A failed access stops a sweep at the group's boundary, and the slot's queued sweeps with it (R391). -/
def failSweep (s : State) (w : SweepOp) (tn : Tensor) (va code : Nat) : State :=
  let gone := s.sweeps.filter fun q => q.core == w.core && q.slot == w.slot
  let t1 : Tensor := { tn with active := false }
  let s1 := engEnded (endSweepFlock (writeTensorRecord (setTensor s t1) t1) w) w.id
  let s2 := { s1 with sweeps := s1.sweeps.filter fun q => !(q.core == w.core && q.slot == w.slot) }
  freeLaunches (wakeRoom (withholdAll va code s2 gone) (fun t => t.core == w.core) .sweep)

/-- A sweep completes: ACTIVE clears and the amount is added (R87). -/
def finishSweep (s : State) (w : SweepOp) (tn : Tensor) : State :=
  let t1 : Tensor := { tn with active := false }
  let s1 := engEnded (endSweepFlock (writeTensorRecord (setTensor s t1) t1) w) w.id
  let s2 := { s1 with sweeps := s1.sweeps.filter fun q => q.id ≠ w.id }
  let s3 := wakeRoom s2 (fun t => t.core == w.core) .sweep
  freeLaunches (engineAdd s3 (dieOf w.core) (w.core % 128) w.job w.pc.toNat w.handle.toNat w.amount)

/-! ## Opening a group (R84, R87, R88) -/

/-- What an element that is awake comes to. -/
inductive Visitor where
  /-- it runs: element, context word, data, extra words -/
  | run (e ctx : Nat) (data extra : List Byte)
  /-- its context word has WAIT 5 to 15 (R391) -/
  | bad (e : Nat)
  /-- it is passed over -/
  | pass
  deriving DecidableEq, Repr

/-- Read several runs of bytes, one after another. -/
def engReadAll (s : State) (die job op : Nat) : List (Nat × Nat) → List Byte → State × EngRes (List Byte)
  | [], acc => (s, .ok acc)
  | (a, n) :: r, acc =>
    match engRead s die job op a n with
    | (s1, .ok bs) => engReadAll s1 die job op r (acc ++ bs)
    | other => other

/-- Whether the wait of a context word is over, for kinds 2 and 3 (R84). -/
def waitOver (s : State) (op : Nat) (tn : Tensor) (e c : Nat) : State × EngRes Bool :=
  let warg := bits c 47 32
  match bits c 51 48 with
  | 2 =>
    if e < warg then (s, .ok true)
    else (match engRead s (dieOf tn.core) tn.job op (tn.ctxAt (e - warg)) 8 with
      | (s1, .ok bs) => (s1, .ok (bits (leNat bs) 51 48 == 4 || bits c 11 0 ≤ bits (leNat bs) 63 52))
      | (s1, .fail v x) => (s1, .fail v x)
      | (s1, .wait) => (s1, .wait))
  | 3 => (s, .ok (0 ≤ signedN 48 (tn.tstart.toNat % 2 ^ 48 + 2 ^ 48 - bits c 47 0)))
  | k => (s, .ok (k ≤ 1))

/-- Look at an element that is awake. -/
def lookAt (s : State) (op : Nat) (tn : Tensor) (e : Nat) : State × EngRes Visitor :=
  let die := dieOf tn.core
  match engRead s die tn.job op (tn.ctxAt e) 8 with
  | (s1, .fail v x) => (s1, .fail v x)
  | (s1, .wait) => (s1, .wait)
  | (s1, .ok bs) =>
    let c := leNat bs
    if 5 ≤ bits c 51 48 then (s1, .ok (.bad e))
    else match waitOver s1 op tn e c with
      | (s2, .fail v x) => (s2, .fail v x)
      | (s2, .wait) => (s2, .wait)
      | (s2, .ok false) => (s2, .ok .pass)
      | (s2, .ok true) =>
        match engRead s2 die tn.job op (tn.dataAt e) tn.dataSize with
        | (s3, .fail v x) => (s3, .fail v x)
        | (s3, .wait) => (s3, .wait)
        | (s3, .ok data) =>
          match engReadAll s3 die tn.job op ((upFrom 0 tn.xctx).map fun k => (tn.extraAt e k, 8)) [] with
          | (s4, .ok ex) => (s4, .ok (.run e c data ex))
          | (s4, .fail v x) => (s4, .fail v x)
          | (s4, .wait) => (s4, .wait)

/-- Look at the elements of a group that are awake, by ascending lane. -/
def lookAll (s : State) (op : Nat) (tn : Tensor) : List Nat → List Visitor → State × EngRes (List Visitor)
  | [], acc => (s, .ok acc)
  | e :: r, acc =>
    match lookAt s op tn e with
    | (s1, .ok v) => lookAll s1 op tn r (acc ++ [v])
    | (s1, .fail v x) => (s1, .fail v x)
    | (s1, .wait) => (s1, .wait)

/-- The registers with which a visit begins (R88). -/
def visitRegs (tn : Tensor) (e ctx : Nat) (data extra : List Byte) : List (Nat × Reg) :=
  let n : Nat → Nat → Nat → Nat × Reg := fun i v tag => (i, ⟨BitVec.ofNat 32 v, BitVec.ofNat 4 tag⟩)
  [n 0 (tn.dataAt e) 2, n 1 (tn.dataAt e / 2 ^ 32) 2, n 2 (tn.ctxAt e) 2, n 3 (tn.ctxAt e / 2 ^ 32) 2, n 4 (bits ctx 31 0) 2, n 5 (bits ctx 51 48) 2] ++
    ((upFrom 0 (data.length / 4)).map fun i => n (8 + i) (leNat ((data.drop (4 * i)).take 4)) tn.etag.toNat) ++
    ((upFrom 0 (extra.length / 4)).map fun i => n (12 + i) (leNat ((extra.drop (4 * i)).take 4)) 0)

/-- A routine thread at the start of a visit (R88). Its STATUS, and the high halves that it latched, stay as the visit before left them: the
list of R88 does not name them (DESIGN CHOICE, log entry 108). -/
def beginVisit (s : State) (tn : Tensor) (flock e ctx : Nat) (data extra : List Byte) : State × List Visit :=
  match (membersOf s tn.core flock).find? fun t => t.lane == e % 32 with
  | none => (s, [])
  | some t =>
    let s1 := modThread s t.uid fun t =>
      { t with
        regs := mapSetAll rawZero [] (visitRegs tn e ctx data extra)
        g := true, wb := 0, pc := BitVec.ofNat 57 (tn.routine + 4 * bits ctx 63 52), role := .sweep tn.slot e
        wait := .none, parked := false, region := [], age := s.cycle + 1 }
    ({ s1 with poison := s1.poison.filter fun p => match p with
        | .vreg u _ => u ≠ t.uid
        | _ => true }, [⟨t.lane, t.uid, e, none, []⟩])

/-- Start the visits of a group; a context word with WAIT 5 to 15 is reported (R391). -/
def beginVisits (w : SweepOp) (tn : Tensor) : State → List Visitor → List Visit → State × List Visit
  | s, [], acc => (s, acc)
  | s, .pass :: r, acc => beginVisits w tn s r acc
  | s, .bad e :: r, acc =>
    beginVisits w tn (raiseAsync s 6 4 w.job (dieOf w.core) (w.core % 128) w.pc.toNat (tn.ctxAt e) none tn.slot e) r acc
  | s, .run e c data ex :: r, acc =>
    let (s1, v) := beginVisit s tn w.flock e c data ex
    beginVisits w tn s1 r (acc ++ v)

/-- Elements of a group whose SLEEP bit is set because of their context word. -/
def badBits : List Visitor → Nat
  | [] => 0
  | .bad e :: r => badBits r ||| 2 ^ (e % 32)
  | _ :: r => badBits r

/-- Bits for the word that a sweep folds into SLEEP have not reached it (R86). -/
def wakesDue (s : State) (w : SweepOp) (tn : Tensor) : Bool :=
  s.packets.any fun p => p.eng == some tn.bind && p.va == tn.wakeAt tn.cursor w.num

/-- The words of a group's fallow map that a sweep writes as it opens the group: SLEEP without those woken, and no wakes of the sweep (R87). -/
def fallowWords (tn : Tensor) (num : Nat) (fb : List Byte) (bad : Nat) : List (Nat × List Byte) :=
  let wake := blockNat fb (4 * (1 + num % 2)) 4
  [(tn.fallowAt tn.cursor, natLe 4 ((blockNat fb 0 4 &&& (2 ^ 32 - 1 - wake)) ||| bad)), (tn.wakeAt tn.cursor num, natLe 4 0)]

/-- Bits of elements of a group that sleep on as the group opens (R87). -/
def asleep (num : Nat) (fb : List Byte) : Nat := blockNat fb 0 4 &&& (2 ^ 32 - 1 - blockNat fb (4 * (1 + num % 2)) 4)

/-- Places of runs of bytes for a write, found before anything is written: address, places, bytes. -/
def runPlaces (s : State) (die job op : Nat) : List (Nat × List Byte) → List (Nat × List (Nat × Nat) × List Byte) →
    State × EngRes (List (Nat × List (Nat × Nat) × List Byte))
  | [], acc => (s, .ok acc)
  | (a, bs) :: r, acc =>
    match engPlaces s die job op (pagePieces 2 a bs.length) [] with
    | (s1, .ok ps) => runPlaces s1 die job op r (acc ++ [(a, ps, bs)])
    | (s1, .fail v c) => (s1, .fail v c)
    | (s1, .wait) => (s1, .wait)

/-- The sweep engine of a core sends runs of bytes whose places are found. -/
def putRuns (core job op : Nat) : State → List (Nat × List (Nat × Nat) × List Byte) → State
  | s, [] => s
  | s, (a, ps, bs) :: r => putRuns core job op (sweepPut s core job op a ps bs) r

/-- Open the next group of a running sweep (R87). -/
def openGroup (s : State) (w : SweepOp) (tn : Tensor) : State :=
  let die := dieOf w.core
  if wakesDue s w tn then s
  else match engRead s die w.job w.id (tn.fallowAt tn.cursor) 16 with
  | (s1, .fail v c) => failSweep s1 w tn v c
  | (s1, .wait) => s1
  | (s1, .ok fb) =>
    match lookAll s1 w.id tn ((upFrom (32 * tn.cursor) 32).filter fun e => e < tn.count && !bit (asleep w.num fb) (e % 32)) [] with
    | (s2, .fail v c) => failSweep s2 w tn v c
    | (s2, .wait) => s2
    | (s2, .ok vs) =>
      match runPlaces s2 die w.job w.id (fallowWords tn w.num fb (badBits vs)) [] with
      | (s3, .fail v c) => failSweep s3 w tn v c
      | (s3, .wait) => s3
      | (s3, .ok rs) =>
        let (s4, visits) := beginVisits w tn (putRuns w.core w.job w.id (engTaken s3 w.id) rs) vs []
        modSweep s4 w.id fun q => { q with open_ := some visits }

/-- The sweep at the head of a core's queue. -/
def headSweep (s : State) (core : Nat) : Option SweepOp := s.sweeps.find? fun w => w.core == core

/-- The sweep flock can open a group: it is resident and not due to be evicted (R88, R92). -/
def mayOpen (s : State) (w : SweepOp) : Bool :=
  match findFlock s w.core w.flock with
  | some f => f.resident && !f.evicting
  | none => false

/-- SWEEP_START: the sweep at the head of the queue starts, or goes on at its cursor with the next group (R87, R92). -/
def execSweepStart (core : Nat) (s : State) : Host.Outcome State Fault Refusal :=
  issued (match headSweep s core with
    | none => s
    | some w =>
      match tensorAt s core w.slot with
      | none => s
      | some tn =>
        if coreHeld s core w.job w.uid w.id then s
        else if !w.started then
          (if engineWaits s core w.uid w.id then s else if entryBad s w.id then failSweep s w tn tn.base 8 else startSweep s w tn)
        else if w.open_.isNone && mayOpen s w then openGroup s w tn
        else s)

/-! ## Writing a group back (R87, R89, R391) -/

/-- What a visit ends in: an element that is written back, with the addresses and bytes of its data, context word and extra words, and the counter
wait it registers; or one that goes to sleep unchanged, with the code and address of its record. -/
inductive Ended where
  /-- written back -/
  | write (e : Nat) (runs : List (Nat × List Byte)) (sleep : Bool) (wait : Option (Nat × Nat))
  /-- invalid -/
  | invalid (e code addr : Nat)
  deriving DecidableEq, Repr

/-- Bytes of registers as a visit left them. -/
def Visit.bytes (v : Visit) (i n : Nat) : List Byte := (upFrom i n).flatMap fun k => natLe 4 (mapGet rawZero v.regs k).bits.toNat

/-- A visit's end (R89, R391). -/
def endOf (s : State) (w : SweepOp) (tn : Tensor) (v : Visit) : Ended :=
  match v.yielded with
  | some (some y) =>
    let k := bits y.toNat 15 12
    let h := tn.handleOf (bits y.toNat 31 16)
    let bad := (badHandle s h).isSome || !(w.segC.base ≤ hIndex h && hIndex h < w.segC.base + w.segC.limit)
    if 5 ≤ k then .invalid v.elem 5 0
    else if k = 1 ∧ bad then .invalid v.elem 5 h
    else
      let val := leNat (v.bytes 4 1)
      let ctx := bits y.toNat 11 0 * 2 ^ 52 + k * 2 ^ 48 + bits y.toNat 31 16 * 2 ^ 32 + val
      .write v.elem ((tn.dataAt v.elem, v.bytes 8 (tn.dataSize / 4)) :: (tn.ctxAt v.elem, natLe 8 ctx) ::
        (upFrom 0 tn.xctx).map fun j => (tn.extraAt v.elem j, v.bytes (12 + 2 * j) 2)) (k = 1 || k = 4) (if k = 1 then some (h, val) else none)
  | _ => .invalid v.elem 6 0

/-- A visit's end, with the places of what it writes. -/
abbrev Placed : Type := Ended × List (Nat × List (Nat × Nat) × List Byte)

/-- Places of each visit that is written back, as far as they are found. -/
def placesOf (w : SweepOp) : State → List Ended → List Placed → State × List Placed × EngRes Unit
  | s, [], acc => (s, acc, .ok ())
  | s, .invalid e c a :: r, acc => placesOf w s r (acc ++ [(.invalid e c a, [])])
  | s, .write e rs z k :: r, acc =>
    match runPlaces s (dieOf w.core) w.job w.id rs [] with
    | (s1, .ok ps) => placesOf w s1 r (acc ++ [(.write e rs z k, ps)])
    | (s1, .fail v c) => (s1, acc, .fail v c)
    | (s1, .wait) => (s1, acc, .wait)

/-- The elements' bytes of the visits that are written back set out, and the records of the others are written, by ascending lane. -/
def putEnded (w : SweepOp) (tn : Tensor) : State → List Placed → State
  | s, [] => s
  | s, (.invalid e code addr, _) :: r =>
    putEnded w tn (raiseAsync s 6 code w.job (dieOf w.core) (w.core % 128) w.pc.toNat addr none tn.slot e) r
  | s, (.write _ _ _ _, ps) :: r => putEnded w tn (putRuns w.core w.job w.id s ps) r

/-- SLEEP bits that the ends of visits set. -/
def sleepBits : List Placed → Nat
  | [] => 0
  | (.invalid e _ _, _) :: r => sleepBits r ||| 2 ^ (e % 32)
  | (.write e _ z _, _) :: r => if z then sleepBits r ||| 2 ^ (e % 32) else sleepBits r

/-- The counter waits of the visits that are written back are sent to their homes. -/
def waitEnded (tn : Tensor) : State → List Placed → State
  | s, [] => s
  | s, (.write e _ _ (some (h, val)), _) :: r => waitEnded tn (registerElement s tn e h val) r
  | s, _ :: r => waitEnded tn s r

/-- Visits are written back: data and words, then the SLEEP bits of their group, whose word has its place at `fk`, then the waiters (R87). -/
def writeBack (s : State) (w : SweepOp) (tn : Tensor) (fk : Nat) (ends : List Placed) : State :=
  let s1 := putEnded w tn s ends
  waitEnded tn (if sleepBits ends = 0 then s1 else sweepOr s1 w.core w.job w.id (tn.fallowAt tn.cursor) fk (sleepBits ends)) ends

/-- The write-back of a group is complete: CURSOR advances, and the next group opens or the sweep ends (R87). The last one's completion also
waits for the waits and wakes of its elements, and for the earlier loads of the thread, which the addition releases (R116). -/
def endGroup (s : State) (w : SweepOp) (tn : Tensor) : State :=
  match engDone s w.id with
  | .wait => s
  | .fail v c => failSweep s w tn v c
  | .ok _ =>
    let t1 : Tensor := { tn with cursor := tn.cursor + 1 }
    let w1 : SweepOp := { w with open_ := none }
    let s1 := writeTensorRecord (setTensor (modSweep s w.id fun q => { q with open_ := none }) t1) t1
    if t1.groups ≤ t1.cursor then (if loadsBefore s w.uid w.id || bindBusy s tn.bind then s else finishSweep s1 w1 t1)
    else if mayOpen s1 w1 then openGroup s1 w1 t1
    else s1

/-- Write the open group back; once its bytes are in place the group ends (R87). -/
def closeGroup (s : State) (w : SweepOp) (tn : Tensor) (vs : List Visit) : State :=
  if vs.isEmpty then endGroup s w tn
  else match engPlaces s (dieOf w.core) w.job w.id (pagePieces 2 (tn.fallowAt tn.cursor) 4) [] with
  | (s1, .ok ps) =>
    let fk := (ps.headD (0, 0)).1
    (match placesOf w s1 (vs.map (endOf s1 w tn)) [] with
    | (s2, _, .wait) => s2
    | (s2, ends, .fail v c) => failSweep (writeBack s2 w tn fk ends) w tn v c
    | (s2, ends, .ok _) => endGroup (modSweep (writeBack s2 w tn fk ends) w.id fun q => { q with open_ := some [] }) w tn)
  | (s1, .fail v c) => failSweep s1 w tn v c
  | (s1, .wait) => s1

/-- SWEEP_GROUP_WRITEBACK: every routine of the open group has ended its visit; the results are written back, and when they are in place the
next group starts (R87). -/
def execSweepGroupWriteback (core : Nat) (s : State) : Host.Outcome State Fault Refusal :=
  issued (match headSweep s core with
    | none => s
    | some w =>
      match tensorAt s core w.slot, w.open_ with
      | some tn, some vs => if coreHeld s core w.job w.uid w.id || !vs.all (·.yielded.isSome) then s else closeGroup s w tn vs
      | _, _ => s)

/-- The wake of an element reaches its core. -/
def elementWake (pkt : Nat) (s : State) : State :=
  match arriving s pkt with
    | some p =>
      (match p.body with
      | .wake w =>
        if w.kind ≠ 5 || jobHeld s (dieOf w.unit) w.job then s
        else match s.tensors.find? fun t => t.core == w.unit && t.bind == w.uid with
          | none => dropPacket s pkt
          | some tn =>
            match setWakeBit s tn (w.tag % 8192 * 32 + w.lane) with
            | (s1, .ok _) => lookAgain (dropPacket s1 pkt)
            | (s1, .fail va c) => sweepFault (lookAgain (dropPacket s1 pkt)) tn.core tn.job tn.slot va c 0 none
            | (s1, .wait) => parkPacket s1 pkt
      | _ => s)
    | none => s

/-- ELEMENT_WAKE: a wake of kind 5 sets the element's WAKE bit for the current sweep parity; it is held while the job is halted
(R86, R203). -/
def execElementWake (pkt : Nat) (s : State) : Host.Outcome State Fault Refusal := issued (elementWake pkt s)

end Sys2Proof.Machine
end

