-- ==== Sys2Proof/Machine/Halt.lean ====
section
/-! DEFINITION. The halt wave on a die (09 R199 to R207, 20 R411, R412): tokens, commands, the drain, the go, and single steps. -/

namespace Sys2Proof.Machine

/-! ## The go (R205 to R207) -/

/-- The wake of a `cwt`, of a `cwait` condition, of a launch record's condition or of a graph node's dependence reaches its unit. -/
def takeWake (pkt : Nat) (s : State) : State :=
  match arriving s pkt with
  | some p =>
    (match p.body with
    | .wake w =>
      if (w.kind = 2 ∨ w.kind = 4) && jobHeld s (dieOf w.unit) w.job then s
      else if w.kind = 2 then wakeQueue (dropPacket s pkt) w
      else if w.kind = 4 then wakeNode (dropPacket s pkt) w
      else if w.kind ≤ 1 then
        (match findThread s w.uid with
        | some t => if heldBack s t then s else wakeThread (dropPacket s pkt) w t
        | none => dropPacket s pkt)
      else s
    | _ => s)
  | none => s

/-- Wakes of a job that have reached a die, in their order. -/
def wakesOf (s : State) (d job : Nat) : List (Nat × Nat) :=
  s.packets.filterMap fun p => match p.body with
    | .wake w => if w.job = job ∧ dieOf w.unit = d ∧ w.kind ≠ 6 then some (p.id, w.kind) else none
    | _ => none

/-- Deliver wakes, in order. -/
def deliverWakes (s : State) : List (Nat × Nat) → State
  | [] => s
  | (id, k) :: r => deliverWakes (if k = 3 then fireWake id s else if k = 5 then elementWake id s else takeWake id s) r

/-- Wakes of the frozen waiters of a job at the homes of a die whose condition holds now (R205). -/
def retestWaiters (s : State) (d job : Nat) : State :=
  let hit : Waiter → Bool := fun w =>
    let h := w.handle.toNat
    w.job == job && hDie h == d && localHandle s h && !cellPoisoned s h && condMet (cellGet s h) w.thresh.toNat
  takeWaiters (sendWakes s (s.waiters.filter hit)) hit

/-- Extend the time limits of a job on a die by the halted time (R207). -/
def extendTimes (s : State) (d job ext : Nat) : State :=
  let on : Nat → Nat → Bool := fun core j => dieOf core == d && j == job
  { s with
    threads := s.threads.map fun t => if on t.core t.job then
      (match t.wait with
      | .cwait sc once all (some dl) dest df cs m => { t with wait := .cwait sc once all (some (dl + ext)) dest df cs m }
      | _ => t) else t
    waiters := s.waiters.map fun w => if w.kind == 1 && w.module == moduleId s && on w.unit w.job then { w with deadline := w.deadline.map (· + ext) } else w
    bins := s.bins.map fun b => if on b.core b.job then { b with deadline := b.deadline + ext, since := b.since + ext } else b
    flocks := s.flocks.map fun f => if on f.core f.job then { f with since := f.since + ext } else f }

/-- An armed die that has sent all that it held resumes; its resume time is `at'`, `late` ticks after T. The held wakes are delivered after the
frozen waiters have been tested, and issue goes on from the next core cycle (R205, R206, R207). -/
def resumeDie (s : State) (die slot late at' : Nat) : State :=
  let job := getField s die (hoff slot) 15 0
  let since := ((haltWorkOf s die slot).map (·.since)).getD 0
  let s1 := setField (setField s die (hoff slot + 16) 63 32 (min late (2 ^ 32 - 1))) die (hoff slot + 16) 1 0 0
  let s2 := modHaltWork s1 die slot fun w => { w with goT := none, armHeld := none, going := none }
  let s3 := retestWaiters (extendTimes s2 die job (at' - since)) die job
  let s4 := resumeTrapped (deliverWakes s3 (wakesOf s3 die job)) die job
  { s4 with threads := s4.threads.map fun t => if dieOf t.core == die && t.job == job then { t with age := s.cycle + 1 } else t }

/-- An operation that a port held at the cut and can send now: a `put`, `get` or `send`, or a record whose channel has room. -/
def heldSend (s : State) (die job n : Nat) (o : PortOp) : Bool :=
  o.die == die && o.job == job && o.armed.isNone && o.id < n && !o.started &&
    (o.kind.onConn || (oldestRw s die o.conn == some o && portHeld s die < 256 && (pickChannel s o).isSome))

/-- Something that a die held of a job, of a number below n, has not been sent yet: an operation of its port, or a release (R203, R205). -/
def heldLeft (s : State) (die job n : Nat) : Bool :=
  s.portOps.any (heldSend s die job n) ||
    s.packets.any fun p => p.job == job && p.release.isSome && p.src < 1536 && dieOf p.src == die && p.id < n && !hasLeft s p && !releaseFails s p

/-- Records whose channels have room are given them, channel by channel in the order of their requests. -/
def assignAll (die : Nat) : State → List PortOp → State
  | s, [] => s
  | s, o :: r => assignAll die (if oldestRw s die o.conn == some o then assignNext die o.conn s else s) r

/-- A die whose T has come hands over what it held, in its order, and resumes issue when all of that has been sent (R205). -/
def goOnward (s : State) (die slot : Nat) : State :=
  match haltWorkOf s die slot with
  | some w =>
    (match w.going, w.goT with
    | some (n, at'), some t =>
      let job := getField s die (hoff slot) 15 0
      let s1 := startOps s
      let s2 := assignAll die s1 (s1.portOps.filter fun o => o.die == die && o.job == job && o.isRw && !o.started && o.id < n)
      if heldLeft s2 die job n then s2 else resumeDie s2 die slot (at' - t.toNat) at'
    | _, _ => s)
  | none => s

/-- T has come: everything that the die has held of the job until now is handed over. -/
def beginGo (s : State) (die slot at' : Nat) : State :=
  goOnward (modHaltWork s die slot fun w => { w with going := some (s.fresh, at') }) die slot

/-- A go with its T reaches an armed die, which waits for T, or resumes at once when T has come (R205, R206). -/
def takeGo (s : State) (d h : Nat) (t : DWord) : State :=
  let s1 := modHaltWork s d h fun w => { w with goT := some t }
  if t.toNat ≤ ftime s d then beginGo s1 d h (ftime s d) else s1

/-- HALT_GO_AT_T: at T an armed die hands over what it held, and resumes issue when that has been sent (R205). -/
def execHaltGoAtT (die slot : Nat) (s : State) : Host.Outcome State Fault Refusal :=
  issued (match haltWorkOf s die slot with
    | some w =>
      (match w.goT with
      | some t =>
        if slot < 16 && phaseOf s die slot = 3 && t.toNat ≤ ftime s die then
          (if w.going.isSome then goOnward s die slot else beginGo s die slot t.toNat)
        else s
      | none => s)
    | none => s)

/-! ## Tokens (R200, R201) -/

/-- HSEQ of a slot. -/
def hseqOf (s : State) (d h : Nat) : Nat := getField s d (hoff h + 16) 17 2

/-- Order of two sequence numbers modulo 2^16: how far the first lies above the second. -/
def seqAbove (a b : Nat) : Bool := let x := (a + 65536 - b) % 65536; 0 < x && x < 32768

/-- The slot with which a job takes part in the wave on a die (R199). -/
def waveSlot (s : State) (d job : Nat) : Option Nat := if haltEn s d job then haltSlot s d job else none

/-- A token of the current halt on a slot: thaw-arm, or go with its T for a STAMP. It names the cause that the slot keeps (R200). -/
def waveToken (s : State) (d h opc stamp : Nat) : NetBody :=
  let w := getReg s d (hoff h + 32)
  .token opc (getField s d (hoff h) 15 0) (BitVec.ofNat 64 stamp) (hseqOf s d h) [bits w 28 16, bits w 32 29, bits w 39 33, bits w 44 40, bits w 50 45]
    (bits w 55 51) (BitVec.ofNat 57 (getReg s d (hoff h + 40)))

/-- A thaw-arm token of a slot: its STAMP is the cause's (R200). -/
def armToken (s : State) (d h : Nat) : NetBody := waveToken s d h 1 (getReg s d (hoff h + 24))

/-- Send a token of a slot on the links and to its multicast group (R201). -/
def sendToken (s : State) (d h : Nat) (b : NetBody) : State := floodToken s d (some (getField s d (hoff h) 40 17)) b

/-- The die adds 1 to DONE (R199). -/
def addDone (s : State) (d h : Nat) : State := engineAdd s d 127 (getField s d (hoff h) 15 0) 0 (getReg s d (hoff h + 8)) 1

/-- Drain the rays of a job on a die (R156, R203). -/
def drainJobRays (s : State) (d job : Nat) : State := drainRays s (s.rays.filter fun o => o.job == job && dieOf o.core == d)

/-- A halt token on a die where the job has no slot: it is forwarded on the links while its key is less than that of every token
forwarded for its HSEQ (R199). -/
def forwardOnly (s : State) (d job hseq : Nat) (key : List Nat) (b : NetBody) : State :=
  let n := 16 + job
  let less := match haltWorkOf s d n with
    | some w => (match w.least with
      | some (q :: k) => seqAbove hseq q || (hseq == q && keyLess key k)
      | _ => true)
    | none => true
  if less then floodToken (modHaltWork s d n fun w => { w with least := some (hseq :: key) }) d none b else s

/-- A halt token reaches a die (R201, R206). -/
def haltToken (s : State) (d job stamp hseq : Nat) (origin : List Nat) (cause : Nat) (pc : VAddr) (b : NetBody) : State :=
  let key := tokenKey stamp origin
  match waveSlot s d job with
  | none => forwardOnly s d job hseq key b
  | some h =>
    let own := hseqOf s d h
    let take : State → State := fun s => sendToken (takeCause s d h hseq stamp origin cause pc.toNat) d h b
    if phaseOf s d h = 0 then (if seqAbove hseq own then take (drainJobRays s d job) else s)
    else if seqAbove hseq own then take s
    else if hseq = own then
      let less := match haltWorkOf s d h with
        | some w => (match w.least with
          | some k => keyLess key k
          | none => true)
        | none => true
      if less then take s else s
    else s

/-- The die is armed: PHASE 3, DONE, and the token goes on (R205). -/
def armDie (s : State) (d h : Nat) (b : NetBody) : State :=
  sendToken (addDone (setField s d (hoff h + 16) 1 0 3) d h) d h b

/-- A thaw-arm token reaches a die (R205, R206). -/
def thawToken (s : State) (d job hseq : Nat) (b : NetBody) : State :=
  match waveSlot s d job with
  | none => s
  | some h =>
    if hseq ≠ hseqOf s d h then s
    else match phaseOf s d h with
      | 1 => modHaltWork s d h fun w => { w with armHeld := some b }
      | 2 => armDie s d h b
      | _ => s

/-- A go token reaches a die; an armed one resumes at T (R205, R206). -/
def goToken (s : State) (d job hseq : Nat) (t : DWord) (b : NetBody) : State :=
  match waveSlot s d job with
  | none => s
  | some h =>
    if hseq ≠ hseqOf s d h || phaseOf s d h ≠ 3 || ((haltWorkOf s d h).any fun w => w.goT.isSome) then s
    else takeGo (sendToken s d h b) d h t

/-- A token that has arrived at a die of this module: what its link carried before it has been taken (R174, R203). -/
def tokenArriving (s : State) (id opc : Nat) : Option NetMsg :=
  s.fabric.find? fun m => m.id == id && m.dmod == moduleId s && (match m.body with
    | .token o _ _ _ _ _ _ => o == opc && !linkBusy s m.id (msgLink s m)
    | _ => false)

/-- HALT_TOKEN_HALT: a halt token arrives (R201). -/
def execHaltTokenHalt (msg : Nat) (s : State) : Host.Outcome State Fault Refusal :=
  issued (match tokenArriving s msg 0 with
    | some m =>
      (match m.body with
      | .token _ job stamp hseq origin cause pc => haltToken (dropMsg s msg) m.ddie job stamp.toNat hseq origin cause pc m.body
      | _ => s)
    | none => s)

/-- HALT_TOKEN_THAW_ARM: a thaw-arm token arrives (R205). -/
def execHaltTokenThawArm (msg : Nat) (s : State) : Host.Outcome State Fault Refusal :=
  issued (match tokenArriving s msg 1 with
    | some m =>
      (match m.body with
      | .token _ job _ hseq _ _ _ => thawToken (dropMsg s msg) m.ddie job hseq m.body
      | _ => s)
    | none => s)

/-- HALT_TOKEN_GO: a go token arrives (R205). -/
def execHaltTokenGo (msg : Nat) (s : State) : Host.Outcome State Fault Refusal :=
  issued (match tokenArriving s msg 2 with
    | some m =>
      (match m.body with
      | .token _ job stamp hseq _ _ _ => goToken (dropMsg s msg) m.ddie job hseq stamp m.body
      | _ => s)
    | none => s)

/-! ## The drain (R203, R411) -/

/-- Packets of a job that a die has sent off it and that are not applied, or whose answer is not back; wakes are held, and what waits for a
held release of its sender has not been sent (R203). -/
def packetsOut (s : State) (d job : Nat) : List Packet :=
  s.packets.filter fun p =>
    let own := (moduleId s, d)
    p.job == job && (match p.body with
      | .wake _ => false
      | _ => true) && hasLeft s p && !s.packets.any (fun q => blocks s q p && !hasLeft s q) &&
      ((senderEnd s p == own && unitEnd s p.dst ≠ own) || (unitEnd s p.dst == own && senderEnd s p ≠ own))

/-- What a die has outstanding for a job: its packets, and requests of its port that no peer has answered yet (R203, R411). -/
def netOutstanding (s : State) (d job : Nat) : Nat :=
  (s.fabric.filter fun m =>
    let own := (findOp s m.op).any fun o => o.die == d && o.job == job
    own && ((m.body.isRequest && m.smod == moduleId s && m.sdie == d) || (!m.body.isRequest && m.dmod == moduleId s && m.ddie == d))).length +
    (packetsOut s d job).length

/-- The token with which a held thaw-arm goes on: the one that came, if its halt is still the current one; for CMD 2, which holds `done`, the
slot's own. -/
def heldArm (s : State) (d h : Nat) : Option NetBody :=
  match (haltWorkOf s d h).bind (·.armHeld) with
  | some (.token o job stamp hseq origin cause pc) => if hseq = hseqOf s d h then some (.token o job stamp hseq origin cause pc) else none
  | some _ => some (armToken s d h)
  | none => none

/-- PHASE 2 and DONE; a thaw-arm that was held takes effect (R203, R206). -/
def becomeHalted (s : State) (d h : Nat) : State :=
  let s1 := modHaltWork (addDone (setField s d (hoff h + 16) 1 0 2) d h) d h fun w => { w with armHeld := none }
  match heldArm s d h with
  | some b => armDie s1 d h b
  | none => s1

/-- Rays of a job on a die whose record is still to be written (R156). -/
def raysOut (s : State) (d job : Nat) : Bool := s.rays.any fun o => o.job == job && dieOf o.core == d && o.st.isSome

/-- HALT_DRAINED: the cores have stopped and the port has drained (R203). -/
def execHaltDrained (die slot : Nat) (s : State) : Host.Outcome State Fault Refusal :=
  issued (
    let job := getField s die (hoff slot) 15 0
    if slot < 16 && bit (getReg s die (hoff slot)) 16 && phaseOf s die slot = 1 && netOutstanding s die job = 0 then
      let s1 := drainJobRays s die job
      if raysOut s1 die job then s1 else becomeHalted s1 die slot
    else s)

/-- HALT_DRAIN_TIMEOUT: the drain has taken longer than DIE_HALT_TO (R411). -/
def execHaltDrainTimeout (die slot : Nat) (s : State) : Host.Outcome State Fault Refusal :=
  issued (
    let job := getField s die (hoff slot) 15 0
    let late := (haltWorkOf s die slot).any fun w => w.since + getField s die 0xD00 31 0 ≤ ftime s die
    if slot < 16 && bit (getReg s die (hoff slot)) 16 && phaseOf s die slot = 1 && late then
      becomeHalted (drainJobRays (raiseAsync s 10 1 job die 127 0 0 none slot (netOutstanding s die job)) die job) die slot
    else s)

/-! ## Single step (R204, R330) -/

/-- STEPRES and STEPBUSY. -/
def setStep (s : State) (d h busy res : Nat) : State :=
  setField (setField s d (hoff h + 16) 18 18 busy) d (hoff h + 16) 20 19 res

/-- The result of a step reaches the thread that asked for it (R330). -/
def tellAsker (s : State) (d h : Nat) (asker : Option (Nat × Nat)) : State :=
  match asker with
  | some (uid, dest) =>
    endWaitsWith s dest (getField s d (hoff h + 16) 20 19) (s.threads.filter fun t => t.wait == .step h dest uid)
  | none => s

/-- `ctxsave` and `ctxload` that wait for STEPBUSY to clear issue again (R327). -/
def wakeStepWait (s : State) (d h : Nat) : State :=
  { s with threads := s.threads.map fun t =>
      if dieOf t.core == d && t.wait == .step h 128 0 then { t with wait := .none, age := s.cycle + 1 } else t }

/-- Whether a thread of a halted job could issue but for the halt (R40). -/
def couldIssue (s : State) (t : Thread) : Bool :=
  let f := flockOf s t.core t.flock
  t.bin.isNone && f.resident && !(f.evicting && f.sweep.isNone) && !t.parked && !t.trapped && t.wait == .none

/-- A thread that waits on counters is tested once (R204): what its wait comes to when the condition holds. -/
def testWait (s : State) (t : Thread) : Option State :=
  let met : Cond → Bool := fun c =>
    let h := c.handle.toNat
    (badHandle s h).isNone && !cellPoisoned s h && condMet (cellGet s h) c.thresh.toNat
  match t.wait with
  | .cwt sc c =>
    if met c then
      let s1 := withdrawConds t 0 s [c]
      some (modThread (acquire s1 t.core (effScope s t.core sc c.handle.toNat)) t.uid fun t => { t with wait := .none, age := s.cycle + 1 })
    else none
  | .cwait sc _ all _ dest _ cs mask =>
    let m := mask ||| maskOf (((upFrom 0 cs.length).zip cs).filterMap fun p => if met p.2 then some p.1 else none)
    if cwaitHolds all cs.length m then some (endCwait s t sc all dest cs m) else none
  | _ => none

/-- Threads that a step lets issue (R204). -/
def stepTargets (s : State) (d job kind core lane slot : Nat) : Option Thread × List Thread :=
  let c := 128 * d + core
  let ready := s.threads.filter fun t => t.core == c && t.job == job && couldIssue s t
  let target := s.threads.find? fun t => t.core == c && t.job == job && t.lane == lane && t.slot == slot && holdsSlot s t
  match kind with
  | 2 => (none, ready)
  | 1 => (target, match target with
      | some t => ready.filter fun u => couldIssue s t && u.flock == t.flock && u.pc == t.pc
      | none => [])
  | _ => (target, ready.filter fun u => target.any (·.uid == u.uid))

/-- A step begins, or comes to nothing (R204). -/
def beginStep (s : State) (d h : Nat) (a : List Nat) (asker : Option (Nat × Nat)) : State :=
  let job := getField s d (hoff h) 15 0
  let none' : Nat → State := fun r => tellAsker (setStep s d h 0 r) d h asker
  if 3 ≤ nthD 3 a 0 then none' 2
  else
    match stepTargets s d job (nthD 0 a 0) (nthD 0 a 1) (nthD 0 a 2) (nthD 0 a 3) with
    | (some t, []) =>
      (match t.wait with
      | .cwt _ _ =>
        (match testWait s t with
        | some s1 => modHaltWork (setStep s1 d h 1 0) d h fun w => { w with stepped := [t.uid], stepAt := s.fresh, asker := asker }
        | none => none' 1)
      | .cwait _ _ _ _ _ _ _ _ =>
        (match testWait s t with
        | some s1 => modHaltWork (setStep s1 d h 1 0) d h fun w => { w with stepped := [t.uid], stepAt := s.fresh, asker := asker }
        | none => none' 1)
      | _ => none' 2)
    | (none, []) => none' 2
    | (_, ts) => modHaltWork (setStep s d h 1 0) d h fun w => { w with stepping := ts.map (·.uid), stepAt := s.fresh, asker := asker }

/-- A step command: ignored in PHASE 0 and 1, behind a running step otherwise (R206, R330). -/
def cmdStep (s : State) (d h : Nat) (a : List Nat) (asker : Option (Nat × Nat)) : State :=
  if phaseOf s d h < 2 then setStep s d h 0 2
  else if getField s d (hoff h + 16) 18 18 = 1 then modHaltWork s d h fun w => { w with queue := w.queue ++ [(a, asker)] }
  else beginStep s d h a asker

/-- A stepped thread has unparked, and has done what its word waits for: its fence, its way out of the L1 or its channel (R46, R204). -/
def stepOver (s : State) (u : Nat) : Bool :=
  (findThread s u).all fun t => t.trapped || (!t.parked && (match t.wait with
    | .fence _ _ => false
    | .before _ => false
    | .carve _ _ _ => false
    | .rwsend _ => false
    | _ => true))

/-- The traffic of stepped threads has been delivered and applied, with what the halt wave released before it (R204): nothing of them is left
that the wave does not hold, and nothing that the die's engines and port have sent for the job since the step began. -/
def stepDrained (s : State) (w : HaltWork) : Bool :=
  let own : Nat → Bool := fun n => w.stepAt ≤ n
  let job := getField s w.die (hoff w.slot) 15 0
  w.stepping.isEmpty && !(s.packets.any fun p => p.eng.isSome && p.job == job && (senderEnd s p == (moduleId s, w.die)) && own p.id) &&
    !(s.fabric.any fun m => own m.id && (findOp s m.op).any fun o => o.die == w.die && o.job == job) &&
    w.stepped.all fun u =>
      stepOver s u && !(s.results.any fun r => has r.uids u && own r.id) && !(s.fifo.any fun e => e.uid == u && !storeHeld s e.core e.job u e.seq) &&
        !(s.wc.any fun b => b.uid == u && !storeHeld s b.core b.job u b.seq) && !(s.packets.any fun p => p.uid == some u && hasLeft s p) &&
        !(s.copies.any fun o => o.uid == u && own o.id) && !(s.rays.any fun o => o.uid == u && own o.id) &&
        !(s.beams.any fun o => o.uid == u && own o.id) && !(s.sweeps.any fun o => o.uid == u && own o.id) &&
        !(s.chunks.any fun c => has c.uids u && own c.id) && !(s.mmas.any fun o => o.rows.any (·.2.1 == u) && own o.id) &&
        !(s.portOps.any fun o => o.die == w.die && o.armed.isNone && ((o.uid == u && own o.id) || aheadOfStep s o))

/-- Waiting step commands of a die that has resumed come to nothing (R206). -/
def dropSteps (d h : Nat) : State → List (List Nat × Option (Nat × Nat)) → State
  | s, [] => s
  | s, (_, asker) :: r => dropSteps d h (tellAsker (setStep s d h 0 2) d h asker) r

/-- The next waiting step command, if any. -/
def nextStep (s : State) (d h : Nat) : State :=
  match haltWorkOf s d h with
  | some w =>
    if phaseOf s d h < 2 then dropSteps d h (modHaltWork s d h fun w => { w with queue := [] }) w.queue
    else (match w.queue with
      | (a, asker) :: r => beginStep (modHaltWork s d h fun w => { w with queue := r }) d h a asker
      | [] => s)
  | none => s

/-- STEP_COMPLETE: the step's threads have issued and unparked and their traffic has drained; STEPBUSY clears (R204, R330). -/
def execStepComplete (die slot : Nat) (s : State) : Host.Outcome State Fault Refusal :=
  issued (match haltWorkOf s die slot with
    | some w =>
      if slot < 16 && getField s die (hoff slot + 16) 18 18 = 1 && stepDrained s w then
        let s1 := setField s die (hoff slot + 16) 18 18 0
        let s2 := tellAsker (modHaltWork s1 die slot fun w => { w with stepped := [], asker := none }) die slot w.asker
        nextStep (wakeStepWait s2 die slot) die slot
      else s
    | none => s)

/-! ## Commands (R199, R205, R206) -/

/-- CMD 1: starts a halt in PHASE 0. -/
def cmdHalt (s : State) (d h : Nat) : State :=
  if phaseOf s d h = 0 then startHalt s d h 127 0 0 3 0 else s

/-- CMD 2: arms a halted die and floods the thaw-arm token; held in PHASE 1. -/
def cmdThawArm (s : State) (d h : Nat) : State :=
  match phaseOf s d h with
  | 1 => modHaltWork s d h fun w => { w with armHeld := some (w.armHeld.getD .done) }
  | 2 => armDie s d h (armToken s d h)
  | _ => s

/-- CMD 3: an armed die floods the go token with T, and resumes at T itself. -/
def cmdGo (s : State) (d h : Nat) : State :=
  if phaseOf s d h = 3 then
    let t := getReg s d (hoff h + 56)
    let s1 := sendToken s d h (waveToken s d h 2 t)
    if (haltWorkOf s d h).any fun w => w.goT.isSome then s1 else takeGo s1 d h (BitVec.ofNat 64 t)
  else s

/-- A write of DIE_HALT_CMDh on a valid slot of a job that takes part in the wave (R199). -/
def haltCommand (s : State) (d h v : Nat) : State :=
  if waveSlot s d (getField s d (hoff h) 15 0) ≠ some h || !bit (getReg s d (hoff h)) 16 then s
  else match v % 8 with
    | 1 => cmdHalt s d h
    | 2 => cmdThawArm s d h
    | 3 => cmdGo s d h
    | 4 => cmdStep s d h [bits v 4 3, bits v 11 5, bits v 16 12, bits v 22 17] none
    | _ => s

end Sys2Proof.Machine
end

