-- ==== Sys2Proof/Machine/Link.lean ====
section
/-! DEFINITION. Die-to-die links and the port's transport (08 R170 to R178): swing groups, Tabond flits with their check and retry (R394,
R395), lane diagnosis and a downed link (R396), lost endpoints (R397, R398), the fate of packets that fail (R399), management packets,
and field time from PTP (R178, R406). -/

namespace Sys2Proof.Machine

/-! ## Ends of a link -/

/-- Offset of DIE_LINK_SWINGj. -/
def swingOff (j : Nat) : Nat := 0x700 + 8 * j
/-- Offset of DIE_LINK_ERRj. -/
def linkErrOff (j : Nat) : Nat := 0x780 + 8 * j

/-- Two dies of the module have a link (R13, R24). -/
def hasLink (s : State) (i j : Nat) : Bool := i ≠ j && dieOn s i && dieOn s j

/-- DIR of an end. -/
def dirOf (s : State) (i j : Nat) : Nat := getField s i (swingOff j) 7 0
/-- EN of a link. -/
def swingEn (s : State) (i j : Nat) : Nat := getField s i (swingOff j) 23 16
/-- FIXED_J at an end (R21). -/
def fixedOf (s : State) (i j : Nat) : Nat := getField s i 0x60 (4 * j + 3) (4 * j)
/-- SWING_J at an end (R21). -/
def swingOf (s : State) (i j : Nat) : Nat := getField s i 0x68 (4 * j + 3) (4 * j)

/-- A link is down when one direction has no lane left (R396). -/
def linkDown (s : State) (i j : Nat) : Bool :=
  hasLink s i j && fixedOf s i j == 0 && (dirOf s i j &&& swingEn s i j == 0 || (255 - dirOf s i j) &&& swingEn s i j == 0)

/-! ## What a lost endpoint or a downed link does to packets (R399) -/

/-- Traffic from one end to another, each a module and a die, cannot pass: over a downed link, or to an endpoint that the port has marked lost. What
comes from such an endpoint is taken as any other (R398, R412). -/
def cutOff (s : State) (a b : Nat × Nat) : Bool :=
  let own := moduleId s
  if a.1 = own ∧ b.1 = own then linkDown s a.2 b.2
  else s.lost.any fun l => a.1 == own && l == (a.2, b.1, b.2)

/-- The destination joins a thread's failed set (R399). -/
def addFailed (s : State) (u : Option Nat) (dest : Nat × Nat) : State :=
  match u with
  | some uid => modThread s uid fun t => { t with failed := if t.failed.any (· == dest) then t.failed else t.failed ++ [dest] }
  | none => s

/-- A result's registers will be written poisoned (R399). -/
def poisonResult (s : State) (rid : Nat) : State :=
  { s with results := s.results.map fun r => if r.id == rid then { r with ready := true, poisoned := true } else r }

/-- Bytes that an engine has asked for do not come. -/
def failLine (s : State) (rid code : Nat) : State :=
  lookAgain { s with engLines := s.engLines.map fun l => if l.rid == rid then { l with fail := some code } else l }

/-- Bytes that an engine operation, or the wake of a bound tensor's element, has sent do not reach their home. -/
def failWrite (s : State) (p : Packet) (op : Nat) : State :=
  match s.tensors.find? fun t => t.bind == op with
  | some tn => sweepFault s tn.core tn.job tn.slot p.va Config.lostCode.toNat 0 none
  | none => { s with engFails := s.engFails ++ [⟨op, none, p.va, Config.lostCode.toNat⟩] }

/-- A packet of an engine or a port fails: the operation fails, and its addition is withheld (R399). -/
def failEng (s : State) (p : Packet) (op : Nat) : State :=
  match p.body with
  | .write _ _ => failWrite s p op
  | .red _ _ _ => failWrite s p op
  | .ack => failWrite s p op
  | .read _ _ rid _ _ => failLine s rid Config.lostCode.toNat
  | .readResp rid _ _ _ _ => failLine s rid Config.lostCode.toNat
  | .ctr _ _ => withheldAdd s p 8 5 Config.lostReason.toNat
  | _ => s

/-- A packet of a thread fails (R399). -/
def failThread (s : State) (p : Packet) : State :=
  let far := unitEnd s p.dst
  match p.body with
  | .write _ _ => addFailed s p.uid far
  | .red _ _ _ => addFailed s p.uid far
  | .redDet _ _ _ _ _ _ _ => addFailed s p.uid far
  | .ack => addFailed s p.uid (senderEnd s p)
  | .read _ _ rid _ _ => poisonResult s rid
  | .readResp rid _ _ _ _ => poisonResult s rid
  | .ctr _ (.add _) => addFailed s p.uid far
  | .ctr _ (.set _) => addFailed s p.uid far
  | .ctr _ (.addRet _ rid) => poisonResult s rid
  | .ctr _ (.read rid) => poisonResult s rid
  | .ctrResp rid _ _ => poisonResult s rid
  | _ => s

/-- A packet fails (R399). -/
def failPacket (s : State) (p : Packet) : State :=
  match p.eng with
  | some op => lookAgain (failEng (dropPacket s p.id) p op)
  | none => failThread (dropPacket s p.id) p

/-- Packets that have left their sender and cannot pass; not those that have been taken from their link. -/
def cutPackets (s : State) : List Packet :=
  s.packets.filter fun p => cutOff s (senderEnd s p) (unitEnd s p.dst) && hasLeft s p && !offLink s p

/-- Fail these packets. -/
def failPackets (s : State) : List Packet → State
  | [] => s
  | p :: r => failPackets (failPacket s p) r

/-- A message of the ports fails: its operation, or its node, where a port of this module has it (R399, R401, R404). -/
def failMsg (s0 : State) (m : NetMsg) : State :=
  let s := dropMsg s0 m.id
  match m.body with
  | .token _ _ _ _ _ _ _ => s
  | _ =>
    match if (if m.body.isRequest then m.smod else m.dmod) = moduleId s then findOp s m.op else none with
    | none => s
    | some o =>
      match o.kind with
      | .coll =>
        (match replayOn s o.die, m.body with
        | some r, .chunk c => if nthD .done r.nodes c.node = .running then failNode s r o c.node else s
        | some r, .chunkAck n _ => if nthD .done r.nodes n = .running then failNode s r o n else s
        | _, _ => s)
      | .rwsend _ => if o.void then dropOp s o else failOp s o 8 5 0 Config.lostReason.toNat o.chan
      | _ => failOp s o 8 5 0 Config.lostReason.toNat o.conn

/-- Messages that cannot pass; not those that their receiver has taken. -/
def cutMsgs (s : State) : List NetMsg :=
  s.fabric.filter fun m => m.dmod < 8192 && !m.got && cutOff s (m.smod, m.sdie) (m.dmod, m.ddie)

/-- Fail these messages. -/
def failMsgs (s : State) : List NetMsg → State
  | [] => s
  | m :: r => failMsgs (failMsg s m) r

/-- Everything that is outstanding to a lost endpoint or queued for a downed link fails (R396, R398, R399). -/
def failLost (s : State) : State :=
  let s1 := failPackets s (cutPackets s)
  failMsgs s1 (cutMsgs s1)

/-! ## Swing groups (R172, R396) -/

/-- The field-time tick at which a group that turns drives again. -/
def turnOf (s : State) (i j g : Nat) : Option Nat :=
  ((linkEnd s i j).turning.find? fun t => t.1 == g).map (·.2)

/-- Set or clear a group's BUSY bit at both ends. -/
def setBusy (s : State) (i j g : Nat) (b : Bool) : State :=
  let f : State → Nat → Nat → State := fun s a c => setField s a (swingOff c) (8 + g) (8 + g) (if b then 1 else 0)
  f (f s i j) j i

/-- A group begins to turn: it carries nothing for 256 ticks. -/
def beginTurn (s : State) (i j g : Nat) : State :=
  modLink (setBusy s i j g true) (min i j) (max i j) fun l =>
    { l with turning := (g, ftime s (min i j) + 256) :: l.turning.filter fun t => t.1 ≠ g }

/-- Begin the turns of these groups. -/
def beginTurns (s : State) (i j : Nat) : List Nat → State
  | [] => s
  | g :: r => beginTurns (beginTurn s i j g) i j r

/-- Asynchronous records of both ends of a link. -/
def bothRecord (s : State) (i j code : Nat) (aux info : Nat → Nat → Nat) : State :=
  let s1 := raiseAsync s 8 code supJob i 127 0 0 none (aux i j) (info i j)
  raiseAsync s1 8 code supJob j 127 0 0 none (aux j i) (info j i)

/-- After a change of a link's lanes: when it has gone down, both dies record it and its packets fail (R396). -/
def ifDown (before : Bool) (s : State) (i j : Nat) : State :=
  if !before && linkDown s i j then failLost (bothRecord s i j 2 (fun _ p => p) (fun _ _ => 0)) else s

/-- A DIR write turns groups round at both ends (R172). -/
def swingWrite (s : State) (i j v : Nat) : State :=
  if 12 ≤ j ∨ i = j then s
  else if !hasLink s i j then setField s i (swingOff j) 7 0 v
  else
    let changed := setBitsOf 8 ((dirOf s i j ^^^ (v % 256)) &&& swingEn s i j)
    let s1 := setField (setField s i (swingOff j) 7 0 v) j (swingOff i) 7 0 (255 - v % 256)
    ifDown (linkDown s i j) (beginTurns s1 i j changed) i j

/-- MOD_CAP_GEN rises by 1 (R20). -/
def bumpGen (s : State) : State := setField s 0 0x10 31 0 (getField s 0 0x10 31 0 + 1)

/-- A lane group of a link is taken out of use: the registers change at both ends as one step with MOD_CAP_GEN, and both dies record
it (R396). -/
def loseGroup (s : State) (i j : Nat) (swing : Bool) (g : Nat) : State :=
  let have_ := if swing then g < 8 && bit (swingEn s i j) g else 0 < fixedOf s i j
  if !have_ then s
  else
    let one : State → Nat → Nat → State := fun s a c =>
      if swing then setField (setField s a (swingOff c) (16 + g) (16 + g) 0) a 0x68 (4 * c + 3) (4 * c) (swingOf s a c - 1)
      else setField s a 0x60 (4 * c + 3) (4 * c) (fixedOf s a c - 1)
    let s1 := bumpGen (one (one s i j) j i)
    let s2 := bothRecord s1 i j 1 (fun _ p => p + (if swing then 16 + 32 * g else 0)) (fun a p => fixedOf s1 a p + 16 * swingOf s1 a p)
    ifDown (linkDown s i j) s2 i j

/-- SWING_TURN_COMPLETE: after 256 idle ticks the group drives the other way; one that does not retrain is taken out of use (R172,
R396). Whether it retrains is a free value. -/
def execSwingTurnComplete (die peer group : Nat) (s : State) : Host.Outcome State Fault Refusal :=
  issued (
    let i := min die peer
    let j := max die peer
    if (turnOf s i j group).any fun t => t ≤ ftime s i then
      let (n, s0) := takeFree s
      let s1 := setBusy (modLink s0 i j fun l => { l with turning := l.turning.filter fun t => t.1 ≠ group }) i j group false
      if Config.freeBit n then s1 else loseGroup s1 i j true group
    else s)

/-! ## Flits (R173, R174, R394, R395) -/

/-- The CRC of R173 over one bit, most significant first. -/
def crcBit (c : Nat) (b : Bool) : Nat :=
  let top := bit c 15 != b
  let c1 := c * 2 % 65536
  if top then c1 ^^^ 0x1021 else c1

/-- The CRC over one byte. -/
def crcByte (c : Nat) (b : Byte) : Nat := [7, 6, 5, 4, 3, 2, 1, 0].foldl (fun c k => crcBit c (bit b.toNat k)) c

/-- The CRC of a flit's bytes 0 to 61 and the low 16 bits of its number (R173). -/
def flitCrc (bs : List Byte) (seq : Nat) : Nat := (bs.take 62 ++ natLe 2 (seq % 65536)).foldl crcByte 0xFFFF

/-- The bytes of a flit. -/
def flitBytes (f : BitVec 512) : List Byte := natLe 64 f.toNat

/-- A flit checks under a number. -/
def flitOk (f : BitVec 512) (seq : Nat) : Bool := leNat ((flitBytes f).drop 62) == flitCrc (flitBytes f) seq

/-- Send the next flits that wait at an end, whose peer expects flit `rx`: the sender keeps its last 1,024 flits, and sends none beyond
those that its peer has not taken (R173, R394; log entry 83). -/
def LinkEnd.pump (rx : Nat) : Nat → LinkEnd → LinkEnd
  | 0, l => l
  | n + 1, l =>
    match l.queue with
    | bs :: r =>
      if l.tx < rx + 1024 then
        let f := BitVec.ofNat 512 (leNat (bs.take 62 ++ natLe 2 (flitCrc bs l.tx)))
        LinkEnd.pump rx n { l with tx := l.tx + 1, kept := (f :: l.kept).take 1024, queue := r }
      else l
    | [] => l

/-- Send what waits at an end of a link. -/
def pumpLink (s : State) (die peer : Nat) : State :=
  modLink s die peer fun l => l.pump (linkEnd s peer die).rx 1024

/-- Send a packet's flits. -/
def sendFlits (s : State) (die peer : Nat) (fs : List (List Byte)) : State :=
  pumpLink (modLink s die peer fun l => { l with queue := l.queue ++ fs }) die peer

/-- A packet's header (R174): TYPE and OPC, flits, scope, job, issuing die, core and tag, address. -/
def packetHeader (type opc nflit scope job die core tag addr : Nat) : List Byte :=
  natLe 8 (type % 16 + scope % 8 * 2 ^ 4 + nflit % 256 * 2 ^ 8 + job % 2 ^ 16 * 2 ^ 16 + die % 16 * 2 ^ 32 + core % 128 * 2 ^ 36 + tag % 2 ^ 16 * 2 ^ 43) ++
    natLe 8 (addr % 2 ^ 57 + opc % 128 * 2 ^ 57)

/-- The bytes 0 to 61 of a packet's flits: the rest of the last is 0 (R174). -/
def flitsOf (bs : List Byte) : List (List Byte) :=
  (upFrom 0 ((bs.length + 61) / 62)).map fun k =>
    let x := (bs.drop (62 * k)).take 62
    x ++ List.replicate (62 - x.length) 0#8

/-- A packet of the link: TYPE, OPC, ADDR and payload (R174, R176). -/
structure LinkPacket where
  /-- TYPE -/
  type : Nat
  /-- OPC -/
  opc : Nat
  /-- ADDR -/
  addr : Nat
  /-- payload -/
  payload : List Byte
  deriving DecidableEq, Repr

/-- A packet's flits. -/
def LinkPacket.flits (scope job die core tag : Nat) (p : LinkPacket) : List (List Byte) :=
  flitsOf (packetHeader p.type p.opc ((16 + p.payload.length + 61) / 62) scope job die core tag p.addr ++ p.payload)

/-- The retry request for a flit: TYPE 11, OPC 16, NFLIT 1 (R394). -/
def retryFlits (die seq : Nat) : List (List Byte) := LinkPacket.flits 4 supJob die 127 0 ⟨11, 16, 0, natLe 2 (seq % 65536)⟩

/-- The payload of a write: its bytes from the lowest on, and their mask (R176). -/
def writePayload (bytes : List (Nat × Byte)) (lo : Nat) : List Byte :=
  let n := bytes.foldl (fun m b => max m (b.1 + 1 - lo)) 0
  ((upFrom 0 n).map fun k => ((bytes.find? fun b => b.1 == lo + k).map (·.2)).getD 0#8) ++
    natLe ((n + 7) / 8) (maskOf (bytes.map fun b => b.1 - lo))

/-- OPC, and the payload of a counter operation (R176): amount, threshold, waiter entry. -/
def CtrOp.wire : CtrOp → Nat × List Byte
  | .add a => (0, natLe 8 a)
  | .addRet a _ => (1, natLe 8 a)
  | .read _ => (2, [])
  | .wait w => (3, waiterBytes w)
  | .withdraw kind uid => (4, natLe 8 (kind + 16 * uid))
  | .set v => (5, natLe 8 v.toNat)

/-- The packet of the link that carries a packet of the model (R176). -/
def Body.wire : Body → LinkPacket
  | .write bytes _ =>
    let lo := bytes.foldl (fun m b => min m b.1) (2 ^ 57)
    ⟨1, 0, lo, writePayload bytes lo⟩
  | .read pa n _ _ _ => ⟨2, n, pa, []⟩
  | .readResp _ bytes line _ _ => ⟨3, 0, 0, match line with | some l => l.2 | none => bytes⟩
  | .red fn pa x => ⟨4, fn, pa, natLe 8 x.toNat⟩
  | .redDet pa _ k i x _ _ => ⟨4, 127, pa, natLe 4 x.toNat ++ natLe 4 (k * 2 ^ 21 + i)⟩
  | .ctr h op => ⟨5, op.wire.1, hIndex h.toNat, op.wire.2⟩
  | .ctrResp _ v _ => ⟨6, 0, 0, natLe 8 v.toNat⟩
  | .wake w => ⟨6, 1, hIndex w.handle.toNat, natLe 8 w.cond⟩
  | .ack => ⟨7, 0, 0, []⟩
  | .tlbi job all va log2 => ⟨11, 0, va, natLe 8 (job + (if all then 2 ^ 16 else 0) + log2 * 2 ^ 17)⟩
  | .capChange kind num die => ⟨11, 1, 0, natLe 8 (kind + num * 2 ^ 4 + die * 2 ^ 20)⟩

/-- Data in pieces of at most `n` bytes; one piece of none, where there is no data. -/
def piecesOf (n : Nat) (bs : List Byte) : List (List Byte) :=
  (upFrom 0 (max 1 ((bs.length + n - 1) / n))).map fun k => (bs.drop (n * k)).take n

/-- Bytes with the mask of a write of all of them (R176). -/
def maskedBytes (bs : List Byte) : List Byte := bs ++ natLe ((bs.length + 7) / 8) (2 ^ bs.length - 1)

/-- The payload of a halt token (R200). -/
def tokenBytes (stamp hseq : Nat) (origin : List Nat) (cause : Nat) (pc : VAddr) : List Byte :=
  natLe 8 stamp ++ natLe 8 (tokenWord1 hseq origin cause) ++ natLe 8 pc.toNat ++ natLe 8 0

/-- The packets of the link that carry a message between two dies of the module (R169, R176). ADDR is 0: a message names no physical address and no
handle (R174; log entry 83). -/
def NetBody.wire : NetBody → List LinkPacket
  | .put _ _ _ _ data => (piecesOf 128 data).map fun p => ⟨1, 1, 0, maskedBytes p⟩
  | .getReq _ _ _ _ _ => [⟨2, 1, 0, []⟩]
  | .getData data => (piecesOf 128 data).map fun p => ⟨3, 1, 0, p⟩
  | .send _ _ _ data => (piecesOf 8192 data).map fun p => ⟨8, 1, 0, p⟩
  | .rw _ _ _ bytes _ => [⟨8, 0, 0, bytes⟩]
  | .done => [⟨7, 0, 0, []⟩]
  | .nack reason => [⟨7, 1 + reason, 0, []⟩]
  | .chunk c => [⟨9, 0, 0, c.data⟩]
  | .chunkAck _ ok => [⟨7, if ok then 16 else 17, 0, []⟩]
  | .token opc _ stamp hseq origin cause pc => [⟨10, opc, 0, tokenBytes stamp.toNat hseq origin cause pc⟩]

/-- The job in a message's header. -/
def NetBody.jobOf : NetBody → Nat
  | .put _ j _ _ _ => j
  | .getReq _ j _ _ _ => j
  | .send _ j _ _ => j
  | .rw _ _ j _ _ => j
  | .chunk c => c.job
  | .token _ j _ _ _ _ _ => j
  | _ => supJob

/-- An end has sent a packet or a message. -/
def emitted (s : State) (l : Nat × Nat) (id : Nat) : Bool := (linkEnd s l.1 l.2).out.any fun e => e.1 == id

/-- Send a packet's or message's flits on its link, after those before it (R173, R174). -/
def emitOn (s : State) (l : Nat × Nat) (id : Nat) (fs : List (List Byte)) : State :=
  sendFlits (modLink s l.1 l.2 fun e => { e with out := e.out ++ [(id, e.tx + e.queue.length + fs.length)] }) l.1 l.2 fs

/-- A packet that has left its sender goes onto its link, behind those that must be delivered before it. -/
def emitPacket (s : State) (p : Packet) : State :=
  match linkOf s p with
  | none => s
  | some l =>
    if emitted s l p.id || !hasLeft s p || s.packets.any (fun q => blocks s q p && !emitted s l q.id) then s
    else emitOn s l p.id (p.body.wire.flits (p.release.getD 0) p.job l.1 (if p.src < 1536 then p.src % 128 else 127) (p.tag.getD p.id))

/-- A message goes onto its link. -/
def emitMsg (s : State) (m : NetMsg) : State :=
  match msgLink s m with
  | none => s
  | some l =>
    if emitted s l m.id then s
    else emitOn s l m.id (m.body.wire.flatMap fun p => p.flits 0 m.body.jobOf l.1 127 (m.tag.getD m.id))

/-- The packet or the message of this number goes onto its link. -/
def emitOne (s : State) (id : Nat) : State :=
  match findPacket s id, s.fabric.find? fun m => m.id == id with
  | some p, _ => emitPacket s p
  | none, some m => emitMsg s m
  | none, none => s

/-- What has left its sender goes onto its link, by number; what has gone from the links is forgotten. -/
def emitAll (s : State) : State :=
  let s1 := { s with links := s.links.map fun l => { l with
    out := l.out.filter fun e => (findPacket s e.1).isSome || s.fabric.any fun m => m.id == e.1 } }
  (sortBy id ((s.packets.filter fun p => (linkOf s p).isSome).map (·.id) ++ (s.fabric.filter fun m => (msgLink s m).isSome).map (·.id))).foldl emitOne s1

/-- A receiver asks for the flit that it expects (R394, R395). -/
def askRetry (s : State) (die peer : Nat) : State :=
  let s1 := bumpField s die (linkErrOff peer) 15 0
  let s2 := sendFlits s1 die peer (retryFlits die (linkEnd s die peer).rx)
  modLink s2 die peer fun l => { l with retries := l.retries + 1 }

/-- The sender resends from a flit onwards, of those it keeps (R394). -/
def resendFrom (s : State) (die peer : Nat) (seq16 : Nat) : State :=
  let l := linkEnd s die peer
  let k := (l.tx + 65536 - seq16 % 65536) % 65536
  if 1 ≤ k ∧ k ≤ l.kept.length then modLink s die peer fun l => { l with resend := (l.kept.take k).reverse } else s

/-- The packet that is being received is whole: a retry request makes this die resend; every other packet may now be taken, in the order of
the link, by the step of its home, core or port (`linkBusy`). -/
def takePacket (s : State) (die peer : Nat) : State :=
  match (linkEnd s die peer).partFlits with
  | [] => s
  | f :: r =>
    let w := leNat ((flitBytes f).take 8)
    let n := bits w 15 8
    if r.length + 1 < n then s
    else
      let s1 := modLink s die peer fun l => { l with partFlits := [] }
      if bits w 3 0 = 11 ∧ leNat (((flitBytes f).drop 8).take 8) / 2 ^ 57 = 16 ∧ n = 1 then
        resendFrom s1 die peer (leNat (((flitBytes f).drop 16).take 2))
      else s1

/-- Whether a flit is one of those that follow the expected one. -/
def flitAhead (f : BitVec 512) (rx : Nat) : Bool := (upFrom (rx + 1) 1023).any (flitOk f)

/-- The bytes 0 to 61 of a flit are 0 (R173). -/
def isIdle (f : BitVec 512) : Bool := (flitBytes f).take 62 == natLe 62 0

/-- An end that has sent nothing more than its peer has received sends an idle flit under its next number (R173). -/
def LinkEnd.idle (rx : Nat) (l : LinkEnd) : LinkEnd :=
  if l.tx ≤ rx then
    { l with tx := l.tx + 1, kept := (BitVec.ofNat 512 (leNat (natLe 62 0 ++ natLe 2 (flitCrc (natLe 62 0) l.tx))) :: l.kept).take 1024 }
  else l

/-- FLIT_RECEIVE: a flit arrives and is checked; the expected one is taken, in order, and any other is discarded and asked for again
(R173, R174, R394, R395). Where the peer has sent nothing else, what arrives is an idle flit; none that checks and is another has been sent. -/
def execFlitReceive (die peer : Nat) (flit : BitVec 512) (s0 : State) : Host.Outcome State Fault Refusal :=
  issued (
    let rx := (linkEnd s0 die peer).rx
    if !hasLink s0 die peer || ((linkEnd s0 peer die).tx ≤ rx && flitOk flit rx && !isIdle flit) then s0
    else
      let s := modLink s0 peer die (·.idle rx)
      let l := linkEnd s die peer
      if flitOk flit l.rx then
        let s1 := modLink s die peer fun l => { l with
          rx := l.rx + 1
          retries := 0
          partFlits := if l.partFlits.isEmpty && isIdle flit then [] else l.partFlits ++ [flit] }
        takePacket (pumpLink s1 peer die) die peer
      else if flitAhead flit l.rx then (if l.retries = 0 then askRetry s die peer else s)
      else askRetry (bumpField s die (linkErrOff peer) 31 16) die peer)

/-- RETRY_REQUEST: a die resends from the flit that its peer asks for (R394). -/
def execRetryRequest (die peer : Nat) (seqno : BitVec 16) (s : State) : Host.Outcome State Fault Refusal :=
  issued (if hasLink s die peer then resendFrom s die peer seqno.toNat else s)

/-- LANE_DIAGNOSIS: after 16 failed retries in a row, each answered by one more request, the faulty lane is repaired, or its group is taken out of use (R396). -/
def execLaneDiagnosis (die peer : Nat) (repaired swing : Bool) (group : Nat) (s : State) : Host.Outcome State Fault Refusal :=
  issued (
    if !hasLink s die peer || (linkEnd s die peer).retries ≤ 16 then s
    else
      let s1 := modLink s die peer fun l => { l with retries := 0 }
      if repaired then s1 else loseGroup s1 die peer swing group)

/-! ## Management packets (R176) -/

/-- The invalidation of which a packet is a part. -/
def ofTlbi (t : Tlbi) (p : Packet) : Bool :=
  srcDie p.src == t.die && (match p.body with
    | .tlbi j a v l => j == t.job && a == t.all && v == t.va && l == t.log2
    | _ => false)

/-- A cached translation that an invalidation removes (R100). -/
def Tlbi.covers (t : Tlbi) (e : TlbEnt) : Bool :=
  e.job == t.job && (t.all || (t.va / 4096 ≤ e.page && e.page < t.va / 4096 + 2 ^ t.log2))

/-- An invalidation that has reached every enabled die removes its translations; what was translated with them before has now a number
below `before` (R100, R101). -/
def tlbiReached (s : State) (t : Tlbi) : State :=
  if s.packets.any (ofTlbi t) then s
  else { s with
    tlb := s.tlb.filter fun e => !t.covers e
    tlbis := s.tlbis.map fun q => if q == t then { q with before := s.fresh } else q }

/-- The record of a unit taken out of use (R360). -/
def unitRecord (s : State) (at_ kind num die : Nat) : State := raiseAsync s 11 Config.class11Code.toNat supJob at_ 127 0 0 none (kind + die * 16) num

/-- MANAGEMENT_PACKET: a die takes a translation invalidation, or the notice of a capability change (R100, R176, R360). -/
def execManagementPacket (pkt : Nat) (s : State) : Host.Outcome State Fault Refusal :=
  issued (match arriving s pkt with
    | some p =>
      (match p.body with
      | .tlbi _ _ _ _ =>
        let s1 := dropPacket s pkt
        (match s1.tlbis.find? fun t => ofTlbi t p with
        | some t => tlbiReached s1 t
        | none => s1)
      | .capChange kind num die => unitRecord (dropPacket s pkt) (p.dst / 512) kind num die
      | _ => s)
    | none => s)

/-! ## The port's time-out (R397, R398) -/

/-- Core cycles for which something has been under way, in ticks. -/
def ageTicks (s : State) (sent : Nat) : Nat := (s.cycle - sent) / 4

/-- A packet answers another. -/
def Body.answers : Body → Bool
  | .ack => true
  | .readResp _ _ _ _ _ => true
  | .ctrResp _ _ _ => true
  | _ => false

/-- Packets of a die that an endpoint has not acknowledged: those on their way there, and those whose answers are on their way back. -/
def owedPackets (s : State) (die m d : Nat) : List Packet :=
  s.packets.filter fun p =>
    hasLeft s p && ((senderEnd s p == (moduleId s, die) && unitEnd s p.dst == (m, d)) ||
      (p.body.answers && senderEnd s p == (m, d) && unitEnd s p.dst == (moduleId s, die)))

/-- Messages of a die's port that an endpoint has not acknowledged. -/
def owedMsgs (s : State) (die m d : Nat) : List NetMsg :=
  s.fabric.filter fun q => q.smod == moduleId s && q.sdie == die && q.dmod == m && q.ddie == d && q.body.isRequest

/-- PEER_LOST: an endpoint has left a packet unacknowledged for TICKS: it is marked lost, and what is outstanding to it fails (R398,
R399). -/
def execPeerLost (die module pdie : Nat) (s : State) : Host.Outcome State Fault Refusal :=
  issued (
    let ps := owedPackets s die module pdie
    let ms := owedMsgs s die module pdie
    let t := getField s die 0x828 31 0
    if module = moduleId s || !dieOn s die || s.lost.any (· == (die, module, pdie)) ||
        !(ps.any (fun p => t ≤ ageTicks s p.sent) || ms.any (fun m => t ≤ ageTicks s m.sent)) then s
    else
      failLost (failPackets (raiseAsync { s with lost := s.lost ++ [(die, module, pdie)] } 8 3 supJob die 127 0 0 none
        (module % 8192 + pdie % 16 * 2 ^ 13) (ps.length + ms.length)) (ps.filter (·.body.answers))))

/-- A write of PORT_PEER_CLR (R397): GO clears an endpoint's lost mark. -/
def peerClear (s : State) (die v : Nat) : State :=
  let s1 := setField s die 0x830 16 0 v
  if bit v 17 then { s1 with lost := s1.lost.filter (· ≠ (die, bits v 12 0, bits v 16 13)) } else s1

/-- TRANSPORT_RETRANSMISSION: the transport sends an unacknowledged message again (R397); a receiver takes it once. -/
def execTransportRetransmission (msg : Nat) (s : State) : Host.Outcome State Fault Refusal :=
  issued { s with fabric := s.fabric.map fun m =>
    if m.id == msg && m.smod == moduleId s && m.dmod ≠ moduleId s && m.body.isRequest then { m with sends := m.sends + 1 } else m }

/-! ## Field time (R178, R406) -/

/-- LOCK of a port. -/
def locked (s : State) (d : Nat) : Bool := bit (getReg s d 0x840) 0

/-- Field time of a die moves forward at once. -/
def advanceTime (s : State) (d n : Nat) : State :=
  { s with ftime := mapSet 0 s.ftime d ((mapGet 0 s.ftime d + n) % 2 ^ 64) }

/-- The timing messages on the links hold the dies of the module to within 10 ticks of a die whose port has taken its time from PTP: one that
would fall further behind advances to it, and all of them fall back as far as it does (R178). -/
def followDie (d : Nat) (s : State) (e : Nat) : State :=
  let at_ := ftimeRun s d
  let s1 := if ftimeRun s e + 10 < at_ then advanceTime s e (at_ - ftimeRun s e) else s
  { s1 with slew := mapSet 0 s1.slew e (ftimeRun s1 e - (at_ - mapGet 0 s1.slew d)) }

/-- A port loses its lock: LOCK clears and it writes its record with the last offset (R406). -/
def loseLock (s : State) (d : Nat) (off : Int) : State :=
  raiseAsync (setReg s d 0x840 (2 ^ 64 - 2 ^ 32)) 8 11 supJob d 127 0 0 none 0 (patN 64 off)

/-- PTP_MESSAGE: a Sync gives the die's offset from the grandmaster, and the bound on it. A die that is behind advances at once; one that
is ahead runs at half rate until it has been caught up; the other dies of the module follow it (R178, R406). -/
def execPtpMessage (die : Nat) (off : Int) (bound : Nat) (s : State) : Host.Outcome State Fault Refusal :=
  issued (
    if !dieOn s die then s
    else if locked s die && 1000 ≤ off.natAbs then loseLock s die off
    else
      let s0 := { s with syncAt := mapSet 0 s.syncAt die s.cycle }
      let s1 :=
        if off < 0 then advanceTime { s0 with slew := mapSet 0 s.slew die 0 } die off.natAbs
        else { s0 with slew := mapSet 0 s0.slew die off.natAbs }
      let s2 := ((diesOn s).filter (· ≠ die)).foldl (followDie die) s1
      if off < 1000 then setReg s2 die 0x840 (1 + min bound (2 ^ 32 - 1) * 2 ^ 32) else s2)

/-- A port has taken no Sync for 2 s (R406): 8,000,000,000 core cycles (R4, R16). -/
def syncLate (s : State) (d : Nat) : Bool := mapGet 0 s.syncAt d + 8000000000 ≤ s.cycle

/-- PTP_LOCK_LOST: no Sync for 2 s, or the offset has grown too large (R406). -/
def execPtpLockLost (die : Nat) (off : Int) (s : State) : Host.Outcome State Fault Refusal :=
  issued (if dieOn s die && locked s die && (syncLate s die || 1000 ≤ off.natAbs) then loseLock s die off else s)

/-- Half rate: at every eighth core cycle each die that is ahead gives back one of the two ticks that have passed (R406). -/
def slewTick (s : State) : List (Nat × Nat) → State
  | [] => s
  | (d, n) :: r =>
    slewTick { s with ftime := mapSet 0 s.ftime d ((mapGet 0 s.ftime d + 2 ^ 64 - 1) % 2 ^ 64), slew := mapSet 0 s.slew d (n - 1) } r

end Sys2Proof.Machine
end

