-- ==== Sys2Proof/Machine/Reset.lean ====
section
/-! DEFINITION. Power states, resets, the firmware image and SPDM (14 R337 to R342; rejection 17 R363). -/

namespace Sys2Proof.Machine

/-! ## Reset (R8, R340, R341) -/

/-- A register keeps its value through a reset: capabilities always, fields with Reset P when it is warm (R8). -/
def keptReg (cold : Bool) (key : Nat) : Bool :=
  let off := key % 2 ^ 27
  off == 0x8 || (0x20 ≤ off && off ≤ 0x68) || (!cold && (off == 0 || off == 0x10))

/-- Give a link's EN bits, which are capabilities, back after a reset (R8, R172). -/
def keepEn (old : State) (d : Nat) : State → List Nat → State
  | s, [] => s
  | s, j :: r => keepEn old d (if j = d then s else setField s d (swingOff j) 23 16 (swingEn old d j)) r

/-- The same for every die. -/
def keepEns (old : State) : State → List Nat → State
  | s, [] => s
  | s, d :: r => keepEns old (keepEn old d s (upFrom 0 12)) r

/-- Field times after a reset, whose cycles count from 0 again (R213): a cold reset takes them from PTP, and they keep running through a
warm one (R178, R341). -/
def ftimeFrom (s : State) (cold : Bool) (ft : Nat) : List (Nat × Nat) :=
  mapSetAll 0 [] ((upFrom 0 12).map fun d => (d, if cold then ft % 2 ^ 64 else ftimeRun s d))

/-- What stays in error through a warm reset: what lies in HBM, where cells that homes have cached are written back (R341). -/
def keptPoison (s : State) : Place → List Place
  | .hbm a => [.hbm a]
  | .cell h hi => if inBacking s h then (upFrom (cellPlace s h + (if hi then 4 else 0)) 4).map .hbm else []
  | _ => []

/-- The module after a reset (R341). `ft` is the field time that a cold reset takes from PTP. The cells that are listed apart from memory
are 0 then, but for the model's view of other modules' counters. -/
def resetTo (s : State) (cold : Bool) (ft : Nat) : State :=
  let s1 : State := { State.reset with
    power := .locked
    ftime := ftimeFrom s cold ft
    slew := if cold then [] else s.slew
    mem := if cold then s.mem.filter (fun c => 2 ^ 48 ≤ c.1) else s.mem
    cells := s.cells.filter fun c => !localHandle s c.1 && (!cold || hModule c.1 ≠ 0)
    mregs := s.mregs.filter fun r => keptReg cold r.1
    unitsOff := s.unitsOff
    fabric := s.fabric.filter fun m => m.smod ≠ moduleId s
    peerOut := s.peerOut
    msixOpen := s.msixOpen
    msixTab := s.msixTab
    msixPend := s.msixPend
    portDown := s.portDown
    flips := if cold then [] else s.flips.filter fun p => (match p.1 with
      | .hbm _ => true
      | _ => false)
    poison := if cold then [] else s.poison.flatMap (keptPoison s)
    hostOut := s.hostOut
    focus := s.focus
    fresh := s.fresh
    free := s.free
    agenda := s.agenda }
  keepEns s s1 (upFrom 0 12)

/-- A write of MOD_RESET (R341): COLD takes precedence. -/
def resetWrite (s : State) (v ft : Nat) : State :=
  if bit v 1 then resetTo s true ft else if bit v 0 then resetTo s false 0 else s

/-- POWER_UP: a cold reset (R340). -/
def execPowerUp (ftime : Nat) (s : State) : Host.Outcome State Fault Refusal :=
  issued (if s.power = .off then { resetTo s true ftime with msixOpen := [], msixTab := [], msixPend := [], portDown := [] } else s)

/-- POWER_OFF: main power is removed (R340). -/
def execPowerOff (s : State) : Host.Outcome State Fault Refusal := issued { s with power := .off }

/-! ## The image (R337, R338, R363) -/

/-- MOD_IMG_STAT.STATE. -/
def imgState (s : State) : Nat := getField s 0 0xD8 1 0

/-- A write of MOD_IMG_CTL through a port: GO is acted on in LOCKED with STATE 0 or 3 (R338). -/
def imageGo (s : State) (port v : Nat) : State :=
  if bit v 0 && s.power == .locked && (imgState s == 0 || imgState s == 3) then
    { setReg s 0 0xD8 1 with imgPort := some port }
  else s

/-- An image field of n bytes. -/
def imgNat (b : List Byte) (off n : Nat) : Nat := leNat ((b.drop off).take n)

/-- The lowest enabled core of the boot die, as die and core (R338). -/
def bootCore (s : State) : Option (Nat × Nat) :=
  match diesOn s with
  | [] => none
  | d :: _ => (coresOn s d).head?.map fun c => (d, c)

/-- REASON 1: a field outside its limits, or a reserved byte not 0 (R337, R363). -/
def imgLimits (s : State) (h : List Byte) : Bool :=
  let load := imgNat h 0x10 8
  let entry := imgNat h 0x18 8
  let n := imgNat h 0x20 8
  let die := ((bootCore s).map (·.1)).getD 0
  imgNat h 0 4 == 0x4B59494D && imgNat h 4 4 == 1 && imgNat h 0xC 4 == 0 && imgNat h 0x28 8 == 0 && imgNat h 0x84C 0x7B4 == 0 &&
    n % 4096 == 0 && 4096 ≤ n && n ≤ 2 ^ 30 && load % 4096 == 0 && load / 2 ^ 44 == die && load % 2 ^ 44 + n ≤ hbmBytes s die &&
    entry % 16 == 0 && load ≤ entry && entry < load + n && getField s 0 0xC8 31 0 == 4096 + n

/-- MOD_IMG_LEN is outside the limits of a body and its header, which needs no byte of the image to tell (R337, R363). -/
def imgFieldsBad (s : State) : Bool :=
  let n := getField s 0 0xC8 31 0
  n % 4096 ≠ 0 || n < 8192 || 2 ^ 30 + 4096 < n

/-- A digest as bytes in their order in the image. -/
def digestNat (bs : List Byte) : Nat := leNat (bs.take 48)

/-- The first check that an image fails (R363); none when it is accepted. -/
def imgReason (s : State) (down : Bool) (h body : List Byte) : Option Nat :=
  let ec := (h.drop 0x60).take 104
  let lms := (h.drop 0xC8).take 56
  let signed := h.take 0x100
  if imgFieldsBad s then some 1
  else if down then some 2
  else if !imgLimits s h then some 1
  else if Config.sha384 ec ≠ Config.fusedEc then some 3
  else if Config.sha384 lms ≠ Config.fusedLms then some 4
  else if imgNat h 8 4 < getField s 0 0x90 31 0 then some 5
  else if digestNat (h.drop 0x30) ≠ (Config.sha384 body).toNat then some 6
  else if !Config.ecdsaVerify ec ((h.drop 0x100).take 96) signed then some 7
  else if !Config.lmsVerify lms ((h.drop 0x160).take 1772) signed then some 8
  else none

/-- MOD_IMG_STAT after a check. -/
def setImgStat (s : State) (state reason svn : Nat) : State :=
  { setReg s 0 0xD8 (state + reason * 2 ^ 8 + svn * 2 ^ 16) with imgPort := none }

/-- A supervisor thread of the boot flock (R338). -/
def bootThread (s : State) (core entry lane : Nat) : Thread :=
  { Thread.blank with
    uid := s.fresh + lane
    core := core
    lane := lane
    job := supJob
    pc := BitVec.ofNat 57 entry
    alloc := 128
    segG := ⟨0, 2 ^ 45⟩
    segL := ⟨0, 2 ^ 32⟩
    segC := ⟨0, 2 ^ 37⟩
    tnum := BitVec.ofNat 32 lane
    age := s.cycle + 1 }

/-- The boot flock is placed at ENTRY on the boot core with all of its local store as its region, and the module enters RUN (R338,
R340). -/
def placeBoot (s : State) (entry : Nat) : State :=
  match bootCore s with
  | none => { s with power := .run }
  | some (d, c) =>
    let core := 128 * d + c
    { s with
      power := .run
      flocks := s.flocks ++ [{ Flock.blank with core := core, job := supJob, prio := 3, since := ftime s d }]
      threads := s.threads ++ (upFrom 0 32).map fun l => { bootThread s core entry l with launch := some (s.fresh + 32) }
      launches := s.launches ++ [⟨s.fresh + 32, core, 0, lsSize s core⟩]
      fresh := s.fresh + 33 }

/-- IMAGE_CHECK_COMPLETE: the image that the port read is accepted, its body copied and the boot flock placed, or it is rejected (R338,
R363). -/
def execImageCheckComplete (s : State) : Host.Outcome State Fault Refusal :=
  issued (match s.imgPort with
    | none => s
    | some p =>
      let at_ := hostBase p + getReg s 0 0xC0
      let h := memBytes s at_ 4096
      let body := if imgLimits s h then memBytes s (at_ + 4096) (imgNat h 0x20 8) else []
      match imgReason s (has s.portDown p) h body with
      | some r => setImgStat (if r = 2 then hostFail s p 0 else s) 3 r 0
      | none =>
        let s1 := setImgStat (memWrite s (imgNat h 0x10 8) body) 2 0 (imgNat h 8 4)
        placeBoot { s1 with imgDigest := some (BitVec.ofNat 384 (digestNat (h.drop 0x30))) } (imgNat h 0x18 8))

/-! ## SPDM (R339) -/

/-- A port of an enabled die whose link is up answers an SPDM request (R24, R339). -/
def spdmAnswer (s : State) (port req : Nat) (data : List Byte) : Host.Outcome State Fault Refusal :=
  issued (if has s.portDown port || !dieOn s (portDie port) then s else { s with hostOut := .spdm port req data :: s.hostOut })

/-- GET_VERSION (R339). -/
def execGetVersion (port : Nat) (s : State) : Host.Outcome State Fault Refusal := spdmAnswer s port 0 (Config.spdmFixed 0)

/-- GET_CAPABILITIES (R339). -/
def execGetCapabilities (port : Nat) (s : State) : Host.Outcome State Fault Refusal := spdmAnswer s port 1 (Config.spdmFixed 1)

/-- NEGOTIATE_ALGORITHMS: ECDSA P-384 and SHA-384 (R339). -/
def execNegotiateAlgorithms (port : Nat) (s : State) : Host.Outcome State Fault Refusal := spdmAnswer s port 2 (Config.spdmFixed 2)

/-- GET_DIGESTS: the digest of the one slot's chain (R339). -/
def execGetDigests (port : Nat) (s : State) : Host.Outcome State Fault Refusal :=
  spdmAnswer s port 3 (natLe 48 (Config.sha384 Config.certChain).toNat)

/-- GET_CERTIFICATE: the part's identity chain (R339). -/
def execGetCertificate (port : Nat) (s : State) : Host.Outcome State Fault Refusal := spdmAnswer s port 4 Config.certChain

/-- CHALLENGE: a signature by the part's identity key (R339). -/
def execChallenge (port : Nat) (nonce : BitVec 256) (s : State) : Host.Outcome State Fault Refusal :=
  spdmAnswer s port 5 (Config.challengeSign nonce)

/-- The capability registers of a die as bytes (R20, R21). -/
def capBytes (s : State) (d : Nat) : List Byte :=
  [0x20, 0x28, 0x30, 0x38, 0x40, 0x48, 0x50, 0x58, 0x60, 0x68].flatMap fun off => natLe 8 (regValue s d off)

/-- Measurements 1 to 4 (R339). -/
def measurements (s : State) : List Byte :=
  natLe 48 Config.bootMeasurement.toNat ++ natLe 48 (match s.imgDigest with
    | some d => d.toNat
    | none => 0) ++
    natLe 8 (getReg s 0 0x10) ++ natLe 8 (getReg s 0 0x8) ++ (upFrom 0 12).flatMap (capBytes s) ++ natLe 8 (getReg s 0 0x90)

/-- GET_MEASUREMENTS (R339). -/
def execGetMeasurements (port : Nat) (s : State) : Host.Outcome State Fault Refusal := spdmAnswer s port 6 (measurements s)

end Sys2Proof.Machine
end

