-- ==== Sys2Proof/Machine/Mgmt.lean ====
section
/-! DEFINITION. Accesses to the management block (14 R332 to R335; 20 R413): what a write of each register starts, the access tables, and
the steps it starts: ending a job (R356), taking a unit out of use (R359, R360), invalidating translations (R100, R101), clearing reads
(R7), soft errors (R358) and MSI-X (R357). -/

namespace Sys2Proof.Machine

/-! ## Access tables (R332, R333) -/

/-- The access is completed with Unsupported Request; only a host sees it (R413). -/
def answerUr (s : State) (m : Nat) : State := if m < 2 then { s with hostOut := .unsupported m :: s.hostOut } else s

/-- A host's access to a reserved offset of BAR 0 or BAR 4 (R413). -/
def reservedAccess (s : State) (m bar addr : Nat) : State :=
  raiseAsync (answerUr s m) 12 1 supJob (portDie m) 127 0 addr none bar m

/-- A host's access that its table denies (R413). -/
def deniedAccess (s : State) (m block addr : Nat) : State :=
  raiseAsync (answerUr s m) 12 2 supJob (portDie m) 127 0 addr none block m

/-- What stops an access of master m to a register, and what it then does: a port whose link is down, a module that is not in RUN (R340), a
reserved offset, a right that is missing (R333, R413). A supervisor's access that is stopped has no effect. -/
def mgmtStop (s : State) (m d off : Nat) (write : Bool) : Option State :=
  let bad : State → State := fun t => if m < 2 then t else s
  if m < 2 && (has s.portDown m || !dieOn s (portDie m)) then some s
  else if !dieOn s d then some (bad (reservedAccess s m 0 (d * 2 ^ 27 + off)))
  else if s.power ≠ .run && 1 < blockOf off then some (answerUr s m)
  else if (regFieldsOn d off).isNone then some (bad (reservedAccess s m 0 (d * 2 ^ 27 + off)))
  else if (if write then rightTo s m d (blockOf off) ≠ 3 else rightTo s m d (blockOf off) = 0) then
    some (bad (deniedAccess s m (blockOf off) (d * 2 ^ 27 + off)))
  else if write && m = 2 && (off = 0xE00 || off = 0xE08 || off = 0xE10) then some s
  else none

/-! ## Ending a job (R356) -/

/-- Keep the entries that have started; for the others `drop` says that they are discarded. -/
def keepStarted {α : Type} (mine started : α → Bool) (l : List α) : List α := l.filter fun x => !mine x || started x

/-- Copies of a job that have not started are discarded: those that the halt wave holds, and of the others any (a free choice), but none that
has written a row. -/
def keepCopies (mine held : CopyOp → Bool) : State → List CopyOp → List CopyOp → State × List CopyOp
  | s, [], acc => (s, acc)
  | s, o :: r, acc =>
    if mine o && o.done.isEmpty then
      (if held o then keepCopies mine held s r acc
      else
        let (n, s1) := takeFree s
        keepCopies mine held s1 r (if Config.freeBit n then acc ++ [o] else acc))
    else keepCopies mine held s r (acc ++ [o])

/-- The waiter entries of a job that a die's units registered are withdrawn (R68, R356). -/
def withdrawAll (s : State) (d job : Nat) : State :=
  let mine : Waiter → Bool := fun w => w.job == job && w.module == moduleId s && dieOf w.unit == d && w.kind ≠ 6
  takeWaiters { s with packets := s.packets.filter fun p => match p.body with
      | .ctr _ (.wait w) => !mine w
      | .wake w => !mine w
      | _ => true } mine

/-- A job's region on a die's port is open, or its accepted operations still run. -/
def jobRegion (s : State) (d job n : Nat) : Bool :=
  let w := getReg s d (regionOff n + 8)
  bit w 58 && bits w 55 40 == job

/-- The regions of a job on a die's port are revoked (R181, R356): one with accepted operations when these are over. -/
def revokeRegions (d job : Nat) : State → List Nat → State
  | s, [] => s
  | s, n :: r =>
    let w := getReg s d (regionOff n + 8)
    revokeRegions d job (if jobRegion s d job n then
      setReg s d (regionOff n + 8) (if regionBusy s d n then setBits w 59 59 1 else setBits w 59 58 0) else s) r

/-- Numbers of the engine and port operations of a module. -/
def opIds (s : State) : List Nat :=
  s.copies.map (·.id) ++ s.mmas.map (·.id) ++ s.rays.map (·.id) ++ s.beams.map (·.id) ++ s.sweeps.map (·.id) ++ s.tensors.map (·.bind) ++
    s.portOps.map (·.id)

/-- What the discarded operations have asked for, or failed at, is forgotten. -/
def forgetOps (old s : State) : State :=
  let lost : Nat → Bool := fun op => has (opIds old) op && !has (opIds s) op
  { s with engLines := s.engLines.filter (fun l => !lost l.op), engFails := s.engFails.filter (fun f => !lost f.op) }

/-- The armed requests of a job on a die are discarded. -/
def disarmAll (s : State) : List Armed → State
  | [] => s
  | a :: r => disarmAll (disarm s a.die a.idx) r

/-- Discard what a job holds on a die (R356). -/
def discardJob (s : State) (d job : Nat) : State :=
  let mine : Nat → Nat → Bool := fun core j => dieOf core == d && j == job
  let gone := (s.threads.filter fun t => mine t.core t.job).map (·.uid)
  let (s0, copies) := keepCopies (fun o => mine o.core o.job) (fun o => coreHeld s o.core o.job o.uid o.id) s s.copies []
  let s1 := { s0 with
    threads := s0.threads.filter fun t => !mine t.core t.job
    keys := s0.keys.filter fun k => !mine k.1 k.2.1
    waitset := s0.waitset.filter fun p => !(findFlock s0 p.1 p.2).any fun (f : Flock) => mine f.core f.job
    flocks := s0.flocks.filter fun (f : Flock) => !mine f.core f.job
    bins := s0.bins.filter fun b => !mine b.core b.job
    placing := s0.placing.filter fun p => !p.kids.any fun k => mine p.core k.th.job
    results := s0.results.filter fun r => !r.uids.any (has gone)
    copies := copies
    mmas := s0.mmas.filter fun o => !mine o.core o.job
    rays := keepStarted (fun o => mine o.core o.job) (·.st.isSome) s0.rays
    beams := (keepStarted (fun (o : BeamOp) => mine o.core o.job) (·.viewBytes.isSome) s0.beams).map fun (b : BeamOp) => if mine b.core b.job then answerAll b else b
    trees := s0.trees.filter fun n => !(n.die == d && n.job == job)
    sweeps := s0.sweeps.filter fun o => !mine o.core o.job
    tensors := s0.tensors.filter fun t => !mine t.core t.job
    portOps := keepStarted (fun o => o.die == d && o.job == job) (·.started) s0.portOps
    replays := s0.replays.filter fun (r : Replay) =>
      !(r.die == d && r.nodes.any (fun n => n == NodeState.failed || n == NodeState.asked) && (findOp s0 r.op).any fun (o : PortOp) => o.job == job)
    halts := s0.halts.map fun (w : HaltWork) =>
      { w with stepping := w.stepping.filter (fun u => !has gone u), stepped := w.stepped.filter (fun u => !has gone u) } }
  let s2 := { s1 with portOps := s1.portOps.filter fun o => !(o.die == d && o.job == job && o.kind == PortKind.coll && !s1.replays.any (·.op == o.id)) }
  let s3 := disarmAll s2 (s2.armed.filter fun a => a.die == d && a.job == job)
  freeLaunches (revokeRegions d job (withdrawAll (forgetOps s s3) d job) (upFrom 0 512))

/-- Every operation of an ended job that had started on the die is over, and its writes are applied. -/
def jobGone (s : State) (d job : Nat) : Bool :=
  !s.copies.any (fun o => dieOf o.core == d && o.job == job) && !s.rays.any (fun o => dieOf o.core == d && o.job == job) &&
    !s.beams.any (fun o => dieOf o.core == d && o.job == job) && !s.revokes.any (fun r => r.die == d && r.job == job) &&
    !(upFrom 0 512).any (fun n => jobRegion s d job n && regionBusy s d n) && !s.portOps.any (fun o => o.die == d && o.job == job) &&
    !s.fifo.any (fun e => dieOf e.core == d && e.job == job) && !s.wc.any (fun w => dieOf w.core == d && w.job == job) &&
    !s.chunks.any (fun c => dieOf c.core == d && c.job == job) &&
    !s.packets.any (fun p => p.job == job && p.src < 3000000 && srcDie p.src == d && (p.body.isStore || (match p.body with
      | .ctr _ _ => true
      | _ => false)))

/-- Complete the end of a job when nothing of it is left: 1 is added to DIE_JOB_KILLD. -/
def finishKill (s0 : State) (d job : Nat) : State :=
  let s := revokeRegions d job s0 (upFrom 0 512)
  if jobGone s d job then
    engineAdd { s with kills := s.kills.erase (d, job) } d 127 supJob 0 (getReg s d 0x140) 1
  else s

/-- Admit flocks that now fit on the cores of a die, and let threads try again that wait for room in its queues. -/
def afterDiscard (s : State) (d : Nat) : State :=
  let cores := (coresOn s d).map fun c => 128 * d + c
  let s1 := cores.foldl (fun s c => launchDue (admitFront s c) c) s
  { s1 with threads := s1.threads.map fun t => match t.wait with
      | .room _ => if dieOf t.core == d then { t with wait := .none, age := s1.cycle + 1 } else t
      | _ => t }

/-- A write of DIE_JOB_KILL (R356). -/
def jobKillWrite (s : State) (d v : Nat) : State :=
  let s1 := regWritePlain s d 0x138 v
  if bit v 16 then
    let job := getField s1 d 0x138 15 0
    let s2 := afterDiscard (discardJob s1 d job) d
    finishKill { s2 with kills := s2.kills ++ [(d, job)] } d job
  else s1

/-- JOB_KILL_COMPLETE: the end of a job on a die is complete (R356). -/
def execJobKillComplete (die : Nat) (s : State) : Host.Outcome State Fault Refusal :=
  issued (match s.kills.find? fun k => k.1 == die && jobGone s k.1 k.2 with
    | some k => finishKill s k.1 k.2
    | none => s)

/-! ## Units out of use (R359, R360) -/

/-- A job other than the supervisor's has threads, bins or engine operations on a die. -/
def dieBusy (s : State) (d : Nat) : Bool :=
  let other : Nat → Nat → Bool := fun core j => dieOf core == d && j ≠ supJob
  s.threads.any (fun t => other t.core t.job) || s.bins.any (fun b => other b.core b.job) || s.placing.any (fun p => p.kids.any fun k => other p.core k.th.job) ||
    s.copies.any (fun o => other o.core o.job) || s.mmas.any (fun o => other o.core o.job) || s.rays.any (fun o => other o.core o.job) ||
    s.beams.any (fun o => other o.core o.job) || s.sweeps.any (fun o => other o.core o.job) || s.chunks.any (fun o => other o.core o.job) ||
    s.portOps.any (fun o => o.die == d && o.job ≠ supJob)

/-- The HBM of a die is written 0, with the counter cells whose backing lies there (R71, R360). -/
def zeroHbm (s : State) (d : Nat) : State :=
  cure { s with mem := s.mem.filter fun c => c.1 / 2 ^ 44 ≠ d } fun p => match p with
    | .hbm a => a / 2 ^ 44 == d
    | .cell h _ => inBacking s h && cellPlace s h / 2 ^ 44 == d
    | _ => false

/-- A unit of which only a count is a capability leaves use (R21, R359). -/
def markOff (s : State) (kind d num : Nat) : State := { s with unitsOff := (kind, d, num) :: s.unitsOff }

/-- The spilled entries of a die's slices move to the segments of the homes that their counters now have (R62, R70). -/
def moveSpills (old s : State) (d : Nat) : State :=
  let us := (upFrom 136 160).map (512 * d + ·)
  let clear : State → Nat → State := fun s u =>
    let n := spilledAt old u
    if n = 0 then s else memWrite s (getReg s d 0x510 + 32 * 2 ^ getField s d 0x518 4 0 * (u % 512)) (natLe (32 * n) 0)
  (us.filter fun u => 0 < spilledAt s u).foldl (fun s u => writeSpill s u 0) (us.foldl clear s)

/-- The link ends of a peer towards a die that is absent (R21, R24, R172). -/
def cutLinks (num : Nat) (s : State) (e : Nat) : State :=
  setField (setField (setField s e 0x60 (4 * num + 3) (4 * num) 0) e 0x68 (4 * num + 3) (4 * num) 0) e (swingOff num) 23 16 0

/-- The capability fields without a unit; none when it is not enabled (R21, R360). -/
def withoutUnit (s : State) (d kind num : Nat) : Option State :=
  match kind with
  | 0 =>
    if coreOn s d num then
      let off := if num < 64 then 0x28 else 0x30
      some (setField s d off (num % 64) (num % 64) 0)
    else none
  | 1 =>
    if 0 < slicesOn s d ∧ num < 160 ∧ !has (unitsOffOf s 1 d) num then
      some (moveSpills s (markOff (setField s d 0x38 7 0 (slicesOn s d - 1)) 1 d num) d)
    else none
  | 2 =>
    let off := 0x40 + 8 * (num / 32)
    if num < 128 ∧ bit (getReg s d off) (num % 32) then
      let s1 := setField s d off (num % 32) (num % 32) 0
      let s2 := setField s1 d off 37 32 (getField s1 d off 37 32 - 1)
      let s3 := if getField s2 d off 31 0 = 0 then setField s2 d 0x38 (16 + num / 32) (16 + num / 32) 0 else s2
      some (zeroHbm s3 d)
    else none
  | 3 =>
    if 0 < getField s d 0x38 22 20 ∧ num < 4 ∧ !has (unitsOffOf s 3 d) num then
      some (markOff (setField s d 0x38 22 20 (getField s d 0x38 22 20 - 1)) 3 d num)
    else none
  | 4 =>
    if dieOn s num then
      let s1 := setField s 0 0x8 num num 0
      let s2 := setField s1 0 0x8 15 12 (getField s1 0 0x8 15 12 - 1)
      some (zeroHbm (((upFrom 0 12).filter (· ≠ num)).foldl (cutLinks num) s2) num)
    else none
  | _ => none

/-- The other dies take notice of a capability change (R176, R360). -/
def tellDies (d kind num of_ : Nat) : State → List Nat → State
  | s, [] => s
  | s, e :: r =>
    tellDies d kind num of_ (sendPacket s { Packet.blank with
      src := 2000000 + d, dst := 512 * e + 298, job := supJob, body := .capChange kind num of_ }) r

/-- A write of DIE_UNIT_OFF (R359, R360). -/
def unitOffWrite (s : State) (d v : Nat) : State :=
  let s1 := regWritePlain s d 0x150 v
  if bit v 16 then
    let kind := getField s1 d 0x150 2 0
    let num := getField s1 d 0x150 15 8
    if dieBusy s1 d || (kind == 4 && dieBusy s1 num) then setField s1 d 0x150 17 17 1
    else
      let s2 := setField s1 d 0x150 17 17 0
      match withoutUnit s2 d kind num with
      | none => s2
      | some s3 =>
        let of_ := if kind = 4 then num else d
        let s4 := bumpGen s3
        let s5 := if dieOn s4 d then unitRecord s4 d kind num of_ else s4
        tellDies d kind num of_ s5 ((diesOn s5).filter (· ≠ d))
  else s1

/-! ## Invalidation of translations (R100, R101) -/

/-- Send an invalidation to the other dies. -/
def sendTlbi (t : Tlbi) : State → List Nat → State
  | s, [] => s
  | s, e :: r =>
    sendTlbi t (sendPacket s { Packet.blank with
      src := 2000000 + t.die, dst := 512 * e + 298, job := supJob, body := .tlbi t.job t.all t.va t.log2 }) r

/-- A write of DIE_TLBI_GO (R100). -/
def tlbiWrite (s : State) (d v : Nat) : State :=
  if bit v 0 then
    let t : Tlbi :=
      { die := d, job := getField s d 0x608 15 0, all := bit (getReg s d 0x608) 21, va := getReg s d 0x600
        log2 := getField s d 0x608 20 16, handle := BitVec.ofNat 64 (getReg s d 0x610), before := s.fresh }
    let s1 := sendTlbi t { s with tlbis := s.tlbis ++ [t] } ((diesOn s).filter (· ≠ d))
    tlbiReached s1 t
  else s

/-- Accesses of the job that were translated before the removal have not all been performed (R101). -/
def tlbiWaits (s : State) (t : Tlbi) : Bool :=
  s.packets.any (ofTlbi t) || s.fifo.any (fun e => e.job == t.job && e.seq < t.before) || s.wc.any (fun w => w.job == t.job && w.seq < t.before) ||
    s.packets.any fun p => p.job == t.job && p.seq < t.before && (p.body.isStore || (match p.body with
      | .read _ _ _ _ _ => true
      | _ => false))

/-- TLBI_COMPLETE: an invalidation of a die is complete, and 1 is added to its DONE (R101). -/
def execTlbiComplete (die : Nat) (s : State) : Host.Outcome State Fault Refusal :=
  issued (match s.tlbis.find? fun t => t.die == die && !tlbiWaits s t with
    | some t => engineAdd { s with tlbis := s.tlbis.erase t } die 127 supJob 0 t.handle.toNat 1
    | none => s)

/-! ## Writes and reads of registers -/

/-- A write of DIE_LQ_CTL, whose EN starts and ends a queue (R53, R417). -/
def lqCtlWrite (s : State) (d off v : Nat) : State :=
  let q := (off - 0x408) / 32
  let was := bit (getReg s d off) 32
  let s1 := regWritePlain s d off v
  let now := bit (getReg s1 d off) 32
  if !was && now then enableQueue s1 d q else if was && !now then disableQueue s1 d q else s1

/-- The handle of a cell under a new module number. -/
def rehandle (old new : Nat) (h : DWord) : DWord := if hModule h.toNat = old then BitVec.ofNat 64 (setBits h.toNat 60 48 new) else h

/-- A waiter entry under a new module number. -/
def rewaiter (old new : Nat) (w : Waiter) : Waiter :=
  { w with handle := rehandle old new w.handle, module := if w.module = old then new else w.module }

/-- A packet under way under a new module number. -/
def repacket (old new : Nat) (p : Packet) : Packet :=
  { p with
    src := if 4000000 ≤ p.src ∧ (p.src - 4000000) / 16 = old then homeSrc new (p.src % 16) else p.src
    body := match p.body with
      | .ctr h (.wait w) => .ctr (rehandle old new h) (.wait (rewaiter old new w))
      | .ctr h op => .ctr (rehandle old new h) op
      | .wake w => .wake (rewaiter old new w)
      | b => b }

/-- The module number changes (R19, R20, R60). The cells, waiters and packets of the module are the same ones under the handles that name them
now; the model's view of the counters of the module that had the new number goes. -/
def renumber (s : State) (old new : Nat) : State :=
  if old = new then s
  else
    let place : Place → Place := fun p => match p with
      | .cell h hi => .cell (rehandle old new (BitVec.ofNat 64 h)).toNat hi
      | .waiter h kind uid cond => .waiter (rehandle old new (BitVec.ofNat 64 h)).toNat kind uid cond
      | p => p
    { s with
      cells := mapSetAll 0#64 [] ((s.cells.filter fun c => hModule c.1 ≠ new).map fun c => ((rehandle old new (BitVec.ofNat 64 c.1)).toNat, c.2))
      waiters := s.waiters.map (rewaiter old new)
      packets := s.packets.map (repacket old new)
      poison := s.poison.map place
      flips := s.flips.map fun p => (place p.1, p.2)
      fabric := s.fabric.map fun m =>
        { m with smod := if m.smod = old then new else m.smod, dmod := if m.smod = old ∧ m.dmod = old then new else m.dmod } }

/-- A write of MOD_ID (R20). -/
def modIdWrite (s : State) (v : Nat) : State :=
  let s1 := regWritePlain s 0 0 v
  renumber s1 (moduleId s) (moduleId s1)

/-- What a write of a register does, for a master m that may write it. -/
def applyMgmt (s : State) (m d off v : Nat) : State :=
  if off = 0xA0 then
    (if m < 2 then
      let (n, s1) := takeFree s
      let (k, s2) := takeFree s1
      resetWrite s2 v ((Config.freeWord n).toNat + 2 ^ 32 * (Config.freeWord k).toNat)
    else s)
  else if off = 0xD0 then (if m < 2 then imageGo s m v else s)
  else if off = 0x138 then jobKillWrite s d v
  else if off = 0x150 then (if m < 2 then unitOffWrite s d v else regWritePlain s d off v)
  else if off = 0 then modIdWrite s v
  else if 0x400 ≤ off ∧ off < 0x500 ∧ off % 32 = 8 then lqCtlWrite s d off v
  else if off = 0x618 then tlbiWrite s d v
  else if 0x700 ≤ off ∧ off < 0x760 then swingWrite s d ((off - 0x700) / 8) v
  else if off = 0x830 then peerClear s d v
  else if 0x900 ≤ off ∧ off < 0xD00 ∧ off % 64 = 48 then haltCommand s d ((off - 0x900) / 64) v
  else regWritePlain s d off v

/-- Master m (0 port A, 1 port B, 2 supervisor code) writes a register of a die (R7, R333). -/
def mgmtWrite (s : State) (m d off v : Nat) : State :=
  match mgmtStop s m d off true with
  | some t => t
  | none => applyMgmt s m d off v

/-- Master m reads a register of a die (R7, R333). -/
def mgmtRead (s : State) (m d off : Nat) : State × Option Nat :=
  match mgmtStop s m d off false with
  | some t => (t, none)
  | none => let (v, s1) := regRead s d off; (s1, some v)

/-- A read of a register as a step of its own: a host gets its completion. -/
def readStep (s : State) (m d off : Nat) : Host.Outcome State Fault Refusal :=
  issued (match mgmtRead s m d off with
    | (s1, some v) => if m < 2 then { s1 with hostOut := .readData m (BitVec.ofNat 64 v) :: s1.hostOut } else s1
    | (s1, none) => s1)

/-! ## The rows of the register writes -/

/-- WARM_RESET: a write of MOD_RESET with WARM set; one with COLD set too is cold, and takes field time from PTP (R341). -/
def execWarmReset (m die : Nat) (v : DWord) (s : State) : Host.Outcome State Fault Refusal :=
  issued (match mgmtStop s m die 0xA0 true with
    | some t => t
    | none =>
      if m < 2 then
        (if bit v.toNat 1 then
          let (n, s1) := takeFree s
          let (k, s2) := takeFree s1
          resetWrite s2 v.toNat ((Config.freeWord n).toNat + 2 ^ 32 * (Config.freeWord k).toNat)
        else resetWrite s v.toNat 0)
      else s)

/-- COLD_RESET: a write of MOD_RESET with COLD set; field time is taken again from PTP (R341, R178). -/
def execColdReset (m die : Nat) (v : DWord) (ftime : Nat) (s : State) : Host.Outcome State Fault Refusal :=
  issued (match mgmtStop s m die 0xA0 true with
    | some t => t
    | none => if m < 2 then resetWrite s v.toNat ftime else s)

/-- IMAGE_LOAD_GO: a write of MOD_IMG_CTL (R338). -/
def execImageLoadGo (m die : Nat) (v : DWord) (s : State) : Host.Outcome State Fault Refusal := issued (mgmtWrite s m die 0xD0 v.toNat)

/-- MOD_ID_WRITE: the module number, on every die at once (R19, R20). -/
def execModIdWrite (m die : Nat) (v : DWord) (s : State) : Host.Outcome State Fault Refusal := issued (mgmtWrite s m die 0 v.toNat)

/-- JOB_KILL_GO: a write of DIE_JOB_KILL (R356). -/
def execJobKillGo (m die : Nat) (v : DWord) (s : State) : Host.Outcome State Fault Refusal := issued (mgmtWrite s m die 0x138 v.toNat)

/-- UNIT_OFF_GO: a write of DIE_UNIT_OFF (R360). -/
def execUnitOffGo (m die : Nat) (v : DWord) (s : State) : Host.Outcome State Fault Refusal := issued (mgmtWrite s m die 0x150 v.toNat)

/-- TLBI_GO: a write of DIE_TLBI_GO (R100). -/
def execTlbiGo (m die : Nat) (v : DWord) (s : State) : Host.Outcome State Fault Refusal := issued (mgmtWrite s m die 0x618 v.toNat)

/-- LAUNCH_QUEUE_ENABLE: a write of DIE_LQ_CTLq that sets EN (R53). -/
def execLaunchQueueEnable (m die q : Nat) (v : DWord) (s : State) : Host.Outcome State Fault Refusal :=
  issued (mgmtWrite s m die (lqOff (q % 8) + 8) (v ||| 0x100000000#64).toNat)

/-- LAUNCH_QUEUE_DISABLE: a write of DIE_LQ_CTLq that clears EN (R417). -/
def execLaunchQueueDisable (m die q : Nat) (v : DWord) (s : State) : Host.Outcome State Fault Refusal :=
  issued (mgmtWrite s m die (lqOff (q % 8) + 8) (v &&& ~~~0x100000000#64).toNat)

/-- LINK_SWING_DIR_WRITE: a write of DIE_LINK_SWINGj (R172). -/
def execLinkSwingDirWrite (m die peer : Nat) (v : DWord) (s : State) : Host.Outcome State Fault Refusal :=
  issued (mgmtWrite s m die (swingOff (peer % 12)) v.toNat)

/-- PORT_PEER_CLR_GO: a write of PORT_PEER_CLR (R397). -/
def execPortPeerClrGo (m die : Nat) (v : DWord) (s : State) : Host.Outcome State Fault Refusal := issued (mgmtWrite s m die 0x830 v.toNat)

/-- HALT_CMD_HALT: a write of DIE_HALT_CMDh with CMD 1 (R201). -/
def execHaltCmdHalt (m die slot : Nat) (s : State) : Host.Outcome State Fault Refusal :=
  issued (mgmtWrite s m die (hoff (slot % 16) + 48) 1)

/-- HALT_CMD_THAW_ARM: CMD 2 (R205). -/
def execHaltCmdThawArm (m die slot : Nat) (s : State) : Host.Outcome State Fault Refusal :=
  issued (mgmtWrite s m die (hoff (slot % 16) + 48) 2)

/-- HALT_CMD_GO: CMD 3 (R205). -/
def execHaltCmdGo (m die slot : Nat) (s : State) : Host.Outcome State Fault Refusal :=
  issued (mgmtWrite s m die (hoff (slot % 16) + 48) 3)

/-- HALT_CMD_STEP: CMD 4 with its target (R204). -/
def execHaltCmdStep (m die slot skind score slane sslot : Nat) (s : State) : Host.Outcome State Fault Refusal :=
  issued (mgmtWrite s m die (hoff (slot % 16) + 48)
    (4 + skind % 4 * 2 ^ 3 + score % 128 * 2 ^ 5 + slane % 32 * 2 ^ 12 + sslot % 64 * 2 ^ 17))

/-! ## The rows of the clearing reads (R7) -/

/-- PORT_CE_STATUS_READ (R191). -/
def execPortCeStatusRead (m die : Nat) (s : State) : Host.Outcome State Fault Refusal := readStep s m die 0x810

/-- DIE_FLT_LOST_READ (R354). -/
def execDieFltLostRead (m die : Nat) (s : State) : Host.Outcome State Fault Refusal := readStep s m die 0x120

/-- DIE_ECC_READ (R358). -/
def execDieEccRead (m die : Nat) (s : State) : Host.Outcome State Fault Refusal := readStep s m die 0x148

/-- DIE_LINK_ERR_READ (R395). -/
def execDieLinkErrRead (m die peer : Nat) (s : State) : Host.Outcome State Fault Refusal := readStep s m die (linkErrOff (peer % 12))

/-- PORT_NACK_RX_READ (R397). -/
def execPortNackRxRead (m die : Nat) (s : State) : Host.Outcome State Fault Refusal := readStep s m die 0x838

/-- PORT_CE_FALLBK_READ (R406). -/
def execPortCeFallbkRead (m die : Nat) (s : State) : Host.Outcome State Fault Refusal := readStep s m die 0x848

/-- PORT_INSW_REFUSED_READ (R408). -/
def execPortInswRefusedRead (m die : Nat) (s : State) : Host.Outcome State Fault Refusal := readStep s m die 0x850

/-- DIE_HALT_STATE_READ (R199). -/
def execDieHaltStateRead (m die slot : Nat) (s : State) : Host.Outcome State Fault Refusal := readStep s m die (hoff (slot % 16) + 16)

/-! ## Soft errors (R358) and MSI-X (R357) -/

/-- SOFT_ERROR: stored bits go wrong; what cannot be corrected is poisoned (R358). -/
def execSoftError (place : Place) (bits : Nat) (s : State) : Host.Outcome State Fault Refusal :=
  issued (
    if bits = 0 then s
    else
      let n := ((s.flips.find? fun q => q.1 == place).map (·.2)).getD 0
      let s1 := { s with flips := (place, n + bits) :: s.flips.filter fun q => q.1 ≠ place }
      if correctable s1 place then s1
      else { s1 with poison := s1.poison ++ (wordPlaces place).filter fun p => !s1.poison.any (· == p) })

/-- ECC_SCRUB: the device reads and corrects a place's code word; an error is counted, and one that cannot be corrected has left poison
(R358). -/
def execEccScrub (place : Place) (s : State) : Host.Outcome State Fault Refusal := issued (eccWord s place)

/-- A vector is unmasked: if its bit is pending it sends once (R357). -/
def unmask (port vec : Nat) (s : State) : State :=
  let k := 512 * port + vec
  let s1 := { s with msixOpen := if has s.msixOpen k then s.msixOpen else s.msixOpen ++ [k] }
  if has s.msixPend k && !has s.portDown port && dieOn s (portDie port) then
    { s1 with msixPend := s1.msixPend.filter (· ≠ k), hostOut := .msix port vec :: s1.hostOut }
  else s1

/-- MSI_X_UNMASK: a vector whose bit is pending sends once (R357). -/
def execMsiXUnmask (port vec : Nat) (s : State) : Host.Outcome State Fault Refusal := issued (unmask port vec s)

end Sys2Proof.Machine
end

