-- ==== Sys2Proof/Machine/System.lean ====
section
/-! DEFINITION. The system instructions (13 R324 to R330): control registers, segments, the carve of the local SRAM (05 R104, R105),
context save and load, and the single step. -/

namespace Sys2Proof.Machine

/-! ## Control registers (R324) -/

/-- What a register number of `csrr` and `csrw` names. -/
inductive Csr where
  /-- a register of the die's management block, under R324's own number: offset -/
  | low (off : Nat)
  /-- CORE_CARVE -/
  | carve
  /-- CORE_FTIME -/
  | ftime
  /-- CORE_STRICT -/
  | strict
  /-- a register by its offset, under the supervisor's access table -/
  | mgmt (off : Nat)
  /-- a reserved number -/
  | reserved
  deriving DecidableEq, Repr

/-- The register of a number on a die (R324). -/
def csrOf (d n : Nat) : Csr :=
  if n = 0x10 then .carve
  else if n = 0x11 then .ftime
  else if n = 0x12 then .low 0x810
  else if n = 0x13 then .low 0x818
  else if n = 0x20 then .strict
  else if n ≤ 0xD ∧ n ≠ 3 then .low (8 * n)
  else if 0x10000000 ≤ n ∧ n < 0x11000000 then (if (regFieldsOn d (8 * (n - 0x10000000))).isSome then .mgmt (8 * (n - 0x10000000)) else .reserved)
  else .reserved

/-- A number that is not readable by jobs. -/
def csrSup (n : Nat) : Bool := n == 0x20 || (0x10000000 ≤ n && n < 0x11000000)

/-- Operand outside its limits, in a field (R364). -/
def limitTrap (field : Nat) : Trap := { cls := 1, code := 4, aux := field }

/-- `csrr` in a thread. What a register reads as that the access table keeps from the supervisor is a free value. -/
def csrrThread (d n : Nat) (s : State) (t : Thread) : State × Out :=
  let die := dieOf t.core
  match csrOf die n with
  | .low off => let (v, s1) := regRead s die off; (s1, .eff { v := wr2 t d v 2 })
  | .carve => (s, .eff { v := wr2 t d (carveReg s t.core) 2 })
  | .ftime => (s, .eff { v := wr2 t d (ftime s die) 2 })
  | .strict => (s, .eff { v := wr2 t d (if strictOn s t.core then 1 else 0) 2 })
  | .mgmt off =>
    if rightTo s 2 die (blockOf off) = 0 then
      let (k, s1) := takeFree s
      let (l, s2) := takeFree s1
      (s2, .eff { v := wr2 t d ((Config.freeWord k).toNat + 2 ^ 32 * (Config.freeWord l).toNat) 2 })
    else let (v, s1) := regRead s die off; (s1, .eff { v := wr2 t d v 2 })
  | .reserved => (s, .trap (limitTrap 2))

/-- CSRR: reads a control register in each thread (R324). A number not readable by jobs traps the group at job level, where the guard turns the
word off too (R365, R368). -/
def execCsrr (h : Hdr) (d b : BitVec 7) (lit : Word) (s : State) : Host.Outcome State Fault Refusal :=
  let f := ctlF h 17#7 d 0#7 b
  let run := perThread { f := f, rsv := selRsv b.toNat, sel := some b }
    (fun _ => { vw := [(d.toNat, 2)], sr := selS b.toNat false, limits := [(d.toNat % 2 == 1, 0)] })
    (fun s i t => csrrThread d.toNat (src s i t b.toNat lit .int) s t)
  issued (match mkIssue s f with
    | none => s
    | some i =>
      let s1 := interlock s i.core i.flock i.group
      if !selRsv b.toNat && !i.sup && i.group.any fun u => csrSup (src s1 i (threadOf s1 u) b.toNat lit .int) then wordTrap s1 i 3
      else run s)

/-- `csrw` of a number. -/
def csrWrite (s : State) (core n v : Nat) : Option State :=
  match csrOf (dieOf core) n with
  | .low off => some (mgmtWrite s 2 (dieOf core) off v)
  | .carve => some s
  | .ftime => some s
  | .strict => some { s with strict := if bit v 0 then (if has s.strict core then s.strict else s.strict ++ [core]) else s.strict.filter (· ≠ core) }
  | .mgmt off => some (mgmtWrite s 2 (dieOf core) off v)
  | .reserved => none

/-- CSRW: writes a control register once for the group (R324). -/
def execCsrw (h : Hdr) (a b : BitVec 7) (lit : Word) (s : State) : Host.Outcome State Fault Refusal :=
  issued (oncePerGroup { f := ctlF h 65#7 0#7 a b, rsv := selRsv b.toNat, priv := true, sel := some b }
    (fun _ => {
      vr := [(a.toNat, 2)], sr := selS b.toNat false, tags := tagsOf 1 a.toNat 2 (some tagsInt), limits := [(a.toNat % 2 == 1, 1)] })
    (fun s i t =>
      match csrWrite s i.core (src s i t b.toNat lit .int) (vPair t a.toNat) with
      | some s1 => (s1, .eff {})
      | none => (s, .trap (limitTrap 2))) s)

/-! ## Segments (R325) -/

/-- Base and limit fit the space of a segment (R369). -/
def segFits (k base limit : Nat) : Bool :=
  match k with
  | 0 => base + limit ≤ 2 ^ 45
  | 1 => base % 16 == 0 && limit % 16 == 0 && base + limit ≤ 2 ^ 32
  | _ => base + limit ≤ 2 ^ 37

/-- Set a segment register. -/
def setSeg (t : Thread) (k base limit : Nat) : Thread :=
  match k with
  | 0 => { t with segG := ⟨base, limit⟩ }
  | 1 => { t with segL := ⟨base, limit⟩ }
  | _ => { t with segC := ⟨base, limit⟩ }

/-- SEGSET: sets SG.G, SG.L or SG.C of each thread (R325). -/
def execSegset (h : Hdr) (k a : BitVec 7) (s : State) : Host.Outcome State Fault Refusal :=
  issued (perThread { f := ctlF h 64#7 k a 0#7, rsv := 2 < k.toNat, priv := true }
    (fun _ => { vr := [(a.toNat, 4)], tags := tagsOf 1 a.toNat 4 (some tagsInt), limits := [(a.toNat % 4 ≠ 0, 1)] })
    (fun s _ t =>
      let base := vPair t a.toNat
      let limit := vPair t (a.toNat + 2)
      if segFits k.toNat base limit then (modThread s t.uid fun t => setSeg t k.toNat base limit, .eff {})
      else (s, .trap (limitTrap 1))) s)

/-! ## Carve (R105, R326, R392) -/

/-- Two runs of local store overlap; an empty one overlaps none. -/
def runHit (a n lo hi : Nat) : Bool := 0 < n && a < hi && lo < a + n

/-- A local-store segment of the core lies in the ways that would leave local store: of any thread, placed or evicted, or of a launch's
region. -/
def carveBusy (s : State) (core n : Nat) : Bool :=
  let lo := (15 - n) * 32768
  let hi := lsSize s core
  s.threads.any (fun t => t.core == core && runHit t.segL.base t.segL.limit lo hi) ||
    s.launches.any (fun l => l.core == core && l.base < 2 ^ 32 && runHit l.base l.size lo hi)

/-- Local store from an offset on holds nothing. -/
def clearLocal (s : State) (core lo : Nat) : State :=
  let here : Nat → Bool := fun k => k / 2 ^ 32 == core && lo ≤ k % 2 ^ 32
  cure { s with locl := s.locl.filter fun c => !here c.1 } fun p => match p with
    | .locl c o => c == core && lo ≤ o
    | _ => false

/-- L1WAYS := n. -/
def setWays (s : State) (core n : Nat) : State := { s with carve := mapSet 0 s.carve core ((n + 12) % 16) }

/-- A `carve` of the core has still to drain. -/
def carving (s : State) (core : Nat) : Bool :=
  s.threads.any fun t => t.core == core && (match t.wait with
    | .carve n _ _ => n ≠ 0
    | _ => false)

/-- CARVE: sets the number of L1 ways of the core (R105, R326). -/
def execCarve (h : Hdr) (d b : BitVec 7) (lit : Word) (s : State) : Host.Outcome State Fault Refusal :=
  issued (oncePerGroup { f := ctlF h 66#7 d 0#7 b, rsv := selRsv b.toNat, priv := true, sel := some b }
    (fun _ => { vw := [(d.toNat, 1)], sr := selS b.toNat false })
    (fun s i t =>
      let n := src s i t b.toNat lit .int
      let answer : Nat → Out := fun r => .eff { v := i.act.map fun u => wr (threadOf s u) d.toNat r 2 }
      if n = 0 ∨ 15 < n then (s, .trap (limitTrap 2))
      else if carving s i.core then (s, .wait (.carve 0 0 0))
      else if l1Ways s i.core ≤ n then
        if n ≠ l1Ways s i.core && carveBusy s i.core n then (s, answer 1)
        else (if n = l1Ways s i.core then s else clearLocal (setWays s i.core n) i.core ((15 - n) * 32768), answer 0)
      else ({ s with fresh := s.fresh + 1 }, .hold {} (.carve n d.toNat s.fresh))) s)

/-- Write-combined bytes of the core stored before a number that have not reached their homes. -/
def wcLeft (s : State) (core seq : Nat) : Bool :=
  s.wc.any (fun w => w.core == core && w.seq < seq) ||
    s.packets.any fun p => p.src == core && p.seq < seq && (match p.body with
      | .write _ _ => true
      | _ => false)

/-- CARVE_GROW_COMPLETE: the write-combined bytes of the departing ways have drained, and the ways join local store with every byte 0
(R105). -/
def execCarveGrowComplete (core : Nat) (s : State) : Host.Outcome State Fault Refusal :=
  issued (
    let ts := s.threads.filter fun t => t.core == core && (match t.wait with
      | .carve n _ q => n ≠ 0 && !wcLeft s core q
      | _ => false)
    match ts.map (·.wait) with
    | Waiting.carve n d _ :: _ =>
      let s1 := dropClean (setWays (clearLocal s core (lsSize s core)) core n) core
      let s2 := endWaitsWith s1 d 0 ts
      { s2 with threads := s2.threads.map fun t => if t.core == core && t.wait == .carve 0 0 0 then { t with wait := .none, age := s.cycle + 1 } else t }
    | _ => s)

/-! ## Context save and load (R327 to R329) -/

/-- The thread that a target word names on a die: the one that holds the slot, else one that is evicted. -/
def ctxTarget (s : State) (die w : Nat) : Option Thread :=
  let ts := s.threads.filter fun t => t.core == 128 * die + bits w 6 0 && t.lane == bits w 11 7 && t.slot == bits w 17 12
  (ts.find? (holdsSlot s)).orElse fun _ => ts.head?

/-- Its job is halted on the die (R199). -/
def ctxHalted (s : State) (die : Nat) (t : Thread) : Option Nat :=
  match haltSlot s die t.job with
  | some h => if 2 ≤ phaseOf s die h then some h else none
  | none => none

/-- A step runs on a thread, or on a member of its flock. -/
def stepsOn (s : State) (die h : Nat) (t : Thread) (whole : Bool) : Bool :=
  getField s die (hoff h + 16) 18 18 == 1 && (haltWorkOf s die h).any fun w =>
    (w.stepping ++ w.stepped).any fun u => u == t.uid || (whole && (threadOf s u).core == t.core && (threadOf s u).flock == t.flock)

/-- The block's places as 64-byte pieces, checked and translated, or why it may not be accessed. -/
def blockPlaces (t : Thread) (write : Bool) : State → List (Nat × Nat) → List (Nat × Nat) → State × Except Out (List (Nat × Nat))
  | s, [], acc => (s, .ok acc)
  | s, (a, n) :: r, acc =>
    match globalAt s t a n 1 write with
    | (s1, .out o) => (s1, .error o)
    | (s1, .at k _) => blockPlaces t write s1 r (acc ++ [(k, n)])

/-- 64-byte pieces of a block. -/
def blockPieces (a : Nat) : Nat → Nat → List (Nat × Nat)
  | 0, _ => []
  | f + 1, n => if n = 0 then [] else (a, min n 64) :: blockPieces (a + 64) f (n - 64)

/-- What `ctxsave` and `ctxload` check, and the target, its flock's choice and the places of its block. -/
def ctxPre (d a b : Nat) (lit : Word) (write : Bool) (s : State) (i : Issue) (t : Thread) :
    State × Except Out (Thread × Bool × List (Nat × Nat)) :=
  let w := vBits t d
  let kind := src s i t b lit .int
  let at_ := vPair t a
  let die := dieOf t.core
  if 2 ≤ kind then (s, .error (.trap (limitTrap 2)))
  else if 2 ^ 18 ≤ w then (s, .error (.trap (limitTrap 0)))
  else
    match ctxTarget s die w with
    | none => (s, .error (.trap { cls := 3, code := 5, aux := 1 }))
    | some x =>
      match ctxHalted s die x with
      | none => (s, .error (.trap { cls := 3, code := 5, aux := 0 }))
      | some h =>
        if stepsOn s die h x (kind = 1) then (s, .error (.wait (.step h 128 0)))
        else
          let n := if kind = 1 then flockBlockSize (flockOf s x.core x.flock) else threadBlockSize x
          match globalPre t at_ n 64 false with
          | some f => (s, .error (.trap f))
          | none =>
            match blockPlaces t write s (blockPieces at_ (n / 64 + 1) n) [] with
            | (s1, .error o) => (s1, .error o)
            | (s1, .ok ps) => (s1, .ok (x, kind = 1, ps))

/-- Enter pieces of a block in a thread's store FIFO. -/
def storeBlock (t : Thread) : State → List (Nat × Nat) → List Byte → State
  | s, [], _ => s
  | s, (k, n) :: r, bs => storeBlock t (pushStore s t (.row k (bs.take n) none)) r (bs.drop n)

/-- `ctxsave` in a thread: it waits until every byte is acknowledged at die scope. -/
def ctxsaveThread (d a b : Nat) (lit : Word) (s : State) (i : Issue) (t : Thread) : State × Out :=
  match ctxPre d a b lit true s i t with
  | (s1, .error o) => (s1, o)
  | (s1, .ok (x, whole, ps)) =>
    let bs := if whole then flockBlock s1 (flockOf s1 x.core x.flock) else threadBlock { x with pc := x.newPc.getD x.pc }
    let s2 := storeBlock t s1 ps bs
    ({ s2 with fresh := s2.fresh + 1 }, .hold {} (.fence 3 s2.fresh))

/-- A block's tag is reserved, among the first n. -/
def tagsBad (tag : Nat → Nat) (n : Nat) : Bool := (upFrom 0 n).any fun k => 12 ≤ tag k

/-- Why a block is rejected: the AUX of CLASS 3 CODE 5 (R329, R364). -/
def blockBad (s : State) (x : Thread) (whole : Bool) (b : List Byte) : Option Nat :=
  if whole then
    let n := (flockOf s x.core x.flock).tiles.length
    if tagsBad (fun k => blockNat b (0x140 + k / 2) 1 / 16 ^ (k % 2) % 16) n then some 3
    else if blockNat b 8 1 % 16 ≠ n then some 4
    else none
  else
    let wb := bits (blockNat b 8 8) 25 16
    if wb % 2 = 1 ∨ x.alloc - 128 < wb then some 2
    else if tagsBad (blockTag b) x.alloc then some 3
    else if bits (blockNat b 8 8) 15 11 ≠ x.alloc / 32 - 1 then some 4
    else none

/-- An evicted flock's saved blocks follow what was written back (R327). -/
def resave (s : State) (x : Thread) : State :=
  match findFlock s x.core x.flock with
  | some f =>
    (match f.saved with
    | some o => (engWrite s (dieOf f.core) f.job (saveOp f) (saveBase s (dieOf f.core) f.job + o) (savedBytes s f)).1
    | none => s)
  | none => s

/-- Whether a place is a register of a thread. -/
def inRegs (uid : Nat) : Place → Bool
  | .vreg u _ => u == uid
  | _ => false

/-- Bytes of a block as the thread sees them. -/
def blockBytes (t : Thread) : State → List (Nat × Nat) → List Byte → State × List Byte
  | s, [], acc => (s, acc)
  | s, (k, n) :: r, acc => let (s1, bs) := threadBytes s t k n none; blockBytes t s1 r (acc ++ bs)

/-- `ctxload` in a thread. -/
def ctxloadThread (d a b : Nat) (lit : Word) (s : State) (i : Issue) (t : Thread) : State × Out :=
  match ctxPre d a b lit false s i t with
  | (s1, .error o) => (s1, o)
  | (s0, .ok (x, whole, ps)) =>
    if ps.any fun p => threadBad s0 t p.1 p.2 none then (s0, .trap { cls := 7, code := Config.class7Code.toNat, aux := 0, addr := vPair t a })
    else
      let (s1, bs) := blockBytes t s0 ps []
      match blockBad s1 x whole bs with
      | some r => (s1, .trap { cls := 3, code := 5, aux := r })
      | none =>
        let s2 := if whole then cure (modFlock s1 x.core x.flock fun f => loadFlockBlock s1.fresh f bs) (inFlock x.core x.flock)
          else cure (modThread s1 x.uid fun x => { loadThreadBlock x bs with newPc := none }) (inRegs x.uid)
        (resave s2 x, .eff {})

/-- Names of `ctxsave` and `ctxload`. -/
def ctxNames (d a b : Nat) (_ : Thread) : Names :=
  { vr := [(d, 1), (a, 2)], sr := selS b false
    tags := tagsOf 0 d 1 (some tagsInt) ++ tagsOf 1 a 2 (some tagsInt), limits := [(a % 2 == 1, 1)] }

/-- CTXSAVE: writes the state of a halted thread or flock to memory (R327, R328). -/
def execCtxsave (h : Hdr) (d a b : BitVec 7) (lit : Word) (s : State) : Host.Outcome State Fault Refusal :=
  issued (perThread { f := ctlF h 68#7 d a b, rsv := selRsv b.toNat, priv := true, sel := some b } (ctxNames d.toNat a.toNat b.toNat)
    (ctxsaveThread d.toNat a.toNat b.toNat lit) s)

/-- CTXLOAD: writes the state of a halted thread or flock back from memory (R327, R329). -/
def execCtxload (h : Hdr) (d a b : BitVec 7) (lit : Word) (s : State) : Host.Outcome State Fault Refusal :=
  issued (perThread { f := ctlF h 69#7 d a b, rsv := selRsv b.toNat, priv := true, sel := some b } (ctxNames d.toNat a.toNat b.toNat)
    (ctxloadThread d.toNat a.toNat b.toNat lit) s)

/-! ## Step (R330) -/

/-- STEP: steps the target of a halted job by one instruction, and waits for it (R204, R330). -/
def execStep (h : Hdr) (d a b : BitVec 7) (lit : Word) (s : State) : Host.Outcome State Fault Refusal :=
  issued (oncePerGroup { f := ctlF h 71#7 d a b, rsv := selRsv b.toNat, priv := true, sel := some b }
    (fun _ => { vr := [(a.toNat, 1)], vw := [(d.toNat, 1)], sr := selS b.toNat false, tags := tagsOf 1 a.toNat 1 (some tagsInt) })
    (fun s i t =>
      let w := vBits t a.toNat
      let k := src s i t b.toNat lit .int % 16
      let die := dieOf t.core
      if bits w 4 3 = 3 ∨ w % 8 ≠ 0 ∨ 2 ^ 23 ≤ w then (s, .trap (limitTrap 1))
      else if !bit (getReg s die (hoff k)) 16 || phaseOf s die k < 2 then (s, .trap { cls := 3, code := 6, aux := k })
      else
        let s1 := modThreads s i.act fun t => { t with wait := .step k d.toNat (i.act.headD 0) }
        (cmdStep s1 die k [bits w 4 3, bits w 11 5, bits w 16 12, bits w 22 17] (some (i.act.headD 0, d.toNat)), .eff {})) s)

end Sys2Proof.Machine
end

