-- ==== Sys2Proof/Machine/Homes.lean ====
section
/-! DEFINITION. The homes of memory and what returns from them: writes, reads and reductions applied in home order (05 R107, R108, R114,
R118), deterministic reductions (05 R121 to R123, 19 R388), responses, acknowledgements, the draining of stores (05 R106, R115) and the
end of a fence (05 R116, 12 R279). -/

namespace Sys2Proof.Machine

/-! ## Writes (R107, R114, R118, R332) -/

/-- The master that a packet's sender is for the access tables. -/
def masterOf (p : Packet) : Nat := if p.src = 3000000 then 0 else if p.src = 3000001 then 1 else 2

/-- Offsets of the registers that bytes lie in, ascending. -/
def regsOf (bs : List (Nat × Byte)) : List Nat := sortBy id (dedup (bs.map fun p => p.1 / 8 * 8))

/-- The value that a write of some bytes of a register gives it: the other bytes keep their value; those of W1C fields clear nothing. -/
def mergeReg (s : State) (d off pa : Nat) (bs : List (Nat × Byte)) : Nat :=
  let old := if off = 0x520 then 0 else regValue s d off
  leNat (((upFrom 0 8).zip (natLe 8 old)).map fun q => ((bs.find? fun p => p.1 == pa + q.1).map (·.2)).getD q.2)

/-- A write of registers of a management block, one register after another. -/
def writeRegs (m : Nat) (bs : List (Nat × Byte)) : State → List Nat → State
  | s, [] => s
  | s, pa :: r =>
    match mgmtOff pa with
    | some (d, off) => writeRegs m bs (mgmtWrite s m d off (mergeReg s d off pa bs)) r
    | none => writeRegs m bs s r

/-- The host port behind which a place lies. -/
def hostPort (k : Nat) : Option Nat := if k < 2 ^ 64 then none else some (k / 2 ^ 64 - 1)

/-- The place can be reached: it lies in the module, in another one, or behind a port whose link is up. -/
def reachable (s : State) (k : Nat) : Bool := (hostPort k).all fun p => !has s.portDown p

/-- What an engine has sent or asked for has come to its place: threads that wait for it look again. -/
def wakeEng (s : State) (p : Packet) : State := if p.eng.isSome then lookAgain s else s

/-- Bytes of a write are applied; those that are poisoned leave poison, which the home records (R358, R392). -/
def applyBytes (s : State) (p : Packet) (bs : List (Nat × Byte)) : State :=
  let s1 := memWriteEach s bs
  match p.bad with
  | [] => s1
  | a :: _ =>
    raiseAsync { s1 with poison := s1.poison ++ p.bad.map Place.hbm } 7 Config.class7Code.toNat p.job (unitEnd s p.dst).2 127 0 a none 0 0

/-- WRITE_APPLY: the home applies a write in its home order (R107, R114, R118, R177). -/
def execWriteApply (pkt : Nat) (s : State) : Host.Outcome State Fault Refusal :=
  issued (match arriving s pkt with
    | some p =>
      (match p.body with
      | .write bs _ =>
        let s1 := wakeEng (acknowledge s p) p
        (match bs with
        | [] => s1
        | (k, _) :: _ =>
          if (mgmtOff k).isSome then writeRegs (masterOf p) bs s1 (regsOf bs)
          else if reachable s k then applyBytes s1 p bs
          else s1)
      | _ => s)
    | none => s)

/-! ## Reads (R107, R111, R114, R177) -/

/-- Bytes of registers of a management block that the supervisor reads. A register that it may not read gives a free value. -/
def readRegs (m : Nat) : State → List Nat → List (Nat × Byte) → State × List (Nat × Byte)
  | s, [], acc => (s, acc)
  | s, pa :: r, acc =>
    match mgmtOff pa with
    | some (d, off) =>
      (match mgmtRead s m d off with
      | (s1, some v) => readRegs m s1 r (acc ++ atKeys pa (natLe 8 v))
      | (s1, none) =>
        let (k, s2) := takeFree s1
        let (l, s3) := takeFree s2
        readRegs m s3 r (acc ++ atKeys pa (natLe 4 (Config.freeWord k).toNat ++ natLe 4 (Config.freeWord l).toNat)))
    | none => readRegs m s r acc

/-- Answer a read: the response goes back to the reading core, or to the module that reads. -/
def answerRead (s : State) (p : Packet) (b : Body) : State := sendBack (dropPacket s p.id) p b

/-- The line that a read leaves in its core's L1: memory's bytes under the core's own pending ones; none while a reduction of the core
there is on its way (R106, R114). -/
def keptLine (s : State) (core line : Nat) : Option (Nat × List Byte) :=
  let reduced := s.packets.any fun q => q.src == core && (match q.body with
    | .red fn a _ => runsMeet a (redSize fn) line 128
    | .redDet a _ _ _ _ _ _ => runsMeet a 64 line 128
    | _ => false)
  if reduced then none
  else some (line, (upFrom line 128).map fun a => (wcByteAt s core a <|> sentByte s core a).getD (memByte s a))

/-- READ_REQUEST: the home reads, in its home order (R107, R114, R177). -/
def execReadRequest (pkt : Nat) (s : State) : Host.Outcome State Fault Refusal :=
  issued (match arriving s pkt with
    | some p =>
      (match p.body with
      | .read pa n rid keep glean =>
        if (mgmtOff pa).isSome then
          let (s1, bs) := readRegs (masterOf p) s (regsOf ((upFrom pa n).map fun a => (a, 0#8))) []
          answerRead s1 p (.readResp rid ((upFrom pa n).map fun a => ((bs.find? fun q => q.1 == a).map (·.2)).getD 0#8) none none false)
        else if !reachable s pa then s
        else
          let bad := memPoisoned s pa n
          let line := (lineOf pa, memBytes s (lineOf pa) 128)
          let whole := !memPoisoned s (lineOf pa) 128
          answerRead (eccRead s (nearHbm pa n)) p (.readResp rid (memBytes s pa n) (if keep && whole then keptLine s p.src (lineOf pa) else none)
            (if whole then glean.map fun g => (g.1, g.2, line.1, line.2) else none) bad)
      | _ => s)
    | none => s)

/-- A clean line enters a core's L1 (R106). -/
def fillClean (s : State) (core : Nat) (l : Nat × List Byte) : State :=
  cure { s with clean := ⟨core, l.1, l.2⟩ :: s.clean.filter fun c => !(c.core == core && c.pa == l.1) } (inL1 core l.1 128)

/-- A row of the `mld` that issued with that number. -/
def ofIssue (c f n : Nat) (r : Result) : Bool :=
  match r.fmt with
  | some (.row core flock _ _ _ m _) => core == c && flock == f && m == n
  | _ => false

/-- The results of a load that fails go: of an `mld` those of the whole issue, and the tile's tag is what it was before it unless a later word has
written it (R304, R366). -/
def dropLoad (s : State) (r : Result) : State :=
  match r.fmt with
  | some (.row c f d _ _ n was) =>
    modTile { s with results := s.results.filter fun q => !ofIssue c f n q } c f d fun k => if k.stamp = n then { k with tag := was.1, stamp := was.2 } else k
  | _ => { s with results := s.results.filter fun q => q.id ≠ r.id }

/-- A load fails: its thread traps at its word, or every thread of an `mld` (R366), with the load's address. -/
def failLoad (s : State) (r : Result) (f : Trap) : State :=
  r.uids.foldl (fun s u => trapLate s u r.pc r.at_ { f with addr := r.addr }) (dropLoad s r)

/-- A response fills what an engine waits for (R169, R358). -/
def fillLine (s : State) (rid : Nat) (bs : List Byte) (bad : Bool) : State :=
  lookAgain { s with engLines := s.engLines.map fun l => if l.rid == rid then { l with bytes := some bs, fail := if bad then some 8 else none } else l }

/-- The lines that a response leaves: one in the L1 of the core that has read, and one in its die's partition (R106, R111). -/
def keepLines (s : State) (dst : Nat) (line : Option (Nat × List Byte)) (glean : Option (Nat × DWord × Nat × List Byte)) : State :=
  let s1 := match line with
    | some l => fillClean s (dst - 10000) l
    | none => s
  match glean with
  | some g => fillGlean s1 (backDie dst) g
  | none => s1

/-- READ_RESPONSE: a read returns to its requester; poisoned bytes trap the loading thread, and fail an engine's read (R176, R358). -/
def execReadResponse (pkt : Nat) (s : State) : Host.Outcome State Fault Refusal :=
  issued (match arriving s pkt with
    | some p =>
      (match p.body with
      | .readResp rid bs line glean poisoned =>
        let s1 := keepLines (dropPacket s pkt) p.dst line glean
        if p.eng.isSome then fillLine s1 rid bs poisoned
        else match s1.results.find? fun r => r.id == rid with
        | none => s1
        | some r =>
          if poisoned || entryBad s rid then failLoad s1 r { cls := 7, code := Config.class7Code.toNat, aux := 0 }
          else
            { s1 with results := s1.results.map fun q => if q.id == rid then { q with ready := true, buf := fillBuf q.buf bs } else q }
      | _ => s)
    | none => s)

/-! ## Accesses that meet at their home byte by byte (R96) -/

/-- Whether a byte is among the chosen ones: the bytes of a single-copy atomic access that both sides make are chosen together, with its first. -/
def chosen (both : List (Nat × Nat)) (l : List Nat) (k : Nat) : Bool :=
  match both.find? fun u => u.1 ≤ k && k < u.1 + u.2 with
  | some u => has l u.1
  | none => has l k

/-- A read and a write at one home meet: the read takes the listed bytes from the write, and the others from before it; what is single-copy atomic
with one of the write's stores it takes whole (R96, R302, R309). -/
def mixRead (rd wr : Nat) (new : List Nat) (s : State) : State :=
  match arriving s rd, arriving s wr with
  | some p, some q =>
    (match p.body, q.body with
    | .read pa n rid _ _, .write bs _ =>
      if p.dst ≠ q.dst || (mgmtOff pa).isSome || !reachable s pa || memPoisoned s pa n || !q.bad.isEmpty || !bodiesMeet p.body q.body then s
      else
        let both := (atomicUnits pa n).filter fun u => q.units.any (· == u)
        let s1 := memWriteEach s (bs.filter fun b => chosen both new b.1)
        wakeEng (memWriteEach (acknowledge (answerRead s1 p (.readResp rid (memBytes s1 pa n) none none false)) q) bs) q
    | _, _ => s)
  | _, _ => s

/-- Two writes at one home meet: of the bytes that both write, the listed ones end with the value of the first. Stores of one size and address
are single-copy atomic (R96). -/
def mixWrite (a b : Nat) (first : List Nat) (s : State) : State :=
  match arriving s a, arriving s b with
  | some p, some q =>
    (match p.body, q.body with
    | .write bs _, .write cs _ =>
      if p.id = q.id || p.dst ≠ q.dst || !p.bad.isEmpty || !q.bad.isEmpty || !bodiesMeet p.body q.body ||
          !(bs ++ cs).all (fun x => (mgmtOff x.1).isNone && reachable s x.1) then s
      else
        let both := p.units.filter fun u => q.units.any (· == u)
        wakeEng (wakeEng (memWriteEach (memWriteEach (memWriteEach (acknowledge (acknowledge s p) q) bs) cs)
          (bs.filter fun x => chosen both first x.1)) p) q
    | _, _ => s)
  | _, _ => s

/-- What a packet of another module may ask of a home (R169, R176, R177): a write or a read within a line of memory of this module, a reduction
or a contribution there, or an operation on a counter but `cinit`, whose amount is one that an instruction or engine can name (R385). -/
def peerBody (s : State) : Body → Bool
  | .write bs _ => !bs.isEmpty && bs.all fun b => inHbmSpace s b.1 && lineOf b.1 == lineOf ((bs.headD (0, 0#8)).1)
  | .read pa n _ _ _ => 1 ≤ n && inHbmSpace s pa && lineOf pa == lineOf (pa + n - 1)
  | .red fn pa _ => fn < 20 && pa % redSize fn == 0 && inHbmSpace s pa
  | .redDet pa _ _ _ _ _ _ => pa % 64 == 0 && inHbmSpace s pa
  | .ctr _ op => (match op with
    | .set _ => false
    | .add a => a < 2 ^ 32
    | .addRet a _ => a < 2 ^ 32
    | _ => true)
  | _ => false

/-- Home of what a packet of another module asks for. -/
def bodyHome (s : State) : Body → Nat
  | .ctr h _ => homeUnit s h.toNat
  | b => byteHome s ((b.runs.headD (0, 0)).1)

/-- A packet of another module arrives (R169, R176, R177); it keeps no order with others. Module and die of its sender are in `src`. -/
def peerStep (p : Packet) (s : State) : State :=
  let m := (p.src - 4000000) / 16
  if p.src < 4000000 || 8192 ≤ m || m = moduleId s || 12 ≤ p.src % 16 || !peerBody s p.body then s
  else
    sendPacket s { Packet.blank with
      src := p.src, dst := bodyHome s p.body, ordered := false, job := p.job, tag := some (p.tag.getD p.id)
      body := match p.body with
        | .write bs _ => .write bs none
        | .read pa n rid _ _ => .read pa n rid false none
        | .ctr h (.wait w) => .ctr h (.wait { w with handle := h, module := m, spilled := false })
        | b => b }

/-! ## Reductions (R108, R277) -/

/-- REDUCTION_APPLY: the home applies a reduction in its home order; a poisoned operand stays as it is and is recorded (R108, R114, R358). -/
def execReductionApply (pkt : Nat) (s : State) : Host.Outcome State Fault Refusal :=
  issued (match arriving s pkt with
    | some p =>
      (match p.body with
      | .red fn pa x =>
        let s1 := eccRead (wakeEng (acknowledge s p) p) (nearHbm pa (redSize fn))
        if !reachable s pa then s1
        else if memPoisoned s pa (redSize fn) then
          raiseAsync s1 7 Config.class7Code.toNat p.job (unitEnd s p.dst).2 127 0 pa none 0 0
        else applyRed s1 fn pa x
      | _ => s)
    | none => s)

/-! ## Deterministic reductions (R121 to R123, R388) -/

/-- What a buffer of held nodes is: its translation by 8-byte place. -/
structure DetBuf where
  /-- home die -/
  die : Nat
  /-- contributing job -/
  job : Nat
  /-- BUF -/
  buf : Nat
  deriving DecidableEq, Repr

/-- The place of a node's word in memory, when BUF translates as R122 requires: a leaf of this module whose DIE is the home die. -/
def detPlace (s : State) (b : DetBuf) (place : Nat) : Option Nat :=
  match xlate s b.die b.job (b.buf + 8 * place) true false with
  | (_, .at k none) => if k < 2 ^ 48 && k / 2 ^ 44 == b.die && (mgmtOff k).isNone then some k else none
  | _ => none

/-- The word of a place. -/
def detWord (s : State) (b : DetBuf) (place : Nat) : Nat := ((detPlace s b place).map fun k => memNat s k 8).getD 0

/-- HELD and K of a place are those of level k. -/
def heldAt (s : State) (b : DetBuf) (place k : Nat) : Bool :=
  bit (detWord s b place) 32 && bits (detWord s b place) 37 33 == k

/-- The contribution overlaps a held node (R388 reason 1): one within its range, or one of a higher level that covers it. -/
def detOverlap (s : State) (b : DetBuf) (log2n k i : Nat) : Bool :=
  (upFrom (i * 2 ^ k) (2 ^ k)).any (fun p => bit (detWord s b p) 32) ||
    (upFrom 1 (log2n - k)).any fun u => heldAt s b ((i >>> u) * 2 ^ (k + u)) (k + u)

/-- Every page of the buffer translates as R122 requires. A buffer that is not 8-byte aligned, and a page without W, have no fate in R122 and
R388: they are refused here too (DESIGN CHOICE, log entry 112). -/
def detPages (s : State) (b : DetBuf) (log2n : Nat) : Bool :=
  let first := b.buf / 4096
  let last := (b.buf + 8 * 2 ^ log2n - 1) / 4096
  b.buf % 8 == 0 && (detPlace s b 0).isSome && (upFrom first (last - first + 1)).all fun pg =>
    match xlate s b.die b.job (max b.buf (pg * 4096)) true false with
    | (_, .at k none) => k < 2 ^ 48 && k / 2 ^ 44 == b.die && (mgmtOff k).isNone
    | _ => false

/-- Write the word of a place. -/
def detPut (s : State) (b : DetBuf) (place v : Nat) : State :=
  match detPlace s b place with
  | some k => memWriteNat s k 8 v
  | none => s

/-- Combine a contribution with held nodes upwards (R122). Answers the state, and the root's value when it is formed; none when it would
combine with a poisoned node. -/
def detCombine (b : DetBuf) (op : Nat) : Nat → State → Nat → Nat → Nat → Option (State × Option Nat)
  | 0, s, _, _, x => some (s, some x)
  | n + 1, s, k, i, x =>
    let j := i ^^^ 1
    let place := j * 2 ^ k
    if heldAt s b place k then
      if (detPlace s b place).any fun a => memPoisoned s a 8 then none
      else
        let y := detWord s b place % 2 ^ 32
        let fn := if op = 0 then 18 else 19
        let v := if i < j then redResult fn x y else redResult fn y x
        detCombine b op n (detPut s b place 0) (k + 1) (i / 2) v
    else some (detPut s b (i * 2 ^ k) (x + 2 ^ 32 + k * 2 ^ 33), none)

/-- A contribution is discarded (R388). -/
def detDiscard (s : State) (job die pa k i reason : Nat) : State :=
  raiseAsync s 5 6 job die 127 0 pa none reason (i % 2 ^ 21 + k % 32 * 2 ^ 21)

/-- The home takes a contribution (R122, R388). -/
def detTake (s : State) (die pa k i : Nat) (x : Word) (tag : BitVec 4) (job : Nat) : State :=
  if memPoisoned s pa 64 then raiseAsync s 7 Config.class7Code.toNat job die 127 0 pa none 0 0
  else
    let w := memNat s (pa + 8) 8
    let log2n := bits w 4 0
    let op := bits w 7 5
    let b : DetBuf := ⟨die, job, memNat s (pa + 24) 8 % 2 ^ 57⟩
    if 2 ≤ op ∨ 20 < log2n then detDiscard s job die pa k i 2
    else if tag.toNat ≠ (if op = 0 then 3 else 4) then detDiscard s job die pa k i 5
    else if log2n < k ∨ 2 ^ (log2n - k) ≤ i then detDiscard s job die pa k i 0
    else if !detPages s b log2n then detDiscard s job die pa k i 4
    else if detOverlap s b log2n k i then detDiscard s job die pa k i 1
    else match detCombine b op (log2n - k) s k i x.toNat with
      | none => detDiscard s job die pa k i 3
      | some (s1, none) => s1
      | some (s1, some root) => engineAdd (memWriteNat s1 pa 4 root) die 127 job 0 (memNat s1 (pa + 16) 8) 1

/-- RED_DET_CONTRIBUTION: a contribution reaches its target's home (R122, R388). A target of another module is that module's to combine. -/
def execRedDetContribution (pkt : Nat) (s : State) : Host.Outcome State Fault Refusal :=
  issued (match arriving s pkt with
    | some p =>
      (match p.body with
      | .redDet pa _ k i x tag job =>
        let s1 := eccRead (acknowledge s p) (nearHbm pa 64)
        if pa < 2 ^ 48 then detTake s1 (pa / 2 ^ 44) pa k i x tag job else s1
      | _ => s)
    | none => s)

/-! ## What comes back, and the stores that leave -/

/-- ACKNOWLEDGEMENT: the home's acknowledgement of a write or reduction returns (R116, R177). -/
def execAcknowledgement (pkt : Nat) (s : State) : Host.Outcome State Fault Refusal :=
  issued (match arriving s pkt with
    | some p => if p.body = .ack then wakeEng (dropPacket s pkt) p else s
    | none => s)

/-- WC_DRAIN: stores of a core move on (R106, R115). The number is core + 4096 × choice: choice 0, every entry of the core's store FIFOs that
the halt wave does not hold enters the store order, oldest first, and the write-combined bytes drain; 1, the write-combined bytes drain;
k + 2, the oldest entry of thread k enters the store order. -/
def execWcDrain (core : Nat) (s : State) : Host.Outcome State Fault Refusal :=
  issued (
    let c := core % 4096
    match core / 4096 with
    | 0 => flushWc (enterAll s (s.fifo.filter fun e => e.core == c && !storeHeld s c e.job e.uid e.seq)) c
    | 1 => flushWc s c
    | k + 2 =>
      match s.fifo.find? fun e => e.uid == k with
      | some e => if storeHeld s e.core e.job k e.seq || lanesBefore s e then s else enterCore s e
      | none => s)

/-- FENCE_COMPLETE: everything a fence waits for has happened; at cluster scope or wider the clean lines are dropped, and a failed set
within its scope traps the thread at the fence (R116, R279, R399). So ends the wait of a word that takes effect only after what its thread made
before (R119). -/
def execFenceComplete (uid : Nat) (s : State) : Host.Outcome State Fault Refusal :=
  issued (match findThread s uid with
    | some t =>
      (match t.wait with
      | .fence sc seq =>
        if waitHeld s t || !quiet s t.core uid seq sc then s
        else if !(failedWithin s t sc).isEmpty then failSync s uid (t.pc - 4#57) 0
        else
          let s1 := if 2 ≤ sc then dropClean s t.core else s
          modThread s1 uid fun t => { t with wait := .none, age := s.cycle + 1 }
      | .before seq => if waitHeld s t || !quiet s t.core uid seq 2 then s else modThread s uid fun t => { t with wait := .none, age := s.cycle + 1 }
      | _ => s)
    | none => s)

/-! ## Wakes (03 R67, R69) -/

/-- COUNTER_WAKE: the wake of a `cwt`, of a `cwait` condition, of a launch record's condition or of a graph node's dependence arrives; it is
held while its job is halted (R67, R69, R203). -/
def execCounterWake (pkt : Nat) (s : State) : Host.Outcome State Fault Refusal := issued (takeWake pkt s)

end Sys2Proof.Machine
end

