-- ==== Sys2Proof/Machine/Sched.lean ====
section
/-! DEFINITION. The steps of scheduling: the ageing of groups (02 R42), bins (02 R38, R39), waiting spawns (R38, R263), admission,
rotation points and eviction (02 R54 to R57, 04 R92, 18 R377, 18 R417, 19 R386), and what the issue stage does with words that it
cannot issue (10 R221, 18 R365, R368, 19 R379). -/

namespace Sys2Proof.Machine

/-! ## Ageing (R42) -/

/-- PRIO_AGE: the group of a thread is treated as PRIO 3 when it is next chosen (R42). -/
def execPrioAge (uid : Nat) (s : State) : Host.Outcome State Fault Refusal :=
  issued (match findThread s uid with
    | none => s
    | some t =>
      let g := groupOf (eligibleOn s t.core) t
      if eligible s t && groupOld s g then modThreads s (g.map (·.uid)) fun u => { u with aged := true } else s)

/-! ## Bins (R38, R39) -/

/-- BIN_TIMER_EXPIRY: a bin's timer has run out, and it is due; the timers of a halted job's bins do not run out (R38, R207). -/
def execBinTimerExpiry (bin : Nat) (s : State) : Host.Outcome State Fault Refusal :=
  issued (match s.bins.find? fun b => b.id == bin with
    | some b => if b.deadline ≤ ftime s (dieOf b.core) && !jobHeld s (dieOf b.core) b.job then markDue s bin else s
    | none => s)

/-- The bin that launches next on a core: the oldest due one that the halt wave does not hold (R39, R203). -/
def nextDue (s : State) (core : Nat) : Option Bin := s.bins.find? fun b => b.core == core && b.due && !jobHeld s (dieOf core) b.job

/-- BIN_LAUNCH: a due bin obtains its tiles and launches, in opening order (R39). -/
def execBinLaunch (bin : Nat) (s : State) : Host.Outcome State Fault Refusal :=
  issued (match s.bins.find? fun b => b.id == bin with
    | some b => if nextDue s b.core = some b && tilesHeld s b.core + b.tiles ≤ Config.tilesPerCore then launchBin s b else s
    | none => s)

/-- The placement that is next on a core (R38): spawns place in the order in which they issued. -/
def nextPlacing (s : State) (core : Nat) : Option Placing := (waitingSpawns s core).head?

/-- SPAWN_DEFERRED_PLACEMENT: a waiting spawn places the children for which there is room now. The number is a thread that waits for it,
or 2^64 + core for a handler thread (R38, R263, R355). -/
def execSpawnDeferredPlacement (uid : Nat) (s : State) : Host.Outcome State Fault Refusal :=
  issued (match s.placing.find? fun p => has p.group uid || (p.group.isEmpty && uid == 2 ^ 64 + p.core) with
    | some p => if nextPlacing s p.core = some p then placeAgain s p else s
    | none => s)

/-! ## Eviction (R55, R56, R92, R377) -/

/-- FLOCK_ADMIT: flocks at the front of a core's waiting set are admitted, in order, for as long as the first one fits (R54). -/
def execFlockAdmit (core : Nat) (s : State) : Host.Outcome State Fault Refusal := issued (admitFront s core)

/-- A thread waits on counters, or is trapped, which counts as such (R55, R377). -/
def waitsOnCounters (t : Thread) : Bool :=
  t.trapped || (match t.wait with
    | .cwt _ _ => true
    | .cwait _ _ _ _ _ _ _ _ => true
    | _ => false)

/-- Rank of a flock in the order of victims (R55). -/
def victimBefore (s : State) (a b : Flock) : Bool :=
  let w : Flock → Bool := fun f => (membersOf s f.core f.idx).all waitsOnCounters
  if w a != w b then w a
  else if a.prio ≠ b.prio then a.prio < b.prio
  else a.since < b.since

/-- Put a flock in its place in the order of victims. R55 orders two that are equal in all its tests no further: the one that was launched
first, and so stands first in `State.flocks`, goes first (DESIGN CHOICE, log entry 58). -/
def insertVictim (s : State) (f : Flock) : List Flock → List Flock
  | [] => [f]
  | g :: r => if victimBefore s f g then f :: g :: r else g :: insertVictim s f r

/-- The flocks that a rotation point may evict, in its order: resident for 100,000 ticks, and not of a halted job (R55, R203). -/
def victims (s : State) (core point : Nat) : List Flock :=
  (s.flocks.filter fun f =>
    f.core == core && f.resident && !f.evicting && f.since + Config.rotationTicks ≤ point && !jobHeld s (dieOf core) f.job).foldl
    (fun l f => insertVictim s f l) []

/-- What a wait becomes when its thread is evicted: a wait that keeps the thread at its instruction has taken no effect, and the
instruction issues again (R272). -/
def Waiting.evicted : Waiting → Waiting
  | .results => .none
  | .room _ => .none
  | .page _ => .none
  | .before _ => .none
  | .tfree _ _ => .none
  | .carve 0 _ _ => .none
  | .step _ 128 _ => .none
  | w => w

/-- Results of a flock's members that are not written. -/
def flockResults (s : State) (f : Flock) : List Result :=
  let ms := (membersOf s f.core f.idx).map (·.uid)
  s.results.filter fun r => r.uids.any (has ms)

/-- A sweep flock has a group open (R92). -/
def groupOpen (s : State) (f : Flock) : Bool :=
  f.sweep.isSome && s.sweeps.any fun w => w.core == f.core && w.started && w.flock == f.idx && w.open_.isSome

/-- A flock leaves: its state is in the save area, its slots, registers and tiles are free, and it joins the back of the waiting
set (R55, R56). -/
def leaveCore (s : State) (f : Flock) (o : Nat) : State :=
  let ms := (membersOf s f.core f.idx).map (·.uid)
  let s1 := drainRays s (s.rays.filter fun r => has ms r.uid)
  let s2 := modThreads s1 ms fun t => { t with wait := t.wait.evicted }
  modFlock { s2 with waitset := s2.waitset ++ [(f.core, f.idx)] } f.core f.idx fun k =>
    { k with resident := false, evicting := false, saved := some o }

/-- Evict a flock none of whose results is awaited; an eviction that the save area cannot take is abandoned (R56, R377). -/
def evictNow (s : State) (f : Flock) : State :=
  let s1 := writeResults s (flockResults s f)
  let g := flockOf s1 f.core f.idx
  match saveFlock s1 g with
  | (s2, .ok o) => leaveCore s2 g o
  | (s2, .error a) =>
    raiseAsync (modFlock s2 f.core f.idx fun k => { k with evicting := false }) 3 7 f.job (dieOf f.core) (f.core % 128) 0 0 none a
      (flockId f.core f.idx)

/-- Every result of a flock has returned, and no group of it is open. -/
def evictable (s : State) (f : Flock) : Bool := !groupOpen s f && (flockResults s f).all (returned s)

/-- Begin to evict a flock: at once, or when its results are written and its group has ended (R56, R92). -/
def evict (s : State) (f : Flock) : State :=
  if evictable s f then evictNow s f else modFlock s f.core f.idx fun k => { k with evicting := true }

/-- The first waiting flock fits, the resources of flocks that are being evicted counted as free (R55, R92). -/
def wouldFit (s : State) (core : Nat) : Bool :=
  match firstWaiting s core with
  | none => true
  | some f =>
    let ms := membersOf s core f.idx
    let s1 := { s with flocks := s.flocks.map fun k => if k.core == core && k.evicting then { k with resident := false } else k }
    fits s1 core ms f.tiles.length && (match pendingRegion s1 core ms with
      | some l => (regionAt s1 core l.size).isSome
      | none => true)

/-- Evict victims until the first waiting flock fits or none remains (R55). -/
def evictUntil (core : Nat) : State → List Flock → State
  | s, [] => s
  | s, f :: r => if wouldFit s core then s else evictUntil core (evict s f) r

/-- Waits that their home refused are tried again, for a sweep's elements by their core, for the others by the first core of the
die (R386). -/
def retryWaits (s : State) (core : Nat) (first : Bool) : State :=
  { s with packets := s.packets.map fun p => match p.body with
      | .ctr _ (.wait w) =>
        if p.grp = 2 ^ 64 && (if w.kind = 5 then w.unit == core else first && dieOf w.unit == dieOf core) then { p with grp := 2 ^ 64 + 1 } else p
      | _ => p }

/-- A core evicts these victims until its first waiting flock fits; when it does not fit without them either, the core's open bins launch;
then flocks are admitted (R55). -/
def rotateOver (s : State) (core : Nat) (vs : List Flock) : State :=
  let s1 := evictUntil core s vs
  let s2 := if wouldFit s1 core then s1
    else launchDue { s1 with bins := s1.bins.map fun b =>
      if b.core == core && !jobHeld s1 (dieOf core) b.job then { b with due := true } else b } core
  admitFront s2 core

/-- What a core does at a rotation point for its waiting set (R55). -/
def rotate (s : State) (core point : Nat) : State :=
  if !s.waitset.any fun p => p.1 == core then s else rotateOver s core (victims s core point)

/-- ROTATION_POINT: the field time of a core's die is a multiple of 100,000 ticks (R55); refused waits and held launch queues are tried
again (R386, R417). -/
def execRotationPoint (core : Nat) (s : State) : Host.Outcome State Fault Refusal :=
  issued (
    let d := dieOf core
    let now := ftime s d
    let n := now / Config.rotationTicks
    if s.power ≠ .run || now % Config.rotationTicks ≠ 0 || mapGet 0 s.rotated core = n || !coreOn s d (core % 128) then s
    else
      let first := (coresOn s d).head? == some (core % 128)
      let s1 := retryWaits { s with rotated := mapSet 0 s.rotated core n } core first
      rotate (if first then retryQueues s1 d else s1) core now)

/-- A flock of a core that was chosen as a victim and can be evicted now; not one of a job that has been halted since (R203). -/
def deferredVictim (s : State) (core : Nat) : Option Flock :=
  s.flocks.find? fun f => f.core == core && f.evicting && evictable s f && !jobHeld s (dieOf core) f.job

/-- The victims that come after a flock in the order of a core's last rotation point. -/
def laterVictims (s : State) (core idx : Nat) : List Flock :=
  ((victims s core (mapGet 0 s.rotated core * Config.rotationTicks)).dropWhile fun f => f.idx ≠ idx).drop 1

/-- A deferred victim leaves, and the first waiting flock is admitted; where its eviction is abandoned the rotation point goes on to its next
victim (R55, R377). -/
def evictDeferred (s : State) (core : Nat) (f : Flock) : State :=
  let s1 := evictNow s f
  if (flockOf s1 core f.idx).resident then rotateOver s1 core (laterVictims s1 core f.idx) else admitFront s1 core

/-- SWEEP_DEFERRED_EVICTION: a flock that was chosen while its group was open, or while its results were awaited, is evicted, and the first
waiting flock is admitted (R55, R92). -/
def execSweepDeferredEviction (core : Nat) (s : State) : Host.Outcome State Fault Refusal :=
  issued (match deferredVictim s core with
    | some f => evictDeferred s core f
    | none => s)

/-! ## Words that cannot issue (R365, R368, R379) -/

/-- The issue of what stands at the PC of the next group, as an instruction word. -/
def wordIssue (s : State) (w : Word) : Option Issue := mkIssue s (Fields.ofWord w)

/-- UNASSIGNED_OPCODE: the group issues a word that is no instruction, and traps with CLASS 1 CODE 1 or 2 (R368). -/
def execUnassignedOpcode (w : Word) (s : State) : Host.Outcome State Fault Refusal :=
  issued (match wordIssue s w, decode (bytesOfWord w ++ bytesOfWord 0#32) with
    | some i, .error .unassigned => wordTrap s i 1
    | some i, .error _ => wordTrap s i 2
    | _, _ => s)

/-- Fetch for each thread of a group: those that trap, and those that wait for a page. -/
def fetchGroup : State → Acc4 → List Nat → State × Acc4
  | s, acc, [] => (s, acc)
  | s, acc, u :: r =>
    match fetch s (threadOf s u) with
    | (s1, .ok _) => fetchGroup s1 acc r
    | (s1, .error o) => let (s2, acc2) := enter s1 u acc o; fetchGroup s2 acc2 r

/-- INSTRUCTION_FETCH_FAULT: threads of the group whose word cannot be fetched trap at their PC, or wait for its page (R94, R379,
R381). -/
def execInstructionFetchFault (s : State) : Host.Outcome State Fault Refusal :=
  issued (match wordIssue s 0#32 with
    | none => s
    | some i => let (s1, acc) := fetchGroup s {} i.group; takeTrap s1 i acc.fails)

end Sys2Proof.Machine
end

