-- ==== Sys2Proof/Machine/HostIo.lean ====
section
/-! DEFINITION. The host ports: the counter aperture (03 R74 to R76, 19 R384 to R387, 20 R413), BAR 4 (14 R331 to R333), address
translation by the host (05 R102, 19 R381), and the failures of a host's side (20 R413). -/

namespace Sys2Proof.Machine

/-! ## The counter aperture (R74, R75) -/

/-- What stops an access of a port to a window, and what it then does: no such port or window, the link down, a module that is in LOCKED,
where the windows reach the semaphore's counters alone (R340), or no right to block 13 (R333, R413). `cell` is an access to the counter
itself. -/
def apertureStop (s : State) (port w : Nat) (write cell : Bool) : Option State :=
  let r := rightTo s port (portDie port) 13
  if 2 ≤ port || 256 ≤ w || has s.portDown port || !dieOn s (portDie port) then some s
  else if s.power ≠ .run && cell && !isSemaphore (windowOf s port w).handle.toNat then some (answerUr s port)
  else if (if write then r ≠ 3 else r = 0) then some (deniedAccess s port 13 (64 * w))
  else none

/-- The port received posted writes before this one that have not reached their homes (R75). -/
def postedPending (s : State) (port : Nat) : Bool := s.packets.any fun p => p.src == 3000000 + port && p.body.isStore

/-- A record of the aperture (R384, R385, R413). -/
def apertureFault (s : State) (port cls code w info : Nat) : State :=
  raiseAsync s cls code supJob (portDie port) 127 0 (windowOf s port w).handle.toNat none w info

/-- A counter operation of a window sets out for another module (R60, R74). -/
def windowSend (s : State) (port h : Nat) (op : CtrOp) : State :=
  sendPacket s { Packet.blank with
    src := 3000000 + port, dst := homeUnit s h, ordered := false, job := supJob, eng := some 0, va := 127, body := .ctr (BitVec.ofNat 64 h) op }

/-- A write of ADD, or of FADD, whose answer is awaited: the value before the addition, where it is applied at once (R75, R385, R387, R413). -/
def apertureAddition (s0 : State) (port w v : Nat) (back : Bool) : State × Option Nat :=
  let h := (windowOf s0 port w).handle.toNat
  let s := if localHandle s0 h then eccRead s0 (inCell s0 h) else s0
  if 2 ^ 32 ≤ v then (apertureFault s port 5 3 w v, none)
  else if (badHandle s h).isSome then (apertureFault s port 12 3 w h, none)
  else if !localHandle s h then (windowSend s port h (if back then .addRet v (2 ^ 64 + 256 * port + w) else .add v), none)
  else if cellPoisoned s h then (raiseAsync s 5 5 supJob (portDie port) 127 0 h (some (h, v)) 0 0, none)
  else (cellAdd s h v, some (cellGet s h))

/-- APERTURE_ADD: a host's write of ADD is applied, after the posted writes that came before it (R74, R75). -/
def execApertureAdd (port w : Nat) (v : DWord) (s : State) : Host.Outcome State Fault Refusal :=
  issued (match apertureStop s port w true true with
    | some t => t
    | none => if postedPending s port then s else (apertureAddition s port w v.toNat false).1)

/-- APERTURE_FADD: as ADD, and LAST holds the value before the addition (R74, R75). -/
def execApertureFadd (port w : Nat) (v : DWord) (s : State) : Host.Outcome State Fault Refusal :=
  issued (match apertureStop s port w true true with
    | some t => t
    | none =>
      if postedPending s port then s
      else match apertureAddition s port w v.toNat true with
        | (s1, some old) => setWindow s1 { windowOf s1 port w with last := BitVec.ofNat 64 old }
        | (s1, none) => s1)

/-- A host reads VALUE as by `cread`; all ones while the handle is malformed (R74, R413); a poisoned cell gives a free value, and one of another
module completes when that module has answered. -/
def valueRead (port w : Nat) (s : State) : State :=
  match apertureStop s port w false true with
  | some t => t
  | none =>
    let h := (windowOf s port w).handle.toNat
    if (badHandle s h).isSome then hostData s port (2 ^ 64 - 1)
    else if !localHandle s h then windowSend s port h (.read (2 ^ 64 + 512 + 256 * port + w))
    else
      let s1 := eccRead s (inCell s h)
      if cellPoisoned s1 h then hostFree s1 port id else hostData s1 port (cellGet s1 h)

/-- APERTURE_VALUE_READ: a host reads VALUE (R74). -/
def execApertureValueRead (port w : Nat) (s : State) : Host.Outcome State Fault Refusal := issued (valueRead port w s)

/-- The waiter entry of an armed window (R69, R74). -/
def windowWaiter (s : State) (port w h thresh : Nat) : Waiter where
  thresh := BitVec.ofNat 64 thresh
  deadline := none
  handle := BitVec.ofNat 64 h
  kind := 6
  cond := 0
  job := supJob
  module := moduleId s
  unit := 128 * portDie port
  lane := port
  slot := 0
  tag := w
  uid := 0
  scope := 5
  spilled := false

/-- APERTURE_ARM: a host's write of ARM registers a wait of kind 6 (R74). The manual does not say what a further write of ARM, or of HANDLE,
does to a wait that the window has armed: that one stays, and the new one is registered beside it (DESIGN CHOICE, log entry 107). -/
def execApertureArm (port w : Nat) (v : DWord) (s : State) : Host.Outcome State Fault Refusal :=
  issued (match apertureStop s port w true true with
    | some t => t
    | none =>
      let h := (windowOf s port w).handle.toNat
      if (badHandle s h).isSome then apertureFault s port 12 3 w h
      else sendPacket s { Packet.blank with
        src := 3000000 + port, dst := homeUnit s h, job := supJob, body := .ctr (BitVec.ofNat 64 h) (.wait (windowWaiter s port w h v.toNat)) })

/-- APERTURE_FIRED: the wake of an armed window arrives; FIRED is set and MSI-X vector w sent (R74, R75). -/
def execApertureFired (pkt : Nat) (s : State) : Host.Outcome State Fault Refusal :=
  issued (match arriving s pkt with
    | some p =>
      (match p.body with
      | .wake w =>
        if w.kind ≠ 6 then s
        else sendMsix (setWindow (dropPacket s pkt) { windowOf s w.lane w.tag with fired := true }) w.lane w.tag
      | _ => s)
    | none => s)

/-- REGISTER_WRITE: master m (0 port A, 1 port B, 2 supervisor code) writes a register of a die; an offset of 2^27 + 64 w + k is
register k of window w of a port's aperture, of which HANDLE is written and FIRED cleared by a 1 (R7, R9, R19, R49, R52, R71, R72, R74,
R110, R179, R185, R333, R338, R343, R397). -/
def execRegisterWrite (m die off : Nat) (v : DWord) (s : State) : Host.Outcome State Fault Refusal :=
  issued (
    if off < 2 ^ 27 then mgmtWrite s m die off v.toNat
    else
      let w := (off - 2 ^ 27) / 64
      match apertureStop s m w true false with
      | some t => t
      | none =>
        let x := windowOf s m w
        match off % 64 with
        | 0 => setWindow s { x with handle := v }
        | 0x30 => setWindow s { x with fired := x.fired && !bit v.toNat 0 }
        | _ => s)

/-! ## What a host reads and writes in BAR 0 and BAR 2 beside that (R74, R331, R357) -/

/-- A register of a window as a host reads it: the write-only ones and the reserved one read 0 (R7, R74). -/
def windowReg (x : Window) (off : Nat) : Nat :=
  match off with
  | 0x00 => x.handle.toNat
  | 0x18 => x.last.toNat
  | 0x30 => if x.fired then 1 else 0
  | _ => 0

/-- A word of the MSI-X table: message address and upper address, message data, and the vector's mask (R331). -/
def msixWord (s : State) (port k : Nat) : Nat :=
  if k % 4 = 3 then (if has s.msixOpen (512 * port + k / 4) then 0 else 1) else (mapGet 0#32 s.msixTab (2048 * port + k)).toNat

/-- Bits of the pending-bit array (R331, R357). -/
def pendingBits (s : State) (port k : Nat) : Nat := maskOf ((upFrom 0 64).filter fun b => has s.msixPend (512 * port + 64 * k + b))

/-- A host reads a register: 8 bytes of BAR 0; in BAR 2 a register of a window, 4 bytes of the MSI-X table or 8 of the pending-bit array (R74,
R331). The rest of BAR 2, which the manual gives nothing, reads 0. -/
def hostRead (port bar addr : Nat) (s : State) : State :=
  if 2 ≤ port then s
  else if bar = 0 then
    (match mgmtRead s port (addr / 2 ^ 27) (addr % 2 ^ 27 / 8 * 8) with
    | (s1, some v) => hostData s1 port v
    | (s1, none) => s1)
  else if addr < 0x4000 then
    (if addr % 64 / 8 = 4 then valueRead port (addr / 64) s
    else match apertureStop s port (addr / 64) false false with
      | some t => t
      | none => hostData s port (windowReg (windowOf s port (addr / 64)) (addr % 64 / 8 * 8)))
  else if s.power ≠ .run then answerUr s port
  else match apertureStop s port 0 false false with
    | some t => t
    | none =>
      if 0x8000 ≤ addr ∧ addr < 0xA000 then hostData s port (msixWord s port ((addr - 0x8000) / 4))
      else if 0xC000 ≤ addr ∧ addr < 0xC040 then hostData s port (pendingBits s port ((addr - 0xC000) / 8))
      else hostData s port 0

/-- A host writes a word of the MSI-X table (R331): message address or data, or the mask of a vector; clearing it sends what is pending
(R357). -/
def hostMsix (port addr : Nat) (v : Word) (s : State) : State :=
  if 2 ≤ port || addr < 0x8000 || 0xA000 ≤ addr then s
  else if s.power ≠ .run then answerUr s port
  else match apertureStop s port 0 true false with
    | some t => t
    | none =>
      let k := (addr - 0x8000) / 4
      if k % 4 ≠ 3 then { s with msixTab := mapSet 0#32 s.msixTab (2048 * port + k) v }
      else if bit v.toNat 0 then { s with msixOpen := s.msixOpen.filter (· ≠ 512 * port + k / 4) }
      else unmask port (k / 4) s

/-! ## BAR 4 (R331, R333, R413) -/

/-- What stops a host's access to memory through BAR 4, and what it then does. Accesses lie within 8 aligned bytes. -/
def bar4Stop (s : State) (port addr n : Nat) (write : Bool) : Option State :=
  let r := rightTo s port (addr / 2 ^ 44) 14
  if 2 ≤ port || n = 0 || addr / 8 ≠ (addr + n - 1) / 8 || 2 ^ 48 ≤ addr || has s.portDown port || !dieOn s (portDie port) then some s
  else if s.power ≠ .run then some (answerUr s port)
  else if (mgmtOff addr).isSome then none
  else if !inHbmSpace s addr then some (reservedAccess s port 4 addr)
  else if (if write then r ≠ 3 else r = 0) then some (deniedAccess s port 14 addr)
  else none

/-- HOST_BAR4_WRITE: a host's posted write sets out for its home (R331, R333). -/
def execHostBar4Write (port addr n : Nat) (v : DWord) (s : State) : Host.Outcome State Fault Refusal :=
  issued (match bar4Stop s port addr n true with
    | some t => t
    | none => sendPacket s { Packet.blank with
        src := 3000000 + port, dst := byteHome s addr, job := supJob, body := .write (atKeys addr (natLe n v.toNat)) none })

/-- HOST_BAR4_READ: a host's read at its home, after the port's posted writes; a register of a management block is read under its own
table (R331, R333). -/
def execHostBar4Read (port addr n : Nat) (s : State) : Host.Outcome State Fault Refusal :=
  issued (match bar4Stop s port addr n false with
    | some t => t
    | none =>
      if postedPending s port then s
      else match mgmtOff addr with
        | some (d, off) =>
          (match mgmtRead s port d (off / 8 * 8) with
          | (s1, some v) => hostData s1 port (v / 2 ^ (8 * (off % 8)) % 2 ^ (8 * n))
          | (s1, none) => s1)
        | none =>
          let s1 := eccRead s (nearHbm addr n)
          if memPoisoned s1 addr n then hostFree s1 port (· % 2 ^ (8 * n)) else hostData s1 port (memNat s1 addr n))

/-- HOST_RESERVED_OFFSET_ACCESS: a host's read that is completed with Unsupported Request: a reserved offset of BAR 0 or BAR 4, or one
that an access table denies (R332, R333, R413). -/
def execHostReservedOffsetAccess (m bar addr : Nat) (s : State) : Host.Outcome State Fault Refusal :=
  issued (
    if 2 ≤ m then s
    else if bar = 0 then (mgmtStop s m (addr / 2 ^ 27) (addr % 2 ^ 27 / 8 * 8) false).getD s
    else if bar = 2 then (apertureStop s m (addr / 64) false (addr % 64 / 8 == 4)).getD s
    else match mgmtOff addr with
      | some (d, off) => (mgmtStop s m d (off / 8 * 8) false).getD s
      | none => (bar4Stop s m addr 1 false).getD s)

/-! ## Translation by the host (R102, R381) -/

/-- Threads that wait for a page request, those that wait behind a lower lane among them. -/
def pageWaiters (s : State) (r : PageReq) : List Thread :=
  s.threads.filter fun t => t.wait == .page r.id || (has r.behind t.uid && (match t.wait with
    | .page _ => true
    | _ => false))

/-- Threads that wait for a page request, or for a place among the outstanding ones, try again. -/
def wakePage (s : State) (req : Nat) : State :=
  { s with threads := s.threads.map fun t => if t.wait == .page req || t.wait == .page 0 then { t with wait := .none, age := s.cycle + 1 } else t }

/-- The issue that a waiting thread's group stands at. -/
def issueAt (t : Thread) (uids : List Nat) : Issue := ⟨t.core, t.flock, t.job, uids, uids, t.pc, 0#32, 4, false⟩

/-- The threads of each group that waits for a request trap together (R366, R367, R381). -/
def trapGroups (f : Thread → Trap) : Nat → State → List Thread → State
  | 0, s, _ => s
  | _ + 1, s, [] => s
  | n + 1, s, t :: r =>
    let same : Thread → Bool := fun u => u.core == t.core && u.flock == t.flock && u.pc == t.pc
    let g := sortBy (·.lane) (t :: r.filter same)
    let uids := g.map (·.uid)
    trapGroups f n (takeTrap (modThreads s uids fun u => { u with wait := .none }) (issueAt t uids) (g.map fun u => (u.uid, f u)))
      (r.filter fun u => !same u)

/-- Page requests of a port that are outstanding. -/
def askedPages (s : State) (port : Nat) : Nat := (s.pageReqs.filter fun q => q.port == port && q.asked).length

/-- A page request is sent (R381). -/
def sendPageRequest (s : State) (r : PageReq) : State :=
  let due := ftime s (portDie r.port) + getField s (portDie r.port) 0x820 15 0 * 1000000
  { s with
    pageReqs := s.pageReqs.map fun q => if q.id == r.id then { q with asked := true, queued := false, deadline := due, pref := [] } else q
    hostOut := .pageRequest r.port r.pasid r.page r.write :: s.hostOut }

/-- A port that keeps fewer than 512 page requests outstanding sends the next one that waits (R381). -/
def nextPage (s : State) (port : Nat) : State :=
  match s.pageReqs.find? fun q => q.port == port && q.queued with
  | some q => if askedPages s port < 512 then sendPageRequest s q else s
  | none => s

/-- The cells whose shadow writes waited for a page that fails: they stop, for a reason of `hostFail` (R76, R413). -/
def stopShadows (port kind : Nat) : State → List Nat → State
  | s, [] => s
  | s, h :: r => stopShadows port kind (stopShadow s port kind h) r

/-- A request has ended. -/
def endPage (s : State) (r : PageReq) : State := nextPage { s with pageReqs := s.pageReqs.filter fun q => q.id ≠ r.id } r.port

/-- A request fails: its threads trap, each engine operation meets the failure when it tries again, and shadow writes stop (R381, R413). -/
def failPage (s : State) (r : PageReq) (f : Thread → Trap) (code kind : Nat) : State :=
  let ts := pageWaiters s r
  let s1 := { s with engFails := s.engFails ++ r.engs.map fun o => ⟨o, some (r.port, r.pasid, r.page, r.write), r.page * 4096, code⟩ }
  wakePage (trapGroups f (ts.length + 1) (stopShadows r.port kind (endPage s1 r) r.cells) ts) r.id

/-- A class-4 trap of a page request: the record names the page. -/
def pageTrap (r : PageReq) (code aux : Nat) : Trap := trap4 code aux (r.page * 4096)

/-- The request of a port that is under way: a page request, or a translation request. -/
def findReq (s : State) (port req : Nat) (asked : Bool) : Option PageReq :=
  s.pageReqs.find? fun r => r.id == req && r.port == port && r.asked == asked && !r.queued

/-- An entry of a port's cache, which holds 16,384 (R102); a full one drops the port's oldest entry: the manual does not say which (DESIGN
CHOICE, log entry 111). -/
def fillAtc (s : State) (e : AtcEnt) : State :=
  let others := s.atc.filter fun x => !(x.port == e.port && x.pasid == e.pasid && x.page == e.page)
  let mine := others.filter fun x => x.port == e.port
  let kept := if mine.length < 16384 then others else (match mine.getLast? with
    | some o => others.erase o
    | none => others)
  { s with atc := e :: kept }

/-- Level of the leaf that a thread's page lies under (R381, AUX of CLASS 4 CODE 1). -/
def leafLevel (s : State) (t : Thread) (page : Nat) : Nat :=
  match walk s (dieOf t.core) t.job (page * 4096) with
  | .ok (_, l) => l
  | .error _ => 0

/-- The prefetches that waited for a translation set out (R275). -/
def sendPrefs (r : PageReq) (bus : Nat) : State → List (Nat × Nat × Nat) → State
  | s, [] => s
  | s, (core, job, off) :: q => sendPrefs r bus (sendPref s core job (hostBase r.port + bus * 4096 + off) none) q

/-- Shadow writes that waited for a translation are made. -/
def sendShadows : State → List Nat → State
  | s, [] => s
  | s, h :: r => sendShadows (shadowOut s h) r

/-- ATS_TRANSLATION_COMPLETION: a translation reply arrives (status 0; 1 UR, 2 CA): the accesses proceed with it, or a page request is
sent, or waits for one of 512 to end; a second miss fails, as does a page that is present without the right to write (R378, R381). Prefetches proceed too, and are dropped
where they alone would need a page request (R275). -/
def execAtsTranslationCompletion (port req status : Nat) (present w : Bool) (bus : Nat) (s : State) : Host.Outcome State Fault Refusal :=
  issued (match findReq s port req false with
    | none => s
    | some r =>
      if status ≠ 0 then failPage s r (fun _ => pageTrap r 7 3) 7 status
      else if present && (w || !r.write) then
        sendShadows (sendPrefs r bus (wakePage (fillAtc (endPage s r) ⟨port, r.pasid, r.page, bus, w⟩) req) r.pref) r.cells
      else if !r.real then wakePage (endPage s r) req
      else if r.retried && present then failPage s r (fun _ => pageTrap r 2 1) 2 1
      else if r.retried then failPage s r (fun t => pageTrap r 1 (4 + leafLevel s t r.page)) 1 1
      else if askedPages s port < 512 then sendPageRequest s r
      else { s with pageReqs := s.pageReqs.map fun q => if q.id == req then { q with queued := true, pref := [] } else q })

/-- PAGE_REQUEST_RESPONSE: 0 Success: a fresh translation request is sent; 1 Invalid Request; any other: Response Failure. One that comes after
TIMEOUT is discarded (R381). -/
def execPageRequestResponse (port req result : Nat) (s : State) : Host.Outcome State Fault Refusal :=
  issued (match findReq s port req true with
    | none => s
    | some r =>
      if r.deadline < ftime s (portDie port) then s
      else if result = 0 then
        nextPage { s with
          pageReqs := s.pageReqs.map fun q => if q.id == req then { q with asked := false, retried := true } else q
          hostOut := .atsRequest port r.pasid r.page r.write :: s.hostOut } port
      else failPage s r (fun _ => pageTrap r 7 (if result = 1 then 1 else 0)) 7 1)

/-- PAGE_REQUEST_TIMEOUT: no response within PORT_PRI_CTL.TIMEOUT (R381). -/
def execPageRequestTimeout (port req : Nat) (s : State) : Host.Outcome State Fault Refusal :=
  issued (match findReq s port req true with
    | none => s
    | some r => if r.deadline ≤ ftime s (portDie port) then failPage s r (fun _ => pageTrap r 7 2) 7 0 else s)

/-- Each of these pages has a page request outstanding, and a port's cache holds no entry of one: none is held that accesses may have used
(R381). -/
def allAsked (s : State) (port pasid page pages : Nat) : Bool :=
  !s.atc.any (fun e => e.port == port && e.pasid == pasid && page ≤ e.page && e.page < page + pages) &&
    pages ≤ (dedup ((s.pageReqs.filter fun q =>
      q.port == port && q.pasid == pasid && q.asked && page ≤ q.page && q.page < page + pages).map (·.page))).length

/-- ATS_INVALIDATION_REQUEST: the port stops using its entries of these pages (R102); the completion then waits for the accesses that were made
before, and for none where page requests are outstanding for the pages (R381). -/
def execAtsInvalidationRequest (port pasid va pages : Nat) (s : State) : Host.Outcome State Fault Refusal :=
  issued (if 2 ≤ port || has s.portDown port then s else
    { s with
      atc := s.atc.filter fun e => !(e.port == port && e.pasid == pasid && va / 4096 ≤ e.page && e.page < va / 4096 + pages)
      atsInvs := s.atsInvs ++ [⟨s.fresh, port, if allAsked s port pasid (va / 4096) pages then 0 else s.fresh⟩]
      fresh := s.fresh + 1 })

/-- An access that used a translation of the port before a number has not been performed (R102). -/
def hostAccessBefore (s : State) (port before : Nat) : Bool :=
  let mine : Nat → Bool := fun k => hostPort k == some port
  s.fifo.any (fun e => e.seq < before && (match e.op with
    | .glob pa _ => mine pa
    | .row pa _ _ => mine pa
    | .red _ pa _ => mine pa
    | .redDet pa _ _ _ _ _ _ => mine pa
    | _ => false)) ||
    s.wc.any (fun w => w.seq < before && mine w.pa) ||
    s.packets.any fun p => p.seq < before && p.body.runs.any fun q => mine q.1

/-- INVALIDATION_COMPLETION: reads made with the old entry have completed and writes have been sent (R102). -/
def execInvalidationCompletion (port n : Nat) (s : State) : Host.Outcome State Fault Refusal :=
  issued (match s.atsInvs.find? fun a => a.port == port && a.id == n with
    | some a =>
      if hostAccessBefore s port a.before then s
      else { s with atsInvs := s.atsInvs.erase a, hostOut := .invalCompletion port n :: s.hostOut }
    | none => s)

/-! ## Failures of the host's side (R413) -/

/-- A read of host memory fails: its threads trap at the load, and an engine operation meets the failure when it looks again (R381, R389,
R413). -/
def failRead (s : State) (p : Packet) (aux : Nat) : State :=
  match p.body with
  | .read _ _ rid _ _ =>
    let s1 := dropPacket s p.id
    if p.eng.isSome then failLine s1 rid 7
    else (match s1.results.find? fun r => r.id == rid with
      | none => s1
      | some r => failLoad s1 r (trap4 7 aux 0))
  | _ => s

/-- HOST_COMPLETION_TIMEOUT: a request to host memory ends in a time-out (0), UR (1) or CA (2). The request is the packet of a load;
2^64 + INDEX is the shadow write of a host-window cell; 2^65 is the read of the image (R363, R381, R413). -/
def execHostCompletionTimeout (port req kind : Nat) (s : State) : Host.Outcome State Fault Refusal :=
  issued (
    let aux := if kind = 0 then 2 else 3
    if 2 ≤ port || 2 < kind then s
    else if req = 2 ^ 65 then (if s.imgPort = some port then hostFail (setImgStat s 3 (if imgFieldsBad s then 1 else 2) 0) port kind else s)
    else if 2 ^ 64 ≤ req then
      if req < 2 ^ 64 + 4096 then
        stopShadow s port kind (5 * 2 ^ 61 + moduleId s * 2 ^ 48 + portDie port * 2 ^ 44 + (req - 2 ^ 64))
      else s
    else match s.packets.find? fun p => p.id == req && p.body.runs.any (fun q => hostPort q.1 == some port) && !p.body.isStore with
      | some p => hostFail (failRead s p aux) port kind
      | none => s)

/-- Every request of a port that is under way fails. -/
def failAllReads (port : Nat) : State → List Packet → State
  | s, [] => s
  | s, p :: r =>
    failAllReads port (if p.body.isStore || !p.body.runs.any (fun q => hostPort q.1 == some port) then s else hostFail (failRead s p 3) port 0) r

/-- Every translation that a port has asked for fails. -/
def failAllPages (port : Nat) : State → List PageReq → State
  | s, [] => s
  | s, r :: q => failAllPages port (if r.port == port then failPage s r (fun _ => pageTrap r 7 3) 7 0 else s) q

/-- HOST_PORT_LINK_DOWN: a port's link goes down; its windows, shadow writes and HOST pages fail from then on (R413). -/
def execHostPortLinkDown (port : Nat) (s : State) : Host.Outcome State Fault Refusal :=
  issued (if 2 ≤ port || has s.portDown port then s
    else
      let s1 := raiseAsync { s with portDown := s.portDown ++ [port], atsInvs := s.atsInvs.filter fun a => a.port ≠ port }
        12 5 supJob (portDie port) 127 0 0 none 0 port
      failAllPages port (failAllReads port s1 s1.packets) s1.pageReqs)

end Sys2Proof.Machine
end

