-- ==== Sys2Proof/Machine/Matrix.lean ====
section
/-! DEFINITION. The matrix instructions (13 R298 to R304), the matrix unit's arithmetic (06 R128, R138, R139) and its faults (19
R390), and the chunk additions of `mst.ctr` (08 R190). -/

namespace Sys2Proof.Machine

/-! ## Formats (R298) -/

/-- A matrix format. -/
structure MFmt where
  /-- tag of the A elements -/
  aTag : Nat
  /-- tag of the B elements -/
  bTag : Nat
  /-- K -/
  k : Nat
  /-- bytes of an A row -/
  aRow : Nat
  /-- bytes of a B k-row -/
  bRow : Nat
  /-- carries scales -/
  scaled : Bool
  /-- carries side records -/
  sides : Bool
  deriving DecidableEq, Repr

/-- The format of FMT. -/
def mfmt (f : Nat) : MFmt :=
  match f with
  | 0 => ⟨4, 4, 32, 64, 64, false, false⟩
  | 1 => ⟨5, 5, 32, 64, 64, false, false⟩
  | 2 => ⟨6, 6, 64, 64, 32, false, false⟩
  | 3 => ⟨7, 7, 64, 64, 32, false, false⟩
  | 4 => ⟨6, 6, 64, 64, 32, true, false⟩
  | 5 => ⟨7, 7, 64, 64, 32, true, false⟩
  | 6 => ⟨9, 9, 64, 64, 32, false, false⟩
  | 7 => ⟨8, 8, 128, 64, 16, true, true⟩
  | _ => ⟨9, 10, 256, 256, 8, false, false⟩

/-- Integer formats: I8, and T2 with I8. -/
def MFmt.isInt (m : MFmt) : Bool := m.aTag == 9

/-- Element k of packed bytes (R124, R299). -/
def elemAt (tag : Nat) (n k : Nat) : Nat := bits n (elemWidth tag * k + elemWidth tag - 1) (elemWidth tag * k)

/-- Decoded elements of packed bytes. -/
def elemsOf (tag count : Nat) (bs : List Byte) : List Nat :=
  let n := leNat bs
  (upFrom 0 count).map (elemAt tag n)

/-- A value times Scale(e) (R128, R141). -/
def scaleVal (e : Nat) (v : FVal) : FVal :=
  if e = 255 then .nan
  else match v with
    | .fin a m x => .fin a m (x + ((e : Int) - 127))
    | o => o

/-- Values of the elements of a block from position p on, with its scale and the entries of its side record from entry j on; or 0
for a block with too many escapes, 1 for an entry of another position (R128, R390). -/
def blockVals (f : FFmt) (sides : Bool) (scale : Nat) : Nat → Nat → List Nat → List Nat → Except Nat (List FVal)
  | _, _, _, [] => .ok []
  | p, j, ent, c :: r =>
    if sides && c == 8 then
      (match ent with
      | [] => .error 0
      | e :: q =>
        if bits e 20 16 ≠ p then .error 1
        else (blockVals f sides scale (p + 1) (j + 1) q r).map fun vs => fdecode fmtBF16 (e % 65536) :: vs)
    else (blockVals f sides scale (p + 1) j ent r).map fun vs => scaleVal scale (fdecode f c) :: vs

/-- Entry words of a side record. -/
def sideEntries (bs : List Byte) : List Nat := (upFrom 0 4).map fun j => leNat ((bs.drop (4 * j)).take 4)

/-- Values of a row or column of codes, block by block, with the scales and side records; or the block that failed and why. -/
def streamVals (f : FFmt) (m : MFmt) (scales : List Nat) (sides : List (List Byte)) : Nat → List Nat → Nat → Except (Nat × Nat) (List FVal)
  | 0, _, _ => .ok []
  | n + 1, codes, b =>
    match blockVals f m.sides (if m.scaled then nthD 0 scales b else 127) 0 0 (sideEntries (nthD [] sides b)) (codes.take 32) with
    | .error w => .error (w, b)
    | .ok vs => (streamVals f m scales sides n (codes.drop 32) (b + 1)).map fun r => vs ++ r

/-- The exact sum of products and an accumulator, with NV for the special cases of R138. -/
def dot (acc : FVal) : List FVal → List FVal → FVal × Flags
  | a :: r, b :: q =>
    let (p, f0) := fmul a b
    let (s, f1) := fadd acc p
    let (v, f2) := dot s r q
    (v, f0 ||| f1 ||| f2)
  | _, _ => (acc, 0#16)

/-- An element of a float `mma` (R138). -/
def mmaFloat (acc : Nat) (as bs : List FVal) : Nat × Flags :=
  let (v, f) := dot (fdecode fmtF32 acc) as bs
  let (r, g) := fencode fmtF32 v .rn false false
  (r, f ||| g ||| flagIf (fisNan v) flagNV)

/-- An element of an integer `mma` (R139). -/
def mmaInt (acc : Nat) (as bs : List Int) : Nat :=
  patN 32 ((as.zip bs).foldl (fun n p => n + p.1 * p.2) (signedN 32 acc))

/-- An integer element of an operand. -/
def intElem (tag c : Nat) : Int × Flags := if tag = 10 then decodeT2 c else (signedN 8 c, 0#16)

/-! ## Issue (R299 to R301, R369) -/

/-- The descriptor q of a flock. -/
def mmaDesc (f : Flock) (q : Nat) (o : MmaOp) : MmaOp :=
  let w : Nat → Nat := fun k => (getS f (8 * q + k)).toNat
  { o with
    baddr := w 0 + 2 ^ 32 * w 1, ldb := w 2, asoff := signedN 32 (w 3), aside := signedN 32 (w 4), bsoff := signedN 32 (w 5)
    bside := signedN 32 (w 6) }

/-- Address of the scale bytes or side records at an offset. -/
def atOff (a : Nat) (off : Int) : Nat := patN 64 ((a : Int) + off)

/-- Extents that an `mma` reads for a thread: its A row with scales and side records, then B with them. -/
def mmaExtents (o : MmaOp) (a : Nat) : List (Nat × Nat) :=
  let m := mfmt o.fmt
  let nb := m.k / 32
  let sc : Nat → Nat → List (Nat × Nat) := fun p n => if m.scaled then [(p, n)] else []
  let sd : Nat → Nat → List (Nat × Nat) := fun p n => if m.sides then [(p, n)] else []
  (a, m.aRow) :: (sc (atOff a o.asoff) nb ++ sd (atOff a o.aside) (16 * nb)) ++
    (o.baddr, (m.k - 1) * o.ldb + m.bRow) :: (sc (atOff o.baddr o.bsoff) (32 * nb) ++ sd (atOff o.baddr o.bside) (512 * nb))

/-- The checks of an `mma` at issue (R300, R369): each active thread's operands against its own SG.G (R94, R366). -/
def mmaTrap (s : State) (o : MmaOp) : Option Trap :=
  let m := mfmt o.fmt
  if o.ldb % m.bRow ≠ 0 then some { cls := 1, code := 4, aux := 2 }
  else
    (o.rows.findSome? fun r => (mmaExtents o r.2.2).findSome? fun p => extentTrap s (threadOf s r.2.1) false p.1 p.2) <|>
      (o.rows.findSome? fun r => if r.2.2 % 64 ≠ 0 then some (trap4 5 64 r.2.2) else none) <|>
      (if o.baddr % m.bRow ≠ 0 then some (trap4 5 m.bRow o.baddr) else none)

/-- Operations that a core's matrix unit holds. -/
def mmaFull (s : State) (i : Issue) : Bool := 4 ≤ (s.mmas.filter fun o => o.core == i.core).length

/-- MMA: hands a matrix operation to the matrix unit; the tile is a result in flight (R300, R301). -/
def execMma (h : Hdr) (d a : BitVec 7) (q : BitVec 3) (f : BitVec 4) (s : State) : Host.Outcome State Fault Refusal :=
  let w := memF h 44#7 d a (q ++ f)
  let rsv := 8 ≤ d.toNat || 9 ≤ f.toNat
  issued (ifRoom w .matrix (fun s i => !rsv && mmaFull s i) (oncePerGroup { f := w, rsv := rsv }
    (fun _ =>
      { vr := [(a.toNat, 2)], sr := upFrom (8 * q.toNat) 8, ti := [d.toNat], tw := true
        tileTags := [(d.toNat, [if f = 6#4 ∨ f = 8#4 then 1 else 3])], tags := tagsOf 1 a.toNat 2 (some tagsInt)
        limits := [(a.toNat % 2 == 1, 1)] })
    (fun s i _ =>
      let o := mmaDesc (flockOf s i.core i.flock) q.toNat
        { id := s.fresh, core := i.core, flock := i.flock, tile := d.toNat, fmt := f.toNat
          rows := i.act.map fun u => ((threadOf s u).lane, u, vPair (threadOf s u) a.toNat % 2 ^ 57)
          baddr := 0, ldb := 0, asoff := 0, aside := 0, bsoff := 0, bside := 0, job := i.job, pc := i.pc }
      match mmaTrap s o with
      | some x => (s, .trap x)
      | none => (addResult { s with mmas := s.mmas ++ [o] } { Result.empty with uids := i.act, ready := false, pc := i.pc }, .eff {}))) s)

/-! ## Completion (R301, R390) -/

/-- How an operand stream fails: class-6 code, AUX, INFO and address. -/
structure MmaFail where
  /-- CODE -/
  code : Nat
  /-- AUX -/
  aux : Nat
  /-- INFO -/
  info : Nat
  /-- ADDR -/
  addr : Nat
  deriving DecidableEq, Repr

/-- What a fetch of the tile fetch unit comes to. -/
inductive Fetch (α : Type) where
  /-- done -/
  | ok (a : α)
  /-- failed -/
  | fail (f : MmaFail)
  /-- waits for the host -/
  | wait

/-- Read a run for each of a list of rows or columns; `bad` makes the failure from the row, the address and the code. -/
def fetchEach (die job op n : Nat) (bad : Nat → Nat → Nat → MmaFail) : State → List (Nat × Nat) → List (List Byte) → State × Fetch (List (List Byte))
  | s, [], acc => (s, .ok acc)
  | s, (r, a) :: q, acc =>
    match engRead s die job op a n with
    | (s1, .ok bs) => fetchEach die job op n bad s1 q (acc ++ [bs])
    | (s1, .fail va c) => (s1, .fail (bad r va c))
    | (s1, .wait) => (s1, .wait)

/-- Then, over fetches. -/
def Fetch.andThen {α β : Type} (x : State × Fetch α) (f : State → α → State × Fetch β) : State × Fetch β :=
  match x with
  | (s, .ok a) => f s a
  | (s, .fail e) => (s, .fail e)
  | (s, .wait) => (s, .wait)

/-- The bytes that an `mma` reads: A rows, B k-rows, A scales, B scales, A side records, B side records. -/
structure MmaIn where
  /-- A rows, in the order of the active lanes -/
  a : List (List Byte)
  /-- B k-rows -/
  b : List (List Byte)
  /-- scales of the A rows -/
  as : List (List Byte)
  /-- scales of B, 32 to a block -/
  bs : List (List Byte)
  /-- side records of the A rows -/
  ad : List (List Byte)
  /-- side records of B, 32 to a block -/
  bd : List (List Byte)
  deriving DecidableEq, Repr

/-- Failed read of an A row (R389, R390). -/
def failA (tile lane va c : Nat) : MmaFail := ⟨1, c + 3 * 16, tile % 8 + lane * 256, va⟩
/-- Failed read of B; the column is that of the first byte of the failing piece. -/
def failB (m : MFmt) (o : MmaOp) (k va c : Nat) : MmaFail :=
  ⟨1, c + 3 * 16, o.tile % 8 + (va - (o.baddr + k * o.ldb)) * 8 / elemWidth m.bTag % 32 * 256 + 2 ^ 16, va⟩

/-- Fetch everything (R300). -/
def mmaFetch (s : State) (o : MmaOp) : State × Fetch MmaIn :=
  let m := mfmt o.fmt
  let nb := m.k / 32
  let die := dieOf o.core
  let get : State → Nat → (Nat → Nat → Nat → MmaFail) → List (Nat × Nat) → State × Fetch (List (List Byte)) :=
    fun s n bad l => fetchEach die o.job o.id n bad s l []
  Fetch.andThen (get s m.aRow (failA o.tile) (o.rows.map fun r => (r.1, r.2.2))) fun s1 a =>
  Fetch.andThen (get s1 m.bRow (failB m o) ((upFrom 0 m.k).map fun k => (k, o.baddr + k * o.ldb))) fun s2 b =>
  Fetch.andThen (get s2 nb (fun r va _ => ⟨2, (va - atOff ((o.rows.find? (·.1 == r)).getD (0, 0, 0)).2.2 o.asoff) % 256 * 256, r, va⟩)
    (if m.scaled then o.rows.map fun r => (r.1, atOff r.2.2 o.asoff) else [])) fun s3 as =>
  Fetch.andThen (get s3 32 (fun b va _ => ⟨2, 1 + b * 256, (va - (atOff o.baddr o.bsoff + 32 * b)) % 32, va⟩)
    (if m.scaled then (upFrom 0 nb).map fun b => (b, atOff o.baddr o.bsoff + 32 * b) else [])) fun s4 bs =>
  Fetch.andThen (get s4 (16 * nb) (fun r va _ => ⟨3, 2 + (va - atOff ((o.rows.find? (·.1 == r)).getD (0, 0, 0)).2.2 o.aside) / 16 % 256 * 256, r, va⟩)
    (if m.sides then o.rows.map fun r => (r.1, atOff r.2.2 o.aside) else [])) fun s5 ad =>
  Fetch.andThen (get s5 512 (fun b va _ => ⟨3, 2 + 4 + b * 256, (va - (atOff o.baddr o.bside + 512 * b)) / 16 % 32, va⟩)
    (if m.sides then (upFrom 0 nb).map fun b => (b, atOff o.baddr o.bside + 512 * b) else [])) fun s6 bd =>
  (s6, .ok ⟨a, b, as, bs, ad, bd⟩)

/-- Side records of 16 bytes each. -/
def records16 (bs : List Byte) (n : Nat) : List (List Byte) := (upFrom 0 n).map fun b => (bs.drop (16 * b)).take 16

/-- Column n of B: its elements along K. -/
def colCodes (m : MFmt) (rows : List Nat) (n : Nat) : List Nat := rows.map fun r => elemAt m.bTag r n

/-- Values of an operand's rows or columns, or the first failing block: AUX of R390 with the operand in its place, and the address of the block's
side record, which `at_` gives for a row or column and a block (R378). -/
def operandVals (m : MFmt) (tag which : Nat) (at_ : Nat → Nat → Nat) : List (Nat × List Nat × List Nat × List (List Byte)) → Except MmaFail (List (List FVal))
  | [] => .ok []
  | (r, codes, scales, sides) :: q =>
    match streamVals ((fmtOfTag tag).getD fmtF32) m scales sides (m.k / 32) codes 0 with
    | .error (w, b) => .error ⟨3, w + 4 * which + b * 256, r, at_ r b⟩
    | .ok vs => (operandVals m tag which at_ q).map fun rest => vs :: rest

/-- New elements of the active rows with the STATUS bits of all of them: (lane, elements). -/
def mmaRows (s : State) (o : MmaOp) (x : MmaIn) : Except MmaFail (List (Nat × List Nat) × Flags) :=
  let m := mfmt o.fmt
  let nb := m.k / 32
  let tile := tileOf (flockOf s o.core o.flock) o.tile
  let bn := x.b.map leNat
  let acc : Nat → Nat → Nat := fun r n => (tileElem tile r n).toNat
  let lanes := o.rows.map (·.1)
  if m.isInt then
    let as := x.a.map fun r => (elemsOf m.aTag m.k r).map fun c => (intElem m.aTag c).1
    let cols := (upFrom 0 32).map fun n => (colCodes m bn n).map (intElem m.bTag)
    let fl := cols.foldl (fun f c => c.foldl (fun g e => g ||| e.2) f) 0#16
    .ok ((lanes.zip as).map fun p => (p.1, ((upFrom 0 32).zip cols).map fun c => mmaInt (acc p.1 c.1) p.2 (c.2.map (·.1))), fl)
  else
    match operandVals m m.aTag 0 (fun r b => atOff ((o.rows.find? (·.1 == r)).getD (0, 0, 0)).2.2 o.aside + 16 * b) ((upFrom 0 lanes.length).map fun j =>
        (nthD 0 lanes j, elemsOf m.aTag m.k (nthD [] x.a j), (nthD [] x.as j).map (·.toNat), records16 (nthD [] x.ad j) nb)) with
    | .error e => .error e
    | .ok as =>
      match operandVals m m.bTag 1 (fun n b => atOff o.baddr o.bside + 512 * b + 16 * n) ((upFrom 0 32).map fun n =>
          (n, colCodes m bn n, x.bs.map fun l => (nthD 0#8 l n).toNat, x.bd.map fun l => (l.drop (16 * n)).take 16)) with
      | .error e => .error e
      | .ok bs =>
        let out := (lanes.zip as).map fun p => (p.1, ((upFrom 0 32).zip bs).map fun c => mmaFloat (acc p.1 c.1) p.2 c.2)
        .ok (out.map fun r => (r.1, r.2.map (·.1)), out.foldl (fun f r => r.2.foldl (fun g e => g ||| e.2) f) 0#16)

/-- Write rows of a tile, with a new tag or the old one (R304). -/
def putTileRows (s : State) (o : MmaOp) (rows : List (Nat × List Nat)) (tag : Option (BitVec 4)) : State :=
  cure (modTile s o.core o.flock o.tile fun t =>
    { (match tag with
      | some g => t.retag o.id g
      | none => t) with
      elems := mapSetAll 0#32 t.elems (rows.flatMap fun r => (atKeys (32 * r.1) r.2).map fun e => (e.1, BitVec.ofNat 32 e.2)) })
    fun p => rows.any fun r => inRow o.core o.flock o.tile (32 * r.1) 32 p

/-- The result of an `mma` is written: the tile's rows stand, STATUS follows, and the room is free. -/
def mmaDone (s : State) (o : MmaOp) (fl : Flags) : State :=
  let s1 := engEnded { s with mmas := s.mmas.filter fun q => q.id ≠ o.id } o.id
  let s2 := applySt s1 (if fl = 0#16 then [] else o.rows.map fun r => (r.2.1, fl))
  let uids := o.rows.map (·.2.1)
  wakeRoom (settle { s2 with results := s2.results.filter fun r => r.id ≠ o.id } uids) (fun t => t.core == o.core) .matrix

/-- MMA_COMPLETE: the oldest operation of a core's matrix unit finishes and its rows are written (R300, R301), or marked where an
operand stream failed (R390). The halt wave holds the tile fetch (R203). -/
def execMmaComplete (core : Nat) (s : State) : Host.Outcome State Fault Refusal :=
  issued (match s.mmas.find? fun o => o.core == core with
    | none => s
    | some o =>
      if o.rows.all (fun r => coreHeld s core o.job r.2.1 o.id) || o.rows.any (fun r => engineWaits s core r.2.1 o.id) then s
      else
        let lead := o.rows.headD (0, 0, 0)
        let failed : State → MmaFail → State := fun s f =>
          let mark := if (mfmt o.fmt).isInt then 0x80000000 else 0x7FC00000
          let s1 := mmaDone (putTileRows s o (o.rows.map fun r => (r.1, List.replicate 32 mark)) (some 0#4)) o 0#16
          raiseAsync s1 6 f.code o.job (dieOf core) (core % 128) o.pc.toNat f.addr none f.aux f.info
        if entryBad s o.id then failed s (failA o.tile lead.1 lead.2.2 8)
        else match mmaFetch s o with
        | (s1, .wait) => s1
        | (s1, .fail f) => failed s1 f
        | (s1, .ok x) =>
          match mmaRows s1 o x with
          | .error f => failed s1 f
          | .ok (rows, fl) => mmaDone (putTileRows s1 o rows none) o fl)

/-! ## `mld`, `mst`, `mzero` (R302 to R304) -/

/-- Places of a row's 128 bytes, split at the line boundary. -/
def rowPieces (s : State) (t : Thread) (a : Nat) (write : Bool) : State × Except Out (List (Nat × Nat × Option Nat)) :=
  match globalPre t a 128 16 false with
  | some f => (s, .error (.trap f))
  | none =>
    let n := 128 - a % 128
    match globalAt s t a 1 1 write with
    | (s1, .out o) => (s1, .error o)
    | (s1, .at k g) =>
      if n = 128 then (s1, .ok [(k, 128, g)])
      else match globalAt s1 t (a + n) 1 1 write with
        | (s2, .out o) => (s2, .error o)
        | (s2, .at k2 g2) => (s2, .ok [(k, n, g), (k2, 128 - n, g2)])

/-- Places of the rows of all active threads, before any of them is accessed. -/
def allPieces (a : Nat) (off : Int) (write : Bool) : State → List Nat → List (Nat × List (Nat × Nat × Option Nat)) →
    State × Except Out (List (Nat × List (Nat × Nat × Option Nat)))
  | s, [], acc => (s, .ok acc)
  | s, u :: r, acc =>
    let t := threadOf s u
    match rowPieces s t (gAddr t a off) write with
    | (s1, .error o) => (s1, .error o)
    | (s1, .ok ps) => allPieces a off write s1 r (acc ++ [(u, ps)])

/-- Load the pieces of a row at an address into a tile whose tag the issue has written with number `n`, over that of `old`. -/
def loadPieces (i : Issue) (u d va n : Nat) (old : Tile) : State → List (Nat × Nat × Option Nat) → Nat → State
  | s, [], _ => s
  | s, (k, m, g) :: r, col =>
    let t := threadOf s u
    loadPieces i u d va n old (issueLoad s t i.pc (va + 4 * col) k m g (.row i.core i.flock d t.lane col n (old.tag, old.stamp))) r (col + m / 4)

/-- Load the rows of all active threads; each counts as outstanding for all of them. -/
def loadRows (i : Issue) (d a : Nat) (off : Int) (n : Nat) (old : Tile) : State → List (Nat × List (Nat × Nat × Option Nat)) → State
  | s, [] => s
  | s, (u, ps) :: r =>
    let s1 := loadPieces i u d (gAddr (threadOf s u) a off) n old s ps 0
    loadRows i d a off n old { s1 with results := s1.results.map fun q => if s.fresh ≤ q.id then { q with uids := u :: i.act.filter (· ≠ u) } else q } r

/-- `mld` (R302). The tile's tag is written as it issues, so that tags are written in issue order (R304). -/
def mldGroup (d a : BitVec 7) (tag : BitVec 4) (off : Int) (s : State) (i : Issue) (_ : Thread) : State × Out :=
  match allPieces a.toNat off false s i.act [] with
  | (s1, .error o) => (s1, o)
  | (s1, .ok l) =>
    let s2 := eccRead s1 fun p => l.any fun q => q.2.any fun r => nearL1 i.core r.1 r.2.1 p
    match l.find? fun q => q.2.any fun r => l1Bad s2 i.core q.1 r.1 r.2.1 r.2.2 || gleanBad s2 i.die r.1 r.2.1 r.2.2 (some q.1) with
    | some q => (s2, .trap { cls := 7, code := Config.class7Code.toNat, aux := 0, addr := gAddr (threadOf s2 q.1) a.toNat off })
    | none =>
      (loadRows i d.toNat a.toNat off s2.fresh (tileOf (flockOf s2 i.core i.flock) d.toNat)
        (modTile s2 i.core i.flock d.toNat fun k => k.retag s2.fresh tag) l, .eff {})

/-- What `mld` and `mst` name. -/
def rowNames (d a : Nat) (st : Bool) (b : Option Nat) (_ : Thread) : Names :=
  { vr := (a, 2) :: (match b with | some r => [(r, 2)] | none => []), ti := [d], tw := !st
    tags := tagsOf 1 a 2 (some tagsInt) ++ (match b with | some r => tagsOf 2 r 2 (some tagsInt) | none => [])
    limits := [(a % 2 == 1, 1)] }

/-- MLD: loads the rows of the active lanes (R302). -/
def execMld (h : Hdr) (d a : BitVec 7) (t : BitVec 4) (s : State) : Host.Outcome State Fault Refusal :=
  issued (oncePerGroup { f := memF h 46#7 d a (t.setWidth 7), rsv := 8 ≤ d.toNat || 12 ≤ t.toNat } (rowNames d.toNat a.toNat false none)
    (mldGroup d a t 0) s)

/-- MLD with an offset (R302). -/
def execMldLit (h : Hdr) (d a : BitVec 7) (t : BitVec 4) (lit : Word) (s : State) : Host.Outcome State Fault Refusal :=
  issued (oncePerGroup { f := memF h 47#7 d a (t.setWidth 7), rsv := 8 ≤ d.toNat || 12 ≤ t.toNat } (rowNames d.toNat a.toNat false none)
    (mldGroup d a t (offOf lit)) s)

/-- The bytes of a tile's row. -/
def rowBytes (t : Tile) (r : Nat) : List Byte := (upFrom 0 32).flatMap fun c => natLe 4 (tileElem t r c).toNat

/-- Enter the pieces of a row in a thread's store FIFO. -/
def storePieces (t : Thread) (chunk : Option Nat) : State → List (Nat × Nat × Option Nat) → List Byte → State
  | s, [], _ => s
  | s, (k, n, _) :: r, bs => storePieces t chunk (pushStore s t (.row k (bs.take n) chunk)) r (bs.drop n)

/-- Enter the rows of all active threads. -/
def storeRows (i : Issue) (tile : Tile) (chunk : Option Nat) : State → List (Nat × List (Nat × Nat × Option Nat)) → State
  | s, [] => s
  | s, (u, ps) :: r =>
    let t := threadOf s u
    storeRows i tile chunk (storePieces t chunk s ps (rowBytes tile t.lane)) r

/-- `mst` and `mst.ctr` (R303). -/
def mstGroup (d a b : BitVec 7) (off : Int) (s : State) (i : Issue) (t : Thread) : State × Out :=
  let h := vPair t b.toNat
  match if b = 1#7 then none else handleTrap s t h with
  | some f => (s, .trap f)
  | none =>
    match allPieces a.toNat off true s i.act [] with
    | (s1, .error o) => (s1, o)
    | (s1, .ok l) =>
      let tile := tileOf (flockOf s1 i.core i.flock) d.toNat
      if b = 1#7 then (storeRows i tile none s1 l, .eff {})
      else
        let c : ChunkAdd := ⟨s1.fresh, i.core, i.act, BitVec.ofNat 64 h, i.job, i.pc, s1.cycle + 1⟩
        (storeRows i tile (some c.id) { s1 with chunks := s1.chunks ++ [c], fresh := s1.fresh + 1 } l, .eff {})

/-- The B field of `mst` is reserved when it is odd and not 1 (R298, R368). -/
def mstRsv (d b : BitVec 7) : Bool := 8 ≤ d.toNat || (b.toNat % 2 == 1 && b ≠ 1#7)

/-- The chunk handle's pair. -/
def mstPair (b : BitVec 7) : Option Nat := if b = 1#7 then none else some b.toNat

/-- MST: stores the rows of the active lanes, and counts them at a chunk counter (R303). -/
def execMst (h : Hdr) (d a b : BitVec 7) (s : State) : Host.Outcome State Fault Refusal :=
  issued (oncePerGroup { f := memF h 48#7 d a b, rsv := mstRsv d b } (rowNames d.toNat a.toNat true (mstPair b)) (mstGroup d a b 0) s)

/-- MST with an offset (R303). -/
def execMstLit (h : Hdr) (d a b : BitVec 7) (lit : Word) (s : State) : Host.Outcome State Fault Refusal :=
  issued (oncePerGroup { f := memF h 49#7 d a b, rsv := mstRsv d b } (rowNames d.toNat a.toNat true (mstPair b)) (mstGroup d a b (offOf lit)) s)

/-- MZERO: sets the rows of the active lanes to 0, and the tile's tag (R304). -/
def execMzero (h : Hdr) (d : BitVec 7) (t : BitVec 4) (s : State) : Host.Outcome State Fault Refusal :=
  issued (oncePerGroup { f := memF h 50#7 d 0#7 (t.setWidth 7), rsv := 8 ≤ d.toNat || (t ≠ 1#4 && t ≠ 3#4) }
    (fun _ => { ti := [d.toNat], tw := true })
    (fun s i _ =>
      let rows := i.act.map fun u => (threadOf s u).lane
      (cure (modTile s i.core i.flock d.toNat fun k =>
        { k.retag s.fresh t with elems := mapSetAll 0#32 k.elems (rows.flatMap fun r => (upFrom (32 * r) 32).map fun e => (e, 0#32)) })
        fun p => rows.any fun r => inRow i.core i.flock d.toNat (32 * r) 32 p, .eff {})) s)

/-- The rows of a chunk that have not been applied at their homes. -/
def chunkPending (s : State) (id : Nat) : Bool :=
  (s.fifo.any fun e => match e.op with
    | .row _ _ c => c == some id
    | _ => false) ||
  s.packets.any fun p => match p.body with
    | .write _ c => c == some id
    | _ => false

/-- Scope that goes with a handle's level alone (R303). -/
def levelScope (h : Nat) : Nat :=
  match hLevel h with
  | 0 => 1
  | 1 => 2
  | 2 => 3
  | 3 => 4
  | 4 => 5
  | _ => 6

/-- The releases of some threads of an `mst.ctr` fail: it makes no addition, and every active thread is trapped at it, since it acts once for its
group (R366, R399). -/
def failChunk (s : State) (c : ChunkAdd) (sc : Nat) (u : Nat) : State :=
  let l := (threadOf s u).failed
  let f : Trap := { cls := 8, code := 4, aux := failedAux l, addr := failedDies s l }
  let s1 := modThreads s c.uids fun t => if (failedWithin s t sc).isEmpty then t else { t with failed := [] }
  c.uids.foldl (fun s v => trapLate s v c.pc c.at_ f) { s1 with chunks := s1.chunks.filter fun q => q.id ≠ c.id }

/-- MST_CHUNK_ADD: every row of an `mst.ctr` has been applied and its threads' releases are complete; 1 is added to the chunk counter
(R303, R190); where a release of the threads fails they are trapped (R399). It is held while its job is halted (R203). -/
def execMstChunkAdd (id : Nat) (s : State) : Host.Outcome State Fault Refusal :=
  issued (match s.chunks.find? fun c => c.id == id with
    | none => s
    | some c =>
      let h := c.handle.toNat
      let sc := effScope s c.core (levelScope h) h
      if c.uids.all (fun u => coreHeld s c.core c.job u id) || chunkPending s id || !c.uids.all (fun u => quiet s c.core u id sc) then s
      else match c.uids.find? fun u => (findThread s u).any fun t => !(failedWithin s t sc).isEmpty with
      | some u => failChunk s c sc u
      | none => engineAdd { s with chunks := s.chunks.filter fun q => q.id ≠ id } (dieOf c.core) (c.core % 128) c.job c.pc.toNat h 1)

end Sys2Proof.Machine
end

