-- ==== Sys2Proof/Machine/Scalar.lean ====
section
/-! DEFINITION. Meanings of the scalar class (11 R253 to R255). -/

namespace Sys2Proof.Machine

/-- SMOV_B32: Scalar move of a selector operand into an s register. (R253). -/
def execSmovB32 (h : Hdr) (d : BitVec 7) (b : BitVec 7) (lit : Word) (s : State) : Host.Outcome State Fault Refusal :=
  issued (aluScalar aluMovB32 ⟨1#2, h.s, h.g, 1#7, d, 0#7, b⟩ false d 0#7 b lit s)

/-- SADD_I32: Scalar add modulo 2^32, once for the group. (R253). -/
def execSaddI32 (h : Hdr) (d : BitVec 7) (a : BitVec 7) (b : BitVec 7) (lit : Word) (s : State) : Host.Outcome State Fault Refusal :=
  issued (aluScalar aluAddI32 ⟨1#2, h.s, h.g, 3#7, d, a, b⟩ (64 ≤ a.toNat) d a b lit s)

/-- SADD_N32: Scalar unsigned add modulo 2^32. (R253). -/
def execSaddN32 (h : Hdr) (d : BitVec 7) (a : BitVec 7) (b : BitVec 7) (lit : Word) (s : State) : Host.Outcome State Fault Refusal :=
  issued (aluScalar aluAddN32 ⟨1#2, h.s, h.g, 4#7, d, a, b⟩ (64 ≤ a.toNat) d a b lit s)

/-- SSUB_I32: Scalar subtract modulo 2^32. (R253). -/
def execSsubI32 (h : Hdr) (d : BitVec 7) (a : BitVec 7) (b : BitVec 7) (lit : Word) (s : State) : Host.Outcome State Fault Refusal :=
  issued (aluScalar aluSubI32 ⟨1#2, h.s, h.g, 5#7, d, a, b⟩ (64 ≤ a.toNat) d a b lit s)

/-- SSUB_N32: Scalar unsigned subtract modulo 2^32. (R253). -/
def execSsubN32 (h : Hdr) (d : BitVec 7) (a : BitVec 7) (b : BitVec 7) (lit : Word) (s : State) : Host.Outcome State Fault Refusal :=
  issued (aluScalar aluSubN32 ⟨1#2, h.s, h.g, 6#7, d, a, b⟩ (64 ≤ a.toNat) d a b lit s)

/-- SMUL_I32: Scalar multiply modulo 2^32. (R253). -/
def execSmulI32 (h : Hdr) (d : BitVec 7) (a : BitVec 7) (b : BitVec 7) (lit : Word) (s : State) : Host.Outcome State Fault Refusal :=
  issued (aluScalar aluMulI32 ⟨1#2, h.s, h.g, 7#7, d, a, b⟩ (64 ≤ a.toNat) d a b lit s)

/-- SMUL_N32: Scalar unsigned multiply modulo 2^32. (R253). -/
def execSmulN32 (h : Hdr) (d : BitVec 7) (a : BitVec 7) (b : BitVec 7) (lit : Word) (s : State) : Host.Outcome State Fault Refusal :=
  issued (aluScalar aluMulN32 ⟨1#2, h.s, h.g, 8#7, d, a, b⟩ (64 ≤ a.toNat) d a b lit s)

/-- SMULHI_I32: Scalar high half of a signed product. (R253). -/
def execSmulhiI32 (h : Hdr) (d : BitVec 7) (a : BitVec 7) (b : BitVec 7) (lit : Word) (s : State) : Host.Outcome State Fault Refusal :=
  issued (aluScalar aluMulhiI32 ⟨1#2, h.s, h.g, 9#7, d, a, b⟩ (64 ≤ a.toNat) d a b lit s)

/-- SMULHI_N32: Scalar high half of an unsigned product. (R253). -/
def execSmulhiN32 (h : Hdr) (d : BitVec 7) (a : BitVec 7) (b : BitVec 7) (lit : Word) (s : State) : Host.Outcome State Fault Refusal :=
  issued (aluScalar aluMulhiN32 ⟨1#2, h.s, h.g, 10#7, d, a, b⟩ (64 ≤ a.toNat) d a b lit s)

/-- SMIN_I32: Scalar signed minimum. (R253). -/
def execSminI32 (h : Hdr) (d : BitVec 7) (a : BitVec 7) (b : BitVec 7) (lit : Word) (s : State) : Host.Outcome State Fault Refusal :=
  issued (aluScalar aluMinI32 ⟨1#2, h.s, h.g, 11#7, d, a, b⟩ (64 ≤ a.toNat) d a b lit s)

/-- SMIN_N32: Scalar unsigned minimum. (R253). -/
def execSminN32 (h : Hdr) (d : BitVec 7) (a : BitVec 7) (b : BitVec 7) (lit : Word) (s : State) : Host.Outcome State Fault Refusal :=
  issued (aluScalar aluMinN32 ⟨1#2, h.s, h.g, 12#7, d, a, b⟩ (64 ≤ a.toNat) d a b lit s)

/-- SMAX_I32: Scalar signed maximum. (R253). -/
def execSmaxI32 (h : Hdr) (d : BitVec 7) (a : BitVec 7) (b : BitVec 7) (lit : Word) (s : State) : Host.Outcome State Fault Refusal :=
  issued (aluScalar aluMaxI32 ⟨1#2, h.s, h.g, 13#7, d, a, b⟩ (64 ≤ a.toNat) d a b lit s)

/-- SMAX_N32: Scalar unsigned maximum. (R253). -/
def execSmaxN32 (h : Hdr) (d : BitVec 7) (a : BitVec 7) (b : BitVec 7) (lit : Word) (s : State) : Host.Outcome State Fault Refusal :=
  issued (aluScalar aluMaxN32 ⟨1#2, h.s, h.g, 14#7, d, a, b⟩ (64 ≤ a.toNat) d a b lit s)

/-- SAND_B32: Scalar bitwise and. (R253). -/
def execSandB32 (h : Hdr) (d : BitVec 7) (a : BitVec 7) (b : BitVec 7) (lit : Word) (s : State) : Host.Outcome State Fault Refusal :=
  issued (aluScalar aluAndB32 ⟨1#2, h.s, h.g, 15#7, d, a, b⟩ (64 ≤ a.toNat) d a b lit s)

/-- SOR_B32: Scalar bitwise or. (R253). -/
def execSorB32 (h : Hdr) (d : BitVec 7) (a : BitVec 7) (b : BitVec 7) (lit : Word) (s : State) : Host.Outcome State Fault Refusal :=
  issued (aluScalar aluOrB32 ⟨1#2, h.s, h.g, 16#7, d, a, b⟩ (64 ≤ a.toNat) d a b lit s)

/-- SXOR_B32: Scalar bitwise xor. (R253). -/
def execSxorB32 (h : Hdr) (d : BitVec 7) (a : BitVec 7) (b : BitVec 7) (lit : Word) (s : State) : Host.Outcome State Fault Refusal :=
  issued (aluScalar aluXorB32 ⟨1#2, h.s, h.g, 17#7, d, a, b⟩ (64 ≤ a.toNat) d a b lit s)

/-- SNOT_B32: Scalar bitwise complement. (R253). -/
def execSnotB32 (h : Hdr) (d : BitVec 7) (b : BitVec 7) (lit : Word) (s : State) : Host.Outcome State Fault Refusal :=
  issued (aluScalar aluNotB32 ⟨1#2, h.s, h.g, 18#7, d, 0#7, b⟩ false d 0#7 b lit s)

/-- SSHL_B32: Scalar left shift. (R253). -/
def execSshlB32 (h : Hdr) (d : BitVec 7) (a : BitVec 7) (b : BitVec 7) (lit : Word) (s : State) : Host.Outcome State Fault Refusal :=
  issued (aluScalar aluShlB32 ⟨1#2, h.s, h.g, 19#7, d, a, b⟩ (64 ≤ a.toNat) d a b lit s)

/-- SSHR_N32: Scalar logical right shift. (R253). -/
def execSshrN32 (h : Hdr) (d : BitVec 7) (a : BitVec 7) (b : BitVec 7) (lit : Word) (s : State) : Host.Outcome State Fault Refusal :=
  issued (aluScalar aluShrN32 ⟨1#2, h.s, h.g, 20#7, d, a, b⟩ (64 ≤ a.toNat) d a b lit s)

/-- SSHR_I32: Scalar arithmetic right shift. (R253). -/
def execSshrI32 (h : Hdr) (d : BitVec 7) (a : BitVec 7) (b : BitVec 7) (lit : Word) (s : State) : Host.Outcome State Fault Refusal :=
  issued (aluScalar aluShrI32 ⟨1#2, h.s, h.g, 21#7, d, a, b⟩ (64 ≤ a.toNat) d a b lit s)

/-- SPOPC_B32: Scalar population count. (R253). -/
def execSpopcB32 (h : Hdr) (d : BitVec 7) (b : BitVec 7) (lit : Word) (s : State) : Host.Outcome State Fault Refusal :=
  issued (aluScalar aluPopcB32 ⟨1#2, h.s, h.g, 22#7, d, 0#7, b⟩ false d 0#7 b lit s)

/-- SCLZ_B32: Scalar count of leading zeros. (R253). -/
def execSclzB32 (h : Hdr) (d : BitVec 7) (b : BitVec 7) (lit : Word) (s : State) : Host.Outcome State Fault Refusal :=
  issued (aluScalar aluClzB32 ⟨1#2, h.s, h.g, 23#7, d, 0#7, b⟩ false d 0#7 b lit s)

/-- SCMP_I32: Scalar signed compare writing g in every active thread. (R253). -/
def execScmpI32 (h : Hdr) (c : BitVec 7) (a : BitVec 7) (b : BitVec 7) (lit : Word) (s : State) : Host.Outcome State Fault Refusal :=
  issued (cmpScalar cmpOpI32 ⟨1#2, h.s, h.g, 24#7, c, a, b⟩ c a b lit s)

/-- SCMP_N32: Scalar unsigned compare writing g in every active thread. (R253). -/
def execScmpN32 (h : Hdr) (c : BitVec 7) (a : BitVec 7) (b : BitVec 7) (lit : Word) (s : State) : Host.Outcome State Fault Refusal :=
  issued (cmpScalar cmpOpN32 ⟨1#2, h.s, h.g, 25#7, c, a, b⟩ c a b lit s)

/-- SADD_I64: Scalar 64-bit add on s register pairs. (R253). -/
def execSaddI64 (h : Hdr) (d : BitVec 7) (a : BitVec 7) (b : BitVec 7) (lit : Word) (s : State) : Host.Outcome State Fault Refusal :=
  issued (aluScalar aluAddI64 ⟨1#2, h.s, h.g, 26#7, d, a, b⟩ (64 ≤ a.toNat) d a b lit s)

/-- SADD_N64: Scalar unsigned 64-bit add on s register pairs. (R253). -/
def execSaddN64 (h : Hdr) (d : BitVec 7) (a : BitVec 7) (b : BitVec 7) (lit : Word) (s : State) : Host.Outcome State Fault Refusal :=
  issued (aluScalar aluAddN64 ⟨1#2, h.s, h.g, 27#7, d, a, b⟩ (64 ≤ a.toNat) d a b lit s)

/-- SSUB_I64: Scalar 64-bit subtract on s register pairs. (R253). -/
def execSsubI64 (h : Hdr) (d : BitVec 7) (a : BitVec 7) (b : BitVec 7) (lit : Word) (s : State) : Host.Outcome State Fault Refusal :=
  issued (aluScalar aluSubI64 ⟨1#2, h.s, h.g, 28#7, d, a, b⟩ (64 ≤ a.toNat) d a b lit s)

/-- SSUB_N64: Scalar unsigned 64-bit subtract on s register pairs. (R253). -/
def execSsubN64 (h : Hdr) (d : BitVec 7) (a : BitVec 7) (b : BitVec 7) (lit : Word) (s : State) : Host.Outcome State Fault Refusal :=
  issued (aluScalar aluSubN64 ⟨1#2, h.s, h.g, 29#7, d, a, b⟩ (64 ≤ a.toNat) d a b lit s)

/-- SADD_F32: Scalar F32 addition, setting STATUS in active threads. (R253). -/
def execSaddF32 (h : Hdr) (d : BitVec 7) (a : BitVec 7) (b : BitVec 7) (lit : Word) (s : State) : Host.Outcome State Fault Refusal :=
  issued (aluScalar aluAddF32 ⟨1#2, h.s, h.g, 30#7, d, a, b⟩ (64 ≤ a.toNat) d a b lit s)

/-- SSUB_F32: Scalar F32 subtraction. (R253). -/
def execSsubF32 (h : Hdr) (d : BitVec 7) (a : BitVec 7) (b : BitVec 7) (lit : Word) (s : State) : Host.Outcome State Fault Refusal :=
  issued (aluScalar aluSubF32 ⟨1#2, h.s, h.g, 31#7, d, a, b⟩ (64 ≤ a.toNat) d a b lit s)

/-- SMUL_F32: Scalar F32 multiplication. (R253). -/
def execSmulF32 (h : Hdr) (d : BitVec 7) (a : BitVec 7) (b : BitVec 7) (lit : Word) (s : State) : Host.Outcome State Fault Refusal :=
  issued (aluScalar aluMulF32 ⟨1#2, h.s, h.g, 32#7, d, a, b⟩ (64 ≤ a.toNat) d a b lit s)

/-- SFMA_F32: Scalar F32 fused multiply-add. (R253). -/
def execSfmaF32 (h : Hdr) (d : BitVec 7) (a : BitVec 7) (b : BitVec 7) (lit : Word) (s : State) : Host.Outcome State Fault Refusal :=
  issued (aluScalar aluFmaF32 ⟨1#2, h.s, h.g, 33#7, d, a, b⟩ (64 ≤ a.toNat) d a b lit s)

/-- SMIN_F32: Scalar F32 minimum. (R253). -/
def execSminF32 (h : Hdr) (d : BitVec 7) (a : BitVec 7) (b : BitVec 7) (lit : Word) (s : State) : Host.Outcome State Fault Refusal :=
  issued (aluScalar aluMinF32 ⟨1#2, h.s, h.g, 34#7, d, a, b⟩ (64 ≤ a.toNat) d a b lit s)

/-- SMAX_F32: Scalar F32 maximum. (R253). -/
def execSmaxF32 (h : Hdr) (d : BitVec 7) (a : BitVec 7) (b : BitVec 7) (lit : Word) (s : State) : Host.Outcome State Fault Refusal :=
  issued (aluScalar aluMaxF32 ⟨1#2, h.s, h.g, 35#7, d, a, b⟩ (64 ≤ a.toNat) d a b lit s)

/-- SCMP_F32: Scalar F32 compare writing g in every active thread. (R253). -/
def execScmpF32 (h : Hdr) (c : BitVec 7) (a : BitVec 7) (b : BitVec 7) (lit : Word) (s : State) : Host.Outcome State Fault Refusal :=
  issued (cmpScalar cmpOpF32 ⟨1#2, h.s, h.g, 36#7, c, a, b⟩ c a b lit s)

/-- SSFN_F32: Scalar special function selected by the A field. (R253). -/
def execSsfnF32 (h : Hdr) (d : BitVec 7) (f : BitVec 7) (b : BitVec 7) (lit : Word) (s : State) : Host.Outcome State Fault Refusal :=
  issued (aluScalar (aluSfnF32 f) ⟨1#2, h.s, h.g, 37#7, d, f, b⟩ (7 ≤ f.toNat) d 0#7 b lit s)

/-- SADD_BF16X2: Scalar packed BF16 addition. (R253). -/
def execSaddBf16x2 (h : Hdr) (d : BitVec 7) (a : BitVec 7) (b : BitVec 7) (lit : Word) (s : State) : Host.Outcome State Fault Refusal :=
  issued (aluScalar aluAddBf16x2 ⟨1#2, h.s, h.g, 38#7, d, a, b⟩ (64 ≤ a.toNat) d a b lit s)

/-- SMUL_BF16X2: Scalar packed BF16 multiplication. (R253). -/
def execSmulBf16x2 (h : Hdr) (d : BitVec 7) (a : BitVec 7) (b : BitVec 7) (lit : Word) (s : State) : Host.Outcome State Fault Refusal :=
  issued (aluScalar aluMulBf16x2 ⟨1#2, h.s, h.g, 39#7, d, a, b⟩ (64 ≤ a.toNat) d a b lit s)

/-- SFMA_BF16X2: Scalar packed BF16 fused multiply-add. (R253). -/
def execSfmaBf16x2 (h : Hdr) (d : BitVec 7) (a : BitVec 7) (b : BitVec 7) (lit : Word) (s : State) : Host.Outcome State Fault Refusal :=
  issued (aluScalar aluFmaBf16x2 ⟨1#2, h.s, h.g, 40#7, d, a, b⟩ (64 ≤ a.toNat) d a b lit s)

/-- SADD_F16X2: Scalar packed binary16 addition. (R253). -/
def execSaddF16x2 (h : Hdr) (d : BitVec 7) (a : BitVec 7) (b : BitVec 7) (lit : Word) (s : State) : Host.Outcome State Fault Refusal :=
  issued (aluScalar aluAddF16x2 ⟨1#2, h.s, h.g, 41#7, d, a, b⟩ (64 ≤ a.toNat) d a b lit s)

/-- SMUL_F16X2: Scalar packed binary16 multiplication. (R253). -/
def execSmulF16x2 (h : Hdr) (d : BitVec 7) (a : BitVec 7) (b : BitVec 7) (lit : Word) (s : State) : Host.Outcome State Fault Refusal :=
  issued (aluScalar aluMulF16x2 ⟨1#2, h.s, h.g, 42#7, d, a, b⟩ (64 ≤ a.toNat) d a b lit s)

/-- SFMA_F16X2: Scalar packed binary16 fused multiply-add. (R253). -/
def execSfmaF16x2 (h : Hdr) (d : BitVec 7) (a : BitVec 7) (b : BitVec 7) (lit : Word) (s : State) : Host.Outcome State Fault Refusal :=
  issued (aluScalar aluFmaF16x2 ⟨1#2, h.s, h.g, 43#7, d, a, b⟩ (64 ≤ a.toNat) d a b lit s)

/-- SCVT: Scalar conversion under the A control field. (R253). -/
def execScvt (h : Hdr) (d : BitVec 7) (f : BitVec 7) (b : BitVec 7) (lit : Word) (s : State) : Host.Outcome State Fault Refusal :=
  issued (cvtScalar ⟨1#2, h.s, h.g, 44#7, d, f, b⟩ d f b lit s)

/-- SPERM_B32: Scalar byte permutation. (R253). -/
def execSpermB32 (h : Hdr) (d : BitVec 7) (a : BitVec 7) (b : BitVec 7) (lit : Word) (s : State) : Host.Outcome State Fault Refusal :=
  issued (aluScalar aluPermB32 ⟨1#2, h.s, h.g, 46#7, d, a, b⟩ (64 ≤ a.toNat) d a b lit s)

/-- SVOTE_B32: Writes the mask of active lanes whose g is 1 into an s register. (R254). -/
def execSvoteB32 (h : Hdr) (d : BitVec 7) (s : State) : Host.Outcome State Fault Refusal :=
  issued (voteScalar ⟨1#2, h.s, h.g, 64#7, d, 0#7, 0#7⟩ d s)

/-- SLANE_B32: slane.b32 (R255). -/
def execSlaneB32 (h : Hdr) (d : BitVec 7) (a : BitVec 7) (b : BitVec 7) (lit : Word) (s : State) : Host.Outcome State Fault Refusal :=
  issued (laneScalar ⟨1#2, h.s, h.g, 65#7, d, a, b⟩ d a b lit s)

end Sys2Proof.Machine
end

