-- ==== Sys2Proof/Machine/VecFloat.lean ====
section
/-! DEFINITION. Meanings of the floating-point vector instructions (11 R238 to R240). -/

namespace Sys2Proof.Machine

/-- ADD_F32_REG: Correctly rounded F32 addition of two registers. (R238). -/
def execAddF32Reg (h : Hdr) (d : BitVec 7) (a : BitVec 7) (b : BitVec 7) (s : State) : Host.Outcome State Fault Refusal :=
  issued (aluVec aluAddF32 ⟨0#2, h.s, h.g, 60#7, d, a, b⟩ false d a (.reg b) s)

/-- ADD_F32_SEL: Correctly rounded F32 addition with a selector operand. (R238). -/
def execAddF32Sel (h : Hdr) (d : BitVec 7) (a : BitVec 7) (b : BitVec 7) (lit : Word) (s : State) : Host.Outcome State Fault Refusal :=
  issued (aluVec aluAddF32 ⟨0#2, h.s, h.g, 61#7, d, a, b⟩ false d a (.sel b lit) s)

/-- SUB_F32_REG: Correctly rounded F32 subtraction of two registers. (R238). -/
def execSubF32Reg (h : Hdr) (d : BitVec 7) (a : BitVec 7) (b : BitVec 7) (s : State) : Host.Outcome State Fault Refusal :=
  issued (aluVec aluSubF32 ⟨0#2, h.s, h.g, 62#7, d, a, b⟩ false d a (.reg b) s)

/-- SUB_F32_SEL: Correctly rounded F32 subtraction of a selector operand. (R238). -/
def execSubF32Sel (h : Hdr) (d : BitVec 7) (a : BitVec 7) (b : BitVec 7) (lit : Word) (s : State) : Host.Outcome State Fault Refusal :=
  issued (aluVec aluSubF32 ⟨0#2, h.s, h.g, 63#7, d, a, b⟩ false d a (.sel b lit) s)

/-- MUL_F32_REG: Correctly rounded F32 multiplication of two registers. (R238). -/
def execMulF32Reg (h : Hdr) (d : BitVec 7) (a : BitVec 7) (b : BitVec 7) (s : State) : Host.Outcome State Fault Refusal :=
  issued (aluVec aluMulF32 ⟨0#2, h.s, h.g, 64#7, d, a, b⟩ false d a (.reg b) s)

/-- MUL_F32_SEL: Correctly rounded F32 multiplication by a selector operand. (R238). -/
def execMulF32Sel (h : Hdr) (d : BitVec 7) (a : BitVec 7) (b : BitVec 7) (lit : Word) (s : State) : Host.Outcome State Fault Refusal :=
  issued (aluVec aluMulF32 ⟨0#2, h.s, h.g, 65#7, d, a, b⟩ false d a (.sel b lit) s)

/-- FMA_F32_REG: Fused multiply-add a × b + d, rounded once. (R238). -/
def execFmaF32Reg (h : Hdr) (d : BitVec 7) (a : BitVec 7) (b : BitVec 7) (s : State) : Host.Outcome State Fault Refusal :=
  issued (aluVec aluFmaF32 ⟨0#2, h.s, h.g, 66#7, d, a, b⟩ false d a (.reg b) s)

/-- FMA_F32_SEL: Fused multiply-add with a selector operand b, rounded once. (R238). -/
def execFmaF32Sel (h : Hdr) (d : BitVec 7) (a : BitVec 7) (b : BitVec 7) (lit : Word) (s : State) : Host.Outcome State Fault Refusal :=
  issued (aluVec aluFmaF32 ⟨0#2, h.s, h.g, 67#7, d, a, b⟩ false d a (.sel b lit) s)

/-- MIN_F32_REG: F32 minimum of two registers under the NaN and zero rules. (R238). -/
def execMinF32Reg (h : Hdr) (d : BitVec 7) (a : BitVec 7) (b : BitVec 7) (s : State) : Host.Outcome State Fault Refusal :=
  issued (aluVec aluMinF32 ⟨0#2, h.s, h.g, 68#7, d, a, b⟩ false d a (.reg b) s)

/-- MIN_F32_SEL: F32 minimum with a selector operand. (R238). -/
def execMinF32Sel (h : Hdr) (d : BitVec 7) (a : BitVec 7) (b : BitVec 7) (lit : Word) (s : State) : Host.Outcome State Fault Refusal :=
  issued (aluVec aluMinF32 ⟨0#2, h.s, h.g, 69#7, d, a, b⟩ false d a (.sel b lit) s)

/-- MAX_F32_REG: F32 maximum of two registers under the NaN and zero rules. (R238). -/
def execMaxF32Reg (h : Hdr) (d : BitVec 7) (a : BitVec 7) (b : BitVec 7) (s : State) : Host.Outcome State Fault Refusal :=
  issued (aluVec aluMaxF32 ⟨0#2, h.s, h.g, 70#7, d, a, b⟩ false d a (.reg b) s)

/-- MAX_F32_SEL: F32 maximum with a selector operand. (R238). -/
def execMaxF32Sel (h : Hdr) (d : BitVec 7) (a : BitVec 7) (b : BitVec 7) (lit : Word) (s : State) : Host.Outcome State Fault Refusal :=
  issued (aluVec aluMaxF32 ⟨0#2, h.s, h.g, 71#7, d, a, b⟩ false d a (.sel b lit) s)

/-- CMP_F32_REG: F32 compare of two registers under the D condition, writing g. (R240). -/
def execCmpF32Reg (h : Hdr) (c : BitVec 7) (a : BitVec 7) (b : BitVec 7) (s : State) : Host.Outcome State Fault Refusal :=
  issued (cmpVec cmpOpF32 ⟨0#2, h.s, h.g, 72#7, c, a, b⟩ c a (.reg b) s)

/-- CMP_F32_SEL: F32 compare with a selector operand, writing g. (R240). -/
def execCmpF32Sel (h : Hdr) (c : BitVec 7) (a : BitVec 7) (b : BitVec 7) (lit : Word) (s : State) : Host.Outcome State Fault Refusal :=
  issued (cmpVec cmpOpF32 ⟨0#2, h.s, h.g, 73#7, c, a, b⟩ c a (.sel b lit) s)

/-- SFN_F32_REG: sfn.f32 (R238). -/
def execSfnF32Reg (h : Hdr) (d : BitVec 7) (f : BitVec 7) (b : BitVec 7) (s : State) : Host.Outcome State Fault Refusal :=
  issued (aluVec (aluSfnF32 f) ⟨0#2, h.s, h.g, 74#7, d, f, b⟩ (7 ≤ f.toNat) d 0#7 (.reg b) s)

/-- SFN_F32_SEL: Applies the special function coded in A to a selector operand. (R238). -/
def execSfnF32Sel (h : Hdr) (d : BitVec 7) (f : BitVec 7) (b : BitVec 7) (lit : Word) (s : State) : Host.Outcome State Fault Refusal :=
  issued (aluVec (aluSfnF32 f) ⟨0#2, h.s, h.g, 75#7, d, f, b⟩ (7 ≤ f.toNat) d 0#7 (.sel b lit) s)

/-- ADD_BF16X2_REG: Adds packed BF16 pairs element by element. (R239). -/
def execAddBf16x2Reg (h : Hdr) (d : BitVec 7) (a : BitVec 7) (b : BitVec 7) (s : State) : Host.Outcome State Fault Refusal :=
  issued (aluVec aluAddBf16x2 ⟨0#2, h.s, h.g, 76#7, d, a, b⟩ false d a (.reg b) s)

/-- ADD_BF16X2_SEL: Adds a selector operand to packed BF16 pairs. (R239). -/
def execAddBf16x2Sel (h : Hdr) (d : BitVec 7) (a : BitVec 7) (b : BitVec 7) (lit : Word) (s : State) : Host.Outcome State Fault Refusal :=
  issued (aluVec aluAddBf16x2 ⟨0#2, h.s, h.g, 77#7, d, a, b⟩ false d a (.sel b lit) s)

/-- MUL_BF16X2_REG: Multiplies packed BF16 pairs element by element. (R239). -/
def execMulBf16x2Reg (h : Hdr) (d : BitVec 7) (a : BitVec 7) (b : BitVec 7) (s : State) : Host.Outcome State Fault Refusal :=
  issued (aluVec aluMulBf16x2 ⟨0#2, h.s, h.g, 78#7, d, a, b⟩ false d a (.reg b) s)

/-- MUL_BF16X2_SEL: Multiplies packed BF16 pairs by a selector operand. (R239). -/
def execMulBf16x2Sel (h : Hdr) (d : BitVec 7) (a : BitVec 7) (b : BitVec 7) (lit : Word) (s : State) : Host.Outcome State Fault Refusal :=
  issued (aluVec aluMulBf16x2 ⟨0#2, h.s, h.g, 79#7, d, a, b⟩ false d a (.sel b lit) s)

/-- FMA_BF16X2_REG: Fused multiply-add on packed BF16 pairs. (R239). -/
def execFmaBf16x2Reg (h : Hdr) (d : BitVec 7) (a : BitVec 7) (b : BitVec 7) (s : State) : Host.Outcome State Fault Refusal :=
  issued (aluVec aluFmaBf16x2 ⟨0#2, h.s, h.g, 80#7, d, a, b⟩ false d a (.reg b) s)

/-- FMA_BF16X2_SEL: Fused multiply-add on packed BF16 pairs with a selector operand. (R239). -/
def execFmaBf16x2Sel (h : Hdr) (d : BitVec 7) (a : BitVec 7) (b : BitVec 7) (lit : Word) (s : State) : Host.Outcome State Fault Refusal :=
  issued (aluVec aluFmaBf16x2 ⟨0#2, h.s, h.g, 81#7, d, a, b⟩ false d a (.sel b lit) s)

/-- ADD_F16X2_REG: Adds packed binary16 pairs element by element. (R239). -/
def execAddF16x2Reg (h : Hdr) (d : BitVec 7) (a : BitVec 7) (b : BitVec 7) (s : State) : Host.Outcome State Fault Refusal :=
  issued (aluVec aluAddF16x2 ⟨0#2, h.s, h.g, 82#7, d, a, b⟩ false d a (.reg b) s)

/-- ADD_F16X2_SEL: Adds a selector operand to packed binary16 pairs. (R239). -/
def execAddF16x2Sel (h : Hdr) (d : BitVec 7) (a : BitVec 7) (b : BitVec 7) (lit : Word) (s : State) : Host.Outcome State Fault Refusal :=
  issued (aluVec aluAddF16x2 ⟨0#2, h.s, h.g, 83#7, d, a, b⟩ false d a (.sel b lit) s)

/-- MUL_F16X2_REG: Multiplies packed binary16 pairs element by element. (R239). -/
def execMulF16x2Reg (h : Hdr) (d : BitVec 7) (a : BitVec 7) (b : BitVec 7) (s : State) : Host.Outcome State Fault Refusal :=
  issued (aluVec aluMulF16x2 ⟨0#2, h.s, h.g, 84#7, d, a, b⟩ false d a (.reg b) s)

/-- MUL_F16X2_SEL: Multiplies packed binary16 pairs by a selector operand. (R239). -/
def execMulF16x2Sel (h : Hdr) (d : BitVec 7) (a : BitVec 7) (b : BitVec 7) (lit : Word) (s : State) : Host.Outcome State Fault Refusal :=
  issued (aluVec aluMulF16x2 ⟨0#2, h.s, h.g, 85#7, d, a, b⟩ false d a (.sel b lit) s)

/-- FMA_F16X2_REG: Fused multiply-add on packed binary16 pairs. (R239). -/
def execFmaF16x2Reg (h : Hdr) (d : BitVec 7) (a : BitVec 7) (b : BitVec 7) (s : State) : Host.Outcome State Fault Refusal :=
  issued (aluVec aluFmaF16x2 ⟨0#2, h.s, h.g, 86#7, d, a, b⟩ false d a (.reg b) s)

/-- FMA_F16X2_SEL: Fused multiply-add on packed binary16 pairs with a selector operand. (R239). -/
def execFmaF16x2Sel (h : Hdr) (d : BitVec 7) (a : BitVec 7) (b : BitVec 7) (lit : Word) (s : State) : Host.Outcome State Fault Refusal :=
  issued (aluVec aluFmaF16x2 ⟨0#2, h.s, h.g, 87#7, d, a, b⟩ false d a (.sel b lit) s)

end Sys2Proof.Machine
end

