-- ==== Sys2Proof/Machine/VecInt.lean ====
section
/-! DEFINITION. Meanings of the integer and bitwise vector instructions (11 R235 to R240), one definition per row of the opcode table. -/

namespace Sys2Proof.Machine

/-- ADD_I32_REG: Adds two registers modulo 2^32, tagged I32. (R237). -/
def execAddI32Reg (h : Hdr) (d : BitVec 7) (a : BitVec 7) (b : BitVec 7) (s : State) : Host.Outcome State Fault Refusal :=
  issued (aluVec aluAddI32 ⟨0#2, h.s, h.g, 6#7, d, a, b⟩ false d a (.reg b) s)

/-- ADD_I32_SEL: Adds a register and a selector operand modulo 2^32, tagged I32. (R237). -/
def execAddI32Sel (h : Hdr) (d : BitVec 7) (a : BitVec 7) (b : BitVec 7) (lit : Word) (s : State) : Host.Outcome State Fault Refusal :=
  issued (aluVec aluAddI32 ⟨0#2, h.s, h.g, 7#7, d, a, b⟩ false d a (.sel b lit) s)

/-- ADD_N32_REG: Adds two registers modulo 2^32, tagged N32. (R237). -/
def execAddN32Reg (h : Hdr) (d : BitVec 7) (a : BitVec 7) (b : BitVec 7) (s : State) : Host.Outcome State Fault Refusal :=
  issued (aluVec aluAddN32 ⟨0#2, h.s, h.g, 8#7, d, a, b⟩ false d a (.reg b) s)

/-- ADD_N32_SEL: Adds a register and a selector operand modulo 2^32, tagged N32. (R237). -/
def execAddN32Sel (h : Hdr) (d : BitVec 7) (a : BitVec 7) (b : BitVec 7) (lit : Word) (s : State) : Host.Outcome State Fault Refusal :=
  issued (aluVec aluAddN32 ⟨0#2, h.s, h.g, 9#7, d, a, b⟩ false d a (.sel b lit) s)

/-- SUB_I32_REG: Subtracts two registers modulo 2^32, tagged I32. (R237). -/
def execSubI32Reg (h : Hdr) (d : BitVec 7) (a : BitVec 7) (b : BitVec 7) (s : State) : Host.Outcome State Fault Refusal :=
  issued (aluVec aluSubI32 ⟨0#2, h.s, h.g, 10#7, d, a, b⟩ false d a (.reg b) s)

/-- SUB_I32_SEL: Subtracts a selector operand modulo 2^32, tagged I32. (R237). -/
def execSubI32Sel (h : Hdr) (d : BitVec 7) (a : BitVec 7) (b : BitVec 7) (lit : Word) (s : State) : Host.Outcome State Fault Refusal :=
  issued (aluVec aluSubI32 ⟨0#2, h.s, h.g, 11#7, d, a, b⟩ false d a (.sel b lit) s)

/-- SUB_N32_REG: Subtracts two registers modulo 2^32, tagged N32. (R237). -/
def execSubN32Reg (h : Hdr) (d : BitVec 7) (a : BitVec 7) (b : BitVec 7) (s : State) : Host.Outcome State Fault Refusal :=
  issued (aluVec aluSubN32 ⟨0#2, h.s, h.g, 12#7, d, a, b⟩ false d a (.reg b) s)

/-- SUB_N32_SEL: Subtracts a selector operand modulo 2^32, tagged N32. (R237). -/
def execSubN32Sel (h : Hdr) (d : BitVec 7) (a : BitVec 7) (b : BitVec 7) (lit : Word) (s : State) : Host.Outcome State Fault Refusal :=
  issued (aluVec aluSubN32 ⟨0#2, h.s, h.g, 13#7, d, a, b⟩ false d a (.sel b lit) s)

/-- MUL_I32_REG: Multiplies two registers modulo 2^32, tagged I32. (R237). -/
def execMulI32Reg (h : Hdr) (d : BitVec 7) (a : BitVec 7) (b : BitVec 7) (s : State) : Host.Outcome State Fault Refusal :=
  issued (aluVec aluMulI32 ⟨0#2, h.s, h.g, 14#7, d, a, b⟩ false d a (.reg b) s)

/-- MUL_I32_SEL: Multiplies by a selector operand modulo 2^32, tagged I32. (R237). -/
def execMulI32Sel (h : Hdr) (d : BitVec 7) (a : BitVec 7) (b : BitVec 7) (lit : Word) (s : State) : Host.Outcome State Fault Refusal :=
  issued (aluVec aluMulI32 ⟨0#2, h.s, h.g, 15#7, d, a, b⟩ false d a (.sel b lit) s)

/-- MUL_N32_REG: Multiplies two registers modulo 2^32, tagged N32. (R237). -/
def execMulN32Reg (h : Hdr) (d : BitVec 7) (a : BitVec 7) (b : BitVec 7) (s : State) : Host.Outcome State Fault Refusal :=
  issued (aluVec aluMulN32 ⟨0#2, h.s, h.g, 16#7, d, a, b⟩ false d a (.reg b) s)

/-- MUL_N32_SEL: Multiplies by a selector operand modulo 2^32, tagged N32. (R237). -/
def execMulN32Sel (h : Hdr) (d : BitVec 7) (a : BitVec 7) (b : BitVec 7) (lit : Word) (s : State) : Host.Outcome State Fault Refusal :=
  issued (aluVec aluMulN32 ⟨0#2, h.s, h.g, 17#7, d, a, b⟩ false d a (.sel b lit) s)

/-- MULHI_I32_REG: Writes the high 32 bits of the signed product of two registers. (R237). -/
def execMulhiI32Reg (h : Hdr) (d : BitVec 7) (a : BitVec 7) (b : BitVec 7) (s : State) : Host.Outcome State Fault Refusal :=
  issued (aluVec aluMulhiI32 ⟨0#2, h.s, h.g, 18#7, d, a, b⟩ false d a (.reg b) s)

/-- MULHI_I32_SEL: mulhi.i32 (R237). -/
def execMulhiI32Sel (h : Hdr) (d : BitVec 7) (a : BitVec 7) (b : BitVec 7) (lit : Word) (s : State) : Host.Outcome State Fault Refusal :=
  issued (aluVec aluMulhiI32 ⟨0#2, h.s, h.g, 19#7, d, a, b⟩ false d a (.sel b lit) s)

/-- MULHI_N32_REG: Writes the high 32 bits of the unsigned product of two registers. (R237). -/
def execMulhiN32Reg (h : Hdr) (d : BitVec 7) (a : BitVec 7) (b : BitVec 7) (s : State) : Host.Outcome State Fault Refusal :=
  issued (aluVec aluMulhiN32 ⟨0#2, h.s, h.g, 20#7, d, a, b⟩ false d a (.reg b) s)

/-- MULHI_N32_SEL: mulhi.n32 (R237). -/
def execMulhiN32Sel (h : Hdr) (d : BitVec 7) (a : BitVec 7) (b : BitVec 7) (lit : Word) (s : State) : Host.Outcome State Fault Refusal :=
  issued (aluVec aluMulhiN32 ⟨0#2, h.s, h.g, 21#7, d, a, b⟩ false d a (.sel b lit) s)

/-- MIN_I32_REG: Writes the signed minimum of two registers. (R237). -/
def execMinI32Reg (h : Hdr) (d : BitVec 7) (a : BitVec 7) (b : BitVec 7) (s : State) : Host.Outcome State Fault Refusal :=
  issued (aluVec aluMinI32 ⟨0#2, h.s, h.g, 22#7, d, a, b⟩ false d a (.reg b) s)

/-- MIN_I32_SEL: Writes the signed minimum with a selector operand. (R237). -/
def execMinI32Sel (h : Hdr) (d : BitVec 7) (a : BitVec 7) (b : BitVec 7) (lit : Word) (s : State) : Host.Outcome State Fault Refusal :=
  issued (aluVec aluMinI32 ⟨0#2, h.s, h.g, 23#7, d, a, b⟩ false d a (.sel b lit) s)

/-- MIN_N32_REG: Writes the unsigned minimum of two registers. (R237). -/
def execMinN32Reg (h : Hdr) (d : BitVec 7) (a : BitVec 7) (b : BitVec 7) (s : State) : Host.Outcome State Fault Refusal :=
  issued (aluVec aluMinN32 ⟨0#2, h.s, h.g, 24#7, d, a, b⟩ false d a (.reg b) s)

/-- MIN_N32_SEL: Writes the unsigned minimum with a selector operand. (R237). -/
def execMinN32Sel (h : Hdr) (d : BitVec 7) (a : BitVec 7) (b : BitVec 7) (lit : Word) (s : State) : Host.Outcome State Fault Refusal :=
  issued (aluVec aluMinN32 ⟨0#2, h.s, h.g, 25#7, d, a, b⟩ false d a (.sel b lit) s)

/-- MAX_I32_REG: Writes the signed maximum of two registers. (R237). -/
def execMaxI32Reg (h : Hdr) (d : BitVec 7) (a : BitVec 7) (b : BitVec 7) (s : State) : Host.Outcome State Fault Refusal :=
  issued (aluVec aluMaxI32 ⟨0#2, h.s, h.g, 26#7, d, a, b⟩ false d a (.reg b) s)

/-- MAX_I32_SEL: Writes the signed maximum with a selector operand. (R237). -/
def execMaxI32Sel (h : Hdr) (d : BitVec 7) (a : BitVec 7) (b : BitVec 7) (lit : Word) (s : State) : Host.Outcome State Fault Refusal :=
  issued (aluVec aluMaxI32 ⟨0#2, h.s, h.g, 27#7, d, a, b⟩ false d a (.sel b lit) s)

/-- MAX_N32_REG: Writes the unsigned maximum of two registers. (R237). -/
def execMaxN32Reg (h : Hdr) (d : BitVec 7) (a : BitVec 7) (b : BitVec 7) (s : State) : Host.Outcome State Fault Refusal :=
  issued (aluVec aluMaxN32 ⟨0#2, h.s, h.g, 28#7, d, a, b⟩ false d a (.reg b) s)

/-- MAX_N32_SEL: Writes the unsigned maximum with a selector operand. (R237). -/
def execMaxN32Sel (h : Hdr) (d : BitVec 7) (a : BitVec 7) (b : BitVec 7) (lit : Word) (s : State) : Host.Outcome State Fault Refusal :=
  issued (aluVec aluMaxN32 ⟨0#2, h.s, h.g, 29#7, d, a, b⟩ false d a (.sel b lit) s)

/-- AND_B32_REG: Bitwise and of two registers, tagged RAW. (R237). -/
def execAndB32Reg (h : Hdr) (d : BitVec 7) (a : BitVec 7) (b : BitVec 7) (s : State) : Host.Outcome State Fault Refusal :=
  issued (aluVec aluAndB32 ⟨0#2, h.s, h.g, 30#7, d, a, b⟩ false d a (.reg b) s)

/-- AND_B32_SEL: Bitwise and with a selector operand, tagged RAW. (R237). -/
def execAndB32Sel (h : Hdr) (d : BitVec 7) (a : BitVec 7) (b : BitVec 7) (lit : Word) (s : State) : Host.Outcome State Fault Refusal :=
  issued (aluVec aluAndB32 ⟨0#2, h.s, h.g, 31#7, d, a, b⟩ false d a (.sel b lit) s)

/-- OR_B32_REG: Bitwise or of two registers, tagged RAW. (R237). -/
def execOrB32Reg (h : Hdr) (d : BitVec 7) (a : BitVec 7) (b : BitVec 7) (s : State) : Host.Outcome State Fault Refusal :=
  issued (aluVec aluOrB32 ⟨0#2, h.s, h.g, 32#7, d, a, b⟩ false d a (.reg b) s)

/-- OR_B32_SEL: Bitwise or with a selector operand, tagged RAW. (R237). -/
def execOrB32Sel (h : Hdr) (d : BitVec 7) (a : BitVec 7) (b : BitVec 7) (lit : Word) (s : State) : Host.Outcome State Fault Refusal :=
  issued (aluVec aluOrB32 ⟨0#2, h.s, h.g, 33#7, d, a, b⟩ false d a (.sel b lit) s)

/-- XOR_B32_REG: Bitwise xor of two registers, tagged RAW. (R237). -/
def execXorB32Reg (h : Hdr) (d : BitVec 7) (a : BitVec 7) (b : BitVec 7) (s : State) : Host.Outcome State Fault Refusal :=
  issued (aluVec aluXorB32 ⟨0#2, h.s, h.g, 34#7, d, a, b⟩ false d a (.reg b) s)

/-- XOR_B32_SEL: Bitwise xor with a selector operand, tagged RAW. (R237). -/
def execXorB32Sel (h : Hdr) (d : BitVec 7) (a : BitVec 7) (b : BitVec 7) (lit : Word) (s : State) : Host.Outcome State Fault Refusal :=
  issued (aluVec aluXorB32 ⟨0#2, h.s, h.g, 35#7, d, a, b⟩ false d a (.sel b lit) s)

/-- NOT_B32_REG: Bitwise complement of a v register, tagged RAW. (R237). -/
def execNotB32Reg (h : Hdr) (d : BitVec 7) (b : BitVec 7) (s : State) : Host.Outcome State Fault Refusal :=
  issued (aluVec aluNotB32 ⟨0#2, h.s, h.g, 36#7, d, 0#7, b⟩ false d 0#7 (.reg b) s)

/-- NOT_B32_SEL: Bitwise complement of a selector operand, tagged RAW. (R237). -/
def execNotB32Sel (h : Hdr) (d : BitVec 7) (b : BitVec 7) (lit : Word) (s : State) : Host.Outcome State Fault Refusal :=
  issued (aluVec aluNotB32 ⟨0#2, h.s, h.g, 37#7, d, 0#7, b⟩ false d 0#7 (.sel b lit) s)

/-- SHL_B32_REG: Shifts left by a register amount, 0 at 32 or more. (R237). -/
def execShlB32Reg (h : Hdr) (d : BitVec 7) (a : BitVec 7) (b : BitVec 7) (s : State) : Host.Outcome State Fault Refusal :=
  issued (aluVec aluShlB32 ⟨0#2, h.s, h.g, 38#7, d, a, b⟩ false d a (.reg b) s)

/-- SHL_B32_SEL: Shifts left by a selector amount, 0 at 32 or more. (R237). -/
def execShlB32Sel (h : Hdr) (d : BitVec 7) (a : BitVec 7) (b : BitVec 7) (lit : Word) (s : State) : Host.Outcome State Fault Refusal :=
  issued (aluVec aluShlB32 ⟨0#2, h.s, h.g, 39#7, d, a, b⟩ false d a (.sel b lit) s)

/-- SHR_N32_REG: Logical right shift by a register amount. (R237). -/
def execShrN32Reg (h : Hdr) (d : BitVec 7) (a : BitVec 7) (b : BitVec 7) (s : State) : Host.Outcome State Fault Refusal :=
  issued (aluVec aluShrN32 ⟨0#2, h.s, h.g, 40#7, d, a, b⟩ false d a (.reg b) s)

/-- SHR_N32_SEL: Logical right shift by a selector amount. (R237). -/
def execShrN32Sel (h : Hdr) (d : BitVec 7) (a : BitVec 7) (b : BitVec 7) (lit : Word) (s : State) : Host.Outcome State Fault Refusal :=
  issued (aluVec aluShrN32 ⟨0#2, h.s, h.g, 41#7, d, a, b⟩ false d a (.sel b lit) s)

/-- SHR_I32_REG: Arithmetic right shift by a register amount. (R237). -/
def execShrI32Reg (h : Hdr) (d : BitVec 7) (a : BitVec 7) (b : BitVec 7) (s : State) : Host.Outcome State Fault Refusal :=
  issued (aluVec aluShrI32 ⟨0#2, h.s, h.g, 42#7, d, a, b⟩ false d a (.reg b) s)

/-- SHR_I32_SEL: Arithmetic right shift by a selector amount. (R237). -/
def execShrI32Sel (h : Hdr) (d : BitVec 7) (a : BitVec 7) (b : BitVec 7) (lit : Word) (s : State) : Host.Outcome State Fault Refusal :=
  issued (aluVec aluShrI32 ⟨0#2, h.s, h.g, 43#7, d, a, b⟩ false d a (.sel b lit) s)

/-- POPC_B32_REG: Counts the set bits of a v register. (R237). -/
def execPopcB32Reg (h : Hdr) (d : BitVec 7) (b : BitVec 7) (s : State) : Host.Outcome State Fault Refusal :=
  issued (aluVec aluPopcB32 ⟨0#2, h.s, h.g, 44#7, d, 0#7, b⟩ false d 0#7 (.reg b) s)

/-- POPC_B32_SEL: Counts the set bits of a selector operand. (R237). -/
def execPopcB32Sel (h : Hdr) (d : BitVec 7) (b : BitVec 7) (lit : Word) (s : State) : Host.Outcome State Fault Refusal :=
  issued (aluVec aluPopcB32 ⟨0#2, h.s, h.g, 45#7, d, 0#7, b⟩ false d 0#7 (.sel b lit) s)

/-- CLZ_B32_REG: Counts the leading zero bits of a v register. (R237). -/
def execClzB32Reg (h : Hdr) (d : BitVec 7) (b : BitVec 7) (s : State) : Host.Outcome State Fault Refusal :=
  issued (aluVec aluClzB32 ⟨0#2, h.s, h.g, 46#7, d, 0#7, b⟩ false d 0#7 (.reg b) s)

/-- CLZ_B32_SEL: Counts the leading zero bits of a selector operand. (R237). -/
def execClzB32Sel (h : Hdr) (d : BitVec 7) (b : BitVec 7) (lit : Word) (s : State) : Host.Outcome State Fault Refusal :=
  issued (aluVec aluClzB32 ⟨0#2, h.s, h.g, 47#7, d, 0#7, b⟩ false d 0#7 (.sel b lit) s)

/-- CMP_I32_REG: Signed compare of two registers under the D condition, writing g. (R240). -/
def execCmpI32Reg (h : Hdr) (c : BitVec 7) (a : BitVec 7) (b : BitVec 7) (s : State) : Host.Outcome State Fault Refusal :=
  issued (cmpVec cmpOpI32 ⟨0#2, h.s, h.g, 48#7, c, a, b⟩ c a (.reg b) s)

/-- CMP_I32_SEL: Signed compare with a selector operand, writing g. (R240). -/
def execCmpI32Sel (h : Hdr) (c : BitVec 7) (a : BitVec 7) (b : BitVec 7) (lit : Word) (s : State) : Host.Outcome State Fault Refusal :=
  issued (cmpVec cmpOpI32 ⟨0#2, h.s, h.g, 49#7, c, a, b⟩ c a (.sel b lit) s)

/-- CMP_N32_REG: Unsigned compare of two registers under the D condition, writing g. (R240). -/
def execCmpN32Reg (h : Hdr) (c : BitVec 7) (a : BitVec 7) (b : BitVec 7) (s : State) : Host.Outcome State Fault Refusal :=
  issued (cmpVec cmpOpN32 ⟨0#2, h.s, h.g, 50#7, c, a, b⟩ c a (.reg b) s)

/-- CMP_N32_SEL: Unsigned compare with a selector operand, writing g. (R240). -/
def execCmpN32Sel (h : Hdr) (c : BitVec 7) (a : BitVec 7) (b : BitVec 7) (lit : Word) (s : State) : Host.Outcome State Fault Refusal :=
  issued (cmpVec cmpOpN32 ⟨0#2, h.s, h.g, 51#7, c, a, b⟩ c a (.sel b lit) s)

/-- ADD_I64_REG: Adds two register pairs modulo 2^64, tagged I32. (R237). -/
def execAddI64Reg (h : Hdr) (d : BitVec 7) (a : BitVec 7) (b : BitVec 7) (s : State) : Host.Outcome State Fault Refusal :=
  issued (aluVec aluAddI64 ⟨0#2, h.s, h.g, 52#7, d, a, b⟩ false d a (.reg b) s)

/-- ADD_I64_SEL: Adds a 64-bit selector operand to a pair, tagged I32. (R237). -/
def execAddI64Sel (h : Hdr) (d : BitVec 7) (a : BitVec 7) (b : BitVec 7) (lit : Word) (s : State) : Host.Outcome State Fault Refusal :=
  issued (aluVec aluAddI64 ⟨0#2, h.s, h.g, 53#7, d, a, b⟩ false d a (.sel b lit) s)

/-- ADD_N64_REG: Adds two register pairs modulo 2^64, tagged N32. (R237). -/
def execAddN64Reg (h : Hdr) (d : BitVec 7) (a : BitVec 7) (b : BitVec 7) (s : State) : Host.Outcome State Fault Refusal :=
  issued (aluVec aluAddN64 ⟨0#2, h.s, h.g, 54#7, d, a, b⟩ false d a (.reg b) s)

/-- ADD_N64_SEL: Adds a 64-bit selector operand to a pair, tagged N32. (R237). -/
def execAddN64Sel (h : Hdr) (d : BitVec 7) (a : BitVec 7) (b : BitVec 7) (lit : Word) (s : State) : Host.Outcome State Fault Refusal :=
  issued (aluVec aluAddN64 ⟨0#2, h.s, h.g, 55#7, d, a, b⟩ false d a (.sel b lit) s)

/-- SUB_I64_REG: Subtracts register pairs modulo 2^64, tagged I32. (R237). -/
def execSubI64Reg (h : Hdr) (d : BitVec 7) (a : BitVec 7) (b : BitVec 7) (s : State) : Host.Outcome State Fault Refusal :=
  issued (aluVec aluSubI64 ⟨0#2, h.s, h.g, 56#7, d, a, b⟩ false d a (.reg b) s)

/-- SUB_I64_SEL: Subtracts a 64-bit selector operand, tagged I32. (R237). -/
def execSubI64Sel (h : Hdr) (d : BitVec 7) (a : BitVec 7) (b : BitVec 7) (lit : Word) (s : State) : Host.Outcome State Fault Refusal :=
  issued (aluVec aluSubI64 ⟨0#2, h.s, h.g, 57#7, d, a, b⟩ false d a (.sel b lit) s)

/-- SUB_N64_REG: Subtracts register pairs modulo 2^64, tagged N32. (R237). -/
def execSubN64Reg (h : Hdr) (d : BitVec 7) (a : BitVec 7) (b : BitVec 7) (s : State) : Host.Outcome State Fault Refusal :=
  issued (aluVec aluSubN64 ⟨0#2, h.s, h.g, 58#7, d, a, b⟩ false d a (.reg b) s)

/-- SUB_N64_SEL: Subtracts a 64-bit selector operand, tagged N32. (R237). -/
def execSubN64Sel (h : Hdr) (d : BitVec 7) (a : BitVec 7) (b : BitVec 7) (lit : Word) (s : State) : Host.Outcome State Fault Refusal :=
  issued (aluVec aluSubN64 ⟨0#2, h.s, h.g, 59#7, d, a, b⟩ false d a (.sel b lit) s)

end Sys2Proof.Machine
end

