-- ==== Sys2Proof/Machine/VecMove.lean ====
section
/-! DEFINITION. Meanings of the vector moves, selects, guard and tag instructions, cross-lane reads, random words and conversions (11 R241 to R252, 13 R311). -/

namespace Sys2Proof.Machine

/-- MOV_B32_REG: Copies a v register with its tag into the destination. (R241). -/
def execMovB32Reg (h : Hdr) (d : BitVec 7) (b : BitVec 7) (s : State) : Host.Outcome State Fault Refusal :=
  issued (movVec ⟨0#2, h.s, h.g, 2#7, d, 0#7, b⟩ d (.reg b) s)

/-- MOV_B32_SEL: Copies a selector operand into the destination, tagged RAW. (R241). -/
def execMovB32Sel (h : Hdr) (d : BitVec 7) (b : BitVec 7) (lit : Word) (s : State) : Host.Outcome State Fault Refusal :=
  issued (movVec ⟨0#2, h.s, h.g, 3#7, d, 0#7, b⟩ d (.sel b lit) s)

/-- SEL_B32_REG: Selects a or a v register b by the thread's guard bit. (R241). -/
def execSelB32Reg (h : Hdr) (d : BitVec 7) (a : BitVec 7) (b : BitVec 7) (s : State) : Host.Outcome State Fault Refusal :=
  issued (selVec ⟨0#2, h.s, h.g, 4#7, d, a, b⟩ d a (.reg b) s)

/-- SEL_B32_SEL: Selects a or a selector operand b by the thread's guard bit. (R241). -/
def execSelB32Sel (h : Hdr) (d : BitVec 7) (a : BitVec 7) (b : BitVec 7) (lit : Word) (s : State) : Host.Outcome State Fault Refusal :=
  issued (selVec ⟨0#2, h.s, h.g, 5#7, d, a, b⟩ d a (.sel b lit) s)

/-- CVT_REG: cvt (R249). -/
def execCvtReg (h : Hdr) (d : BitVec 7) (f : BitVec 7) (b : BitVec 7) (s : State) : Host.Outcome State Fault Refusal :=
  issued (cvtVec ⟨0#2, h.s, h.g, 88#7, d, f, b⟩ d f (.reg b) s)

/-- CVT_SEL: cvt (R249). -/
def execCvtSel (h : Hdr) (d : BitVec 7) (f : BitVec 7) (b : BitVec 7) (lit : Word) (s : State) : Host.Outcome State Fault Refusal :=
  issued (cvtVec ⟨0#2, h.s, h.g, 89#7, d, f, b⟩ d f (.sel b lit) s)

/-- CVTQ_E2M1_REG: cvtq.e2m1 (R252). -/
def execCvtqE2m1Reg (h : Hdr) (d : BitVec 7) (a : BitVec 7) (b : BitVec 7) (s : State) : Host.Outcome State Fault Refusal :=
  issued (cvtqVec ⟨0#2, h.s, h.g, 90#7, d, a, b⟩ d a (.reg b) s)

/-- CVTQ_E2M1_SEL: cvtq.e2m1 (R252). -/
def execCvtqE2m1Sel (h : Hdr) (d : BitVec 7) (a : BitVec 7) (b : BitVec 7) (lit : Word) (s : State) : Host.Outcome State Fault Refusal :=
  issued (cvtqVec ⟨0#2, h.s, h.g, 91#7, d, a, b⟩ d a (.sel b lit) s)

/-- PERM_B32_REG: Assembles bytes of a and a v register b under the control in d. (R244). -/
def execPermB32Reg (h : Hdr) (d : BitVec 7) (a : BitVec 7) (b : BitVec 7) (s : State) : Host.Outcome State Fault Refusal :=
  issued (aluVec aluPermB32 ⟨0#2, h.s, h.g, 92#7, d, a, b⟩ false d a (.reg b) s)

/-- PERM_B32_SEL: Assembles bytes of a and a selector operand under the control in d. (R244). -/
def execPermB32Sel (h : Hdr) (d : BitVec 7) (a : BitVec 7) (b : BitVec 7) (lit : Word) (s : State) : Host.Outcome State Fault Refusal :=
  issued (aluVec aluPermB32 ⟨0#2, h.s, h.g, 93#7, d, a, b⟩ false d a (.sel b lit) s)

/-- GSET_REG: Sets g from a chosen bit of a v register, combined as D gives. (R242). -/
def execGsetReg (h : Hdr) (c : BitVec 7) (a : BitVec 7) (b : BitVec 7) (s : State) : Host.Outcome State Fault Refusal :=
  issued (gsetVec ⟨0#2, h.s, h.g, 94#7, c, a, b⟩ c a (.reg b) s)

/-- GSET_SEL: Sets g from a chosen bit of a selector operand, combined as D gives. (R242). -/
def execGsetSel (h : Hdr) (c : BitVec 7) (a : BitVec 7) (b : BitVec 7) (lit : Word) (s : State) : Host.Outcome State Fault Refusal :=
  issued (gsetVec ⟨0#2, h.s, h.g, 95#7, c, a, b⟩ c a (.sel b lit) s)

/-- TAGSET_REG: Copies a register and gives it the tag coded in a v register. (R243). -/
def execTagsetReg (h : Hdr) (d : BitVec 7) (a : BitVec 7) (b : BitVec 7) (s : State) : Host.Outcome State Fault Refusal :=
  issued (tagsetVec ⟨0#2, h.s, h.g, 96#7, d, a, b⟩ d a (.reg b) s)

/-- TAGSET_SEL: Copies a register and gives it the tag coded in a selector operand. (R243). -/
def execTagsetSel (h : Hdr) (d : BitVec 7) (a : BitVec 7) (b : BitVec 7) (lit : Word) (s : State) : Host.Outcome State Fault Refusal :=
  issued (tagsetVec ⟨0#2, h.s, h.g, 97#7, d, a, b⟩ d a (.sel b lit) s)

/-- XLR_REG: xlr (R245). -/
def execXlrReg (h : Hdr) (d : BitVec 7) (a : BitVec 7) (b : BitVec 7) (s : State) : Host.Outcome State Fault Refusal :=
  issued (xlrVec ⟨0#2, h.s, h.g, 98#7, d, a, b⟩ d a (.reg b) s)

/-- XLR_SEL: Reads register A of the flock member in the lane given by a selector. (R245). -/
def execXlrSel (h : Hdr) (d : BitVec 7) (a : BitVec 7) (b : BitVec 7) (lit : Word) (s : State) : Host.Outcome State Fault Refusal :=
  issued (xlrVec ⟨0#2, h.s, h.g, 99#7, d, a, b⟩ d a (.sel b lit) s)

/-- RNGK_REG: Forms a stateless random word from a key pair and a register index. (R311). -/
def execRngkReg (h : Hdr) (d : BitVec 7) (a : BitVec 7) (b : BitVec 7) (s : State) : Host.Outcome State Fault Refusal :=
  issued (rngkVec ⟨0#2, h.s, h.g, 100#7, d, a, b⟩ d a (.reg b) s)

/-- RNGK_SEL: Forms a stateless random word from a key pair and a selector index. (R311). -/
def execRngkSel (h : Hdr) (d : BitVec 7) (a : BitVec 7) (b : BitVec 7) (lit : Word) (s : State) : Host.Outcome State Fault Refusal :=
  issued (rngkVec ⟨0#2, h.s, h.g, 101#7, d, a, b⟩ d a (.sel b lit) s)

end Sys2Proof.Machine
end

