-- ==== Sys2Proof/Machine/Dispatch.lean ====
section
/-! DEFINITION. The dispatch: one arm per row of the opcode table. -/

namespace Sys2Proof.Machine

/-- What an instruction word does when the group in focus issues it, and what a step of another agent does. -/
def exec (i : Instr) (s : State) : Host.Outcome State Fault Refusal :=
  match i with
  | .movB32Reg h d b => Sys2Proof.Machine.execMovB32Reg h d b s
  | .movB32Sel h d b lit => Sys2Proof.Machine.execMovB32Sel h d b lit s
  | .selB32Reg h d a b => Sys2Proof.Machine.execSelB32Reg h d a b s
  | .selB32Sel h d a b lit => Sys2Proof.Machine.execSelB32Sel h d a b lit s
  | .addI32Reg h d a b => Sys2Proof.Machine.execAddI32Reg h d a b s
  | .addI32Sel h d a b lit => Sys2Proof.Machine.execAddI32Sel h d a b lit s
  | .addN32Reg h d a b => Sys2Proof.Machine.execAddN32Reg h d a b s
  | .addN32Sel h d a b lit => Sys2Proof.Machine.execAddN32Sel h d a b lit s
  | .subI32Reg h d a b => Sys2Proof.Machine.execSubI32Reg h d a b s
  | .subI32Sel h d a b lit => Sys2Proof.Machine.execSubI32Sel h d a b lit s
  | .subN32Reg h d a b => Sys2Proof.Machine.execSubN32Reg h d a b s
  | .subN32Sel h d a b lit => Sys2Proof.Machine.execSubN32Sel h d a b lit s
  | .mulI32Reg h d a b => Sys2Proof.Machine.execMulI32Reg h d a b s
  | .mulI32Sel h d a b lit => Sys2Proof.Machine.execMulI32Sel h d a b lit s
  | .mulN32Reg h d a b => Sys2Proof.Machine.execMulN32Reg h d a b s
  | .mulN32Sel h d a b lit => Sys2Proof.Machine.execMulN32Sel h d a b lit s
  | .mulhiI32Reg h d a b => Sys2Proof.Machine.execMulhiI32Reg h d a b s
  | .mulhiI32Sel h d a b lit => Sys2Proof.Machine.execMulhiI32Sel h d a b lit s
  | .mulhiN32Reg h d a b => Sys2Proof.Machine.execMulhiN32Reg h d a b s
  | .mulhiN32Sel h d a b lit => Sys2Proof.Machine.execMulhiN32Sel h d a b lit s
  | .minI32Reg h d a b => Sys2Proof.Machine.execMinI32Reg h d a b s
  | .minI32Sel h d a b lit => Sys2Proof.Machine.execMinI32Sel h d a b lit s
  | .minN32Reg h d a b => Sys2Proof.Machine.execMinN32Reg h d a b s
  | .minN32Sel h d a b lit => Sys2Proof.Machine.execMinN32Sel h d a b lit s
  | .maxI32Reg h d a b => Sys2Proof.Machine.execMaxI32Reg h d a b s
  | .maxI32Sel h d a b lit => Sys2Proof.Machine.execMaxI32Sel h d a b lit s
  | .maxN32Reg h d a b => Sys2Proof.Machine.execMaxN32Reg h d a b s
  | .maxN32Sel h d a b lit => Sys2Proof.Machine.execMaxN32Sel h d a b lit s
  | .andB32Reg h d a b => Sys2Proof.Machine.execAndB32Reg h d a b s
  | .andB32Sel h d a b lit => Sys2Proof.Machine.execAndB32Sel h d a b lit s
  | .orB32Reg h d a b => Sys2Proof.Machine.execOrB32Reg h d a b s
  | .orB32Sel h d a b lit => Sys2Proof.Machine.execOrB32Sel h d a b lit s
  | .xorB32Reg h d a b => Sys2Proof.Machine.execXorB32Reg h d a b s
  | .xorB32Sel h d a b lit => Sys2Proof.Machine.execXorB32Sel h d a b lit s
  | .notB32Reg h d b => Sys2Proof.Machine.execNotB32Reg h d b s
  | .notB32Sel h d b lit => Sys2Proof.Machine.execNotB32Sel h d b lit s
  | .shlB32Reg h d a b => Sys2Proof.Machine.execShlB32Reg h d a b s
  | .shlB32Sel h d a b lit => Sys2Proof.Machine.execShlB32Sel h d a b lit s
  | .shrN32Reg h d a b => Sys2Proof.Machine.execShrN32Reg h d a b s
  | .shrN32Sel h d a b lit => Sys2Proof.Machine.execShrN32Sel h d a b lit s
  | .shrI32Reg h d a b => Sys2Proof.Machine.execShrI32Reg h d a b s
  | .shrI32Sel h d a b lit => Sys2Proof.Machine.execShrI32Sel h d a b lit s
  | .popcB32Reg h d b => Sys2Proof.Machine.execPopcB32Reg h d b s
  | .popcB32Sel h d b lit => Sys2Proof.Machine.execPopcB32Sel h d b lit s
  | .clzB32Reg h d b => Sys2Proof.Machine.execClzB32Reg h d b s
  | .clzB32Sel h d b lit => Sys2Proof.Machine.execClzB32Sel h d b lit s
  | .cmpI32Reg h c a b => Sys2Proof.Machine.execCmpI32Reg h c a b s
  | .cmpI32Sel h c a b lit => Sys2Proof.Machine.execCmpI32Sel h c a b lit s
  | .cmpN32Reg h c a b => Sys2Proof.Machine.execCmpN32Reg h c a b s
  | .cmpN32Sel h c a b lit => Sys2Proof.Machine.execCmpN32Sel h c a b lit s
  | .addI64Reg h d a b => Sys2Proof.Machine.execAddI64Reg h d a b s
  | .addI64Sel h d a b lit => Sys2Proof.Machine.execAddI64Sel h d a b lit s
  | .addN64Reg h d a b => Sys2Proof.Machine.execAddN64Reg h d a b s
  | .addN64Sel h d a b lit => Sys2Proof.Machine.execAddN64Sel h d a b lit s
  | .subI64Reg h d a b => Sys2Proof.Machine.execSubI64Reg h d a b s
  | .subI64Sel h d a b lit => Sys2Proof.Machine.execSubI64Sel h d a b lit s
  | .subN64Reg h d a b => Sys2Proof.Machine.execSubN64Reg h d a b s
  | .subN64Sel h d a b lit => Sys2Proof.Machine.execSubN64Sel h d a b lit s
  | .addF32Reg h d a b => Sys2Proof.Machine.execAddF32Reg h d a b s
  | .addF32Sel h d a b lit => Sys2Proof.Machine.execAddF32Sel h d a b lit s
  | .subF32Reg h d a b => Sys2Proof.Machine.execSubF32Reg h d a b s
  | .subF32Sel h d a b lit => Sys2Proof.Machine.execSubF32Sel h d a b lit s
  | .mulF32Reg h d a b => Sys2Proof.Machine.execMulF32Reg h d a b s
  | .mulF32Sel h d a b lit => Sys2Proof.Machine.execMulF32Sel h d a b lit s
  | .fmaF32Reg h d a b => Sys2Proof.Machine.execFmaF32Reg h d a b s
  | .fmaF32Sel h d a b lit => Sys2Proof.Machine.execFmaF32Sel h d a b lit s
  | .minF32Reg h d a b => Sys2Proof.Machine.execMinF32Reg h d a b s
  | .minF32Sel h d a b lit => Sys2Proof.Machine.execMinF32Sel h d a b lit s
  | .maxF32Reg h d a b => Sys2Proof.Machine.execMaxF32Reg h d a b s
  | .maxF32Sel h d a b lit => Sys2Proof.Machine.execMaxF32Sel h d a b lit s
  | .cmpF32Reg h c a b => Sys2Proof.Machine.execCmpF32Reg h c a b s
  | .cmpF32Sel h c a b lit => Sys2Proof.Machine.execCmpF32Sel h c a b lit s
  | .sfnF32Reg h d f b => Sys2Proof.Machine.execSfnF32Reg h d f b s
  | .sfnF32Sel h d f b lit => Sys2Proof.Machine.execSfnF32Sel h d f b lit s
  | .addBf16x2Reg h d a b => Sys2Proof.Machine.execAddBf16x2Reg h d a b s
  | .addBf16x2Sel h d a b lit => Sys2Proof.Machine.execAddBf16x2Sel h d a b lit s
  | .mulBf16x2Reg h d a b => Sys2Proof.Machine.execMulBf16x2Reg h d a b s
  | .mulBf16x2Sel h d a b lit => Sys2Proof.Machine.execMulBf16x2Sel h d a b lit s
  | .fmaBf16x2Reg h d a b => Sys2Proof.Machine.execFmaBf16x2Reg h d a b s
  | .fmaBf16x2Sel h d a b lit => Sys2Proof.Machine.execFmaBf16x2Sel h d a b lit s
  | .addF16x2Reg h d a b => Sys2Proof.Machine.execAddF16x2Reg h d a b s
  | .addF16x2Sel h d a b lit => Sys2Proof.Machine.execAddF16x2Sel h d a b lit s
  | .mulF16x2Reg h d a b => Sys2Proof.Machine.execMulF16x2Reg h d a b s
  | .mulF16x2Sel h d a b lit => Sys2Proof.Machine.execMulF16x2Sel h d a b lit s
  | .fmaF16x2Reg h d a b => Sys2Proof.Machine.execFmaF16x2Reg h d a b s
  | .fmaF16x2Sel h d a b lit => Sys2Proof.Machine.execFmaF16x2Sel h d a b lit s
  | .cvtReg h d f b => Sys2Proof.Machine.execCvtReg h d f b s
  | .cvtSel h d f b lit => Sys2Proof.Machine.execCvtSel h d f b lit s
  | .cvtqE2m1Reg h d a b => Sys2Proof.Machine.execCvtqE2m1Reg h d a b s
  | .cvtqE2m1Sel h d a b lit => Sys2Proof.Machine.execCvtqE2m1Sel h d a b lit s
  | .permB32Reg h d a b => Sys2Proof.Machine.execPermB32Reg h d a b s
  | .permB32Sel h d a b lit => Sys2Proof.Machine.execPermB32Sel h d a b lit s
  | .gsetReg h c a b => Sys2Proof.Machine.execGsetReg h c a b s
  | .gsetSel h c a b lit => Sys2Proof.Machine.execGsetSel h c a b lit s
  | .tagsetReg h d a b => Sys2Proof.Machine.execTagsetReg h d a b s
  | .tagsetSel h d a b lit => Sys2Proof.Machine.execTagsetSel h d a b lit s
  | .xlrReg h d a b => Sys2Proof.Machine.execXlrReg h d a b s
  | .xlrSel h d a b lit => Sys2Proof.Machine.execXlrSel h d a b lit s
  | .rngkReg h d a b => Sys2Proof.Machine.execRngkReg h d a b s
  | .rngkSel h d a b lit => Sys2Proof.Machine.execRngkSel h d a b lit s
  | .smovB32 h d b lit => Sys2Proof.Machine.execSmovB32 h d b lit s
  | .saddI32 h d a b lit => Sys2Proof.Machine.execSaddI32 h d a b lit s
  | .saddN32 h d a b lit => Sys2Proof.Machine.execSaddN32 h d a b lit s
  | .ssubI32 h d a b lit => Sys2Proof.Machine.execSsubI32 h d a b lit s
  | .ssubN32 h d a b lit => Sys2Proof.Machine.execSsubN32 h d a b lit s
  | .smulI32 h d a b lit => Sys2Proof.Machine.execSmulI32 h d a b lit s
  | .smulN32 h d a b lit => Sys2Proof.Machine.execSmulN32 h d a b lit s
  | .smulhiI32 h d a b lit => Sys2Proof.Machine.execSmulhiI32 h d a b lit s
  | .smulhiN32 h d a b lit => Sys2Proof.Machine.execSmulhiN32 h d a b lit s
  | .sminI32 h d a b lit => Sys2Proof.Machine.execSminI32 h d a b lit s
  | .sminN32 h d a b lit => Sys2Proof.Machine.execSminN32 h d a b lit s
  | .smaxI32 h d a b lit => Sys2Proof.Machine.execSmaxI32 h d a b lit s
  | .smaxN32 h d a b lit => Sys2Proof.Machine.execSmaxN32 h d a b lit s
  | .sandB32 h d a b lit => Sys2Proof.Machine.execSandB32 h d a b lit s
  | .sorB32 h d a b lit => Sys2Proof.Machine.execSorB32 h d a b lit s
  | .sxorB32 h d a b lit => Sys2Proof.Machine.execSxorB32 h d a b lit s
  | .snotB32 h d b lit => Sys2Proof.Machine.execSnotB32 h d b lit s
  | .sshlB32 h d a b lit => Sys2Proof.Machine.execSshlB32 h d a b lit s
  | .sshrN32 h d a b lit => Sys2Proof.Machine.execSshrN32 h d a b lit s
  | .sshrI32 h d a b lit => Sys2Proof.Machine.execSshrI32 h d a b lit s
  | .spopcB32 h d b lit => Sys2Proof.Machine.execSpopcB32 h d b lit s
  | .sclzB32 h d b lit => Sys2Proof.Machine.execSclzB32 h d b lit s
  | .scmpI32 h c a b lit => Sys2Proof.Machine.execScmpI32 h c a b lit s
  | .scmpN32 h c a b lit => Sys2Proof.Machine.execScmpN32 h c a b lit s
  | .saddI64 h d a b lit => Sys2Proof.Machine.execSaddI64 h d a b lit s
  | .saddN64 h d a b lit => Sys2Proof.Machine.execSaddN64 h d a b lit s
  | .ssubI64 h d a b lit => Sys2Proof.Machine.execSsubI64 h d a b lit s
  | .ssubN64 h d a b lit => Sys2Proof.Machine.execSsubN64 h d a b lit s
  | .saddF32 h d a b lit => Sys2Proof.Machine.execSaddF32 h d a b lit s
  | .ssubF32 h d a b lit => Sys2Proof.Machine.execSsubF32 h d a b lit s
  | .smulF32 h d a b lit => Sys2Proof.Machine.execSmulF32 h d a b lit s
  | .sfmaF32 h d a b lit => Sys2Proof.Machine.execSfmaF32 h d a b lit s
  | .sminF32 h d a b lit => Sys2Proof.Machine.execSminF32 h d a b lit s
  | .smaxF32 h d a b lit => Sys2Proof.Machine.execSmaxF32 h d a b lit s
  | .scmpF32 h c a b lit => Sys2Proof.Machine.execScmpF32 h c a b lit s
  | .ssfnF32 h d f b lit => Sys2Proof.Machine.execSsfnF32 h d f b lit s
  | .saddBf16x2 h d a b lit => Sys2Proof.Machine.execSaddBf16x2 h d a b lit s
  | .smulBf16x2 h d a b lit => Sys2Proof.Machine.execSmulBf16x2 h d a b lit s
  | .sfmaBf16x2 h d a b lit => Sys2Proof.Machine.execSfmaBf16x2 h d a b lit s
  | .saddF16x2 h d a b lit => Sys2Proof.Machine.execSaddF16x2 h d a b lit s
  | .smulF16x2 h d a b lit => Sys2Proof.Machine.execSmulF16x2 h d a b lit s
  | .sfmaF16x2 h d a b lit => Sys2Proof.Machine.execSfmaF16x2 h d a b lit s
  | .scvt h d f b lit => Sys2Proof.Machine.execScvt h d f b lit s
  | .spermB32 h d a b lit => Sys2Proof.Machine.execSpermB32 h d a b lit s
  | .svoteB32 h d => Sys2Proof.Machine.execSvoteB32 h d s
  | .slaneB32 h d a b lit => Sys2Proof.Machine.execSlaneB32 h d a b lit s
  | .ld h d a m => Sys2Proof.Machine.execLd h d a m s
  | .ldLit h d a m lit => Sys2Proof.Machine.execLdLit h d a m lit s
  | .st h d a z => Sys2Proof.Machine.execSt h d a z s
  | .stLit h d a z lit => Sys2Proof.Machine.execStLit h d a z lit s
  | .ldl h d a m => Sys2Proof.Machine.execLdl h d a m s
  | .ldlLit h d a m lit => Sys2Proof.Machine.execLdlLit h d a m lit s
  | .stl h d a z => Sys2Proof.Machine.execStl h d a z s
  | .stlLit h d a z lit => Sys2Proof.Machine.execStlLit h d a z lit s
  | .pref h a l => Sys2Proof.Machine.execPref h a l s
  | .prefLit h a l lit => Sys2Proof.Machine.execPrefLit h a l lit s
  | .red h d a f => Sys2Proof.Machine.execRed h d a f s
  | .redLit h d a f lit => Sys2Proof.Machine.execRedLit h d a f lit s
  | .redLs h d a f => Sys2Proof.Machine.execRedLs h d a f s
  | .redLsLit h d a f lit => Sys2Proof.Machine.execRedLsLit h d a f lit s
  | .redDet h d a b => Sys2Proof.Machine.execRedDet h d a b s
  | .redDetLit h d a b lit => Sys2Proof.Machine.execRedDetLit h d a b lit s
  | .fence h c => Sys2Proof.Machine.execFence h c s
  | .cadd h d a c => Sys2Proof.Machine.execCadd h d a c s
  | .caddLit h a c lit => Sys2Proof.Machine.execCaddLit h a c lit s
  | .caddr h d a c => Sys2Proof.Machine.execCaddr h d a c s
  | .caddrLit h d a c lit => Sys2Proof.Machine.execCaddrLit h d a c lit s
  | .cread h d a c => Sys2Proof.Machine.execCread h d a c s
  | .cwt h d a c => Sys2Proof.Machine.execCwt h d a c s
  | .cwait h d a c => Sys2Proof.Machine.execCwait h d a c s
  | .copy h d a b => Sys2Proof.Machine.execCopy h d a b s
  | .copyLit h d a lit => Sys2Proof.Machine.execCopyLit h d a lit s
  | .copyx h d a b => Sys2Proof.Machine.execCopyx h d a b s
  | .copyxLit h d a lit => Sys2Proof.Machine.execCopyxLit h d a lit s
  | .tdecl h d a => Sys2Proof.Machine.execTdecl h d a s
  | .sweep h d a b => Sys2Proof.Machine.execSweep h d a b s
  | .sweepLit h d a lit => Sys2Proof.Machine.execSweepLit h d a lit s
  | .eyield h a => Sys2Proof.Machine.execEyield h a s
  | .ectxld h d a w k => Sys2Proof.Machine.execEctxld h d a w k s
  | .ectxldLit h d a w k lit => Sys2Proof.Machine.execEctxldLit h d a w k lit s
  | .ectxst h d a w k => Sys2Proof.Machine.execEctxst h d a w k s
  | .ectxstLit h d a w k lit => Sys2Proof.Machine.execEctxstLit h d a w k lit s
  | .tfree h a => Sys2Proof.Machine.execTfree h a s
  | .mma h d a q f => Sys2Proof.Machine.execMma h d a q f s
  | .mld h d a t => Sys2Proof.Machine.execMld h d a t s
  | .mldLit h d a t lit => Sys2Proof.Machine.execMldLit h d a t lit s
  | .mst h d a b => Sys2Proof.Machine.execMst h d a b s
  | .mstLit h d a b lit => Sys2Proof.Machine.execMstLit h d a b lit s
  | .mzero h d t => Sys2Proof.Machine.execMzero h d t s
  | .trace h d a b => Sys2Proof.Machine.execTrace h d a b s
  | .traceLit h d a lit => Sys2Proof.Machine.execTraceLit h d a lit s
  | .beam h d a b => Sys2Proof.Machine.execBeam h d a b s
  | .beamLit h d a lit => Sys2Proof.Machine.execBeamLit h d a lit s
  | .hitget h d a p => Sys2Proof.Machine.execHitget h d a p s
  | .tex h d a b => Sys2Proof.Machine.execTex h d a b s
  | .put h d a b => Sys2Proof.Machine.execPut h d a b s
  | .putLit h d a lit => Sys2Proof.Machine.execPutLit h d a lit s
  | .get h d a b => Sys2Proof.Machine.execGet h d a b s
  | .getLit h d a lit => Sys2Proof.Machine.execGetLit h d a lit s
  | .send h d a b => Sys2Proof.Machine.execSend h d a b s
  | .sendLit h d a lit => Sys2Proof.Machine.execSendLit h d a lit s
  | .rwsend h d a t b => Sys2Proof.Machine.execRwsend h d a t b s
  | .rwsendLit h d a t lit => Sys2Proof.Machine.execRwsendLit h d a t lit s
  | .post h d a => Sys2Proof.Machine.execPost h d a s
  | .cgraph h d a b => Sys2Proof.Machine.execCgraph h d a b s
  | .cgraphLit h d a lit => Sys2Proof.Machine.execCgraphLit h d a lit s
  | .coll h d a b => Sys2Proof.Machine.execColl h d a b s
  | .collLit h d a lit => Sys2Proof.Machine.execCollLit h d a lit s
  | .comp h d a b => Sys2Proof.Machine.execComp h d a b s
  | .compLit h d a lit => Sys2Proof.Machine.execCompLit h d a lit s
  | .br h o => Sys2Proof.Machine.execBr h o s
  | .brn h o => Sys2Proof.Machine.execBrn h o s
  | .call h o => Sys2Proof.Machine.execCall h o s
  | .jr h a => Sys2Proof.Machine.execJr h a s
  | .spawn h d a b lit => Sys2Proof.Machine.execSpawn h d a b lit s
  | .exit h => Sys2Proof.Machine.execExit h s
  | .join h a => Sys2Proof.Machine.execJoin h a s
  | .joink h a => Sys2Proof.Machine.execJoink h a s
  | .leave h => Sys2Proof.Machine.execLeave h s
  | .winb h c b lit => Sys2Proof.Machine.execWinb h c b lit s
  | .yield h => Sys2Proof.Machine.execYield h s
  | .brk h => Sys2Proof.Machine.execBrk h s
  | .cvacc h => Sys2Proof.Machine.execCvacc h s
  | .cvrej h => Sys2Proof.Machine.execCvrej h s
  | .nop h => Sys2Proof.Machine.execNop h s
  | .statrd h d => Sys2Proof.Machine.execStatrd h d s
  | .statclr h b lit => Sys2Proof.Machine.execStatclr h b lit s
  | .csrr h d b lit => Sys2Proof.Machine.execCsrr h d b lit s
  | .haltw h => Sys2Proof.Machine.execHaltw h s
  | .segset h k a => Sys2Proof.Machine.execSegset h k a s
  | .csrw h a b lit => Sys2Proof.Machine.execCsrw h a b lit s
  | .carve h d b lit => Sys2Proof.Machine.execCarve h d b lit s
  | .cinit h d a => Sys2Proof.Machine.execCinit h d a s
  | .ctxsave h d a b lit => Sys2Proof.Machine.execCtxsave h d a b lit s
  | .ctxload h d a b lit => Sys2Proof.Machine.execCtxload h d a b lit s
  | .revoke h d a b lit => Sys2Proof.Machine.execRevoke h d a b lit s
  | .step h d a b lit => Sys2Proof.Machine.execStep h d a b lit s
  | .resultWriteback id => Sys2Proof.Machine.execResultWriteback id s
  | .prioAge uid => Sys2Proof.Machine.execPrioAge uid s
  | .binTimerExpiry bin => Sys2Proof.Machine.execBinTimerExpiry bin s
  | .binLaunch bin => Sys2Proof.Machine.execBinLaunch bin s
  | .spawnDeferredPlacement uid => Sys2Proof.Machine.execSpawnDeferredPlacement uid s
  | .flockAdmit core => Sys2Proof.Machine.execFlockAdmit core s
  | .rotationPoint core => Sys2Proof.Machine.execRotationPoint core s
  | .sweepDeferredEviction core => Sys2Proof.Machine.execSweepDeferredEviction core s
  | .launchQueueEnable m die q v => Sys2Proof.Machine.execLaunchQueueEnable m die q v s
  | .launchQueueDisable m die q v => Sys2Proof.Machine.execLaunchQueueDisable m die q v s
  | .launchRecordTake die q => Sys2Proof.Machine.execLaunchRecordTake die q s
  | .launchRecordPlace die q => Sys2Proof.Machine.execLaunchRecordPlace die q s
  | .counterAdd pkt => Sys2Proof.Machine.execCounterAdd pkt s
  | .counterAddReturn pkt => Sys2Proof.Machine.execCounterAddReturn pkt s
  | .counterRead pkt => Sys2Proof.Machine.execCounterRead pkt s
  | .counterRegisterWait pkt => Sys2Proof.Machine.execCounterRegisterWait pkt s
  | .counterWithdrawWait pkt => Sys2Proof.Machine.execCounterWithdrawWait pkt s
  | .counterSet pkt => Sys2Proof.Machine.execCounterSet pkt s
  | .counterWake pkt => Sys2Proof.Machine.execCounterWake pkt s
  | .counterResponse pkt => Sys2Proof.Machine.execCounterResponse pkt s
  | .cwaitDeadline uid => Sys2Proof.Machine.execCwaitDeadline uid s
  | .apertureAdd port w v => Sys2Proof.Machine.execApertureAdd port w v s
  | .apertureFadd port w v => Sys2Proof.Machine.execApertureFadd port w v s
  | .apertureValueRead port w => Sys2Proof.Machine.execApertureValueRead port w s
  | .apertureArm port w v => Sys2Proof.Machine.execApertureArm port w v s
  | .apertureFired pkt => Sys2Proof.Machine.execApertureFired pkt s
  | .writeApply pkt => Sys2Proof.Machine.execWriteApply pkt s
  | .readRequest pkt => Sys2Proof.Machine.execReadRequest pkt s
  | .readResponse pkt => Sys2Proof.Machine.execReadResponse pkt s
  | .reductionApply pkt => Sys2Proof.Machine.execReductionApply pkt s
  | .redDetContribution pkt => Sys2Proof.Machine.execRedDetContribution pkt s
  | .acknowledgement pkt => Sys2Proof.Machine.execAcknowledgement pkt s
  | .wcDrain core => Sys2Proof.Machine.execWcDrain core s
  | .tlbiGo m die v => Sys2Proof.Machine.execTlbiGo m die v s
  | .tlbiComplete die => Sys2Proof.Machine.execTlbiComplete die s
  | .atsTranslationCompletion port req status present w bus => Sys2Proof.Machine.execAtsTranslationCompletion port req status present w bus s
  | .atsInvalidationRequest port pasid va pages => Sys2Proof.Machine.execAtsInvalidationRequest port pasid va pages s
  | .invalidationCompletion port n => Sys2Proof.Machine.execInvalidationCompletion port n s
  | .pageRequestResponse port req result => Sys2Proof.Machine.execPageRequestResponse port req result s
  | .pageRequestTimeout port req => Sys2Proof.Machine.execPageRequestTimeout port req s
  | .carveGrowComplete core => Sys2Proof.Machine.execCarveGrowComplete core s
  | .fenceComplete uid => Sys2Proof.Machine.execFenceComplete uid s
  | .sweepStart core => Sys2Proof.Machine.execSweepStart core s
  | .sweepGroupWriteback core => Sys2Proof.Machine.execSweepGroupWriteback core s
  | .elementWake pkt => Sys2Proof.Machine.execElementWake pkt s
  | .tfreeComplete uid => Sys2Proof.Machine.execTfreeComplete uid s
  | .copyComplete op => Sys2Proof.Machine.execCopyComplete op s
  | .mmaComplete core => Sys2Proof.Machine.execMmaComplete core s
  | .mstChunkAdd id => Sys2Proof.Machine.execMstChunkAdd id s
  | .rayComplete id => Sys2Proof.Machine.execRayComplete id s
  | .beamStart harrow => Sys2Proof.Machine.execBeamStart harrow s
  | .coverageResolve harrow => Sys2Proof.Machine.execCoverageResolve harrow s
  | .putArrival msg => Sys2Proof.Machine.execPutArrival msg s
  | .getArrival msg => Sys2Proof.Machine.execGetArrival msg s
  | .sendArrival msg => Sys2Proof.Machine.execSendArrival msg s
  | .nackReceive msg => Sys2Proof.Machine.execNackReceive msg s
  | .networkOpComplete msg => Sys2Proof.Machine.execNetworkOpComplete msg s
  | .rwsendChannelAssign die ch => Sys2Proof.Machine.execRwsendChannelAssign die ch s
  | .remoteWorkRecordReceive msg => Sys2Proof.Machine.execRemoteWorkRecordReceive msg s
  | .arrivalAddition id => Sys2Proof.Machine.execArrivalAddition id s
  | .revokeComplete die region => Sys2Proof.Machine.execRevokeComplete die region s
  | .armedRequestFire pkt => Sys2Proof.Machine.execArmedRequestFire pkt s
  | .cgraphBind op => Sys2Proof.Machine.execCgraphBind op s
  | .replayStart die => Sys2Proof.Machine.execReplayStart die s
  | .notBeforeExpiry die node => Sys2Proof.Machine.execNotBeforeExpiry die node s
  | .graphNodeStart die node => Sys2Proof.Machine.execGraphNodeStart die node s
  | .collectiveChunkReceive msg => Sys2Proof.Machine.execCollectiveChunkReceive msg s
  | .graphNodeComplete die node => Sys2Proof.Machine.execGraphNodeComplete die node s
  | .compComplete op => Sys2Proof.Machine.execCompComplete op s
  | .inswDiscovery die present treeExact => Sys2Proof.Machine.execInswDiscovery die present treeExact s
  | .inswRefusal die node => Sys2Proof.Machine.execInswRefusal die node s
  | .linkSwingDirWrite m die peer v => Sys2Proof.Machine.execLinkSwingDirWrite m die peer v s
  | .swingTurnComplete die peer group => Sys2Proof.Machine.execSwingTurnComplete die peer group s
  | .flitReceive die peer flit => Sys2Proof.Machine.execFlitReceive die peer flit s
  | .retryRequest die peer seqno => Sys2Proof.Machine.execRetryRequest die peer seqno s
  | .laneDiagnosis die peer repaired swing group => Sys2Proof.Machine.execLaneDiagnosis die peer repaired swing group s
  | .managementPacket pkt => Sys2Proof.Machine.execManagementPacket pkt s
  | .ptpMessage die off bound => Sys2Proof.Machine.execPtpMessage die off bound s
  | .ptpLockLost die off => Sys2Proof.Machine.execPtpLockLost die off s
  | .peerLost die module pdie => Sys2Proof.Machine.execPeerLost die module pdie s
  | .portPeerClrGo m die v => Sys2Proof.Machine.execPortPeerClrGo m die v s
  | .haltCmdHalt m die slot => Sys2Proof.Machine.execHaltCmdHalt m die slot s
  | .haltCmdThawArm m die slot => Sys2Proof.Machine.execHaltCmdThawArm m die slot s
  | .haltCmdGo m die slot => Sys2Proof.Machine.execHaltCmdGo m die slot s
  | .haltCmdStep m die slot skind score slane sslot => Sys2Proof.Machine.execHaltCmdStep m die slot skind score slane sslot s
  | .haltTokenHalt msg => Sys2Proof.Machine.execHaltTokenHalt msg s
  | .haltTokenThawArm msg => Sys2Proof.Machine.execHaltTokenThawArm msg s
  | .haltTokenGo msg => Sys2Proof.Machine.execHaltTokenGo msg s
  | .haltDrained die slot => Sys2Proof.Machine.execHaltDrained die slot s
  | .haltDrainTimeout die slot => Sys2Proof.Machine.execHaltDrainTimeout die slot s
  | .haltGoAtT die slot => Sys2Proof.Machine.execHaltGoAtT die slot s
  | .stepComplete die slot => Sys2Proof.Machine.execStepComplete die slot s
  | .warmReset m die v => Sys2Proof.Machine.execWarmReset m die v s
  | .coldReset m die v ftime => Sys2Proof.Machine.execColdReset m die v ftime s
  | .powerUp ftime => Sys2Proof.Machine.execPowerUp ftime s
  | .powerOff => Sys2Proof.Machine.execPowerOff s
  | .imageLoadGo m die v => Sys2Proof.Machine.execImageLoadGo m die v s
  | .imageCheckComplete => Sys2Proof.Machine.execImageCheckComplete s
  | .getVersion port => Sys2Proof.Machine.execGetVersion port s
  | .getCapabilities port => Sys2Proof.Machine.execGetCapabilities port s
  | .negotiateAlgorithms port => Sys2Proof.Machine.execNegotiateAlgorithms port s
  | .getDigests port => Sys2Proof.Machine.execGetDigests port s
  | .getCertificate port => Sys2Proof.Machine.execGetCertificate port s
  | .challenge port nonce => Sys2Proof.Machine.execChallenge port nonce s
  | .getMeasurements port => Sys2Proof.Machine.execGetMeasurements port s
  | .modIdWrite m die v => Sys2Proof.Machine.execModIdWrite m die v s
  | .jobKillGo m die v => Sys2Proof.Machine.execJobKillGo m die v s
  | .jobKillComplete die => Sys2Proof.Machine.execJobKillComplete die s
  | .unitOffGo m die v => Sys2Proof.Machine.execUnitOffGo m die v s
  | .eccScrub place => Sys2Proof.Machine.execEccScrub place s
  | .hostBar4Read port addr n => Sys2Proof.Machine.execHostBar4Read port addr n s
  | .hostBar4Write port addr n v => Sys2Proof.Machine.execHostBar4Write port addr n v s
  | .hostCompletionTimeout port req kind => Sys2Proof.Machine.execHostCompletionTimeout port req kind s
  | .hostPortLinkDown port => Sys2Proof.Machine.execHostPortLinkDown port s
  | .portCeStatusRead m die => Sys2Proof.Machine.execPortCeStatusRead m die s
  | .dieFltLostRead m die => Sys2Proof.Machine.execDieFltLostRead m die s
  | .dieEccRead m die => Sys2Proof.Machine.execDieEccRead m die s
  | .dieLinkErrRead m die peer => Sys2Proof.Machine.execDieLinkErrRead m die peer s
  | .portNackRxRead m die => Sys2Proof.Machine.execPortNackRxRead m die s
  | .portCeFallbkRead m die => Sys2Proof.Machine.execPortCeFallbkRead m die s
  | .portInswRefusedRead m die => Sys2Proof.Machine.execPortInswRefusedRead m die s
  | .dieHaltStateRead m die slot => Sys2Proof.Machine.execDieHaltStateRead m die slot s
  | .registerWrite m die off v => Sys2Proof.Machine.execRegisterWrite m die off v s
  | .unassignedOpcode w => Sys2Proof.Machine.execUnassignedOpcode w s
  | .instructionFetchFault => Sys2Proof.Machine.execInstructionFetchFault s
  | .softError place bits => Sys2Proof.Machine.execSoftError place bits s
  | .msiXUnmask port vec => Sys2Proof.Machine.execMsiXUnmask port vec s
  | .transportRetransmission msg => Sys2Proof.Machine.execTransportRetransmission msg s
  | .hostReservedOffsetAccess m bar addr => Sys2Proof.Machine.execHostReservedOffsetAccess m bar addr s

end Sys2Proof.Machine
end

