-- ==== Sys2Proof/Machine/Run.lean ====
section
/-! DEFINITION. Fetching and running: the issue of a core's next group (02 R41, 10 R221), the passing of time (08 R178, 20 R406), the
choice of what happens next, and the schedule that the model follows when its agenda names nothing. -/

namespace Sys2Proof.Machine

/-! ## Time -/

/-- The state after a step that ends in one. -/
def after (s : State) : Host.Outcome State Fault Refusal → State
  | .next t => t
  | _ => s

/-- The lowest enabled core of each die. -/
def firstCores (s : State) : List Nat := (diesOn s).filterMap fun d => (coresOn s d).head?.map (128 * d + ·)

/-- Cores at a rotation point that they have to take: those with a waiting set, and the first core of each die, which tries again what waits
there (R55, R386, R417). -/
def rotating (s : State) : List Nat :=
  (dedup (s.waitset.map (·.1) ++ firstCores s)).filter fun c => ftime s (dieOf c) % Config.rotationTicks = 0

/-- What happens at each tick: the timers of bins (R38), go tokens at their T (R205) and rotation points (R55). -/
def atTick (s : State) : State :=
  let s1 := (dedup (s.bins.map (·.core))).foldl timeBins s
  let s2 := (s1.halts.filter (·.goT.isSome)).foldl (fun s w => after s (execHaltGoAtT w.die w.slot s)) s1
  (rotating s2).foldl (fun s c => after s (execRotationPoint c s)) s2

/-- Flocks that were chosen as victims and can be evicted now leave their cores (R55, R57). -/
def evictChosen (s : State) : State :=
  (dedup ((s.flocks.filter (·.evicting)).map (·.core))).foldl (fun s c => after s (execSweepDeferredEviction c s)) s

/-- One core cycle passes: the faults detected in it are recorded (R354, R367), and its issue limits end (R41). A tick is four core cycles (R4,
R16), and a die that is ahead of its grandmaster falls back (R406). -/
def tickOne (s : State) : State :=
  let s0 := recordDetected (raiseLate s)
  let s1 := evictChosen { s0 with cycle := s0.cycle + 1, issuedNow := [], lanesNow := [], passed := [] }
  let s2 := if s1.cycle % 8 = 0 then slewTick s1 s1.slew else s1
  if s2.cycle % 4 = 0 then atTick s2 else s2

/-- Core cycles pass. -/
def tick : Nat → State → State
  | 0, s => s
  | n + 1, s => tick n (tickOne s)

/-! ## Issue -/

/-- Then, on the state after a step. -/
def andThen (f : State → State) : Host.Outcome State Fault Refusal → Host.Outcome State Fault Refusal
  | .next s => .next (f s)
  | .fault e => .fault e
  | .refused e => .refused e

/-- A wait after which the word at PC issues: it has taken no effect. -/
def Waiting.retries : Waiting → Bool
  | .none => true
  | .results => true
  | .room _ => true
  | .before _ => true
  | .page _ => true
  | _ => false

/-- Threads of the group that a step runs have issued: they are gone, trapped, or past the word (R204). -/
def didIssue (s : State) (u : Nat) : Bool :=
  match findThread s u with
  | none => true
  | some t => t.trapped || t.last == s.cycle + 1 || !t.wait.retries

/-- Stepped threads that have issued stop again (R204). -/
def markStepped (g : List Nat) (s : State) : State :=
  { s with halts := s.halts.map fun w =>
      let now := w.stepping.filter fun u => has g u && didIssue s u
      { w with stepping := w.stepping.filter (fun u => !has now u), stepped := w.stepped ++ now } }

/-- The core whose group is to issue is in focus, and the cycle is one in which it has a group left to issue (R41). -/
def readyCore (s : State) (core : Nat) : State :=
  let s0 := { s with focus := core }
  if (nextGroup s0 core).isEmpty && !(eligibleOn s0 core).isEmpty then tickOne s0 else s0

/-- The instruction that the group of these threads fetches: for each thread its word is fetched, and that of the first is run (R94,
R221). `failed` when one of the fetches does not succeed. -/
def groupFetch (s : State) (t : Thread) (r : List Thread) : State × Fetched :=
  match fetchGroup s {} (r.map (·.uid)) with
  | (s1, acc) =>
    if acc.fails.isEmpty && acc.waits.isEmpty then fetchInstr s1 t else (s, .failed)

/-- What the group does with what it has fetched. -/
def runFetched (s0 : State) : State × Fetched → Host.Outcome State Fault Refusal
  | (s1, .instr i) => exec i s1
  | (s1, .unassigned w) => execUnassignedOpcode w s1
  | (_, .failed) => execInstructionFetchFault s0

/-- Class of what a group issues: 1 scalar, 2 memory and engine (R41). -/
def Fetched.cls : Fetched → Nat
  | .instr i => match i.fields with
    | some f => f.1.cl.toNat
    | none => 0
  | .unassigned w => bits w.toNat 31 30
  | .failed => 0

/-- A core has issued all that it may of a class in this cycle: one scalar word, two memory and engine words (R41). -/
def classFull (s : State) (core c : Nat) : Bool := (c == 1 && 1 ≤ issuedOn s core (some 1)) || (c == 2 && 2 ≤ issuedOn s core (some 2))

/-- Groups whose class is full are passed over in this cycle (R41). -/
def passGroups : Nat → State → Nat → State
  | 0, s, _ => s
  | n + 1, s, core =>
    match nextGroup s core with
    | [] => s
    | t :: r =>
      if classFull s core (groupFetch s t r).2.cls then passGroups n { s with passed := s.passed ++ (t :: r).map (·.uid) } core else s

/-- The state in which a core issues: a cycle passes when it can issue nothing more in this one. -/
def issueState (s : State) (core : Nat) : State :=
  let s0 := readyCore s core
  let s1 := passGroups (s0.threads.length + 1) s0 core
  if (nextGroup s1 core).isEmpty && !(eligibleOn s1 core).isEmpty then tickOne s1 else s1

/-- Whether a place is a register or tile that the issue of a group may read. -/
def nearGroup (t : Thread) (us : List Nat) : Place → Bool
  | .vreg u _ => has us u
  | .sreg c f _ => c == t.core && f == t.flock
  | .tile c f _ _ => c == t.core && f == t.flock
  | _ => false

/-- Groups that have formed anew in the flock of an issue, out of threads that stood in several groups before, become eligible now (R41). -/
def regroup (old : State) (t : Thread) (s : State) : State :=
  let mine : State → List Thread := fun s => (eligibleOn s t.core).filter fun u => u.flock == t.flock
  let was := (mine old).map fun u => (groupOf (mine old) u).map (·.uid)
  let now := (mine s).map fun u => (groupOf (mine s) u).map (·.uid)
  let fresh := (now.filter fun g => !was.any fun h => g.all (has h)).flatten
  if fresh.isEmpty then s else modThreads s fresh fun u => { u with age := s.cycle + 1 }

/-- A core issues its next group (R41, R221). The issue checks the code words of the group's registers and tiles (R358). -/
def issueStep (core : Nat) (s : State) : Host.Outcome State Fault Refusal :=
  let s0 := issueState s core
  match nextGroup s0 core with
  | [] => .next s0
  | t :: r =>
    let us := (t :: r).map (·.uid)
    let s1 := eccRead s0 (nearGroup t us)
    let f := groupFetch s1 t r
    andThen (fun s2 => markStepped us (regroup s1 t { s2 with
      issuedNow := s2.issuedNow ++ [(core, f.2.cls)], lanesNow := s2.lanesNow ++ (t :: r).map fun u => (core, u.lane) })) (runFetched s1 f)

/-! ## The model's own schedule -/

/-- The steps that a packet can take. -/
def packetSteps (p : Packet) : List (State → Host.Outcome State Fault Refusal) :=
  match p.body with
  | .write _ _ => [execWriteApply p.id]
  | .read _ _ _ _ _ => [execReadRequest p.id]
  | .readResp _ _ _ _ _ => [execReadResponse p.id]
  | .red _ _ _ => [execReductionApply p.id]
  | .redDet _ _ _ _ _ _ _ => [execRedDetContribution p.id]
  | .ctr _ (.add _) => [execCounterAdd p.id]
  | .ctr _ (.addRet _ _) => [execCounterAddReturn p.id]
  | .ctr _ (.read _) => [execCounterRead p.id]
  | .ctr _ (.wait _) => [execCounterRegisterWait p.id]
  | .ctr _ (.withdraw _ _) => [execCounterWithdrawWait p.id]
  | .ctr _ (.set _) => [execCounterSet p.id]
  | .ctrResp _ _ _ => [execCounterResponse p.id]
  | .wake w =>
    match w.kind with
    | 3 => [execArmedRequestFire p.id]
    | 5 => [execElementWake p.id]
    | 6 => [execApertureFired p.id]
    | _ => [execCounterWake p.id]
  | .ack => [execAcknowledgement p.id]
  | .tlbi _ _ _ _ => [execManagementPacket p.id]
  | .capChange _ _ _ => [execManagementPacket p.id]

/-- The steps that a message can take. -/
def messageSteps (m : NetMsg) : List (State → Host.Outcome State Fault Refusal) :=
  match m.body with
  | .put _ _ _ _ _ => [execPutArrival m.id]
  | .getReq _ _ _ _ _ => [execGetArrival m.id]
  | .getData _ => [execNetworkOpComplete m.id]
  | .send _ _ _ _ => [execSendArrival m.id]
  | .rw _ _ _ _ _ => [execRemoteWorkRecordReceive m.id]
  | .done => [execNetworkOpComplete m.id]
  | .nack _ => [execNackReceive m.id]
  | .chunk _ => [execCollectiveChunkReceive m.id]
  | .chunkAck _ _ => []
  | .token opc _ _ _ _ _ _ => if opc = 0 then [execHaltTokenHalt m.id] else if opc = 1 then [execHaltTokenThawArm m.id] else [execHaltTokenGo m.id]

/-- The steps that a thread's wait can take. -/
def waitSteps (s : State) (t : Thread) : List (State → Host.Outcome State Fault Refusal) :=
  (match t.wait with
  | .cwait _ _ _ (some _) _ _ _ _ => [execCwaitDeadline t.uid]
  | .fence _ _ => [execFenceComplete t.uid]
  | .before _ => [execFenceComplete t.uid]
  | .tfree _ _ => [execTfreeComplete t.uid]
  | .carve _ _ _ => [execCarveGrowComplete t.core]
  | _ => []) ++ (if !t.aged && eligible s t && t.age + 4096 ≤ s.cycle then [execPrioAge t.uid] else [])

/-- The steps of the engines of cores and dies. -/
def engineSteps (s : State) : List (State → Host.Outcome State Fault Refusal) :=
  s.copies.map (fun o => execCopyComplete o.id) ++ s.mmas.map (fun o => execMmaComplete o.core) ++ s.chunks.map (fun c => execMstChunkAdd c.id) ++
    s.rays.map (fun o => execRayComplete o.id) ++ s.beams.flatMap (fun o => [execCoverageResolve o.harrow, execBeamStart o.harrow]) ++
    s.sweeps.flatMap (fun o => [execSweepGroupWriteback o.core, execSweepStart o.core]) ++
    s.portOps.flatMap (fun o => match o.kind with
      | .cgraph => [execCgraphBind o.id]
      | .coll => [execReplayStart o.die]
      | .comp => [execCompComplete o.id]
      | .rwsend _ => [execRwsendChannelAssign o.die o.conn]
      | _ => if canStart s o then [execPutArrival 0] else []) ++
    s.replays.flatMap (fun r => (upFrom 0 r.nodes.length).flatMap fun n => [execGraphNodeComplete r.die n, execGraphNodeStart r.die n]) ++
    s.arrivals.map (fun a => execArrivalAddition a.id) ++ s.revokes.map (fun r => execRevokeComplete r.die r.region) ++
    s.lqs.flatMap (fun x => [execLaunchRecordTake x.die x.q, execLaunchRecordPlace x.die x.q])

/-- The steps of scheduling: bins, waiting spawns, admission, rotation points. -/
def schedSteps (s : State) : List (State → Host.Outcome State Fault Refusal) :=
  s.bins.flatMap (fun b => [execBinTimerExpiry b.id, execBinLaunch b.id]) ++
    s.placing.map (fun p => execSpawnDeferredPlacement (p.group.head?.getD (2 ^ 64 + p.core))) ++
    s.waitset.map (fun p => execFlockAdmit p.1) ++
    (s.flocks.filter (·.evicting)).map (fun f => execSweepDeferredEviction f.core) ++ (rotating s).map execRotationPoint

/-- The next flit of each link arrives (R173). -/
def flitSteps (s : State) : List (State → Host.Outcome State Fault Refusal) :=
  s.links.filterMap fun l =>
    let rx := (linkEnd s l.peer l.die).rx
    if rx < l.tx then (l.kept[l.tx - 1 - rx]?).map fun f => execFlitReceive l.peer l.die f else none

/-- The steps of the halt wave, of invalidations, resets and time-outs. -/
def systemSteps (s : State) : List (State → Host.Outcome State Fault Refusal) :=
  s.halts.flatMap (fun w => [execHaltDrained w.die w.slot, execStepComplete w.die w.slot, execHaltGoAtT w.die w.slot, execHaltDrainTimeout w.die w.slot]) ++
    s.tlbis.map (fun t => execTlbiComplete t.die) ++ s.kills.map (fun k => execJobKillComplete k.1) ++
    s.atsInvs.map (fun a => execInvalidationCompletion a.port a.id) ++
    (s.pageReqs.filter (·.asked)).map (fun r => execPageRequestTimeout r.port r.id) ++
    s.links.flatMap (fun l => l.turning.map fun g => execSwingTurnComplete l.die l.peer g.1) ++ flitSteps s ++
    (if s.imgPort.isSome then [execImageCheckComplete] else [])

/-- The steps of other agents that may be due, in the model's order. -/
def dueSteps (s : State) : List (State → Host.Outcome State Fault Refusal) :=
  s.results.map (fun r => execResultWriteback r.id) ++ s.packets.flatMap packetSteps ++ s.fabric.flatMap messageSteps ++
    s.threads.flatMap (waitSteps s) ++ s.fifo.map (fun e => execWcDrain e.core) ++ s.wc.map (fun w => execWcDrain (4096 + w.core)) ++ engineSteps s ++
    schedSteps s ++ systemSteps s

/-- The first step of another agent that changes the state. -/
def firstDue (s : State) : List (State → Host.Outcome State Fault Refusal) → Option (Host.Outcome State Fault Refusal)
  | [] => none
  | f :: r =>
    match f s with
    | .next t => if t = s then firstDue s r else some (.next t)
    | o => some o

/-- The cores that have an eligible thread, from the one in focus on. -/
def issuingCores (s : State) : List Nat :=
  let cs := dedup ((s.threads.filter (eligible s)).map (·.core))
  sortBy id (cs.filter fun c => s.focus < c) ++ sortBy id (cs.filter fun c => c ≤ s.focus)

/-- What happens when the agenda is empty: a step of another agent that is due, else the issue of a group, else a core cycle. -/
def ownStep (s : State) : Host.Outcome State Fault Refusal :=
  match firstDue s (dueSteps s) with
  | some o => o
  | none =>
    match issuingCores s with
    | c :: _ => issueStep c s
    | [] => .next (tickOne s)

/-! ## The agenda -/

/-- A step of another agent: the rows of the table that are no instruction words. An instruction word is run by its group's issue
alone. -/
def eventStep (i : Instr) (s : State) : Host.Outcome State Fault Refusal := if i.fields.isSome then .next s else exec i s

/-- A message arrives from another module. -/
def injectStep (m : NetMsg) (s : State) : State := if m.smod = moduleId s then s else sendMsg s { m with sends := 1 }

/-- Memory outside the module changes. -/
def outsideStep (addr : Nat) (b : Byte) (s : State) : State := if addr < 2 ^ 48 then s else memWrite s addr [b]

/-- What an entry of the agenda does. -/
def agendaStep (a : Agenda) (s : State) : Host.Outcome State Fault Refusal :=
  match a with
  | .event i => eventStep i s
  | .issue c => issueStep c s
  | .idle n => .next (tick n s)
  | .inject m => .next (injectStep m s)
  | .peer p => .next (peerStep p s)
  | .hostRead port bar addr => .next (hostRead port bar addr s)
  | .hostMsix port addr v => .next (hostMsix port addr v s)
  | .copyPart op rows bytes => .next (copyPart op rows bytes s)
  | .mixRead rd wr new => .next (mixRead rd wr new s)
  | .mixWrite a b first => .next (mixWrite a b first s)
  | .outside addr b => .next (outsideStep addr b s)

/-- A module that is off waits for power (R340). -/
def offStep (s : State) : Host.Outcome State Fault Refusal :=
  match s.agenda with
  | .event (.powerUp ft) :: r => execPowerUp ft { s with agenda := r }
  | _ => .fault .poweredOff

/-- What follows every step: traffic to lost endpoints and over downed links fails (R396, R398, R399), and what has left its sender goes onto
its link (R173, R174). -/
def settleLinks (s : State) : State := emitAll (failLost s)

/-- One step of the machine. -/
def runStep (s : State) : Host.Outcome State Fault Refusal :=
  if s.power = .off then offStep s
  else andThen settleLinks (match s.agenda with
    | [] => ownStep s
    | a :: r => agendaStep a { s with agenda := r })

/-! ## Placing a word where the next step fetches -/

/-- A core that has a group which can issue at once. -/
def coreWithGroup (s : State) : Option Nat :=
  if !(nextGroup s s.focus).isEmpty then some s.focus
  else (issuingCores s).find? fun c => !(nextGroup s c).isEmpty

/-- A supervisor thread placed as the boot flock's threads are (R338), on a core that has none: it stands at address 0 of HBM of its
die, and alone in its flock. -/
def placeOne (s : State) (core : Nat) : State :=
  let idx := freeIndex s core
  let t : Thread := { bootThread s core 0 0 with flock := idx, tnum := 0#32, age := s.cycle }
  { s with
    power := .run
    flocks := s.flocks ++ [{ Flock.blank with core := core, idx := idx, job := supJob, prio := 3, since := ftime s (dieOf core) }]
    threads := s.threads ++ [t]
    fresh := s.fresh + 1 }

/-- The place that a thread's fetch at its PC reads. -/
def pcPlace (s : State) (t : Thread) : Nat :=
  match (xlate s (dieOf t.core) t.job t.pc.toNat false true).2 with
  | .at k _ => k
  | _ => t.pc.toNat

/-- The state with a word and its literal stored where the next step fetches, and the next step an issue. -/
def placeWord (s : State) (nbits w : Nat) : State :=
  let s1 := match coreWithGroup s with
    | some c => { s with focus := c }
    | none => { placeOne s s.focus with focus := s.focus }
  match nextGroup s1 s1.focus with
  | [] => s1
  | t :: _ => { memWrite s1 (pcPlace s1 t) (bytesOfNat 8 (w % 2 ^ nbits)) with agenda := [.issue s1.focus] }

end Sys2Proof.Machine
end

