-- ==== Sys2Proof/Machine/Step.lean ====
section
/-! DEFINITION. The step of the machine, and the state with a word placed where the next step fetches it. -/

namespace Sys2Proof.Machine

/-- One step: what the agenda names next, or what the model's own schedule chooses (log entry 3). -/
def step (s : State) : Host.Outcome State Fault Refusal := runStep s

/-- The state with an instruction stored where the next step fetches it, which then issues it (log entry 4). -/
def State.withFetchWord (s : State) (nbits w : Nat) : State := placeWord s nbits w

end Sys2Proof.Machine
end

