-- ==== Sys2Proof/Safety.lean ====
section
/-! DEFINITION. What a safe run is, the canonical form of the state's sparse data, and the words in which the claims are written: a word
that starts, what each active thread meets in its turn, and the state that a word leaves. -/

namespace Sys2Proof.Safety

open Sys2Proof.Machine

/-! ## Runs -/

/-- The machine goes on from this state. -/
def Goes (s : State) : Prop := ∃ t, step s = .next t

/-- `n` steps lead from one state to another. -/
def Leads : Nat → State → State → Prop
  | 0, s, t => s = t
  | n + 1, s, t => ∃ u, step s = .next u ∧ Leads n u t

/-- A run of `n` steps from this state meets neither a fault nor a refusal. -/
def SafeFor (n : Nat) (s : State) : Prop := ∃ t, Leads n s t

/-- Memory, local store and counter cells are in canonical form: keys strictly rising, and no entry equal to what an unlisted key reads
as. -/
def Canonical (s : State) : Bool := Memory.wf s.mem && mapWf 0#8 s.locl && mapWf 0#64 s.cells

/-! ## The issue of a word (10 R217 to R221) -/

/-- A word starts at the core in focus for the issue group `i`: at most 31 results of an active thread are in flight (10 R220), and a
word that acts after every result (`last`) finds none. -/
def Starts (s : State) (f : Fields) (last : Bool) (i : Issue) : Prop :=
  mkIssue s f = some i ∧ tooMany s i = false ∧ (last = true → pending s i = false)

/-- What the group finds: the s writes that other groups of its flock issued earlier are done (02 R44). -/
def found (s : State) (i : Issue) : State := interlock s i.core i.flock i.group

/-- A word that acts in each thread by ascending lane (10 R221), changing the state by `f`: each thread meets `P` in its turn. -/
def Turns (f : State → Nat → State) (P : State → Nat → Prop) : State → List Nat → Prop
  | _, [] => True
  | s, u :: r => P s u ∧ Turns f P (f s u) r

/-- The register effects `g` of the threads, each in its turn. -/
def turnEff (f : State → Nat → State) (g : State → Nat → Eff) : State → List Nat → Eff → Eff
  | _, [], e => e
  | s, u :: r, e => turnEff f g (f s u) r (e.append (g s u))

/-- The checks of a word pass in a thread: registers in the allocation, tiles held, no open switch region under CORE_STRICT, accepted
tags, operands within their limits, no poisoned register (18 R365 checks 4 to 7, 17 R358). -/
def Passes (guard : Bool) (n : Thread → Names) (s : State) (u : Nat) : Prop :=
  checkThread s (threadOf s u) guard (n (threadOf s u)) = none

/-- The registers that a word writes in each thread, for the switch regions of CORE_STRICT (18 R371). -/
def writes (s1 : State) (i : Issue) (n : Thread → Names) (u : Nat) : List Target :=
  if u ∈ i.act then writtenBy (threadOf s1 u) (n (threadOf s1 u)) else []

/-- The result of a word in flight (02 R46): none where it has no register effect. -/
def inFlight (s : State) (i : Issue) (e : Eff) : List Result :=
  if e.v = [] ∧ e.s = [] ∧ e.g = [] ∧ e.st = [] then []
  else [{ Result.empty with
    id := s.fresh
    at_ := s.cycle + 1
    uids := if e.s = [] then i.act.filter fun u => e.v.any (·.uid == u) || e.g.any (·.1 == u) || e.st.any (·.1 == u) else i.act
    v := e.v
    s := e.s
    g := e.g
    st := e.st.filter fun p => p.2 ≠ 0#16 }]

/-- A thread of the group after the word (10 R221, 02 R40, R46): its PC is the branch target that the word gives it or the next word;
with the switch bit it parks until its results are written, and its switch region ends; it has issued in this cycle. -/
def movedOn (s : State) (i : Issue) (e : Eff) (w : Nat → List Target) (t : Thread) : Thread :=
  let waits := (s.results ++ inFlight s i e).any fun r => has r.uids t.uid
  let split := i.group.any (fun u => e.pc.any (·.1 == u)) && i.group.any (fun u => !e.pc.any (·.1 == u))
  { t with
    pc := match e.pc.find? (·.1 == t.uid) with
      | some p => p.2
      | none => i.pc + BitVec.ofNat 57 i.len
    parked := i.sbit && waits
    region := if i.sbit then [] else if has s.strict i.core then t.region ++ w t.uid else t.region
    age := if split || (i.sbit && !waits) then s.cycle + 1 else t.age
    last := s.cycle + 1
    aged := false }

/-- A thread that reads %ftlo or %cyclo latches the high half (10 R213). -/
def latched (s : State) (sel : Nat) (t : Thread) : Thread :=
  if sel = 104 then { t with ftHi := BitVec.ofNat 32 (ftime s (dieOf t.core) / 2 ^ 32) }
  else if sel = 114 then { t with cycHi := BitVec.ofNat 32 (s.cycle / 2 ^ 32) }
  else t

/-- The state that a word leaves whose threads have made the state `s` and whose register effect is `e`: nothing else changes. `sel` is
its selector B, and `lat` the threads that read it. -/
def wordDone (s : State) (i : Issue) (e : Eff) (w : Nat → List Target) (sel : Nat) (lat : List Nat) : State :=
  { s with
    threads := s.threads.map fun t =>
      let t1 := if t.uid ∈ lat then latched s sel t else t
      if t.uid ∈ i.group then movedOn s i e w t1 else t1
    results := s.results ++ inFlight s i e
    fresh := s.fresh + (inFlight s i e).length }

/-- What a word with register effects alone leaves unchanged: every byte of memory, of local store and of the device registers, every
counter, flock (its s registers and tiles among it), packet, store in flight, waiter and operation of an engine, and of every thread the
registers, the guard bit, STATUS, the window and the segments. Its results come later, by the result's write-back. -/
def Frame (s t : State) : Prop :=
  (∀ a, memByte t a = memByte s a) ∧ (∀ core off, lsBytes t core off 1 = lsBytes s core off 1) ∧ (∀ h, cellGet t h = cellGet s h) ∧
    { t with threads := s.threads, results := s.results, fresh := s.fresh } = s ∧
    t.threads.map (fun x => (x.uid, x.regs, x.g, x.status, x.wb, x.alloc, x.segG, x.segL, x.segC, x.tnum, x.flock, x.trapped)) =
      s.threads.map (fun x => (x.uid, x.regs, x.g, x.status, x.wb, x.alloc, x.segG, x.segL, x.segC, x.tnum, x.flock, x.trapped))

/-- A word ends in the state `t` and leaves unchanged what `Frame` says. -/
def Retires (o : Host.Outcome State Fault Refusal) (s t : State) : Prop := o = .next t ∧ Frame s t

/-! ## Words that complete -/

/-- The effects of the active threads, joined by ascending lane. -/
def threadsEff (s : State) (i : Issue) (eff : Thread → Eff) : Eff :=
  i.act.foldl (fun e u => e.append (eff (threadOf s u))) {}

/-- What a word's checks read: where its selector B is %gval it reads the guard bit too (18 R371). -/
def readsOf (sel : Option (BitVec 7)) (names : Thread → Names) (t : Thread) : Names :=
  if sel = some 117#7 then { names t with gr := true } else names t

/-- `instr`, whose word has the fields `f`, acts in each active thread: whenever it starts where `pre` holds, and in every active thread the checks of
`names` pass and `ok` holds, it answers the next state in which the effects `eff` of those threads are a result in flight, the group has moved on,
and nothing else has changed. `last`: it acts only after every earlier result; `sel`: its selector B. -/
def DoneWhenIf (pre : State → Issue → Prop) (instr : Instr) (f : Fields) (last : Bool) (names : Thread → Names) (sel : Option (BitVec 7))
    (ok : State → Issue → Thread → Prop) (eff : State → Issue → Thread → Eff) : Prop :=
  ∀ (s : State) (i : Issue), Starts s f last i → pre s i → (∀ u ∈ i.act, Passes f.g (readsOf sel names) (found s i) u ∧ ok (found s i) i (threadOf (found s i) u)) →
    Retires (exec instr s) (found s i)
      (wordDone (found s i) i (threadsEff (found s i) i (eff (found s i) i)) (writes (found s i) i names) ((sel.map BitVec.toNat).getD 0)
        (if sel.isSome then i.act else []))

/-- The same for a word that asks nothing more to start. -/
def DoneWhen (instr : Instr) (f : Fields) (last : Bool) (names : Thread → Names) (sel : Option (BitVec 7))
    (ok : State → Issue → Thread → Prop) (eff : State → Issue → Thread → Eff) : Prop := DoneWhenIf (fun _ _ => True) instr f last names sel ok eff

/-- `instr` fails in each active thread with `trap`: whenever it starts, and in every active thread the checks of `names` pass and `ok` holds, the
active threads are trapped at the word, the others go on, and nothing else of the word takes effect. -/
def TrapsWhen (instr : Instr) (f : Fields) (names : Thread → Names) (sel : Option (BitVec 7)) (ok : State → Issue → Thread → Prop)
    (trap : Trap) : Prop :=
  ∀ (s : State) (i : Issue), Starts s f false i → (∀ u ∈ i.act, Passes f.g (readsOf sel names) (found s i) u ∧ ok (found s i) i (threadOf (found s i) u)) →
    exec instr s = .next (takeTrap (finish (found s i) i i.act [] (writes (found s i) i names)) i (i.act.map fun u => (u, trap)))

/-- The same for a word that asks no more than its checks. -/
def DoneEach (instr : Instr) (f : Fields) (last : Bool) (names : Thread → Names) (sel : Option (BitVec 7))
    (eff : State → Issue → Thread → Eff) : Prop := DoneWhen instr f last names sel (fun _ _ _ => True) eff

/-- The same for a word that acts once for its group; `lead` is the thread in the lowest active lane. -/
def DoneOnce (instr : Instr) (f : Fields) (names : Thread → Names) (sel : Option (BitVec 7))
    (eff : State → Issue → Thread → Eff) : Prop :=
  ∀ (s : State) (i : Issue) (lead : Nat) (rest : List Nat), Starts s f false i → i.act = lead :: rest →
    (∀ u ∈ i.act, Passes f.g (readsOf sel names) (found s i) u) →
    Retires (exec instr s) (found s i)
      (wordDone (found s i) i (eff (found s i) i (threadOf (found s i) lead)) (writes (found s i) i names) ((sel.map BitVec.toNat).getD 0)
        (if sel.isSome then [lead] else []))

/-- Bytes of memory and of local store, and counters, read as before. -/
def KeepsMemory (s t : State) : Prop :=
  (∀ a, memByte t a = memByte s a) ∧ (∀ core off, lsBytes t core off 1 = lsBytes s core off 1) ∧ (∀ h, cellGet t h = cellGet s h)

/-- The same threads are there, each with its registers, guard bit, STATUS, window, segments and flock as before, and none newly trapped. -/
def KeepsThreads (s t : State) : Prop :=
  t.threads.map (fun x => (x.uid, x.regs, x.g, x.status, x.wb, x.alloc, x.segG, x.segL, x.segC, x.tnum, x.flock, x.trapped)) =
    s.threads.map (fun x => (x.uid, x.regs, x.g, x.status, x.wb, x.alloc, x.segG, x.segL, x.segC, x.tnum, x.flock, x.trapped))

/-- The same threads are there, each with its registers, guard bit, thread number and flock as before, and none newly trapped. -/
def KeepsRegs (s t : State) : Prop :=
  t.threads.map (fun x => (x.uid, x.regs, x.g, x.alloc, x.tnum, x.flock, x.trapped)) =
    s.threads.map (fun x => (x.uid, x.regs, x.g, x.alloc, x.tnum, x.flock, x.trapped))

/-- Flocks, with their s registers, tiles, key and priority, and the registers of the management blocks are as before. -/
def KeepsRest (s t : State) : Prop := t.flocks = s.flocks ∧ t.mregs = s.mregs

/-- What a word leaves unchanged that only adds work for the memory system, the counters or an engine: memory, threads, flocks and the registers of
the management blocks. -/
def Quiet (s t : State) : Prop := KeepsMemory s t ∧ KeepsThreads s t ∧ KeepsRest s t

/-- Flocks are as before, and the registers of the management blocks but for the count of errors that a read finds in a code word, DIE_ECC (17 R358). -/
def KeepsRestRead (s t : State) : Prop :=
  t.flocks = s.flocks ∧ ∀ d off, off % 2 ^ 27 ≠ 0x148 → getReg t d off = getReg s d off

/-- What a word leaves unchanged that reads local store, memory or a cache at once, which checks the code words that it reads (17 R358): memory,
threads, flocks and the registers of the management blocks but for the count of errors. -/
def QuietRead (s t : State) : Prop := KeepsMemory s t ∧ KeepsThreads s t ∧ KeepsRestRead s t

/-- `instr`, whose word has the fields `f`, acts in each active thread by ascending lane: whenever it starts (at supervisor level where `priv`, and
where `pre` holds), and each active thread is there in its turn and finds that the checks of `names` pass and `ok` holds, it answers the next
state that the turns make with `turn`, with the register effects `eff` in flight and the group moved on; and `frame` says what that leaves
unchanged. -/
def DoneTurnsIf (pre : State → Issue → Prop) (instr : Instr) (f : Fields) (last priv : Bool) (names : State → Thread → Names)
    (sel : Option (BitVec 7)) (ok : State → Issue → Thread → Prop) (turn : State → Issue → Thread → State) (eff : State → Issue → Thread → Eff)
    (frame : State → State → Prop) : Prop :=
  ∀ (s : State) (i : Issue), Starts s f last i → (priv = true → i.job = supJob) → pre s i →
    Turns (fun x u => turn x i (threadOf x u))
      (fun x u => (threadOf x u).uid = u ∧ Passes f.g (readsOf sel (names s)) x u ∧ ok x i (threadOf x u)) (found s i) i.act →
    ∃ t, exec instr s = .next t ∧ frame (found s i) t ∧
      t = wordDone (i.act.foldl (fun x u => turn x i (threadOf x u)) (found s i)) i
        (turnEff (fun x u => turn x i (threadOf x u)) (fun x u => eff x i (threadOf x u)) (found s i) i.act {})
        (writes (found s i) i (names s)) ((sel.map BitVec.toNat).getD 0) (if sel.isSome then i.act else [])

/-- The same for a word that asks nothing more to start, and whose operands do not depend on the machine. -/
def DoneTurns (instr : Instr) (f : Fields) (last priv : Bool) (names : Thread → Names) (sel : Option (BitVec 7))
    (ok : State → Issue → Thread → Prop) (turn : State → Issue → Thread → State) (eff : State → Issue → Thread → Eff)
    (frame : State → State → Prop) : Prop :=
  DoneTurnsIf (fun _ _ => True) instr f last priv (fun _ => names) sel ok turn eff frame

/-- The same for a word that acts once for its group: `turn` and `eff` are those of the thread in the lowest active lane. -/
def DoneGroupIf (pre : State → Issue → Prop) (instr : Instr) (f : Fields) (last priv : Bool) (names : Thread → Names) (sel : Option (BitVec 7))
    (ok : State → Issue → Thread → Prop) (turn : State → Issue → Thread → State) (eff : State → Issue → Thread → Eff)
    (frame : State → State → Prop) : Prop :=
  ∀ (s : State) (i : Issue) (lead : Nat) (rest : List Nat), Starts s f last i → (priv = true → i.job = supJob) → pre s i → i.act = lead :: rest →
    (∀ u ∈ i.act, Passes f.g (readsOf sel names) (found s i) u) → ok (found s i) i (threadOf (found s i) lead) →
    ∃ t, exec instr s = .next t ∧ frame (found s i) t ∧
      t = wordDone (turn (found s i) i (threadOf (found s i) lead)) i (eff (found s i) i (threadOf (found s i) lead))
        (writes (found s i) i names) ((sel.map BitVec.toNat).getD 0) (if sel.isSome then [lead] else [])

/-- The same for a word that asks nothing more to start. -/
def DoneGroup (instr : Instr) (f : Fields) (last priv : Bool) (names : Thread → Names) (sel : Option (BitVec 7))
    (ok : State → Issue → Thread → Prop) (turn : State → Issue → Thread → State) (eff : State → Issue → Thread → Eff)
    (frame : State → State → Prop) : Prop :=
  DoneGroupIf (fun _ _ => True) instr f last priv names sel ok turn eff frame

end Sys2Proof.Safety
end

