-- ==== Sys2Proof/WellFormed.lean ====
section
/-! DEFINITION. Well-formed instructions: a word whose fields hold no reserved value (18 R368) and whose literal argument is
0 where no literal follows (R209); a step whose indices name units that exist (01 R18). -/

namespace Sys2Proof

/-- A selector B that is not reserved (R211). -/
def selectorOk (b : BitVec 7) : Bool := !(120 ≤ b.toNat && b.toNat ≤ 125)

/-- The literal argument is 0 unless the selector takes a literal (R209). -/
def litOk (b : BitVec 7) (lit : Word) : Bool := b == 126#7 || lit == 0#32

/-- The modifier of a load (R272). -/
def loadModOk (m : BitVec 7) : Bool :=
  let sz := m.toNat % 8
  if sz ≤ 1 then m.toNat / 16 == 0 else sz ≤ 4 && m.toNat / 8 ≤ 11

/-- An s register field of the scalar class (R210). -/
def sregOk (r : BitVec 7) : Bool := r.toNat < 64

/-- A destination format of `cvt` (R247). -/
def cvtDfOk (f : BitVec 7) : Bool := 1 ≤ f.toNat % 16 && f.toNat % 16 ≤ 10

/-- No field holds a reserved value, and indices are in range. -/
def Instr.wellFormed : Instr → Bool
  | .movB32Reg _ _ _ => true
  | .movB32Sel _ _ b lit => selectorOk b && litOk b lit
  | .selB32Reg _ _ _ _ => true
  | .selB32Sel _ _ _ b lit => selectorOk b && litOk b lit
  | .addI32Reg _ _ _ _ => true
  | .addI32Sel _ _ _ b lit => selectorOk b && litOk b lit
  | .addN32Reg _ _ _ _ => true
  | .addN32Sel _ _ _ b lit => selectorOk b && litOk b lit
  | .subI32Reg _ _ _ _ => true
  | .subI32Sel _ _ _ b lit => selectorOk b && litOk b lit
  | .subN32Reg _ _ _ _ => true
  | .subN32Sel _ _ _ b lit => selectorOk b && litOk b lit
  | .mulI32Reg _ _ _ _ => true
  | .mulI32Sel _ _ _ b lit => selectorOk b && litOk b lit
  | .mulN32Reg _ _ _ _ => true
  | .mulN32Sel _ _ _ b lit => selectorOk b && litOk b lit
  | .mulhiI32Reg _ _ _ _ => true
  | .mulhiI32Sel _ _ _ b lit => selectorOk b && litOk b lit
  | .mulhiN32Reg _ _ _ _ => true
  | .mulhiN32Sel _ _ _ b lit => selectorOk b && litOk b lit
  | .minI32Reg _ _ _ _ => true
  | .minI32Sel _ _ _ b lit => selectorOk b && litOk b lit
  | .minN32Reg _ _ _ _ => true
  | .minN32Sel _ _ _ b lit => selectorOk b && litOk b lit
  | .maxI32Reg _ _ _ _ => true
  | .maxI32Sel _ _ _ b lit => selectorOk b && litOk b lit
  | .maxN32Reg _ _ _ _ => true
  | .maxN32Sel _ _ _ b lit => selectorOk b && litOk b lit
  | .andB32Reg _ _ _ _ => true
  | .andB32Sel _ _ _ b lit => selectorOk b && litOk b lit
  | .orB32Reg _ _ _ _ => true
  | .orB32Sel _ _ _ b lit => selectorOk b && litOk b lit
  | .xorB32Reg _ _ _ _ => true
  | .xorB32Sel _ _ _ b lit => selectorOk b && litOk b lit
  | .notB32Reg _ _ _ => true
  | .notB32Sel _ _ b lit => selectorOk b && litOk b lit
  | .shlB32Reg _ _ _ _ => true
  | .shlB32Sel _ _ _ b lit => selectorOk b && litOk b lit
  | .shrN32Reg _ _ _ _ => true
  | .shrN32Sel _ _ _ b lit => selectorOk b && litOk b lit
  | .shrI32Reg _ _ _ _ => true
  | .shrI32Sel _ _ _ b lit => selectorOk b && litOk b lit
  | .popcB32Reg _ _ _ => true
  | .popcB32Sel _ _ b lit => selectorOk b && litOk b lit
  | .clzB32Reg _ _ _ => true
  | .clzB32Sel _ _ b lit => selectorOk b && litOk b lit
  | .cmpI32Reg _ c _ _ => c.toNat ≤ 5
  | .cmpI32Sel _ c _ b lit => selectorOk b && litOk b lit && c.toNat ≤ 5
  | .cmpN32Reg _ c _ _ => c.toNat ≤ 5
  | .cmpN32Sel _ c _ b lit => selectorOk b && litOk b lit && c.toNat ≤ 5
  | .addI64Reg _ _ _ _ => true
  | .addI64Sel _ _ _ b lit => selectorOk b && litOk b lit
  | .addN64Reg _ _ _ _ => true
  | .addN64Sel _ _ _ b lit => selectorOk b && litOk b lit
  | .subI64Reg _ _ _ _ => true
  | .subI64Sel _ _ _ b lit => selectorOk b && litOk b lit
  | .subN64Reg _ _ _ _ => true
  | .subN64Sel _ _ _ b lit => selectorOk b && litOk b lit
  | .addF32Reg _ _ _ _ => true
  | .addF32Sel _ _ _ b lit => selectorOk b && litOk b lit
  | .subF32Reg _ _ _ _ => true
  | .subF32Sel _ _ _ b lit => selectorOk b && litOk b lit
  | .mulF32Reg _ _ _ _ => true
  | .mulF32Sel _ _ _ b lit => selectorOk b && litOk b lit
  | .fmaF32Reg _ _ _ _ => true
  | .fmaF32Sel _ _ _ b lit => selectorOk b && litOk b lit
  | .minF32Reg _ _ _ _ => true
  | .minF32Sel _ _ _ b lit => selectorOk b && litOk b lit
  | .maxF32Reg _ _ _ _ => true
  | .maxF32Sel _ _ _ b lit => selectorOk b && litOk b lit
  | .cmpF32Reg _ c _ _ => c.toNat ≤ 5
  | .cmpF32Sel _ c _ b lit => selectorOk b && litOk b lit && c.toNat ≤ 5
  | .sfnF32Reg _ _ f _ => f.toNat ≤ 6
  | .sfnF32Sel _ _ f b lit => selectorOk b && litOk b lit && f.toNat ≤ 6
  | .addBf16x2Reg _ _ _ _ => true
  | .addBf16x2Sel _ _ _ b lit => selectorOk b && litOk b lit
  | .mulBf16x2Reg _ _ _ _ => true
  | .mulBf16x2Sel _ _ _ b lit => selectorOk b && litOk b lit
  | .fmaBf16x2Reg _ _ _ _ => true
  | .fmaBf16x2Sel _ _ _ b lit => selectorOk b && litOk b lit
  | .addF16x2Reg _ _ _ _ => true
  | .addF16x2Sel _ _ _ b lit => selectorOk b && litOk b lit
  | .mulF16x2Reg _ _ _ _ => true
  | .mulF16x2Sel _ _ _ b lit => selectorOk b && litOk b lit
  | .fmaF16x2Reg _ _ _ _ => true
  | .fmaF16x2Sel _ _ _ b lit => selectorOk b && litOk b lit
  | .cvtReg _ _ f _ => cvtDfOk f
  | .cvtSel _ _ f b lit => selectorOk b && litOk b lit && cvtDfOk f
  | .cvtqE2m1Reg _ _ _ _ => true
  | .cvtqE2m1Sel _ _ _ b lit => selectorOk b && litOk b lit
  | .permB32Reg _ _ _ _ => true
  | .permB32Sel _ _ _ b lit => selectorOk b && litOk b lit
  | .gsetReg _ c _ _ => c.toNat ≤ 3
  | .gsetSel _ c _ b lit => selectorOk b && litOk b lit && c.toNat ≤ 3
  | .tagsetReg _ _ _ _ => true
  | .tagsetSel _ _ _ b lit => selectorOk b && litOk b lit
  | .xlrReg _ _ _ _ => true
  | .xlrSel _ _ _ b lit => selectorOk b && litOk b lit
  | .rngkReg _ _ _ _ => true
  | .rngkSel _ _ _ b lit => selectorOk b && litOk b lit
  | .smovB32 _ d b lit => selectorOk b && litOk b lit && sregOk d
  | .saddI32 _ d a b lit => selectorOk b && litOk b lit && sregOk d && sregOk a
  | .saddN32 _ d a b lit => selectorOk b && litOk b lit && sregOk d && sregOk a
  | .ssubI32 _ d a b lit => selectorOk b && litOk b lit && sregOk d && sregOk a
  | .ssubN32 _ d a b lit => selectorOk b && litOk b lit && sregOk d && sregOk a
  | .smulI32 _ d a b lit => selectorOk b && litOk b lit && sregOk d && sregOk a
  | .smulN32 _ d a b lit => selectorOk b && litOk b lit && sregOk d && sregOk a
  | .smulhiI32 _ d a b lit => selectorOk b && litOk b lit && sregOk d && sregOk a
  | .smulhiN32 _ d a b lit => selectorOk b && litOk b lit && sregOk d && sregOk a
  | .sminI32 _ d a b lit => selectorOk b && litOk b lit && sregOk d && sregOk a
  | .sminN32 _ d a b lit => selectorOk b && litOk b lit && sregOk d && sregOk a
  | .smaxI32 _ d a b lit => selectorOk b && litOk b lit && sregOk d && sregOk a
  | .smaxN32 _ d a b lit => selectorOk b && litOk b lit && sregOk d && sregOk a
  | .sandB32 _ d a b lit => selectorOk b && litOk b lit && sregOk d && sregOk a
  | .sorB32 _ d a b lit => selectorOk b && litOk b lit && sregOk d && sregOk a
  | .sxorB32 _ d a b lit => selectorOk b && litOk b lit && sregOk d && sregOk a
  | .snotB32 _ d b lit => selectorOk b && litOk b lit && sregOk d
  | .sshlB32 _ d a b lit => selectorOk b && litOk b lit && sregOk d && sregOk a
  | .sshrN32 _ d a b lit => selectorOk b && litOk b lit && sregOk d && sregOk a
  | .sshrI32 _ d a b lit => selectorOk b && litOk b lit && sregOk d && sregOk a
  | .spopcB32 _ d b lit => selectorOk b && litOk b lit && sregOk d
  | .sclzB32 _ d b lit => selectorOk b && litOk b lit && sregOk d
  | .scmpI32 _ c a b lit => selectorOk b && litOk b lit && c.toNat ≤ 5 && sregOk a
  | .scmpN32 _ c a b lit => selectorOk b && litOk b lit && c.toNat ≤ 5 && sregOk a
  | .saddI64 _ d a b lit => selectorOk b && litOk b lit && sregOk d && sregOk a
  | .saddN64 _ d a b lit => selectorOk b && litOk b lit && sregOk d && sregOk a
  | .ssubI64 _ d a b lit => selectorOk b && litOk b lit && sregOk d && sregOk a
  | .ssubN64 _ d a b lit => selectorOk b && litOk b lit && sregOk d && sregOk a
  | .saddF32 _ d a b lit => selectorOk b && litOk b lit && sregOk d && sregOk a
  | .ssubF32 _ d a b lit => selectorOk b && litOk b lit && sregOk d && sregOk a
  | .smulF32 _ d a b lit => selectorOk b && litOk b lit && sregOk d && sregOk a
  | .sfmaF32 _ d a b lit => selectorOk b && litOk b lit && sregOk d && sregOk a
  | .sminF32 _ d a b lit => selectorOk b && litOk b lit && sregOk d && sregOk a
  | .smaxF32 _ d a b lit => selectorOk b && litOk b lit && sregOk d && sregOk a
  | .scmpF32 _ c a b lit => selectorOk b && litOk b lit && c.toNat ≤ 5 && sregOk a
  | .ssfnF32 _ d f b lit => selectorOk b && litOk b lit && f.toNat ≤ 6 && sregOk d
  | .saddBf16x2 _ d a b lit => selectorOk b && litOk b lit && sregOk d && sregOk a
  | .smulBf16x2 _ d a b lit => selectorOk b && litOk b lit && sregOk d && sregOk a
  | .sfmaBf16x2 _ d a b lit => selectorOk b && litOk b lit && sregOk d && sregOk a
  | .saddF16x2 _ d a b lit => selectorOk b && litOk b lit && sregOk d && sregOk a
  | .smulF16x2 _ d a b lit => selectorOk b && litOk b lit && sregOk d && sregOk a
  | .sfmaF16x2 _ d a b lit => selectorOk b && litOk b lit && sregOk d && sregOk a
  | .scvt _ d f b lit => selectorOk b && litOk b lit && cvtDfOk f && sregOk d
  | .spermB32 _ d a b lit => selectorOk b && litOk b lit && sregOk d && sregOk a
  | .svoteB32 _ d => sregOk d
  | .slaneB32 _ d _ b lit => selectorOk b && litOk b lit && sregOk d
  | .ld _ _ _ m => loadModOk m
  | .ldLit _ _ _ m _ => loadModOk m
  | .st _ _ _ z => z.toNat ≤ 4
  | .stLit _ _ _ z _ => z.toNat ≤ 4
  | .ldl _ _ _ m => loadModOk m
  | .ldlLit _ _ _ m _ => loadModOk m
  | .stl _ _ _ z => z.toNat ≤ 4
  | .stlLit _ _ _ z _ => z.toNat ≤ 4
  | .pref _ _ _ => true
  | .prefLit _ _ _ _ => true
  | .red _ _ _ f => f.toNat ≤ 19
  | .redLit _ _ _ f _ => f.toNat ≤ 19
  | .redLs _ _ _ f => f.toNat ≤ 19
  | .redLsLit _ _ _ f _ => f.toNat ≤ 19
  | .redDet _ _ _ _ => true
  | .redDetLit _ _ _ _ _ => true
  | .fence _ c => c.toNat ≤ 6
  | .cadd _ _ _ c => c.toNat ≤ 6
  | .caddLit _ _ c _ => c.toNat ≤ 6
  | .caddr _ _ _ c => c.toNat ≤ 6
  | .caddrLit _ _ _ c _ => c.toNat ≤ 6
  | .cread _ _ _ c => c.toNat ≤ 6
  | .cwt _ _ _ c => c.toNat ≤ 6
  | .cwait _ _ _ c => c.toNat ≤ 6
  | .copy _ _ _ _ => true
  | .copyLit _ _ _ _ => true
  | .copyx _ _ _ _ => true
  | .copyxLit _ _ _ _ => true
  | .tdecl _ _ _ => true
  | .sweep _ _ _ _ => true
  | .sweepLit _ _ _ _ => true
  | .eyield _ _ => true
  | .ectxld _ _ _ _ _ => true
  | .ectxldLit _ _ _ _ _ _ => true
  | .ectxst _ _ _ _ _ => true
  | .ectxstLit _ _ _ _ _ _ => true
  | .tfree _ _ => true
  | .mma _ d _ _ f => f.toNat ≤ 8 && d.toNat ≤ 7
  | .mld _ d _ t => t.toNat ≤ 11 && d.toNat ≤ 7
  | .mldLit _ d _ t _ => t.toNat ≤ 11 && d.toNat ≤ 7
  | .mst _ d _ b => (b.toNat % 2 == 0 || b == 1#7) && d.toNat ≤ 7
  | .mstLit _ d _ b _ => (b.toNat % 2 == 0 || b == 1#7) && d.toNat ≤ 7
  | .mzero _ d t => (t == 1#4 || t == 3#4) && d.toNat ≤ 7
  | .trace _ _ _ _ => true
  | .traceLit _ _ _ _ => true
  | .beam _ _ _ _ => true
  | .beamLit _ _ _ _ => true
  | .hitget _ _ _ _ => true
  | .tex _ _ _ _ => true
  | .put _ _ _ _ => true
  | .putLit _ _ _ _ => true
  | .get _ _ _ _ => true
  | .getLit _ _ _ _ => true
  | .send _ _ _ _ => true
  | .sendLit _ _ _ _ => true
  | .rwsend _ _ _ _ _ => true
  | .rwsendLit _ _ _ _ _ => true
  | .post _ _ _ => true
  | .cgraph _ _ _ _ => true
  | .cgraphLit _ _ _ _ => true
  | .coll _ _ _ _ => true
  | .collLit _ _ _ _ => true
  | .comp _ _ _ _ => true
  | .compLit _ _ _ _ => true
  | .br _ _ => true
  | .brn _ _ => true
  | .call _ _ => true
  | .jr _ _ => true
  | .spawn _ _ _ b lit => selectorOk b && litOk b lit
  | .exit _ => true
  | .join _ _ => true
  | .joink _ _ => true
  | .leave _ => true
  | .winb _ c b lit => selectorOk b && litOk b lit && c.toNat ≤ 1
  | .yield _ => true
  | .brk _ => true
  | .cvacc _ => true
  | .cvrej _ => true
  | .nop _ => true
  | .statrd _ _ => true
  | .statclr _ b lit => selectorOk b && litOk b lit
  | .csrr _ _ b lit => selectorOk b && litOk b lit
  | .haltw _ => true
  | .segset _ k _ => k.toNat ≤ 2
  | .csrw _ _ b lit => selectorOk b && litOk b lit
  | .carve _ _ b lit => selectorOk b && litOk b lit
  | .cinit _ _ _ => true
  | .ctxsave _ _ _ b lit => selectorOk b && litOk b lit
  | .ctxload _ _ _ b lit => selectorOk b && litOk b lit
  | .revoke _ _ _ b lit => selectorOk b && litOk b lit
  | .step _ _ _ b lit => selectorOk b && litOk b lit
  | .resultWriteback _ => true
  | .prioAge _ => true
  | .binTimerExpiry _ => true
  | .binLaunch _ => true
  | .spawnDeferredPlacement _ => true
  | .flockAdmit core => core < 1536
  | .rotationPoint core => core < 1536
  | .sweepDeferredEviction core => core < 1536
  | .launchQueueEnable m die q _ => m < 3 && die < 12 && q < 8
  | .launchQueueDisable m die q _ => m < 3 && die < 12 && q < 8
  | .launchRecordTake die q => die < 12 && q < 8
  | .launchRecordPlace die q => die < 12 && q < 8
  | .counterAdd _ => true
  | .counterAddReturn _ => true
  | .counterRead _ => true
  | .counterRegisterWait _ => true
  | .counterWithdrawWait _ => true
  | .counterSet _ => true
  | .counterWake _ => true
  | .counterResponse _ => true
  | .cwaitDeadline _ => true
  | .apertureAdd port w _ => port < 2 && w < 256
  | .apertureFadd port w _ => port < 2 && w < 256
  | .apertureValueRead port w => port < 2 && w < 256
  | .apertureArm port w _ => port < 2 && w < 256
  | .apertureFired _ => true
  | .writeApply _ => true
  | .readRequest _ => true
  | .readResponse _ => true
  | .reductionApply _ => true
  | .redDetContribution _ => true
  | .acknowledgement _ => true
  | .wcDrain core => core % 4096 < 1536
  | .tlbiGo m die _ => m < 3 && die < 12
  | .tlbiComplete die => die < 12
  | .atsTranslationCompletion port _ _ _ _ _ => port < 2
  | .atsInvalidationRequest port _ _ _ => port < 2
  | .invalidationCompletion port _ => port < 2
  | .pageRequestResponse port _ _ => port < 2
  | .pageRequestTimeout port _ => port < 2
  | .carveGrowComplete core => core < 1536
  | .fenceComplete _ => true
  | .sweepStart core => core < 1536
  | .sweepGroupWriteback core => core < 1536
  | .elementWake _ => true
  | .tfreeComplete _ => true
  | .copyComplete _ => true
  | .mmaComplete core => core < 1536
  | .mstChunkAdd _ => true
  | .rayComplete _ => true
  | .beamStart harrow => harrow < 96
  | .coverageResolve harrow => harrow < 96
  | .putArrival _ => true
  | .getArrival _ => true
  | .sendArrival _ => true
  | .nackReceive _ => true
  | .networkOpComplete _ => true
  | .rwsendChannelAssign die ch => die < 12 && ch < 1024
  | .remoteWorkRecordReceive _ => true
  | .arrivalAddition _ => true
  | .revokeComplete die region => die < 12 && region < 1024
  | .armedRequestFire _ => true
  | .cgraphBind _ => true
  | .replayStart die => die < 12
  | .notBeforeExpiry die node => die < 12 && node < 4096
  | .graphNodeStart die node => die < 12 && node < 4096
  | .collectiveChunkReceive _ => true
  | .graphNodeComplete die node => die < 12 && node < 4096
  | .compComplete _ => true
  | .inswDiscovery die _ _ => die < 12
  | .inswRefusal die node => die < 12 && node < 4096
  | .linkSwingDirWrite m die peer _ => m < 3 && die < 12 && peer < 12
  | .swingTurnComplete die peer group => die < 12 && peer < 12 && group < 8
  | .flitReceive die peer _ => die < 12 && peer < 12
  | .retryRequest die peer _ => die < 12 && peer < 12
  | .laneDiagnosis die peer _ _ group => die < 12 && peer < 12 && group < 8
  | .managementPacket _ => true
  | .ptpMessage die _ _ => die < 12
  | .ptpLockLost die _ => die < 12
  | .peerLost die _ pdie => die < 12 && pdie < 12
  | .portPeerClrGo m die _ => m < 3 && die < 12
  | .haltCmdHalt m die slot => m < 3 && die < 12 && slot < 16
  | .haltCmdThawArm m die slot => m < 3 && die < 12 && slot < 16
  | .haltCmdGo m die slot => m < 3 && die < 12 && slot < 16
  | .haltCmdStep m die slot _ _ _ _ => m < 3 && die < 12 && slot < 16
  | .haltTokenHalt _ => true
  | .haltTokenThawArm _ => true
  | .haltTokenGo _ => true
  | .haltDrained die slot => die < 12 && slot < 16
  | .haltDrainTimeout die slot => die < 12 && slot < 16
  | .haltGoAtT die slot => die < 12 && slot < 16
  | .stepComplete die slot => die < 12 && slot < 16
  | .warmReset m die _ => m < 3 && die < 12
  | .coldReset m die _ _ => m < 3 && die < 12
  | .powerUp _ => true
  | .powerOff => true
  | .imageLoadGo m die _ => m < 3 && die < 12
  | .imageCheckComplete => true
  | .getVersion port => port < 2
  | .getCapabilities port => port < 2
  | .negotiateAlgorithms port => port < 2
  | .getDigests port => port < 2
  | .getCertificate port => port < 2
  | .challenge port _ => port < 2
  | .getMeasurements port => port < 2
  | .modIdWrite m die _ => m < 3 && die < 12
  | .jobKillGo m die _ => m < 3 && die < 12
  | .jobKillComplete die => die < 12
  | .unitOffGo m die _ => m < 3 && die < 12
  | .eccScrub _ => true
  | .hostBar4Read port _ _ => port < 2
  | .hostBar4Write port _ _ _ => port < 2
  | .hostCompletionTimeout port _ _ => port < 2
  | .hostPortLinkDown port => port < 2
  | .portCeStatusRead m die => m < 3 && die < 12
  | .dieFltLostRead m die => m < 3 && die < 12
  | .dieEccRead m die => m < 3 && die < 12
  | .dieLinkErrRead m die peer => m < 3 && die < 12 && peer < 12
  | .portNackRxRead m die => m < 3 && die < 12
  | .portCeFallbkRead m die => m < 3 && die < 12
  | .portInswRefusedRead m die => m < 3 && die < 12
  | .dieHaltStateRead m die slot => m < 3 && die < 12 && slot < 16
  | .registerWrite m die _ _ => m < 3 && die < 12
  | .unassignedOpcode _ => true
  | .instructionFetchFault => true
  | .softError _ _ => true
  | .msiXUnmask port vec => port < 2 && vec < 512
  | .transportRetransmission _ => true
  | .hostReservedOffsetAccess m _ _ => m < 3

end Sys2Proof
end

