-- ==== Sys2Proof/Certificates/Slice0/Obligations.lean ====
section
/-! DEFINITION. The statements about the model, one `def Obligations.<Name> : Prop` each, and the words and tables they are written in. The
tables of instruction words (their encodings and results) are written from the manual's tables, not from the model's meanings. -/

namespace Sys2Proof.Claims

open Sys2Proof.Machine Sys2Proof.Safety

/-! ## Words with register effects alone -/

/-- Field B of a vector word. -/
def fieldB : BOp → BitVec 7
  | .reg n => n
  | .sel b _ => b

/-- A selector B is not reserved (10 R211). -/
def okB : BOp → Bool
  | .reg _ => true
  | .sel b _ => selectorOk b

/-- The vector word of pair `p` (11 R235). -/
def vecWord (h : Hdr) (p : Nat) (d a : BitVec 7) (b : BOp) : Fields :=
  ⟨0#2, h.s, h.g, BitVec.ofNat 7 (match b with | .reg _ => 2 * p | .sel _ _ => 2 * p + 1), d, a, fieldB b⟩

/-- The scalar word that mirrors pair `p` (11 R253). -/
def scaWord (h : Hdr) (p : Nat) (d a b : BitVec 7) : Fields := ⟨1#2, h.s, h.g, BitVec.ofNat 7 p, d, a, b⟩

/-- Tags that an integer operand accepts: I32, N32 and RAW (06 R130). -/
def integerTags : List Nat := [1, 2, 0]

/-- Typed reads of `n` registers from `r` on, in field `field`. -/
def typed (field r n : Nat) (acc : List Nat) : List (Nat × Nat × List Nat) := (upFrom r n).map fun k => (field, k, acc)

/-- Typed reads of B where it is a register. -/
def typedB (b : BOp) (n : Nat) (acc : List Nat) : List (Nat × Nat × List Nat) :=
  match b with
  | .reg r => typed 2 r.toNat n acc
  | .sel _ _ => []

/-- The 32 bits that B supplies (11 R236). -/
def bitsB (s : State) (i : Issue) (t : Thread) (b : BOp) : Word :=
  match b with
  | .reg n => (getV t n.toNat).bits
  | .sel n lit => BitVec.ofNat 32 (src s i t n.toNat lit .int)

/-- A register of a thread's window written with bits and a tag. -/
def put1 (t : Thread) (n : BitVec 7) (v : Word) (tag : BitVec 4) : VWrite := ⟨t.uid, t.wb + n.toNat, ⟨v, tag⟩⟩

/-! ### Integer and bitwise words (11 R237) -/

/-- A row of the table of R237 on 32 bits: its pair, the constructors of its vector and scalar words, whether it has one operand, whether its
operands are read as integers, the tag written and the result. -/
structure IntRow where
  /-- pair -/
  p : Nat
  /-- the vector words -/
  vec : Hdr → BitVec 7 → BitVec 7 → BOp → Instr
  /-- the scalar word -/
  sca : Hdr → BitVec 7 → BitVec 7 → BitVec 7 → Word → Instr
  /-- it takes its one operand from B, and A is 0 -/
  unary : Bool
  /-- operands are read as integers -/
  int : Bool
  /-- tag written -/
  tag : BitVec 4
  /-- result of a and b -/
  fn : Word → Word → Word

/-- Number of set bits. -/
def setCount (b : Word) : Word := BitVec.ofNat 32 ((List.range 32).countP fun k => b.getLsbD k)

/-- Number of leading zero bits. -/
def leadingZeros (b : Word) : Word := BitVec.ofNat 32 ((List.range 32).takeWhile fun k => !b.getMsbD k).length

/-- The table of R237 on 32 bits. -/
def intRows : List IntRow := [
  ⟨3, fun h d a b => match b with | .reg n => .addI32Reg h d a n | .sel n l => .addI32Sel h d a n l, .saddI32, false, true, 1#4, fun a b => a + b⟩,
  ⟨4, fun h d a b => match b with | .reg n => .addN32Reg h d a n | .sel n l => .addN32Sel h d a n l, .saddN32, false, true, 2#4, fun a b => a + b⟩,
  ⟨5, fun h d a b => match b with | .reg n => .subI32Reg h d a n | .sel n l => .subI32Sel h d a n l, .ssubI32, false, true, 1#4, fun a b => a - b⟩,
  ⟨6, fun h d a b => match b with | .reg n => .subN32Reg h d a n | .sel n l => .subN32Sel h d a n l, .ssubN32, false, true, 2#4, fun a b => a - b⟩,
  ⟨7, fun h d a b => match b with | .reg n => .mulI32Reg h d a n | .sel n l => .mulI32Sel h d a n l, .smulI32, false, true, 1#4, fun a b => a * b⟩,
  ⟨8, fun h d a b => match b with | .reg n => .mulN32Reg h d a n | .sel n l => .mulN32Sel h d a n l, .smulN32, false, true, 2#4, fun a b => a * b⟩,
  ⟨9, fun h d a b => match b with | .reg n => .mulhiI32Reg h d a n | .sel n l => .mulhiI32Sel h d a n l, .smulhiI32, false, true, 1#4,
    fun a b => (a.signExtend 64 * b.signExtend 64).extractLsb' 32 32⟩,
  ⟨10, fun h d a b => match b with | .reg n => .mulhiN32Reg h d a n | .sel n l => .mulhiN32Sel h d a n l, .smulhiN32, false, true, 2#4,
    fun a b => (a.setWidth 64 * b.setWidth 64).extractLsb' 32 32⟩,
  ⟨11, fun h d a b => match b with | .reg n => .minI32Reg h d a n | .sel n l => .minI32Sel h d a n l, .sminI32, false, true, 1#4,
    fun a b => if a.toInt ≤ b.toInt then a else b⟩,
  ⟨12, fun h d a b => match b with | .reg n => .minN32Reg h d a n | .sel n l => .minN32Sel h d a n l, .sminN32, false, true, 2#4,
    fun a b => if a.toNat ≤ b.toNat then a else b⟩,
  ⟨13, fun h d a b => match b with | .reg n => .maxI32Reg h d a n | .sel n l => .maxI32Sel h d a n l, .smaxI32, false, true, 1#4,
    fun a b => if a.toInt ≤ b.toInt then b else a⟩,
  ⟨14, fun h d a b => match b with | .reg n => .maxN32Reg h d a n | .sel n l => .maxN32Sel h d a n l, .smaxN32, false, true, 2#4,
    fun a b => if a.toNat ≤ b.toNat then b else a⟩,
  ⟨15, fun h d a b => match b with | .reg n => .andB32Reg h d a n | .sel n l => .andB32Sel h d a n l, .sandB32, false, false, 0#4, fun a b => a &&& b⟩,
  ⟨16, fun h d a b => match b with | .reg n => .orB32Reg h d a n | .sel n l => .orB32Sel h d a n l, .sorB32, false, false, 0#4, fun a b => a ||| b⟩,
  ⟨17, fun h d a b => match b with | .reg n => .xorB32Reg h d a n | .sel n l => .xorB32Sel h d a n l, .sxorB32, false, false, 0#4, fun a b => a ^^^ b⟩,
  ⟨18, fun h d _ b => match b with | .reg n => .notB32Reg h d n | .sel n l => .notB32Sel h d n l, fun h d _ b l => .snotB32 h d b l, true, false, 0#4,
    fun _ b => ~~~b⟩,
  ⟨19, fun h d a b => match b with | .reg n => .shlB32Reg h d a n | .sel n l => .shlB32Sel h d a n l, .sshlB32, false, false, 0#4,
    fun a b => if b.toNat < 32 then a <<< b.toNat else 0#32⟩,
  ⟨20, fun h d a b => match b with | .reg n => .shrN32Reg h d a n | .sel n l => .shrN32Sel h d a n l, .sshrN32, false, true, 2#4,
    fun a b => if b.toNat < 32 then a >>> b.toNat else 0#32⟩,
  ⟨21, fun h d a b => match b with | .reg n => .shrI32Reg h d a n | .sel n l => .shrI32Sel h d a n l, .sshrI32, false, true, 1#4,
    fun a b => a.sshiftRight (min b.toNat 31)⟩,
  ⟨22, fun h d _ b => match b with | .reg n => .popcB32Reg h d n | .sel n l => .popcB32Sel h d n l, fun h d _ b l => .spopcB32 h d b l, true, false, 0#4,
    fun _ b => setCount b⟩,
  ⟨23, fun h d _ b => match b with | .reg n => .clzB32Reg h d n | .sel n l => .clzB32Sel h d n l, fun h d _ b l => .sclzB32 h d b l, true, false, 0#4,
    fun _ b => leadingZeros b⟩]

/-- What a vector word on 32-bit operands names: the registers read and written, the s register of a selector, and the tags accepted. -/
def names32 (unary : Bool) (acc : Option (List Nat)) (d a : BitVec 7) (b : BOp) : Thread → Names := fun _ =>
  { vr := (if unary then [] else [(a.toNat, 1)]) ++ b.runs 1
    vw := [(d.toNat, 1)]
    sr := b.sregs false
    tags := match acc with
      | some l => (if unary then [] else typed 1 a.toNat 1 l) ++ typedB b 1 l
      | none => [] }

/-- What a scalar word on 32-bit operands names: s registers alone. -/
def names32s (unary third : Bool) (d a b : BitVec 7) : Thread → Names := fun _ =>
  { sr := (if third then [d.toNat] else []) ++ (if unary then [] else [a.toNat]) ++ selS b.toNat false, sw := [d.toNat] }

/-- An s register of the issuing flock. -/
def sOf (s : State) (i : Issue) (n : BitVec 7) : Word := getS (flockOf s i.core i.flock) n.toNat

/-- An s register of the issuing flock written. -/
def putS (i : Issue) (n : BitVec 7) (v : Word) : SWrite := ⟨i.core, i.flock, n.toNat, v⟩

end Sys2Proof.Claims

open Sys2Proof Sys2Proof.Machine Sys2Proof.Safety Sys2Proof.Claims

/-- 11 R235 to R237: every integer and bitwise vector word on 32 bits, with B a register or a selector, writes the result of its row of R237 to
D in each active thread, with the row's tag, and no STATUS bit. -/
def Obligations.IntegerVectorWords : Prop :=
  ∀ row ∈ intRows, ∀ (h : Hdr) (d a : BitVec 7) (b : BOp), okB b = true →
    DoneEach (row.vec h d a b) (vecWord h row.p d (if row.unary then 0#7 else a) b) false
      (names32 row.unary (if row.int then some integerTags else none) d a b) b.selector
      (fun s i t => { v := [put1 t d (row.fn (getV t a.toNat).bits (bitsB s i t b)) row.tag] })

/-- 11 R253: every integer and bitwise scalar word on 32 bits writes the result of its row of R237 on sA and Src(B) to sD, once for the group;
special sources supply the value of the lowest active lane. -/
def Obligations.IntegerScalarWords : Prop :=
  ∀ row ∈ intRows, ∀ (h : Hdr) (d a b : BitVec 7) (lit : Word), d.toNat < 64 → a.toNat < 64 → selectorOk b = true →
    DoneOnce (row.sca h d a b lit) (scaWord h row.p d (if row.unary then 0#7 else a) b) (names32s row.unary false d a b) (some b)
      (fun s i t => { s := [putS i d (row.fn (sOf s i a) (BitVec.ofNat 32 (src s i t b.toNat lit .int)))] })

namespace Sys2Proof.Claims

open Sys2Proof.Machine Sys2Proof.Safety

/-! ### 64-bit integer words (11 R237) -/

/-- A row of R237 on pairs. -/
structure WideRow where
  /-- pair -/
  p : Nat
  /-- the vector words -/
  vec : Hdr → BitVec 7 → BitVec 7 → BOp → Instr
  /-- the scalar word -/
  sca : Hdr → BitVec 7 → BitVec 7 → BitVec 7 → Word → Instr
  /-- how a selector operand is extended -/
  fmt : SFmt
  /-- tag written to both registers -/
  tag : BitVec 4
  /-- result -/
  fn : DWord → DWord → DWord

/-- The rows of R237 on pairs. -/
def wideRows : List WideRow := [
  ⟨26, fun h d a b => match b with | .reg n => .addI64Reg h d a n | .sel n l => .addI64Sel h d a n l, .saddI64, .i64, 1#4, fun a b => a + b⟩,
  ⟨27, fun h d a b => match b with | .reg n => .addN64Reg h d a n | .sel n l => .addN64Sel h d a n l, .saddN64, .n64, 2#4, fun a b => a + b⟩,
  ⟨28, fun h d a b => match b with | .reg n => .subI64Reg h d a n | .sel n l => .subI64Sel h d a n l, .ssubI64, .i64, 1#4, fun a b => a - b⟩,
  ⟨29, fun h d a b => match b with | .reg n => .subN64Reg h d a n | .sel n l => .subN64Sel h d a n l, .ssubN64, .n64, 2#4, fun a b => a - b⟩]

/-- A register pair as 64 bits (10 R215). -/
def pairV (t : Thread) (n : BitVec 7) : DWord := (getV t (n.toNat + 1)).bits ++ (getV t n.toNat).bits

/-- The 64 bits that B supplies. -/
def pairB (s : State) (i : Issue) (t : Thread) (b : BOp) (fmt : SFmt) : DWord :=
  match b with
  | .reg n => pairV t n
  | .sel n lit => BitVec.ofNat 64 (src s i t n.toNat lit fmt)

/-- A pair written with 64 bits, both registers with a tag. -/
def put2 (t : Thread) (n : BitVec 7) (v : DWord) (tag : BitVec 4) : List VWrite :=
  [⟨t.uid, t.wb + n.toNat, ⟨v.extractLsb' 0 32, tag⟩⟩, ⟨t.uid, t.wb + (n.toNat + 1), ⟨v.extractLsb' 32 32, tag⟩⟩]

/-- What a vector word on pairs names: odd register numbers are reserved (10 R215). -/
def names64 (d a : BitVec 7) (b : BOp) : Thread → Names := fun _ =>
  { vr := (a.toNat, 2) :: b.runs 2, vw := [(d.toNat, 2)], sr := b.sregs true, tags := typed 1 a.toNat 2 integerTags ++ typedB b 2 integerTags
    limits := [(d.toNat % 2 == 1, 0), (a.toNat % 2 == 1, 1), (b.oddPair, 2)] }

/-- What a scalar word on pairs names. -/
def names64s (d a b : BitVec 7) : Thread → Names := fun _ =>
  { sr := [a.toNat, a.toNat + 1] ++ selS b.toNat true, sw := [d.toNat, d.toNat + 1]
    limits := [(d.toNat % 2 == 1, 0), (a.toNat % 2 == 1, 1), (b.toNat < 64 && b.toNat % 2 == 1, 2)] }

/-- An s register pair. -/
def pairS (s : State) (i : Issue) (n : BitVec 7) : DWord :=
  getS (flockOf s i.core i.flock) (n.toNat + 1) ++ getS (flockOf s i.core i.flock) n.toNat

/-! ### Floating-point words (11 R238, R239) -/

/-- A row of R238 or R239: pair, words, tag of operands and result, selector format, whether D is a third operand and whether A is unused; and the
result with its STATUS bits of a, b and d, as the exact arithmetic and the one rounding of 06 R131 to R135 give it. -/
structure FloatRow where
  /-- pair -/
  p : Nat
  /-- the vector words -/
  vec : Hdr → BitVec 7 → BitVec 7 → BOp → Instr
  /-- the scalar word -/
  sca : Hdr → BitVec 7 → BitVec 7 → BitVec 7 → Word → Instr
  /-- D is a third operand -/
  third : Bool
  /-- tag -/
  tag : Nat
  /-- selector format -/
  fmt : SFmt
  /-- result and STATUS -/
  fn : Nat → Nat → Nat → Nat × Flags

/-- A packed operation: each half on its own (11 R239). -/
def halves (f : Nat → Nat → Nat → Nat × Flags) (a b d : Nat) : Nat × Flags :=
  let low := f (a % 65536) (b % 65536) (d % 65536)
  let high := f (a / 65536) (b / 65536) (d / 65536)
  (low.1 + 65536 * high.1, low.2 ||| high.2)

/-- The tables of R238 and R239 but for the special functions. -/
def floatRows : List FloatRow := [
  ⟨30, fun h d a b => match b with | .reg n => .addF32Reg h d a n | .sel n l => .addF32Sel h d a n l, .saddF32, false, 3, .f32, fun a b _ => opAdd fmtF32 a b⟩,
  ⟨31, fun h d a b => match b with | .reg n => .subF32Reg h d a n | .sel n l => .subF32Sel h d a n l, .ssubF32, false, 3, .f32, fun a b _ => opSub fmtF32 a b⟩,
  ⟨32, fun h d a b => match b with | .reg n => .mulF32Reg h d a n | .sel n l => .mulF32Sel h d a n l, .smulF32, false, 3, .f32, fun a b _ => opMul fmtF32 a b⟩,
  ⟨33, fun h d a b => match b with | .reg n => .fmaF32Reg h d a n | .sel n l => .fmaF32Sel h d a n l, .sfmaF32, true, 3, .f32, opFma fmtF32⟩,
  ⟨34, fun h d a b => match b with | .reg n => .minF32Reg h d a n | .sel n l => .minF32Sel h d a n l, .sminF32, false, 3, .f32, fun a b _ => (opMin fmtF32 a b, 0#16)⟩,
  ⟨35, fun h d a b => match b with | .reg n => .maxF32Reg h d a n | .sel n l => .maxF32Sel h d a n l, .smaxF32, false, 3, .f32, fun a b _ => (opMax fmtF32 a b, 0#16)⟩,
  ⟨38, fun h d a b => match b with | .reg n => .addBf16x2Reg h d a n | .sel n l => .addBf16x2Sel h d a n l, .saddBf16x2, false, 4, .bf16x2, halves fun a b _ => opAdd fmtBF16 a b⟩,
  ⟨39, fun h d a b => match b with | .reg n => .mulBf16x2Reg h d a n | .sel n l => .mulBf16x2Sel h d a n l, .smulBf16x2, false, 4, .bf16x2, halves fun a b _ => opMul fmtBF16 a b⟩,
  ⟨40, fun h d a b => match b with | .reg n => .fmaBf16x2Reg h d a n | .sel n l => .fmaBf16x2Sel h d a n l, .sfmaBf16x2, true, 4, .bf16x2, halves (opFma fmtBF16)⟩,
  ⟨41, fun h d a b => match b with | .reg n => .addF16x2Reg h d a n | .sel n l => .addF16x2Sel h d a n l, .saddF16x2, false, 5, .f16x2, halves fun a b _ => opAdd fmtF16 a b⟩,
  ⟨42, fun h d a b => match b with | .reg n => .mulF16x2Reg h d a n | .sel n l => .mulF16x2Sel h d a n l, .smulF16x2, false, 5, .f16x2, halves fun a b _ => opMul fmtF16 a b⟩,
  ⟨43, fun h d a b => match b with | .reg n => .fmaF16x2Reg h d a n | .sel n l => .fmaF16x2Sel h d a n l, .sfmaF16x2, true, 5, .f16x2, halves (opFma fmtF16)⟩]

/-- The bits that B supplies in a format, as a number. -/
def numB (s : State) (i : Issue) (t : Thread) (b : BOp) (fmt : SFmt) : Nat :=
  match b with
  | .reg n => (getV t n.toNat).bits.toNat
  | .sel n lit => src s i t n.toNat lit fmt

/-- What a floating-point vector word names. -/
def namesF (third : Bool) (tag : Nat) (d a : BitVec 7) (b : BOp) : Thread → Names := fun _ =>
  { vr := (if third then [(d.toNat, 1)] else []) ++ [(a.toNat, 1)] ++ b.runs 1, vw := [(d.toNat, 1)], sr := b.sregs false
    tags := (if third then typed 0 d.toNat 1 [tag] else []) ++ typed 1 a.toNat 1 [tag] ++ typedB b 1 [tag] }

/-- STATUS bits set in a thread; none when there are none. -/
def sets (t : Thread) (f : Flags) : List (Nat × BitVec 16) := if f = 0#16 then [] else [(t.uid, f)]

/-- STATUS bits set in every active thread (11 R253). -/
def setsAll (i : Issue) (f : Flags) : List (Nat × BitVec 16) := if f = 0#16 then [] else i.act.map fun u => (u, f)

end Sys2Proof.Claims

/-- 11 R237, 10 R215: the 64-bit integer words on register pairs, vector and scalar: (a ± b) mod 2^64, with the row's tag in both registers. -/
def Obligations.WideWords : Prop :=
  ∀ row ∈ wideRows, (∀ (h : Hdr) (d a : BitVec 7) (b : BOp), okB b = true →
    DoneEach (row.vec h d a b) (vecWord h row.p d a b) false (names64 d a b) b.selector
      (fun s i t => { v := put2 t d (row.fn (pairV t a) (pairB s i t b row.fmt)) row.tag })) ∧
  (∀ (h : Hdr) (d a b : BitVec 7) (lit : Word), d.toNat < 64 → a.toNat < 64 → selectorOk b = true →
    DoneOnce (row.sca h d a b lit) (scaWord h row.p d a b) (names64s d a b) (some b)
      (fun s i t =>
        let v := row.fn (pairS s i a) (BitVec.ofNat 64 (src s i t b.toNat lit row.fmt))
        { s := [⟨i.core, i.flock, d.toNat, v.extractLsb' 0 32⟩, ⟨i.core, i.flock, d.toNat + 1, v.extractLsb' 32 32⟩] }))

/-- 11 R238, R239: the F32 and packed words in each active thread: operands of the row's tag, one rounding, the result with that tag, and the
STATUS bits of the operation; `fma` reads D with its tag checked. -/
def Obligations.FloatVectorWords : Prop :=
  ∀ row ∈ floatRows, ∀ (h : Hdr) (d a : BitVec 7) (b : BOp), okB b = true →
    DoneEach (row.vec h d a b) (vecWord h row.p d a b) false (namesF row.third row.tag d a b) b.selector
      (fun s i t =>
        let r := row.fn (getV t a.toNat).bits.toNat (numB s i t b row.fmt) (getV t d.toNat).bits.toNat
        { v := [put1 t d (BitVec.ofNat 32 r.1) (BitVec.ofNat 4 row.tag)], st := sets t r.2 })

/-- 11 R253: the floating-point scalar words act once for the group, check no tag and set STATUS in each active thread. -/
def Obligations.FloatScalarWords : Prop :=
  ∀ row ∈ floatRows, ∀ (h : Hdr) (d a b : BitVec 7) (lit : Word), d.toNat < 64 → a.toNat < 64 → selectorOk b = true →
    DoneOnce (row.sca h d a b lit) (scaWord h row.p d a b) (names32s false row.third d a b) (some b)
      (fun s i t =>
        let r := row.fn (sOf s i a).toNat (src s i t b.toNat lit row.fmt) (sOf s i d).toNat
        { s := [putS i d (BitVec.ofNat 32 r.1)], st := setsAll i r.2 })

/-- 11 R238, 10 R230: the seven special functions, coded in A, vector and scalar. -/
def Obligations.SpecialFunctionWords : Prop :=
  (∀ (h : Hdr) (d f : BitVec 7) (b : BOp), okB b = true → f.toNat ≤ 6 →
    DoneEach (match b with | .reg n => .sfnF32Reg h d f n | .sel n l => .sfnF32Sel h d f n l) (vecWord h 37 d f b) false
      (names32 true (some [3]) d 0#7 b) b.selector
      (fun s i t => { v := [put1 t d (BitVec.ofNat 32 (opSfn f.toNat (numB s i t b .f32)).1) 3#4], st := sets t (opSfn f.toNat (numB s i t b .f32)).2 })) ∧
  (∀ (h : Hdr) (d f b : BitVec 7) (lit : Word), d.toNat < 64 → f.toNat ≤ 6 → selectorOk b = true →
    DoneOnce (.ssfnF32 h d f b lit) (scaWord h 37 d f b) (names32s true false d 0#7 b) (some b)
      (fun s i t =>
        let r := opSfn f.toNat (src s i t b.toNat lit .f32)
        { s := [putS i d (BitVec.ofNat 32 r.1)], st := setsAll i r.2 }))

namespace Sys2Proof.Claims

open Sys2Proof.Machine Sys2Proof.Safety

/-! ### Moves, selects, compares, guard and tag words, cross-lane reads (11 R240 to R246, R254, R255) -/

/-- The register that B delivers: a v register with its tag, or a selector's bits with tag RAW. -/
def regB (s : State) (i : Issue) (t : Thread) (b : BOp) : Reg :=
  match b with
  | .reg n => getV t n.toNat
  | .sel n lit => ⟨BitVec.ofNat 32 (src s i t n.toNat lit .int), 0#4⟩

/-- A row of R240: pair, words, tags, selector format, and the conditions eq, ne, lt, le, gt, ge on a and b. -/
structure CmpRow where
  /-- pair -/
  p : Nat
  /-- the vector words -/
  vec : Hdr → BitVec 7 → BitVec 7 → BOp → Instr
  /-- the scalar word -/
  sca : Hdr → BitVec 7 → BitVec 7 → BitVec 7 → Word → Instr
  /-- tags -/
  acc : List Nat
  /-- selector format -/
  fmt : SFmt
  /-- condition -/
  holds : Nat → Nat → Nat → Bool

/-- A condition of R240 on two ordered numbers. -/
def ordered (c : Nat) (a b : Int) : Bool :=
  match c with
  | 0 => a == b
  | 1 => a != b
  | 2 => a < b
  | 3 => a ≤ b
  | 4 => b < a
  | _ => b ≤ a

/-- The signed value of 32 bits. -/
def s32 (a : Nat) : Int := (BitVec.ofNat 32 a).toInt

/-- The rows of R240. -/
def cmpRows : List CmpRow := [
  ⟨24, fun h c a b => match b with | .reg n => .cmpI32Reg h c a n | .sel n l => .cmpI32Sel h c a n l, .scmpI32, integerTags, .int,
    fun c a b => ordered c (s32 a) (s32 b)⟩,
  ⟨25, fun h c a b => match b with | .reg n => .cmpN32Reg h c a n | .sel n l => .cmpN32Sel h c a n l, .scmpN32, integerTags, .int,
    fun c a b => ordered c a b⟩,
  ⟨36, fun h c a b => match b with | .reg n => .cmpF32Reg h c a n | .sel n l => .cmpF32Sel h c a n l, .scmpF32, [3], .f32, opCmpF⟩]

/-- The byte that `perm.b32` places at k (11 R244). -/
def permByte (a b d : Word) (k : Nat) : Byte :=
  if d.getLsbD (4 * k + 3) then 0#8 else ((b ++ a : BitVec 64) >>> (8 * (d.extractLsb' (4 * k) 3).toNat)).extractLsb' 0 8

/-- The result of `perm.b32`. -/
def perm (a b d : Word) : Word := permByte a b d 3 ++ permByte a b d 2 ++ permByte a b d 1 ++ permByte a b d 0

/-- The guard bit after `gset` (11 R242). -/
def gsetResult (c : Nat) (g x : Bool) : Bool :=
  match c with
  | 0 => x
  | 1 => g && x
  | 2 => g || x
  | _ => xor g x

/-- The member of a thread's flock in a lane. -/
def inLane (s : State) (t : Thread) (lane : Nat) : Option Thread := (membersOf s t.core t.flock).find? fun m => m.lane == lane

end Sys2Proof.Claims

/-- 11 R241, R244: `mov.b32`, `sel.b32` and `perm.b32`, vector and scalar. A move or select delivers its operand's tag, RAW from a selector. -/
def Obligations.MoveWords : Prop :=
  (∀ (h : Hdr) (d : BitVec 7) (b : BOp), okB b = true →
    DoneEach (match b with | .reg n => .movB32Reg h d n | .sel n l => .movB32Sel h d n l) (vecWord h 1 d 0#7 b) false
      (names32 true none d 0#7 b) b.selector (fun s i t => { v := [⟨t.uid, t.wb + d.toNat, regB s i t b⟩] })) ∧
  (∀ (h : Hdr) (d a : BitVec 7) (b : BOp), okB b = true →
    DoneEach (match b with | .reg n => .selB32Reg h d a n | .sel n l => .selB32Sel h d a n l) (vecWord h 2 d a b) false
      (fun _ => { vr := (a.toNat, 1) :: b.runs 1, vw := [(d.toNat, 1)], sr := b.sregs false, gr := true }) b.selector
      (fun s i t => { v := [⟨t.uid, t.wb + d.toNat, if t.g then getV t a.toNat else regB s i t b⟩] })) ∧
  (∀ (h : Hdr) (d a : BitVec 7) (b : BOp), okB b = true →
    DoneEach (match b with | .reg n => .permB32Reg h d a n | .sel n l => .permB32Sel h d a n l) (vecWord h 46 d a b) false
      (fun _ => { vr := [(d.toNat, 1), (a.toNat, 1)] ++ b.runs 1, vw := [(d.toNat, 1)], sr := b.sregs false }) b.selector
      (fun s i t => { v := [put1 t d (perm (getV t a.toNat).bits (bitsB s i t b) (getV t d.toNat).bits) 0#4] })) ∧
  (∀ (h : Hdr) (d b : BitVec 7) (lit : Word), d.toNat < 64 → selectorOk b = true →
    DoneOnce (.smovB32 h d b lit) (scaWord h 1 d 0#7 b) (names32s true false d 0#7 b) (some b)
      (fun s i t => { s := [putS i d (BitVec.ofNat 32 (src s i t b.toNat lit .int))] })) ∧
  (∀ (h : Hdr) (d a b : BitVec 7) (lit : Word), d.toNat < 64 → a.toNat < 64 → selectorOk b = true →
    DoneOnce (.spermB32 h d a b lit) (scaWord h 46 d a b) (names32s false true d a b) (some b)
      (fun s i t => { s := [putS i d (perm (sOf s i a) (BitVec.ofNat 32 (src s i t b.toNat lit .int)) (sOf s i d))] }))

/-- 11 R240, R253: the compares write g := 1 when a cond b holds and g := 0 otherwise, and nothing else; a scalar compare writes the same value
in every active thread. -/
def Obligations.CompareWords : Prop :=
  ∀ row ∈ cmpRows, (∀ (h : Hdr) (c a : BitVec 7) (b : BOp), okB b = true → c.toNat ≤ 5 →
    DoneEach (row.vec h c a b) (vecWord h row.p c a b) false
      (fun _ => { vr := (a.toNat, 1) :: b.runs 1, sr := b.sregs false, gw := true, tags := typed 1 a.toNat 1 row.acc ++ typedB b 1 row.acc })
      b.selector (fun s i t => { g := [(t.uid, row.holds c.toNat (getV t a.toNat).bits.toNat (numB s i t b row.fmt))] })) ∧
  (∀ (h : Hdr) (c a b : BitVec 7) (lit : Word), c.toNat ≤ 5 → a.toNat < 64 → selectorOk b = true →
    DoneOnce (row.sca h c a b lit) (scaWord h row.p c a b) (fun _ => { sr := a.toNat :: selS b.toNat false, gw := true }) (some b)
      (fun s i t => { g := i.act.map fun u => (u, row.holds c.toNat (sOf s i a).toNat (src s i t b.toNat lit row.fmt)) }))

/-- 11 R242, R243, R245, R246, 13 R311: `gset`, `tagset` with an assigned tag code, `xlr` and `rngk`; a tag code from 12 to 15, which is reserved,
traps the thread with 1,4 in field B. That `tagset` and `xlr` check no tag of what they copy, and `tagset` none of B, is the model's reading (log
entry 39). -/
def Obligations.GuardTagLaneWords : Prop :=
  (∀ (h : Hdr) (c a : BitVec 7) (b : BOp), okB b = true → c.toNat ≤ 3 →
    DoneEach (match b with | .reg n => .gsetReg h c a n | .sel n l => .gsetSel h c a n l) (vecWord h 47 c a b) false
      (fun _ => { vr := (a.toNat, 1) :: b.runs 1, sr := b.sregs false, gr := c ≠ 0#7, gw := true, tags := typed 1 a.toNat 1 integerTags })
      b.selector
      (fun s i t => { g := [(t.uid, gsetResult c.toNat t.g ((bitsB s i t b).getLsbD ((getV t a.toNat).bits.toNat % 32)))] })) ∧
  (∀ (h : Hdr) (d a : BitVec 7) (b : BOp), okB b = true →
    DoneWhen (match b with | .reg n => .tagsetReg h d a n | .sel n l => .tagsetSel h d a n l) (vecWord h 48 d a b) false
      (fun _ => { vr := (a.toNat, 1) :: b.runs 1, vw := [(d.toNat, 1)], sr := b.sregs false }) b.selector
      (fun s i t => ((bitsB s i t b).extractLsb' 0 4).toNat < 12)
      (fun s i t => { v := [put1 t d (getV t a.toNat).bits ((bitsB s i t b).extractLsb' 0 4)] })) ∧
  (∀ (h : Hdr) (d a : BitVec 7) (b : BOp), okB b = true →
    TrapsWhen (match b with | .reg n => .tagsetReg h d a n | .sel n l => .tagsetSel h d a n l) (vecWord h 48 d a b)
      (fun _ => { vr := (a.toNat, 1) :: b.runs 1, vw := [(d.toNat, 1)], sr := b.sregs false }) b.selector
      (fun s i t => 12 ≤ ((bitsB s i t b).extractLsb' 0 4).toNat) { cls := 1, code := 4, aux := 2 }) ∧
  (∀ (h : Hdr) (d a : BitVec 7) (b : BOp), okB b = true →
    DoneEach (match b with | .reg n => .xlrReg h d a n | .sel n l => .xlrSel h d a n l) (vecWord h 49 d a b) false
      (fun _ => { vr := b.runs 1, vw := [(d.toNat, 1)], sr := b.sregs false, tags := typedB b 1 integerTags }) b.selector
      (fun s i t => { v := [⟨t.uid, t.wb + d.toNat, match inLane s t ((bitsB s i t b).toNat % 32) with
        | some m => if m.wb + a.toNat < m.alloc then getV m a.toNat else ⟨0#32, 0#4⟩
        | none => ⟨0#32, 0#4⟩⟩] })) ∧
  (∀ (h : Hdr) (d a : BitVec 7) (b : BOp), okB b = true →
    DoneEach (match b with | .reg n => .rngkReg h d a n | .sel n l => .rngkSel h d a n l) (vecWord h 50 d a b) false
      (fun _ =>
        { vr := (a.toNat, 2) :: b.runs 1, vw := [(d.toNat, 1)], sr := b.sregs false
          tags := typed 1 a.toNat 2 integerTags ++ typedB b 1 integerTags, limits := [(a.toNat % 2 == 1, 1)] }) b.selector
      (fun s i t => { v := [put1 t d (BitVec.ofNat 32 (opRngk (pairV t a).toNat (bitsB s i t b).toNat)) 2#4] }))

/-- 11 R254, R255: `svote.b32` writes the mask of the lanes of active threads whose g is 1; `slane.b32` reads register A of the active thread in a
lane, 0 where there is none. -/
def Obligations.VoteLaneWords : Prop :=
  (∀ (h : Hdr) (d : BitVec 7), d.toNat < 64 →
    DoneOnce (.svoteB32 h d) ⟨1#2, h.s, h.g, 64#7, d, 0#7, 0#7⟩ (fun _ => { sw := [d.toNat], gr := true }) none
      (fun s i _ => { s := [putS i d (BitVec.ofNat 32 (laneMask s (i.act.filter fun u => (threadOf s u).g)))] })) ∧
  (∀ (h : Hdr) (d a b : BitVec 7) (lit : Word), d.toNat < 64 → selectorOk b = true →
    DoneOnce (.slaneB32 h d a b lit) ⟨1#2, h.s, h.g, 65#7, d, a, b⟩ (fun _ => { vr := [(a.toNat, 1)], sr := selS b.toNat false, sw := [d.toNat] }) (some b)
      (fun s i t => { s := [putS i d (match i.act.find? fun u => (threadOf s u).lane == src s i t b.toNat lit .int % 32 with
        | some u => (getV (threadOf s u) a.toNat).bits
        | none => 0#32)] }))

/-- 11 R247 to R253: `cvt` and `scvt` of an allowed pair of formats, and `cvtq.e2m1` with a scale code and a mode that are not reserved. `cvt` asks
that its part number is not reserved in any thread of the group, which the guard may turn off (18 R365). That B of `cvtq.e2m1` is read as bits, with
no tag check, is the model's reading (log entry 119). -/
def Obligations.ConvertWords : Prop :=
  (∀ (h : Hdr) (d c : BitVec 7) (b : BOp), okB b = true → 1 ≤ cvtDf c → cvtDf c ≤ 10 →
    DoneWhenIf (fun s i => ∀ u ∈ i.group, let sf := cvtSf (threadOf s u) c b
        ¬(cvtKind sf (cvtDf c) = 2 ∧ elemCount sf / elemCount (cvtDf c) ≤ cvtMq c))
      (match b with | .reg n => .cvtReg h d c n | .sel n l => .cvtSel h d c n l) (vecWord h 44 d c b) false (cvtNames d c b) b.selector
      (fun _ _ _ => True)
      (fun s i t =>
        let r := opCvt (cvtSf t c b) (cvtDf c) (cvtMq c) (numB s i t b (if cvtDf c = 3 then .int else .f32)) (getV t d.toNat).bits.toNat
          (getV t (d ^^^ 1#7).toNat).bits
        { v := [put1 t d (BitVec.ofNat 32 r.1) (BitVec.ofNat 4 (cvtDf c))], st := sets t r.2 })) ∧
  (∀ (h : Hdr) (d c b : BitVec 7) (lit : Word), d.toNat < 64 → 1 ≤ cvtDf c → cvtDf c ≤ 10 → selectorOk b = true →
    DoneOnce (.scvt h d c b lit) (scaWord h 44 d c b)
      (fun _ =>
        { sr := selS b.toNat false ++ (if elemCount (cvtSource none (cvtDf c)) < elemCount (cvtDf c) then [d.toNat] else []) ++
            (if cvtStochastic (cvtSource none (cvtDf c)) c then [(d ^^^ 1#7).toNat] else [])
          sw := [d.toNat]
          limits := [(cvtKind (cvtSource none (cvtDf c)) (cvtDf c) == 0, 1)] }) (some b)
      (fun s i t =>
        let r := opCvt (cvtSource none (cvtDf c)) (cvtDf c) (cvtMq c) (src s i t b.toNat lit (if cvtDf c = 3 then .int else .f32)) (sOf s i d).toNat
          (sOf s i (d ^^^ 1#7))
        { s := [putS i d (BitVec.ofNat 32 r.1)], st := setsAll i r.2 })) ∧
  (∀ (h : Hdr) (d a : BitVec 7) (b : BOp), okB b = true →
    DoneWhen (match b with | .reg n => .cvtqE2m1Reg h d a n | .sel n l => .cvtqE2m1Sel h d a n l) (vecWord h 45 d a b) false
      (fun _ =>
        { vr := (a.toNat, 32) :: b.runs 1, vw := [(d.toNat, 8)], sr := b.sregs false, tags := typed 1 a.toNat 32 [3]
          limits := [(120 < d.toNat, 0), (96 < a.toNat, 1)] }) b.selector
      (fun s i t => (bitsB s i t b).extractLsb' 0 8 ≠ 255#8 ∧ ((bitsB s i t b).extractLsb' 8 3).toNat < 4)
      (fun s i t =>
        let w := bitsB s i t b
        let r := opCvtq ((upFrom a.toNat 32).map (vBits t)) (w.extractLsb' 0 8).toNat (w.extractLsb' 8 3).toNat
        { v := (upFrom 0 4).map (fun k => ⟨t.uid, t.wb + (d.toNat + k), ⟨BitVec.ofNat 32 (r.1 / 2 ^ (32 * k)), 8#4⟩⟩) ++
            (upFrom 0 4).map (fun k => ⟨t.uid, t.wb + (d.toNat + 4 + k), ⟨BitVec.ofNat 32 (nthD 0 r.2.1 k), 0#4⟩⟩)
          st := sets t r.2.2 }))

namespace Sys2Proof.Claims

open Sys2Proof.Machine Sys2Proof.Safety

/-! ### Control words (11 R256 to R270, 13 R322 to R325) -/

/-- The word of the control class. -/
def ctlWord (h : Hdr) (op : Nat) (d a b : BitVec 7) : Fields := ⟨3#2, h.s, h.g, BitVec.ofNat 7 op, d, a, b⟩

/-- The word of a branch (10 R216): its offset fills D, A and B. -/
def branchWord (h : Hdr) (op : Nat) (o : BitVec 21) : Fields := ctlWord h op (o.extractLsb' 14 7) (o.extractLsb' 7 7) (o.extractLsb' 0 7)

/-- Target(w): PC + 4 × Signed(21, word[20:0]) (10 R216). -/
def target (i : Issue) (o : BitVec 21) : VAddr := i.pc + BitVec.ofInt 57 (4 * o.toInt)

/-- Names of a word that reads nothing but a selector. -/
def namesB (b : BitVec 7) : Thread → Names := fun _ => { sr := selS b.toNat false }

/-- What a word leaves unchanged that changes WB, STATUS or a segment of its threads: memory, the registers of threads, flocks and the registers of
the management blocks. -/
def Local (s t : State) : Prop := KeepsMemory s t ∧ KeepsRegs s t ∧ KeepsRest s t

/-- A thread's wait is set. -/
def waiting (x : State) (t : Thread) (q : Waiting) : State := modThread x t.uid fun t => { t with wait := q }

end Sys2Proof.Claims

/-- 10 R216, 11 R257, R258: in each active thread `br` and `call` go to Target(w), `brn` does where g is 0, and `jr` goes to Pair(A)[56:0] where bits
[1:0] of it are 0; other threads go on; `call` writes PC + 4 to v126:v127, tagged N32. -/
def Obligations.BranchWords : Prop :=
  (∀ (h : Hdr) (o : BitVec 21), DoneEach (.br h o) (branchWord h 0 o) false (fun _ => {}) none (fun _ i t => { pc := [(t.uid, target i o)] })) ∧
  (∀ (h : Hdr) (o : BitVec 21), DoneEach (.brn h o) (branchWord h 1 o) false (fun _ => { gr := true }) none
    (fun _ i t => { pc := if t.g then [] else [(t.uid, target i o)] })) ∧
  (∀ (h : Hdr) (o : BitVec 21), DoneEach (.call h o) (branchWord h 2 o) false (fun _ => { vw := [(126, 2)] }) none
    (fun _ i t => { v := put2 t 126#7 ((i.pc + 4#57).setWidth 64) 2#4, pc := [(t.uid, target i o)] })) ∧
  (∀ (h : Hdr) (a : BitVec 7), DoneWhen (.jr h a) (ctlWord h 3 0#7 a 0#7) false
    (fun _ => { vr := [(a.toNat, 2)], tags := typed 1 a.toNat 2 integerTags, limits := [(a.toNat % 2 == 1, 1)] }) none
    (fun _ _ t => (pairV t a).extractLsb' 0 2 = 0#2) (fun _ _ t => { pc := [(t.uid, (pairV t a).extractLsb' 0 57)] }))

/-- 11 R259, R270, 13 R322: `nop` has no effect; `yield` makes the threads as old as the next cycle; `winb` sets or moves WB to an even value from
0 to ALLOC − 128 after every earlier result (with ALLOC below 128, to 0: log entry 47, the model's choice); `statrd` reads STATUS, tagged N32, and
`statclr` clears the named bits, after every earlier result. -/
def Obligations.ThreadStateWords : Prop :=
  (∀ h : Hdr, DoneEach (.nop h) (ctlWord h 14 0#7 0#7 0#7) false (fun _ => {}) none (fun _ _ _ => {})) ∧
  (∀ h : Hdr, DoneTurns (.yield h) (ctlWord h 10 0#7 0#7 0#7) false false (fun _ => {}) none (fun _ _ _ => True)
    (fun x _ t => modThread x t.uid fun t => { t with age := x.cycle + 1 }) (fun _ _ _ => {}) Quiet) ∧
  (∀ (h : Hdr) (c b : BitVec 7) (lit : Word), c.toNat ≤ 1 → selectorOk b = true →
    DoneTurns (.winb h c b lit) (ctlWord h 9 c 0#7 b) true false (namesB b) (some b)
      (fun x i t =>
        let n : Int := (if c = 0#7 then 0 else (t.wb : Int)) + (if c = 0#7 then (src x i t b.toNat lit .int : Int) else s32 (src x i t b.toNat lit .int))
        0 ≤ n ∧ n % 2 = 0 ∧ n ≤ ((t.alloc - 128 : Nat) : Int))
      (fun x i t => modThread x t.uid fun y =>
        { y with wb := ((if c = 0#7 then 0 else (t.wb : Int)) +
            (if c = 0#7 then (src x i t b.toNat lit .int : Int) else s32 (src x i t b.toNat lit .int))).toNat })
      (fun _ _ _ => {}) Local) ∧
  (∀ (h : Hdr) (d : BitVec 7), DoneEach (.statrd h d) (ctlWord h 15 d 0#7 0#7) true (fun _ => { vw := [(d.toNat, 1)] }) none
    (fun _ _ t => { v := [put1 t d (t.status.setWidth 32) 2#4] })) ∧
  (∀ (h : Hdr) (b : BitVec 7) (lit : Word), selectorOk b = true →
    DoneTurns (.statclr h b lit) (ctlWord h 16 0#7 0#7 b) true false (namesB b) (some b) (fun _ _ _ => True)
      (fun x i t => modThread x t.uid fun y => { y with status := y.status &&& ~~~BitVec.ofNat 16 (src x i t b.toNat lit .int) })
      (fun _ _ _ => {}) Local)

/-- 11 R261, R265, 19 R391: once its results are written, `exit` ends a thread of no special role, whose stores still drain and whose engine operations go
on; a routine thread of a sweep ends its visit and stays; `cvacc` and `cvrej` end a coverage routine thread with its answer recorded. An ended
thread is no longer there. -/
def Obligations.ThreadEndWords : Prop :=
  (∀ h : Hdr, DoneTurns (.exit h) (ctlWord h 5 0#7 0#7 0#7) true false (fun _ => {}) none (fun _ _ t => t.role = .plain)
    (fun x _ t => freeLaunches (endThread x t.uid)) (fun _ _ _ => {}) KeepsMemory) ∧
  (∀ (h : Hdr) (slot : Nat), DoneTurns (.exit h) (ctlWord h 5 0#7 0#7 0#7) true false (fun _ => {}) none (fun _ _ t => ∃ e, t.role = .sweep slot e)
    (fun x _ t => waiting (endVisit x t slot none) t .idle) (fun _ _ _ => {}) Quiet) ∧
  (∀ (h : Hdr) (hr cand : Nat), DoneTurns (.cvacc h) (ctlWord h 12 0#7 0#7 0#7) true false (fun _ => {}) none (fun _ _ t => t.role = .cover hr cand)
    (fun x _ t => freeLaunches (endThread (answerCand x hr cand true) t.uid)) (fun _ _ _ => {}) KeepsMemory) ∧
  (∀ (h : Hdr) (hr cand : Nat), DoneTurns (.cvrej h) (ctlWord h 13 0#7 0#7 0#7) true false (fun _ => {}) none (fun _ _ t => t.role = .cover hr cand)
    (fun x _ t => freeLaunches (endThread (answerCand x hr cand false) t.uid)) (fun _ _ _ => {}) KeepsMemory) ∧
  (∀ (x : State) (u : Nat), findThread (endThread x u) u = none ∧ (endThread x u).fifo = x.fifo ∧ (endThread x u).wc = x.wc ∧
    (endThread x u).packets = x.packets ∧ (endThread x u).copies = x.copies ∧ (endThread x u).mmas = x.mmas ∧ (endThread x u).rays = x.rays ∧
    (endThread x u).portOps = x.portOps ∧ ∀ v, v ≠ u → findThread (endThread x u) v = findThread x v)

/-- 11 R266 to R269, 02 R31 to R34: the moves act after every earlier result of the thread and every earlier s write of its flock, and write g.
`join` moves to the live flock of its core and job that A names where that flock is resident and its place for the lane empty, and answers
g; `joink` moves to the flock of a key, or, where there is none, it is not resident, or its place for the lane is taken, to a fresh one that takes the
key; `leave` moves to a fresh flock. A fresh flock has the old one's s
registers and priority, no tiles, and the lowest free index. In a routine thread of a sweep a move ends the visit (19 R391). -/
def Obligations.FlockMoveWords : Prop :=
  (∀ (h : Hdr) (a : BitVec 7), DoneTurns (.join h a) (ctlWord h 6 0#7 a 0#7) true false (fun _ => { vr := [(a.toNat, 1)], gw := true }) none
    (fun x0 i t => (∀ sl e, t.role ≠ .sweep sl e) ∧
      let x := interlock x0 i.core i.flock []
      let f := (getV t a.toNat).bits.toNat
      ∃ k, findFlock x t.core (f % 65536) = some k ∧ f = flockId t.core k.idx ∧ k.job = t.job)
    (fun x0 i t =>
      let x := interlock x0 i.core i.flock []
      let k := flockOf x t.core ((getV t a.toNat).bits.toNat % 65536)
      if k.idx ≠ t.flock ∧ k.resident = true ∧ placeEmpty x t.core k.idx t.lane = true then moveThread x t k.idx else x)
    (fun x0 i t =>
      let x := interlock x0 i.core i.flock []
      let k := flockOf x t.core ((getV t a.toNat).bits.toNat % 65536)
      { g := [(t.uid, decide (k.idx = t.flock ∨ (k.resident = true ∧ placeEmpty x t.core k.idx t.lane = true)))] }) KeepsMemory) ∧
  (∀ (h : Hdr) (a : BitVec 7), DoneTurns (.joink h a) (ctlWord h 7 0#7 a 0#7) true false (fun _ => { vr := [(a.toNat, 1)], gw := true }) none
    (fun _ _ t => ∀ sl e, t.role ≠ .sweep sl e)
    (fun x0 i t =>
      let x := interlock x0 i.core i.flock []
      let key := (getV t a.toNat).bits
      let fresh := freshFlock x t (some key)
      let anew := moveThread (enterKey fresh.1 t.core t.job key fresh.2) t fresh.2
      match x.keys.find? fun e => e.1 == t.core && e.2.1 == t.job && e.2.2.1 == key with
      | none => anew
      | some e =>
        if (flockOf x t.core e.2.2.2).resident = true ∧ placeEmpty x t.core e.2.2.2 t.lane = true
          then moveThread (enterKey x t.core t.job key e.2.2.2) t e.2.2.2
        else anew)
    (fun _ _ t => { g := [(t.uid, true)] }) KeepsMemory) ∧
  (∀ h : Hdr, DoneTurns (.leave h) (ctlWord h 8 0#7 0#7 0#7) true false (fun _ => { gw := true }) none (fun _ _ t => ∀ sl e, t.role ≠ .sweep sl e)
    (fun x0 i t =>
      let x := interlock x0 i.core i.flock []
      moveThread (freshFlock x t none).1 t (freshFlock x t none).2)
    (fun _ _ t => { g := [(t.uid, true)] }) KeepsMemory) ∧
  (∀ (h : Hdr) (a : BitVec 7) (slot : Nat) (word : Instr × Fields × List (Nat × Nat)),
    word ∈ [(.join h a, ctlWord h 6 0#7 a 0#7, [(a.toNat, 1)]), (.joink h a, ctlWord h 7 0#7 a 0#7, [(a.toNat, 1)]),
      (.leave h, ctlWord h 8 0#7 0#7 0#7, [])] →
    DoneTurns word.1 word.2.1 true false (fun _ => { vr := word.2.2, gw := true }) none (fun _ _ t => ∃ e, t.role = .sweep slot e)
      (fun x _ t => waiting (endVisit x t slot none) t .idle) (fun _ _ _ => {}) Quiet) ∧
  (∀ (x : State) (t : Thread) (key : Option Word), (freshFlock x t key).2 = freeIndex x t.core ∧ (freshFlock x t key).1.flocks = x.flocks ++
    [{ Flock.blank with
        core := t.core, idx := freeIndex x t.core, job := t.job, prio := (flockOf x t.core t.flock).prio
        sregs := (flockOf x t.core t.flock).sregs, key := key, since := ftime x (dieOf t.core) }])

/-- 11 R260, 13 R323, 09 R199: where the job has HALT_EN and a halt slot on the die, `brk` and `haltw` stop it: a slot that is running starts the
halt wave with CAUSE 0 or 1, the lane and slot of the lowest active lane and the word's PC. Without, `haltw` does nothing. -/
def Obligations.BreakWords : Prop :=
  (∀ (h : Hdr) (cause k : Nat), cause ≤ 1 →
    DoneGroup (if cause = 0 then .brk h else .haltw h) (ctlWord h (if cause = 0 then 11 else 18) 0#7 0#7 0#7) false false (fun _ => {}) none
      (fun x i _ => haltEn x i.die i.job = true ∧ haltSlot x i.die i.job = some k)
      (fun x i t => if phaseOf x i.die k = 0
        then startHalt x i.die k (i.core % 128) (threadOf x t.uid).lane (threadOf x t.uid).slot cause i.pc.toNat else x)
      (fun _ _ _ => {}) (fun s t => KeepsMemory s t ∧ KeepsThreads s t ∧ t.flocks = s.flocks)) ∧
  (∀ h : Hdr, DoneGroup (.haltw h) (ctlWord h 18 0#7 0#7 0#7) false false (fun _ => {}) none
      (fun x i _ => haltEn x i.die i.job = false ∨ haltSlot x i.die i.job = none) (fun x _ _ => x) (fun _ _ _ => {}) Quiet)

namespace Sys2Proof.Claims

open Sys2Proof.Machine Sys2Proof.Safety

/-! ### Memory words (12 R271 to R279) -/

/-- The word of the memory and engine class; with a literal its opcode is one more. -/
def memWord (h : Hdr) (op : Nat) (lit : Option Word) (d a b : BitVec 7) : Fields :=
  ⟨2#2, h.s, h.g, BitVec.ofNat 7 (op + if lit.isSome then 1 else 0), d, a, b⟩

/-- The offset of a word: Signed32 of its literal, or 0 (R273). -/
def offLit (lit : Option Word) : Int := (lit.map BitVec.toInt).getD 0

/-- Registers that an access of 2^z bytes names (R272). -/
def regCount (z : Nat) : Nat := if z ≤ 2 then 1 else 2 ^ z / 4

/-- D is a multiple of the number of registers, and they lie within the window (R273, R383). -/
def dBad (d : BitVec 7) (z : Nat) : Bool := d.toNat % regCount z ≠ 0 || 127 < d.toNat + regCount z - 1

/-- A global address pair, or a local offset, in A. -/
def addrNames (global : Bool) (a : BitVec 7) : List (Nat × Nat) × List (Nat × Nat × List Nat) × List (Bool × Nat) :=
  if global then ([(a.toNat, 2)], typed 1 a.toNat 2 integerTags, [(a.toNat % 2 == 1, 1)])
  else ([(a.toNat, 1)], typed 1 a.toNat 1 integerTags, [])

/-- What a load of 2^z bytes names. -/
def loadNamesOf (global : Bool) (d a : BitVec 7) (z : Nat) : Thread → Names := fun _ =>
  { vr := (addrNames global a).1, vw := [(d.toNat, regCount z)], tags := (addrNames global a).2.1
    limits := (dBad d z, 0) :: (addrNames global a).2.2 }

/-- What a store of 2^z bytes names. -/
def storeNamesOf (global : Bool) (d a : BitVec 7) (z : Nat) : Thread → Names := fun _ =>
  { vr := (d.toNat, regCount z) :: (addrNames global a).1, tags := (addrNames global a).2.1
    limits := (dBad d z, 0) :: (addrNames global a).2.2 }

/-- A modifier that is not reserved: SZ at most 4, and a tag, or the sign bit with the bits above it 0 (R272). -/
def modOk (m : BitVec 7) : Prop := (m.toNat % 8 ≤ 1 ∧ m.toNat < 16) ∨ (2 ≤ m.toNat % 8 ∧ m.toNat % 8 ≤ 4 ∧ m.toNat / 8 ≤ 11)

/-- A thread's access to `n` bytes at a global address is granted: the state after translation, the place and the glean class. -/
def Granted (x : State) (t : Thread) (a n al : Nat) (write : Bool) (y : State) (k : Nat) (g : Option Nat) : Prop :=
  globalAt x t a n al write = (y, .at k g)

/-- What a word does with the place of its access. -/
def withPlace (x : State) (t : Thread) (a n al : Nat) (write : Bool) (f : State → Nat → Option Nat → State) : State :=
  match globalAt x t a n al write with
  | (y, .at k g) => f y k g
  | (y, _) => y

/-- The load, global or local, with or without an offset. -/
def loadInstr (global : Bool) (h : Hdr) (d a m : BitVec 7) : Option Word → Instr
  | none => if global then .ld h d a m else .ldl h d a m
  | some l => if global then .ldLit h d a m l else .ldlLit h d a m l

/-- The store. -/
def storeInstr (global : Bool) (h : Hdr) (d a : BitVec 7) (z : BitVec 3) : Option Word → Instr
  | none => if global then .st h d a z else .stl h d a z
  | some l => if global then .stLit h d a z l else .stlLit h d a z l

/-- What changes when a load puts local-store bytes that its thread had still to write in their place: memory, threads, flocks and the registers
of the management blocks, but for the count of errors, do not. -/
def QuietLocal (s t : State) : Prop :=
  (∀ a, memByte t a = memByte s a) ∧ (∀ h, cellGet t h = cellGet s h) ∧ KeepsThreads s t ∧ KeepsRestRead s t

/-- A read of `n` bytes of local store checks their code words (17 R358). -/
def readsLocal (x : State) (t : Thread) (off n : Nat) : State := eccRead x (inLs t.core off n)

/-- 512-bit or smaller operand of a reduction: 64 bits for the functions on 64 bits. -/
def redOperand (t : Thread) (d f : BitVec 7) : DWord := if redSize f.toNat = 8 then pairV t d else (getV t d.toNat).bits.setWidth 64

/-- What a reduction names (12 R276, R277): its operand with the tags that its function accepts, and its address. -/
def redNamesOf (global : Bool) (d a f : BitVec 7) : Thread → Names := fun _ =>
  { vr := (d.toNat, redSize f.toNat / 4) :: (addrNames global a).1
    tags := (if f.toNat ≤ 11 then typed 0 d.toNat (redSize f.toNat / 4) integerTags
        else if f.toNat ≤ 17 then [] else if f.toNat = 18 then typed 0 d.toNat 1 [3] else typed 0 d.toNat 1 [4]) ++ (addrNames global a).2.1
    limits := (redSize f.toNat / 4 == 2 && d.toNat % 2 == 1, 0) :: (addrNames global a).2.2 }

/-- The reduction, in global memory or in local store. -/
def redInstr (global : Bool) (h : Hdr) (d a f : BitVec 7) : Option Word → Instr
  | none => if global then .red h d a f else .redLs h d a f
  | some l => if global then .redLit h d a f l else .redLsLit h d a f l

/-- A job's handle that a word may use: not malformed, and its INDEX inside SG.C (R73). -/
def usable (x : State) (t : Thread) (h : Nat) : Prop :=
  badHandle x h = none ∧ t.segC.base ≤ hIndex h ∧ hIndex h < t.segC.base + t.segC.limit

/-! ### Counter words (12 R280 to R287) -/

/-- What a counter word names: the handle pair A, and `rd` registers read and `wd` written at D. -/
def counterNames (a d : BitVec 7) (rd wd : Nat) : Thread → Names := fun _ =>
  { vr := (a.toNat, 2) :: (if rd = 0 then [] else [(d.toNat, rd)]), vw := if wd = 0 then [] else [(d.toNat, wd)]
    tags := (if rd = 0 then [] else typed 0 d.toNat rd integerTags) ++ typed 1 a.toNat 2 integerTags
    limits := [((rd = 2 ∨ wd = 2) && d.toNat % 2 == 1, 0), (a.toNat % 2 == 1, 1)] }

/-- The handle in A. -/
def handleV (t : Thread) (a : BitVec 7) : Nat := (pairV t a).toNat

/-- A packet of a thread to the home of a handle, with the scope of its release where it makes one. -/
def sent (x : State) (t : Thread) (h : Nat) (release : Option Nat) (op : CtrOp) : State :=
  { x with
    packets := x.packets ++ [{ Packet.blank with
      id := x.fresh, seq := x.fresh, sent := x.cycle, src := t.core, dst := homeUnit x h, ordered := localHandle x h, uid := some t.uid
      job := t.job, release := release, grp := x.cycle + 1, pc := t.pc, body := .ctr (BitVec.ofNat 64 h) op }]
    fresh := x.fresh + 1 }

/-- A result in flight. -/
def owed (x : State) (r : Result) : State := { x with results := x.results ++ [{ r with id := x.fresh, at_ := x.cycle + 1 }], fresh := x.fresh + 1 }

/-- The result of a value of the counter that A names, which returns to the pair at D, tagged N32. -/
def pairOwed (i : Issue) (t : Thread) (d a : BitVec 7) : Result :=
  { Result.empty with
    uids := [t.uid], ready := false, buf := List.replicate 8 none, fmt := some (.regs t.uid (t.wb + d.toNat) [2#4, 2#4]), pc := i.pc, counter := true
    addr := handleV t a }

/-- The amount of an addition: D, or the literal. -/
def amountD (t : Thread) (d : BitVec 7) (lit : Option Word) : Nat := (lit.getD (getV t d.toNat).bits).toNat

end Sys2Proof.Claims

/-- 12 R271 to R273: `ld` and `ldl`, with and without an offset, put one result in flight for each active thread whose access is allowed. A global
load's bytes come from the thread's pending stores, from the core's L1 or from their homes; those of a local load are there at once. They go to
the registers that SZ and the modifier name. The code words that are read at once are checked, 17 R358: without errors this changes nothing. -/
def Obligations.LoadWords : Prop :=
  (∀ (h : Hdr) (d a m : BitVec 7) (lit : Option Word), modOk m →
    DoneTurns (loadInstr true h d a m lit) (memWord h 0 lit d a m) false false (loadNamesOf true d a (m.toNat % 8)) none
      (fun x i t => ∃ y k g, Granted x t (gAddr t a.toNat (offLit lit)) (2 ^ (m.toNat % 8)) (2 ^ (m.toNat % 8)) false y k g ∧
        (loadOrTrap y t i.pc (gAddr t a.toNat (offLit lit)) k (2 ^ (m.toNat % 8)) g (loadFmt t d m)).2 = none)
      (fun x i t => withPlace x t (gAddr t a.toNat (offLit lit)) (2 ^ (m.toNat % 8)) (2 ^ (m.toNat % 8)) false fun y k g =>
        (loadOrTrap y t i.pc (gAddr t a.toNat (offLit lit)) k (2 ^ (m.toNat % 8)) g (loadFmt t d m)).1)
      (fun _ _ _ => {}) QuietLocal) ∧
  (∀ (h : Hdr) (d a m : BitVec 7) (lit : Option Word), modOk m →
    DoneTurns (loadInstr false h d a m lit) (memWord h 4 lit d a m) false false (loadNamesOf false d a (m.toNat % 8)) none
      (fun x _ t =>
        let off := lAddr t a.toNat (offLit lit)
        let n := 2 ^ (m.toNat % 8)
        localPre x t off n n = none ∧ redLsPending x t.uid off n = false ∧ localBad (readsLocal x t off n) t off n = false)
      (fun x i t => owed (readsLocal x t (lAddr t a.toNat (offLit lit)) (2 ^ (m.toNat % 8))) { Result.empty with
        uids := [t.uid], buf := (seeLocal x t (lAddr t a.toNat (offLit lit)) (2 ^ (m.toNat % 8))).map some, fmt := some (loadFmt t d m), pc := i.pc })
      (fun _ _ _ => {}) QuietRead) ∧
  (∀ (x : State) (t : Thread) (pc : VAddr) (va k n : Nat) (g : Option Nat) (fmt : LoadFmt), x.flips = [] → x.poison = [] →
    loadOrTrap x t pc va k n g fmt = (issueLoad x t pc va k n g fmt, none)) ∧
  (∀ (x : State) (t : Thread) (off n : Nat), x.flips = [] → readsLocal x t off n = x ∧ (x.poison = [] → localBad x t off n = false)) ∧
  (∀ (x : State) (t : Thread) (pc : VAddr) (va k n : Nat) (g : Option Nat) (fmt : LoadFmt),
    x.fifo.any (fun e => e.uid == t.uid && e.op.isRed && e.op.meets k n) = false → (∀ j < n, (coreByte x t.core t.uid (k + j)).isSome) →
    issueLoad x t pc va k n g fmt = owed x { Result.empty with
      uids := [t.uid], buf := (List.range n).map fun j => coreByte x t.core t.uid (k + j), fmt := some fmt, pc := pc, addr := va })

/-- 12 R274, R276 to R278: `st`, `stl`, `red`, `red.ls` and `red.det`, with and without an offset, put the thread's store into its store queue: the
bytes of D for the place that A names, or the reduction with its operand. No byte of memory changes yet. -/
def Obligations.StoreWords : Prop :=
  (∀ (h : Hdr) (d a : BitVec 7) (z : BitVec 3) (lit : Option Word), z.toNat ≤ 4 →
    DoneTurns (storeInstr true h d a z lit) (memWord h 2 lit d a (z.setWidth 7)) false false (storeNamesOf true d a z.toNat) none
      (fun x _ t => ∃ y k g, Granted x t (gAddr t a.toNat (offLit lit)) (2 ^ z.toNat) (2 ^ z.toNat) true y k g)
      (fun x _ t => withPlace x t (gAddr t a.toNat (offLit lit)) (2 ^ z.toNat) (2 ^ z.toNat) true fun y k _ =>
        pushStore y t (.glob k (dataBytes t d.toNat (2 ^ z.toNat))))
      (fun _ _ _ => {}) Quiet) ∧
  (∀ (h : Hdr) (d a : BitVec 7) (z : BitVec 3) (lit : Option Word), z.toNat ≤ 4 →
    DoneTurns (storeInstr false h d a z lit) (memWord h 6 lit d a (z.setWidth 7)) false false (storeNamesOf false d a z.toNat) none
      (fun x _ t => localPre x t (lAddr t a.toNat (offLit lit)) (2 ^ z.toNat) (2 ^ z.toNat) = none)
      (fun x _ t => pushStore x t (.locl (lAddr t a.toNat (offLit lit)) (dataBytes t d.toNat (2 ^ z.toNat))))
      (fun _ _ _ => {}) Quiet) ∧
  (∀ (h : Hdr) (d a f : BitVec 7) (lit : Option Word), f.toNat < 20 →
    DoneTurns (redInstr true h d a f lit) (memWord h 10 lit d a f) false false (redNamesOf true d a f) none
      (fun x _ t => ∃ y k g, Granted x t (gAddr t a.toNat (offLit lit)) (redSize f.toNat) (redSize f.toNat) true y k g)
      (fun x _ t => withPlace x t (gAddr t a.toNat (offLit lit)) (redSize f.toNat) (redSize f.toNat) true fun y k _ =>
        pushStore y t (.red f.toNat k (redOperand t d f)))
      (fun _ _ _ => {}) Quiet) ∧
  (∀ (h : Hdr) (d a f : BitVec 7) (lit : Option Word), f.toNat < 20 →
    DoneTurns (redInstr false h d a f lit) (memWord h 12 lit d a f) false false (redNamesOf false d a f) none
      (fun x _ t => localPre x t (lAddr t a.toNat (offLit lit)) (redSize f.toNat) (redSize f.toNat) = none)
      (fun x _ t => pushStore x t (.redLs f.toNat (lAddr t a.toNat (offLit lit)) (redOperand t d f)))
      (fun _ _ _ => {}) Quiet) ∧
  (∀ (h : Hdr) (d a b : BitVec 7) (lit : Option Word),
    DoneTurns (match lit with | none => .redDet h d a b | some l => .redDetLit h d a b l) (memWord h 14 lit d a b) false false
      (fun _ => { vr := [(d.toNat, 1), (a.toNat, 2), (b.toNat, 1)], limits := [(a.toNat % 2 == 1, 1)]
                  tags := typed 0 d.toNat 1 [3, 4] ++ typed 1 a.toNat 2 integerTags ++ typed 2 b.toNat 1 integerTags }) none
      (fun x _ t => (getV t b.toNat).bits.toNat < 2 ^ 26 ∧ ∃ y k g, Granted x t (gAddr t a.toNat (offLit lit)) 64 64 true y k g)
      (fun x _ t => withPlace x t (gAddr t a.toNat (offLit lit)) 64 64 true fun y k _ =>
        pushStore y t (.redDet k (gAddr t a.toNat (offLit lit)) ((getV t b.toNat).bits.toNat / 2 ^ 21) ((getV t b.toNat).bits.toNat % 2 ^ 21)
          (getV t d.toNat).bits (getV t d.toNat).tag t.job))
      (fun _ _ _ => {}) Quiet)

/-- 12 R275, R279: `pref` has no effect that a thread can see, whatever its address; `fence` makes each active thread wait for what a release at its
scope waits for. -/
def Obligations.PrefetchAndFenceWords : Prop :=
  (∀ (h : Hdr) (a : BitVec 7) (l : Bool) (lit : Option Word),
    DoneTurns (match lit with | none => .pref h a l | some w => .prefLit h a l w) (memWord h 8 lit 0#7 a ((BitVec.ofBool l).setWidth 7)) false false
      (fun _ => {}) none (fun _ _ _ => True) (fun x i t => (prefThread a l (offLit lit) x i t).1) (fun _ _ _ => {}) Quiet) ∧
  (∀ (h : Hdr) (c : BitVec 3), c.toNat ≤ 6 →
    DoneTurns (.fence h c) (memWord h 16 none 0#7 0#7 (c.setWidth 7)) false false (fun _ => {}) none (fun _ _ _ => True)
      (fun x _ t => waiting { x with fresh := x.fresh + 1 } t (.fence c.toNat x.fresh)) (fun _ _ _ => {}) Quiet)

/-- 12 R280 to R284, R287, 03 R73: where the handle in A is usable, `cadd` and `caddr` send the addition of D or of the literal to the handle's home
with a release at the greater of the word's scope and the least that covers the home; `caddr` and `cread` put a result for the pair at D in
flight; `cwt` sends its condition and waits; `cinit`, at supervisor level and for any handle that is not malformed, sets the cell as a release at
system scope. No cell changes yet. 12 R285, R286: `cwait` reads the first word of its block in local store, and then its NCOND conditions and no
more, sends each of its 1 to 4 conditions to its home in order, and waits with the
deadline of its TIMEOUT: none where that is 2^64 − 1, else field time plus TIMEOUT. -/
def Obligations.CounterWords : Prop :=
  ((∀ (h : Hdr) (d a : BitVec 7) (c : BitVec 3) (lit : Option Word), c.toNat ≤ 6 →
    DoneTurns (match lit with | none => .cadd h d a c | some l => .caddLit h a c l)
      (memWord h 18 lit (if lit.isSome then 0#7 else d) a (c.setWidth 7)) false false
      (counterNames a (if lit.isSome then 0#7 else d) (if lit.isSome then 0 else 1) 0) none
      (fun x _ t => usable x t (handleV t a))
      (fun x i t => owed (sent x t (handleV t a) (some (effScope x t.core c.toNat (handleV t a))) (.add (amountD t d lit)))
        { Result.empty with uids := [t.uid], ready := false, pc := i.pc, counter := true, left := some x.fresh })
      (fun _ _ _ => {}) Quiet) ∧
  (∀ (h : Hdr) (d a : BitVec 7) (c : BitVec 3) (lit : Option Word), c.toNat ≤ 6 →
    DoneTurns (match lit with | none => .caddr h d a c | some l => .caddrLit h d a c l) (memWord h 20 lit d a (c.setWidth 7)) false false
      (counterNames a d (if lit.isSome then 0 else 1) 2) none
      (fun x _ t => usable x t (handleV t a))
      (fun x i t =>
        sent (owed x (pairOwed i t d a)) t (handleV t a) (some (effScope x t.core c.toNat (handleV t a))) (.addRet (amountD t d lit) x.fresh))
      (fun _ _ _ => {}) Quiet) ∧
  (∀ (h : Hdr) (d a : BitVec 7) (c : BitVec 3), c.toNat ≤ 6 →
    DoneTurns (.cread h d a c) (memWord h 22 none d a (c.setWidth 7)) false false (counterNames a d 0 2) none
      (fun x _ t => usable x t (handleV t a))
      (fun x i t => sent (owed x (pairOwed i t d a)) t (handleV t a) none (.read x.fresh)) (fun _ _ _ => {}) Quiet) ∧
  (∀ (h : Hdr) (d a : BitVec 7) (c : BitVec 3), c.toNat ≤ 6 →
    DoneTurns (.cwt h d a c) (memWord h 24 none d a (c.setWidth 7)) false false (counterNames a d 2 0) none
      (fun x _ t => usable x t (handleV t a))
      (fun x _ t => waiting
        (sent x t (handleV t a) none (.wait (threadWaiter (moduleId x) t 0 0 (effScope x t.core c.toNat (handleV t a)) (handleV t a) (pairV t d).toNat none)))
        t (.cwt c.toNat ⟨pairV t a, pairV t d⟩)) (fun _ _ _ => {}) Quiet) ∧
  (∀ (h : Hdr) (d a : BitVec 7),
    DoneTurns (.cinit h d a) (ctlWord h 67 d a 0#7) false true (counterNames a d 2 0) none
      (fun x _ t => badHandle x (handleV t a) = none)
      (fun x _ t => sent x t (handleV t a) (some 6) (.set (pairV t d))) (fun _ _ _ => {}) Quiet)) ∧
  (∀ (h : Hdr) (d a : BitVec 7) (c : BitVec 3), c.toNat ≤ 6 →
    DoneTurns (.cwait h d a c) (memWord h 26 none d a (c.setWidth 7)) false false
      (fun _ => { vr := [(a.toNat, 1)], vw := [(d.toNat, 1)], tags := typed 1 a.toNat 1 integerTags }) none
      (fun x _ t =>
        let off := (getV t a.toNat).bits.toNat
        let y1 := readsLocal x t off 16
        let w := leNat (seeLocal y1 t off 8)
        let y := readsLocal y1 t (off + 16) (16 * (w % 8))
        localPre x t off 80 16 = none ∧ localBad y1 t off 16 = false ∧ localBad y t (off + 16) (16 * (w % 8)) = false ∧ w < 16 ∧ 1 ≤ w % 8 ∧ w % 8 ≤ 4 ∧
          ∀ k ∈ blockConds y t off (w % 8), usable y t k.handle.toNat)
      (fun x _ t =>
        let off := (getV t a.toNat).bits.toNat
        let y1 := readsLocal x t off 16
        let w := leNat (seeLocal y1 t off 8)
        let y := readsLocal y1 t (off + 16) (16 * (w % 8))
        let timeout := leNat (seeLocal y t (off + 8) 8)
        let dl := if timeout = 2 ^ 64 - 1 then none else some (ftimeRun y (dieOf t.core) + timeout)
        waiting (registerConds t c.toNat dl y 0 (blockConds y t off (w % 8))) t
          (.cwait c.toNat (timeout = 0) (decide (8 ≤ w)) dl (t.wb + d.toNat) d.toNat (blockConds y t off (w % 8)) 0))
      (fun _ _ _ => {}) QuietRead)

namespace Sys2Proof.Claims

open Sys2Proof.Machine Sys2Proof.Safety

/-! ### System words (13 R324 to R330) -/

/-- Memory, threads and flocks, but not the registers of the management blocks, are as before. -/
def KeepsCore (s t : State) : Prop := KeepsMemory s t ∧ KeepsThreads s t ∧ t.flocks = s.flocks

/-- The offset in the die's management block of a register that R324 numbers below 0x14. -/
def lowOffset (n : Nat) : Nat := if n = 0x12 then 0x810 else if n = 0x13 then 0x818 else 8 * n

/-- Numbers of R324 that only the supervisor may read. -/
def supNumber (n : Nat) : Prop := n = 0x20 ∨ (0x10000000 ≤ n ∧ n < 0x11000000)

/-- Numbers of R324 that a job may read. -/
def jobNumber (n : Nat) : Prop := n ≤ 2 ∨ (4 ≤ n ∧ n ≤ 0xD) ∨ (0x10 ≤ n ∧ n ≤ 0x13)

/-- The value of a control register for a thread, and the state after the read, for the numbers below 0x14. -/
def csrRead (x : State) (t : Thread) (n : Nat) : Nat × State :=
  if n = 0x10 then (carveReg x t.core, x) else if n = 0x11 then (ftime x (dieOf t.core), x) else regRead x (dieOf t.core) (lowOffset n)

/-- What `csrr` names. -/
def csrrNames (d b : BitVec 7) : Thread → Names := fun _ =>
  { vw := [(d.toNat, 2)], sr := selS b.toNat false, limits := [(d.toNat % 2 == 1, 0)] }

/-- The pair of a value: its low and its high half, tagged N32. -/
def value2 (t : Thread) (d : BitVec 7) (v : Nat) : List VWrite := put2 t d (BitVec.ofNat 64 v) 2#4

/-- The set of cores under CORE_STRICT with a core's bit set or cleared. -/
def strictSet (l : List Nat) (core : Nat) (on : Bool) : List Nat := if on then (if core ∈ l then l else l ++ [core]) else l.filter (· ≠ core)

/-- The segment that K selects, from base and limit pairs (13 R325, 18 R369). -/
def segOk (k : BitVec 7) (base limit : Nat) : Prop :=
  (k = 0#7 ∧ base + limit ≤ 2 ^ 45) ∨ (k = 1#7 ∧ base % 16 = 0 ∧ limit % 16 = 0 ∧ base + limit ≤ 2 ^ 32) ∨ (k = 2#7 ∧ base + limit ≤ 2 ^ 37)

/-- A thread with that segment. -/
def withSeg (k : BitVec 7) (base limit : Nat) (t : Thread) : Thread :=
  if k = 0#7 then { t with segG := ⟨base, limit⟩ } else if k = 1#7 then { t with segL := ⟨base, limit⟩ } else { t with segC := ⟨base, limit⟩ }

/-- What `ctxsave` and `ctxload` name. -/
def contextNames (d a b : BitVec 7) : Thread → Names := fun _ =>
  { vr := [(d.toNat, 1), (a.toNat, 2)], sr := selS b.toNat false
    tags := typed 0 d.toNat 1 integerTags ++ typed 1 a.toNat 2 integerTags, limits := [(a.toNat % 2 == 1, 1)] }

/-- A word's B as a 32-bit number in a thread. -/
def numberB (x : State) (i : Issue) (t : Thread) (b : BitVec 7) (lit : Word) : Nat := src x i t b.toNat lit .int

/-- The thread that a context word names: it holds the slot of the core and lane that D names, its job is halted on the die, and no step runs on it or,
for a whole flock, on a member of its flock (13 R327). -/
def Named (x : State) (i : Issue) (t : Thread) (d b : BitVec 7) (lit : Word) (y : Thread) (h : Nat) : Prop :=
  numberB x i t b lit < 2 ∧ (getV t d.toNat).bits.toNat < 2 ^ 18 ∧ ctxTarget x (dieOf t.core) (getV t d.toNat).bits.toNat = some y ∧
    haltSlot x (dieOf t.core) y.job = some h ∧ 2 ≤ phaseOf x (dieOf t.core) h ∧
    stepsOn x (dieOf t.core) h y (numberB x i t b lit = 1) = false

/-- The completion addition of a port that has nothing more to do: a packet to the handle's home, which releases the accesses of a thread made before
number `seq` (05 R116). -/
def released (x : State) (core uid seq job : Nat) (pc : VAddr) (h amount : Nat) : State :=
  { x with
    packets := x.packets ++ [{ Packet.blank with
      id := x.fresh, seq := seq, sent := x.cycle, src := core, dst := homeUnit x h, ordered := localHandle x h, uid := some uid, job := job
      release := some (effScope x core 0 h), pc := pc, eng := some 0, va := 127, body := .ctr (BitVec.ofNat 64 h) (.add amount) }]
    fresh := x.fresh + 1 }

/-- The size of its block: 64 bytes and its tags and registers, or a flock's (13 R327). -/
def blockSize (x : State) (i : Issue) (t : Thread) (b : BitVec 7) (lit : Word) (y : Thread) : Nat :=
  if numberB x i t b lit = 1 then flockBlockSize (flockOf x y.core y.flock) else threadBlockSize y

/-- The block is granted, as 64-byte pieces. -/
def BlockAt (x : State) (i : Issue) (t : Thread) (a b : BitVec 7) (lit : Word) (y : Thread) (write : Bool) (z : State) (ps : List (Nat × Nat)) : Prop :=
  globalPre t (handleV t a) (blockSize x i t b lit y) 64 false = none ∧
    blockPlaces t write x (blockPieces (handleV t a) (blockSize x i t b lit y / 64 + 1) (blockSize x i t b lit y)) [] = (z, .ok ps)

end Sys2Proof.Claims

/-- 13 R324: `csrr` at any level reads a control register that jobs may read into the pair at D, tagged N32, where no thread of a job's group, which
the guard may turn off, names one that only the supervisor may read (18 R365); at supervisor level it reads CORE_STRICT
too, and every register of the die's management block by its offset, as the access table gives it the right; without the right its value is free (a
choice of the model, log entry 2). 13 R324, 14 R333: `csrw`, at supervisor level and once for the group, sets or clears CORE_STRICT of the core by bit 0 of the pair at A, discards a
write of the registers that are read-only, and otherwise writes the die's register under the supervisor's access table. -/
def Obligations.ControlRegisterWords : Prop :=
  ((∀ (h : Hdr) (d b : BitVec 7) (lit : Word), selectorOk b = true →
    DoneTurnsIf (fun s i => i.job = supJob ∨ ∀ u ∈ i.group, ¬supNumber (numberB (found s i) i (threadOf (found s i) u) b lit))
      (.csrr h d b lit) (ctlWord h 17 d 0#7 b) false false (fun _ => csrrNames d b) (some b)
      (fun x i t => jobNumber (numberB x i t b lit))
      (fun x i t => (csrRead x t (numberB x i t b lit)).2)
      (fun x i t => { v := value2 t d (csrRead x t (numberB x i t b lit)).1 }) KeepsCore) ∧
  (∀ (h : Hdr) (d b : BitVec 7) (lit : Word), selectorOk b = true →
    DoneTurns (.csrr h d b lit) (ctlWord h 17 d 0#7 b) false true (csrrNames d b) (some b)
      (fun x i t => numberB x i t b lit = 0x20) (fun x _ _ => x)
      (fun x _ t => { v := value2 t d (if t.core ∈ x.strict then 1 else 0) }) Quiet) ∧
  (∀ (h : Hdr) (d b : BitVec 7) (lit : Word), selectorOk b = true →
    DoneTurns (.csrr h d b lit) (ctlWord h 17 d 0#7 b) false true (csrrNames d b) (some b)
      (fun x i t =>
        let off := 8 * (numberB x i t b lit - 0x10000000)
        0x10000000 ≤ numberB x i t b lit ∧ numberB x i t b lit < 0x11000000 ∧ (regFieldsOn (dieOf t.core) off).isSome ∧ rightTo x 2 (dieOf t.core) (blockOf off) ≠ 0)
      (fun x i t => (regRead x (dieOf t.core) (8 * (numberB x i t b lit - 0x10000000))).2)
      (fun x i t => { v := value2 t d (regRead x (dieOf t.core) (8 * (numberB x i t b lit - 0x10000000))).1 }) KeepsCore) ∧
  (∀ (h : Hdr) (d b : BitVec 7) (lit : Word), selectorOk b = true →
    DoneTurns (.csrr h d b lit) (ctlWord h 17 d 0#7 b) false true (csrrNames d b) (some b)
      (fun x i t =>
        let off := 8 * (numberB x i t b lit - 0x10000000)
        0x10000000 ≤ numberB x i t b lit ∧ numberB x i t b lit < 0x11000000 ∧ (regFieldsOn (dieOf t.core) off).isSome ∧ rightTo x 2 (dieOf t.core) (blockOf off) = 0)
      (fun x _ _ => { x with free := x.free + 2 })
      (fun x _ t => { v := value2 t d ((Config.freeWord x.free).toNat + 2 ^ 32 * (Config.freeWord (x.free + 1)).toNat) }) Quiet)) ∧
  ((∀ (h : Hdr) (a b : BitVec 7) (lit : Word), selectorOk b = true →
    DoneGroup (.csrw h a b lit) (ctlWord h 65 0#7 a b) false true
      (fun _ => { vr := [(a.toNat, 2)], sr := selS b.toNat false, tags := typed 1 a.toNat 2 integerTags, limits := [(a.toNat % 2 == 1, 1)] }) (some b)
      (fun x i t => numberB x i t b lit = 0x20 ∨ numberB x i t b lit = 0x10 ∨ numberB x i t b lit = 0x11)
      (fun x i t => if numberB x i t b lit = 0x20 then { x with strict := strictSet x.strict i.core ((pairV t a).getLsbD 0) } else x)
      (fun _ _ _ => {}) Quiet) ∧
  (∀ (h : Hdr) (a b : BitVec 7) (lit : Word), selectorOk b = true →
    DoneGroup (.csrw h a b lit) (ctlWord h 65 0#7 a b) false true
      (fun _ => { vr := [(a.toNat, 2)], sr := selS b.toNat false, tags := typed 1 a.toNat 2 integerTags, limits := [(a.toNat % 2 == 1, 1)] }) (some b)
      (fun x i t => 0x10000000 ≤ numberB x i t b lit ∧ numberB x i t b lit < 0x11000000 ∧ (regFieldsOn (dieOf i.core) (8 * (numberB x i t b lit - 0x10000000))).isSome)
      (fun x i t => mgmtWrite x 2 (dieOf i.core) (8 * (numberB x i t b lit - 0x10000000)) (handleV t a))
      (fun _ _ _ => {}) (fun _ _ => True)) ∧
  (∀ (h : Hdr) (a b : BitVec 7) (lit : Word), selectorOk b = true →
    DoneGroup (.csrw h a b lit) (ctlWord h 65 0#7 a b) false true
      (fun _ => { vr := [(a.toNat, 2)], sr := selS b.toNat false, tags := typed 1 a.toNat 2 integerTags, limits := [(a.toNat % 2 == 1, 1)] }) (some b)
      (fun x i t => (numberB x i t b lit ≤ 0xD ∧ numberB x i t b lit ≠ 3) ∨ numberB x i t b lit = 0x12 ∨ numberB x i t b lit = 0x13)
      (fun x i t => mgmtWrite x 2 (dieOf i.core) (lowOffset (numberB x i t b lit)) (handleV t a))
      (fun _ _ _ => {}) (fun _ _ => True)))

/-- 13 R325, 18 R369: `segset`, at supervisor level, sets SG.G, SG.L or SG.C of each active thread to the base in the pair at A and the limit in the
pair at A + 2, where they fit the segment's space. 05 R105, 13 R326: `carve`, at supervisor level and once for the group, with as many ways as the core has answers 0; with more, it answers 1 where a
local-store segment lies in the ways that would leave local store, and else sets the ways, whose local store is gone, and answers 0; with fewer it
waits until the departing ways have drained. Each active thread's D gets the answer, tagged N32. -/
def Obligations.RegionWords : Prop :=
  (∀ (h : Hdr) (k a : BitVec 7), k.toNat ≤ 2 →
    DoneTurns (.segset h k a) (ctlWord h 64 k a 0#7) false true
      (fun _ => { vr := [(a.toNat, 4)], tags := typed 1 a.toNat 4 integerTags, limits := [(a.toNat % 4 ≠ 0, 1)] }) none
      (fun _ _ t => segOk k (pairV t a).toNat (vPair t (a.toNat + 2)))
      (fun x _ t => modThread x t.uid (withSeg k (pairV t a).toNat (vPair t (a.toNat + 2)))) (fun _ _ _ => {}) Local) ∧
  (∀ (h : Hdr) (d b : BitVec 7) (lit : Word), selectorOk b = true →
    let names : Thread → Names := fun _ => { vw := [(d.toNat, 1)], sr := selS b.toNat false }
    let answer : Nat → State → Issue → Thread → Eff := fun r x i _ => { v := i.act.map fun u => put1 (threadOf x u) d (BitVec.ofNat 32 r) 2#4 }
    let may : State → Issue → Thread → Prop := fun x i t => 1 ≤ numberB x i t b lit ∧ numberB x i t b lit ≤ 15 ∧ carving x i.core = false
    DoneGroup (.carve h d b lit) (ctlWord h 66 d 0#7 b) false true names (some b)
      (fun x i t => may x i t ∧ numberB x i t b lit = l1Ways x i.core) (fun x _ _ => x) (answer 0) Quiet ∧
    DoneGroup (.carve h d b lit) (ctlWord h 66 d 0#7 b) false true names (some b)
      (fun x i t => may x i t ∧ l1Ways x i.core < numberB x i t b lit ∧ carveBusy x i.core (numberB x i t b lit) = true) (fun x _ _ => x) (answer 1) Quiet ∧
    DoneGroup (.carve h d b lit) (ctlWord h 66 d 0#7 b) false true names (some b)
      (fun x i t => may x i t ∧ l1Ways x i.core < numberB x i t b lit ∧ carveBusy x i.core (numberB x i t b lit) = false)
      (fun x i t => clearLocal (setWays x i.core (numberB x i t b lit)) i.core ((15 - numberB x i t b lit) * 32768)) (answer 0)
      (fun s t => (∀ a, memByte t a = memByte s a) ∧ (∀ k, cellGet t k = cellGet s k) ∧ KeepsThreads s t ∧ KeepsRest s t) ∧
    DoneGroup (.carve h d b lit) (ctlWord h 66 d 0#7 b) false true names (some b)
      (fun x i t => may x i t ∧ numberB x i t b lit < l1Ways x i.core)
      (fun x i t => modThreads { x with fresh := x.fresh + 1 } i.act fun y => { y with wait := .carve (numberB x i t b lit) d.toNat x.fresh })
      (fun _ _ _ => {}) Quiet)

/-- 13 R327 to R329: `ctxsave`, at supervisor level, of a thread or flock of a halted job puts its block of 64-byte pieces into the store queue of the
thread that asks, which waits until they are acknowledged; `ctxload` writes an accepted block back into the thread, whose segments, window, PC,
STATUS, guard bit, tags and registers it replaces, or into the flock. The block is what memory holds there where the core has no bytes on their way to
it, and a thread's own block gives it back what `ctxload` writes (R328). -/
def Obligations.ContextWords : Prop :=
  (∀ (h : Hdr) (d a b : BitVec 7) (lit : Word), selectorOk b = true →
    DoneTurns (.ctxsave h d a b lit) (ctlWord h 68 d a b) false true (contextNames d a b) (some b)
      (fun x i t => ∃ y k z ps, Named x i t d b lit y k ∧ BlockAt x i t a b lit y true z ps)
      (fun x i t =>
        match ctxTarget x (dieOf t.core) (getV t d.toNat).bits.toNat with
        | none => x
        | some y =>
          match blockPlaces t true x (blockPieces (handleV t a) (blockSize x i t b lit y / 64 + 1) (blockSize x i t b lit y)) [] with
          | (z, .ok ps) =>
            let w := storeBlock t z ps (if numberB x i t b lit = 1 then flockBlock z (flockOf z y.core y.flock)
              else threadBlock { y with pc := y.newPc.getD y.pc })
            waiting { w with fresh := w.fresh + 1 } t (.fence 3 w.fresh)
          | (z, .error _) => z)
      (fun _ _ _ => {}) Quiet) ∧
  (∀ (h : Hdr) (d a b : BitVec 7) (lit : Word), selectorOk b = true →
    DoneTurns (.ctxload h d a b lit) (ctlWord h 69 d a b) false true (contextNames d a b) (some b)
      (fun x i t => ∃ y k z ps, Named x i t d b lit y k ∧ BlockAt x i t a b lit y false z ps ∧ (∀ p ∈ ps, threadBad z t p.1 p.2 none = false) ∧
        blockBad (blockBytes t z ps []).1 y (numberB x i t b lit = 1) (blockBytes t z ps []).2 = none ∧
        (∀ f, findFlock x y.core y.flock = some f → f.saved = none))
      (fun x i t =>
        match ctxTarget x (dieOf t.core) (getV t d.toNat).bits.toNat with
        | none => x
        | some y =>
          match blockPlaces t false x (blockPieces (handleV t a) (blockSize x i t b lit y / 64 + 1) (blockSize x i t b lit y)) [] with
          | (z, .ok ps) =>
            let w := (blockBytes t z ps []).1
            let bs := (blockBytes t z ps []).2
            if numberB x i t b lit = 1 then cure (modFlock w y.core y.flock fun f => loadFlockBlock w.fresh f bs) (inFlock y.core y.flock)
            else cure (modThread w y.uid fun y => { loadThreadBlock y bs with newPc := none }) (inRegs y.uid)
          | (z, .error _) => z)
      (fun _ _ _ => {}) (fun s t => KeepsMemory s t ∧ ∀ d off, off % 2 ^ 27 ≠ 0x148 → getReg t d off = getReg s d off)) ∧
  (∀ (z : State) (t : Thread) (ps : List (Nat × Nat)), z.flips = [] → (∀ p ∈ ps, ∀ k, p.1 ≤ k → k < p.1 + p.2 → coreByte z t.core t.uid k = none) →
    (blockBytes t z ps []).2 = ps.flatMap fun p => memBytes z p.1 p.2) ∧
  (∀ (y t : Thread), y.alloc = t.alloc → t.alloc ≤ 1024 → t.pc.toNat % 4 = 0 → t.wb < 1024 → t.status.toNat < 256 →
    t.segG.base < 2 ^ 45 → t.segG.limit < 2 ^ 45 → t.segL.base < 2 ^ 32 → t.segL.limit < 2 ^ 32 → t.segC.base < 2 ^ 37 → t.segC.limit < 2 ^ 37 →
    let z := loadThreadBlock y (threadBlock t)
    z.pc = t.pc ∧ z.g = t.g ∧ z.wb = t.wb ∧ z.status = t.status ∧ z.segG = t.segG ∧ z.segL = t.segL ∧ z.segC = t.segC ∧
      ∀ n < t.alloc, getIdx z n = getIdx t n) ∧
  (∀ (y : Thread) (bs : List Byte), (loadThreadBlock y bs).uid = y.uid ∧ (loadThreadBlock y bs).core = y.core ∧ (loadThreadBlock y bs).lane = y.lane ∧
    (loadThreadBlock y bs).slot = y.slot ∧ (loadThreadBlock y bs).job = y.job ∧ (loadThreadBlock y bs).flock = y.flock ∧
    (loadThreadBlock y bs).alloc = y.alloc)

/-- 09 R204, 13 R330: `step`, at supervisor level, of a valid halt slot that is halted or armed makes the group wait for the step, and gives the command
to the slot: a step that runs already puts it behind. 08 R181, 13 R318: `revoke`, at supervisor level, sets REVOKING of the region of the die that A names, where it is VALID, and keeps the addition of B
to the handle in D for its completion; a region that is not VALID is complete at once, and its addition is sent, a release of what the thread has
done before (05 R116). -/
def Obligations.StepAndRevokeWords : Prop :=
  (∀ (h : Hdr) (d a b : BitVec 7) (lit : Word), selectorOk b = true →
    let w : Thread → Nat := fun t => (getV t a.toNat).bits.toNat
    let k : State → Issue → Thread → Nat := fun x i t => numberB x i t b lit % 16
    let args : Thread → List Nat := fun t => [w t / 8 % 4, w t / 32 % 128, w t / 4096 % 32, w t / 131072 % 64]
    let names : Thread → Names := fun _ =>
      { vr := [(a.toNat, 1)], vw := [(d.toNat, 1)], sr := selS b.toNat false, tags := typed 1 a.toNat 1 integerTags }
    DoneGroup (.step h d a b lit) (ctlWord h 71 d a b) false true names (some b)
      (fun x i t => w t / 8 % 4 ≠ 3 ∧ w t % 8 = 0 ∧ w t < 2 ^ 23 ∧ bit (getReg x (dieOf t.core) (hoff (k x i t))) 16 = true ∧
        2 ≤ phaseOf x (dieOf t.core) (k x i t) ∧ getField x (dieOf t.core) (hoff (k x i t) + 16) 18 18 = 1)
      (fun x i t => modHaltWork (modThreads x i.act fun y => { y with wait := .step (k x i t) d.toNat (i.act.headD 0) }) (dieOf t.core) (k x i t)
        fun q => { q with queue := q.queue ++ [(args t, some (i.act.headD 0, d.toNat))] })
      (fun _ _ _ => {}) Quiet ∧
    DoneGroup (.step h d a b lit) (ctlWord h 71 d a b) false true names (some b)
      (fun x i t => w t / 8 % 4 ≠ 3 ∧ w t % 8 = 0 ∧ w t < 2 ^ 23 ∧ bit (getReg x (dieOf t.core) (hoff (k x i t))) 16 = true ∧
        2 ≤ phaseOf x (dieOf t.core) (k x i t) ∧ getField x (dieOf t.core) (hoff (k x i t) + 16) 18 18 ≠ 1)
      (fun x i t => beginStep (modThreads x i.act fun y => { y with wait := .step (k x i t) d.toNat (i.act.headD 0) }) (dieOf t.core) (k x i t) (args t)
        (some (i.act.headD 0, d.toNat)))
      (fun _ _ _ => {}) (fun s t => KeepsMemory s t ∧ t.flocks = s.flocks)) ∧
  (∀ (h : Hdr) (d a b : BitVec 7) (lit : Word), selectorOk b = true →
    let names : Thread → Names := fun _ =>
      { vr := [(d.toNat, 2), (a.toNat, 1)], sr := selS b.toNat false
        tags := typed 0 d.toNat 2 integerTags ++ typed 1 a.toNat 1 integerTags, limits := [(d.toNat % 2 == 1, 0)] }
    let n : Thread → Nat := fun t => (getV t a.toNat).bits.toNat % 1024
    let w : State → Thread → Nat := fun x t => getReg x (dieOf t.core) (regionOff (n t) + 8)
    DoneTurns (.revoke h d a b lit) (ctlWord h 70 d a b) false true names (some b)
      (fun x _ t => usable x t (handleV t d) ∧ bit (w x t) 58 = true)
      (fun x i t => { setReg x (dieOf t.core) (regionOff (n t) + 8) (setBits (w x t) 59 59 1) with
        revokes := x.revokes ++ [⟨dieOf t.core, n t, pairV t d, numberB x i t b lit, t.job, i.pc, t.core, t.uid, x.fresh⟩] })
      (fun _ _ _ => {}) KeepsCore ∧
    DoneTurns (.revoke h d a b lit) (ctlWord h 70 d a b) false true names (some b)
      (fun x _ t => usable x t (handleV t d) ∧ bit (w x t) 58 = false)
      (fun x i t => released x t.core t.uid x.fresh t.job i.pc (handleV t d) (numberB x i t b lit))
      (fun _ _ _ => {}) Quiet)

/-- 02 R37, 11 R262, R263, 18 R374: `spawn` reads the entry's header for each active thread and makes one child of it, which starts at the entry in the
parent's job with its segments, the eight registers from D on, TNUM from B and the parent's priority, and with ALLOC from the header. Where no earlier
spawn of the core waits (09 R202: those of halted jobs wait aside) and every child finds a place, the group goes on; else it waits with the children
that are left, with all of them behind an earlier spawn. -/
def Obligations.SpawnWord : Prop :=
  (∀ (h : Hdr) (d a b : BitVec 7) (lit : Word) (s : State) (i : Issue) (s2 s4 : State) (ks : List (Nat × Kid)) (left : List Kid),
    selectorOk b = true → mkIssue s (ctlWord h 4 d a b) = some i →
    kidsOf i h.g (readsOf (some b) fun _ => { vr := [(d.toNat, 8), (a.toNat, 2)], sr := selS b.toNat false, tags := typed 1 a.toNat 2 integerTags,
                                              limits := [(120 < d.toNat, 0), (a.toNat % 2 == 1, 1)] })
      d.toNat a.toNat b.toNat lit (found s i) {} [] i.act = (s2, {}, ks) →
    ((∃ p ∈ s2.placing, p.core = i.core ∧ ∃ k ∈ p.kids, jobHeld s2 (dieOf i.core) k.th.job = false) → ks ≠ [] →
      exec (.spawn h d a b lit) s =
        let x := modThreads (timeBins (latch s2 (ks.map (·.1)) b.toNat) i.core) (ks.map (·.1)) fun t => { t with wait := .place }
        .next (finish { x with placing := x.placing ++ [⟨i.core, ks.map (·.1), ks.map (·.2), i.len, i.sbit⟩] } i (ks.map (·.1)) [] fun _ => [])) ∧
    ((∀ p ∈ s2.placing, p.core = i.core → ∀ k ∈ p.kids, jobHeld s2 (dieOf i.core) k.th.job = true) →
    placeKids (latch s2 (ks.map (·.1)) b.toNat) i.core (ks.map (·.2)) = (s4, left) →
    (left = [] → exec (.spawn h d a b lit) s = .next (wordDone (timeBins s4 i.core) i {} (fun _ => []) 0 [])) ∧
    (left ≠ [] → exec (.spawn h d a b lit) s =
      let x := modThreads (timeBins s4 i.core) (ks.map (·.1)) fun t => { t with wait := .place }
      .next (finish { x with placing := x.placing ++ [⟨i.core, ks.map (·.1), left, i.len, i.sbit⟩] } i (ks.map (·.1)) [] fun _ => [])))) ∧
  (∀ (x y z : State) (t : Thread) (d a tnum k : Nat) (g : Option Nat) (hdr : List Byte),
    let e := vPair t a % 2 ^ 57
    let w12 := leNat ((hdr.drop 4).take 4)
    e % 16 = 0 → Granted x t ((e + 2 ^ 64 - 16) % 2 ^ 64) 16 4 false y k g → threadBad y t k 16 g = false → threadBytes y t k 16 g = (z, hdr) →
    1 ≤ w12 % 64 → w12 % 64 ≤ 32 → w12 / 64 ≤ 8 → leNat (hdr.drop 8) = 0 →
    kidOf x t d a tnum = (z, .ok
      { lane := t.lane, tiles := w12 / 64, bintime := leNat (hdr.take 4)
        th := { Thread.blank with
          job := t.job, pc := BitVec.ofNat 57 e, alloc := 32 * (w12 % 64), segG := t.segG, segL := t.segL, segC := t.segC
          tnum := BitVec.ofNat 32 tnum, prio := (flockOf z t.core t.flock).prio, launch := t.launch
          regs := mapSetAll rawZero [] ((upFrom 0 8).map fun j => (j, getV t (d + j))) } })) ∧
  (∀ (x : State) (core : Nat) (k : Kid) (b : Bin) (lane slot base : Nat),
    openBin x core k.th.job k.th.pc k.th.segL.base = some b →
    candidates x core k.lane k.th.alloc ((binMembers x b.id).map (·.lane)) = some (lane, slot, base) → (binMembers x b.id).length < 31 →
    placeKid x core k = ({ x with
      threads := x.threads ++
        [{ k.th with uid := x.fresh, core := core, lane := lane, slot := slot, rbase := base, bin := some b.id, age := x.cycle + 1 }]
      fresh := x.fresh + 1 }, true))

namespace Sys2Proof.Claims

open Sys2Proof.Machine Sys2Proof.Safety

/-! ### Words that hand work to an engine (12 R288 to R297, 13 R298 to R320) -/

/-- The word of an engine instruction with a handle in A and an amount in B or in its literal. -/
def engWord (h : Hdr) (op : Nat) (lit : Option Word) (d a b : BitVec 7) : Fields := memWord h op lit d a (if lit.isSome then 0#7 else b)

/-- Its amount. -/
def amountB (t : Thread) (b : BitVec 7) (lit : Option Word) : Nat := (lit.getD (getV t b.toNat).bits).toNat

/-- What it names, with `rd` registers read at D as integers. -/
def engineNames (d a b : BitVec 7) (lit : Option Word) (rd : Nat) : Thread → Names := fun _ =>
  { vr := [(d.toNat, rd)] ++ [(a.toNat, 2)] ++ (if lit.isSome then [] else [(b.toNat, 1)])
    tags := typed 0 d.toNat rd integerTags ++ typed 1 a.toNat 2 integerTags ++ (if lit.isSome then [] else typed 2 b.toNat 1 integerTags)
    limits := [(a.toNat % 2 == 1, 1)] }

/-- A word of a request in local store, as its thread sees it. -/
def reqWord (x : State) (t : Thread) (a k : Nat) : Nat := leNat (seeLocal x t (a + 8 * k) 8)

/-- A request of `n` bytes with an alignment can be read. -/
def Readable (x : State) (t : Thread) (a n al : Nat) : Prop := localPre x t a n al = none ∧ localBad (readsLocal x t a n) t a n = false

/-- D as a number. -/
def numberD (t : Thread) (d : BitVec 7) : Nat := (getV t d.toNat).bits.toNat

/-- A copy as its unit accepts it: the request's fields (12 R289), the handle and the amount. -/
def copyOf (x : State) (i : Issue) (t : Thread) (expand : Bool) (d a : BitVec 7) (amount : Nat) : CopyOp :=
  let r := numberD t d
  { id := x.fresh, core := t.core, uid := t.uid, job := t.job, pc := i.pc, expand := expand, req := r
    saddr := reqWord x t r 0 % 2 ^ 57, daddr := reqWord x t r 1 % 2 ^ 57, sls := bit (reqWord x t r 0) 57, dls := bit (reqWord x t r 0) 58
    sstride := reqWord x t r 2 % 2 ^ 32, dstride := reqWord x t r 2 / 2 ^ 32 % 2 ^ 32, rowlen := reqWord x t r 3 % 2 ^ 32
    esz := reqWord x t r 3 / 2 ^ 32 % 4, len := amount, handle := pairV t a, done := [], src := [], dst := [], pend := [], stop := none }

/-- The state in which `tdecl` reads its record: the thread's stores of local store are in their place, and the record's code words are checked. -/
def declares (x : State) (t : Thread) (r : Nat) : State := readsLocal (drainFifo x t.uid) t r 64

/-- The first address of a home's segment of the spill area (03 R70). -/
def spillAt (x : State) (unit : Nat) : Nat := getReg x (unit / 512) 0x510 + 32 * 2 ^ getField x (unit / 512) 0x518 4 0 * (unit % 512)

/-- Memory outside the places of spilled waiter entries is as before (03 R70), and so are the counters that do not live in memory. -/
def KeepsButSpill (s t : State) : Prop :=
  (∀ a, (∀ u, a < spillAt s u ∨ spillAt s u + 32 * spilledAt s u ≤ a) → memByte t a = memByte s a) ∧ t.cells = s.cells

/-- The sweep that `sweep` queues. -/
def sweepOf (x : State) (i : Issue) (t : Thread) (d a : BitVec 7) (amount : Nat) : SweepOp :=
  { id := x.fresh, core := t.core, slot := numberD t d, uid := t.uid, job := t.job, segG := t.segG, segL := t.segL, segC := t.segC
    launch := t.launch, pc := i.pc, handle := pairV t a, amount := amount, started := false, num := 0, flock := 0, open_ := none }

/-- The word of an element access: B is 0, WORD, SLOT (12 R295). -/
def elementWord (h : Hdr) (op : Nat) (lit : Option Word) (d a : BitVec 7) (w k : BitVec 3) : Fields := memWord h op lit d a (0#1 ++ w ++ k)

/-- Bytes of the word of an element: its data, a context or extra word of 8 bytes, or the fallow word of its group. -/
def elementSize (tn : Tensor) (w : BitVec 3) : Nat := if w = 0#3 then 4 * 2 ^ tn.esize else if w = 5#3 then 4 else 8

/-- Where that word is (04 R82, R85). -/
def elementAt (tn : Tensor) (e : Nat) (w : BitVec 3) : Nat :=
  let block := tn.base + e / 32 * (32 * (4 * 2 ^ tn.esize) + 256 * (1 + tn.xctx))
  if w = 0#3 then block + e % 32 * (4 * 2 ^ tn.esize)
  else if w = 5#3 then tn.fallow + 16 * (e / 32)
  else block + 32 * (4 * 2 ^ tn.esize) + 256 * (w.toNat - 1) + 8 * (e % 32)

/-- Where the word of an element goes: its data with the tensor's tag, a context or extra word tagged RAW, its bit of the SLEEP word tagged N32. -/
def elementFmt (t : Thread) (d : BitVec 7) (e : Nat) (w : BitVec 3) (tn : Tensor) : LoadFmt :=
  if w = 5#3 then .bit t.uid (t.wb + d.toNat) (e % 32)
  else .regs t.uid (t.wb + d.toNat) (List.replicate (elementSize tn w / 4) (if w = 0#3 then tn.etag else 0#4))

/-- What an element access names; the tensor says how many registers. -/
def elementNames (s : State) (store : Bool) (d a : BitVec 7) (w k : BitVec 3) : Thread → Names := fun t =>
  let n := match tensorAt s t.core k.toNat with
    | some tn => (elementSize tn w + 3) / 4
    | none => 1
  { vr := (a.toNat, 1) :: (if store then [(d.toNat, n)] else []), vw := if store then [] else [(d.toNat, n)], tags := typed 1 a.toNat 1 integerTags }

/-- The element: Win(A) + offset modulo 2^32. -/
def elementOf (t : Thread) (a : BitVec 7) (lit : Option Word) : Nat := ((getV t a.toNat).bits + lit.getD 0#32).toNat

/-- The operands of an element access are within their limits: the slot holds a tensor of the job, which has the element and the word, and D is
aligned (19 R383). -/
def ElementOk (x : State) (t : Thread) (d : BitVec 7) (e : Nat) (w k : BitVec 3) (tn : Tensor) : Prop :=
  tensorAt x t.core k.toNat = some tn ∧ tn.job = t.job ∧ d.toNat % ((elementSize tn w + 3) / 4) = 0 ∧ e < tn.count ∧ w.toNat ≤ 5 ∧
    (2 ≤ w.toNat → w.toNat ≤ 4 → w.toNat - 2 < tn.xctx)

/-- What a word does with the tensor of a slot. -/
def withTensor (x : State) (t : Thread) (k : Nat) (f : Tensor → State) : State :=
  match tensorAt x t.core k with
  | some tn => f tn
  | none => x

/-- An `mma` as the matrix unit accepts it: descriptor Q in the s registers from 8Q on (13 R300). -/
def mmaOf (x : State) (i : Issue) (d a : BitVec 7) (q : BitVec 3) (f : BitVec 4) : MmaOp :=
  let w : Nat → Word := fun k => getS (flockOf x i.core i.flock) (8 * q.toNat + k)
  { id := x.fresh, core := i.core, flock := i.flock, tile := d.toNat, fmt := f.toNat
    rows := i.act.map fun u => ((threadOf x u).lane, u, handleV (threadOf x u) a % 2 ^ 57)
    baddr := (w 0).toNat + 2 ^ 32 * (w 1).toNat, ldb := (w 2).toNat, asoff := (w 3).toInt, aside := (w 4).toInt, bsoff := (w 5).toInt
    bside := (w 6).toInt, job := i.job, pc := i.pc }

/-- The lines of L1 that rows are loaded from are checked (17 R358). -/
def readsRows (x : State) (i : Issue) (l : List (Nat × List (Nat × Nat × Option Nat))) : State :=
  eccRead x fun p => l.any fun q => q.2.any fun r => nearL1 i.core r.1 r.2.1 p

/-- Flocks are as before, but for the tags of their tiles. -/
def KeepsElements (s t : State) : Prop :=
  t.flocks.map (fun f => (f.core, f.idx, f.job, f.sregs, f.key, f.prio, f.tiles.map (·.elems))) =
    s.flocks.map (fun f => (f.core, f.idx, f.job, f.sregs, f.key, f.prio, f.tiles.map (·.elems)))

/-- Everything but flocks is as before. -/
def KeepsButFlocks (s t : State) : Prop := KeepsMemory s t ∧ KeepsThreads s t ∧ t.mregs = s.mregs

/-- The address of a part of the hit record (07 R153). -/
def partAt (t : Thread) (a : BitVec 7) (p : BitVec 2) : Nat := handleV t a + 0x1C0 + (if p = 0#2 then 0 else 0x20 + 0x20 * p.toNat)

/-- The registers and tags that a part goes to (13 R309). -/
def partFmt (t : Thread) (d : BitVec 7) (p : BitVec 2) : LoadFmt :=
  .regs t.uid (t.wb + d.toNat) (if p = 0#2 then [3#4, 3#4, 3#4, 2#4, 2#4, 2#4, 2#4, 2#4] else [3#4, 2#4, 2#4, 2#4, 3#4, 2#4, 2#4, 2#4])

/-- The operation that a port accepts. -/
def opOf (x : State) (i : Issue) (t : Thread) (k : PortKind) (a : BitVec 7) (amount : Nat) (req : List DWord) : PortOp :=
  { id := x.fresh, die := dieOf t.core, kind := k, core := t.core, job := t.job, pc := i.pc, req := req, base := [], handle := pairV t a
    amount := amount, armed := none, started := false, uid := t.uid, chan := 0, void := false, written := false }

/-- A port takes an operation. -/
def taken (x : State) (o : PortOp) : State := { x with portOps := x.portOps ++ [o], fresh := x.fresh + 1 }

/-- The request's words. -/
def reqOf (x : State) (t : Thread) (d : BitVec 7) (n : Nat) : List DWord := (List.range n).map fun k => BitVec.ofNat 64 (reqWord x t (numberD t d) k)

/-- A put, get or send. -/
def netInstr (k : PortKind) (h : Hdr) (d a b : BitVec 7) : Option Word → Instr × Nat
  | none => if k = .put then (.put h d a b, 60) else if k = .get then (.get h d a b, 62) else (.send h d a b, 64)
  | some l => if k = .put then (.putLit h d a l, 60) else if k = .get then (.getLit h d a l, 62) else (.sendLit h d a l, 64)

/-- A cgraph or comp. -/
def collInstr (k : PortKind) (h : Hdr) (d a b : BitVec 7) : Option Word → Instr × Nat
  | none => if k = .cgraph then (.cgraph h d a b, 72) else (.comp h d a b, 76)
  | some l => if k = .cgraph then (.cgraphLit h d a l, 72) else (.compLit h d a l, 76)

end Sys2Proof.Claims

/-- 12 R288 to R291: `copy` and `copyx` hand each active thread's request to the core's copy unit, where it has room for all of them, the request is
within its limits, the handle usable and the extents inside the segments. Nothing is copied yet. -/
def Obligations.CopyWords : Prop :=
  ∀ (h : Hdr) (d a b : BitVec 7) (lit : Option Word) (expand : Bool),
    DoneTurnsIf (fun s i => (s.copies.filter fun o => o.core == i.core).length + i.act.length ≤ 64)
      (match lit, expand with
        | none, false => .copy h d a b
        | some l, false => .copyLit h d a l
        | none, true => .copyx h d a b
        | some l, true => .copyxLit h d a l)
      (engWord h (if expand then 30 else 28) lit d a b) false false (fun _ => engineNames d a b lit 1) none
      (fun x i t => Readable x t (numberD t d) 32 16 ∧ usable x t (handleV t a) ∧
        badRequest (copyOf x i t expand d a (amountB t b lit)) (reqWord x t (numberD t d) 0) (reqWord x t (numberD t d) 1) (reqWord x t (numberD t d) 3) = false ∧
        copyExtents x t (copyOf x i t expand d a (amountB t b lit)) = none)
      (fun x i t => { readsLocal x t (numberD t d) 32 with copies := x.copies ++ [copyOf x i t expand d a (amountB t b lit)], fresh := x.fresh + 1 })
      (fun _ _ _ => {}) QuietRead

/-- 04 R80, R87, 12 R292 to R294, R296: `tdecl` of a sound record whose tensor has not been swept binds it to the lowest free slot of its core, writes the
record's own fields, and answers the slot in D, or 0xFFFFFFFF with no effect where the 8 slots are bound; `sweep` queues a sweep of a bound slot;
`eyield` ends a routine thread's visit with its value; `tfree` frees a slot with no sweep, and does nothing to a slot that is free. -/
def Obligations.TensorWords : Prop :=
  (∀ (h : Hdr) (d a : BitVec 7), DoneTurns (.tdecl h d a) (memWord h 32 none d a 0#7) false false
      (fun _ => { vr := [(a.toNat, 1)], vw := [(d.toNat, 1)], tags := typed 1 a.toNat 1 integerTags }) none
      (fun x _ t =>
        let r := numberD t a
        let y := declares x t r
        (∀ tn ∈ x.tensors, tn.binder ≠ some t.uid) ∧ localPre x t r 64 64 = none ∧ lsPoisoned y t.core r 64 = false ∧
          bindBusy y y.fresh = false ∧ ∃ k, freeTensorSlot y t.core = some k ∧ badRecord y t.core r (tensorOf y t r k) = false ∧
            tensorExtent y t (tensorOf y t r k) = none ∧ (tensorOf y t r k).sweeps = 0#32)
      (fun x _ t =>
        let y := declares x t (numberD t a)
        let tn := tensorOf y t (numberD t a) ((freeTensorSlot y t.core).getD 0)
        setTensor (bindTensor y { tn with binder := some t.uid }) tn)
      (fun x _ t => { v := [put1 t d (BitVec.ofNat 32 ((freeTensorSlot (declares x t (numberD t a)) t.core).getD 0)) 2#4] }) QuietLocal) ∧
  (∀ (h : Hdr) (d a : BitVec 7), DoneTurns (.tdecl h d a) (memWord h 32 none d a 0#7) false false
      (fun _ => { vr := [(a.toNat, 1)], vw := [(d.toNat, 1)], tags := typed 1 a.toNat 1 integerTags }) none
      (fun x _ t =>
        let r := numberD t a
        let y := declares x t r
        (∀ tn ∈ x.tensors, tn.binder ≠ some t.uid) ∧ localPre x t r 64 64 = none ∧ lsPoisoned y t.core r 64 = false ∧
          freeTensorSlot y t.core = none ∧ badRecord y t.core r (tensorOf y t r 0) = false ∧ tensorExtent y t (tensorOf y t r 0) = none)
      (fun x _ t => declares x t (numberD t a)) (fun _ _ t => { v := [put1 t d 0xFFFFFFFF#32 2#4] }) QuietLocal) ∧
  (∀ (h : Hdr) (d a b : BitVec 7) (lit : Option Word),
    DoneTurns (match lit with | none => .sweep h d a b | some l => .sweepLit h d a l) (engWord h 34 lit d a b) false false (engineNames d a b lit 1) none
      (fun x _ t => ∃ tn, tensorAt x t.core (numberD t d) = some tn ∧ tn.job = t.job ∧ usable x t (handleV t a) ∧ tensorExtent x t tn = none ∧
        (x.sweeps.filter fun w => w.core == t.core).length < 8)
      (fun x i t => { x with sweeps := x.sweeps ++ [sweepOf x i t d a (amountB t b lit)], fresh := x.fresh + 1 }) (fun _ _ _ => {}) Quiet) ∧
  (∀ (h : Hdr) (a : BitVec 7) (slot : Nat), DoneTurns (.eyield h a) (memWord h 36 none 0#7 a 0#7) true false (fun _ => { vr := [(a.toNat, 1)] }) none
      (fun _ _ t => ∃ e, t.role = .sweep slot e)
      (fun x _ t => waiting (endVisit x t slot (some (getV t a.toNat).bits)) t .idle) (fun _ _ _ => {}) Quiet) ∧
  (∀ (h : Hdr) (a : BitVec 7), DoneGroup (.tfree h a) (memWord h 42 none 0#7 a 0#7) false false
      (fun _ => { vr := [(a.toNat, 1)], tags := typed 1 a.toNat 1 integerTags }) none
      (fun x _ t => tensorAt x t.core (numberD t a) = none) (fun x _ _ => x) (fun _ _ _ => {}) Quiet) ∧
  (∀ (h : Hdr) (a : BitVec 7), DoneGroup (.tfree h a) (memWord h 42 none 0#7 a 0#7) false false
      (fun _ => { vr := [(a.toNat, 1)], tags := typed 1 a.toNat 1 integerTags }) none
      (fun x _ t => ∃ tn, tensorAt x t.core (numberD t a) = some tn ∧ tn.job = t.job ∧ slotBusy x tn = false)
      (fun x _ t => withTensor x t (numberD t a) (freeTensor x)) (fun _ _ _ => {})
      (fun s t => KeepsThreads s t ∧ KeepsRest s t ∧ KeepsButSpill s t ∧ ∀ core off, lsBytes t core off 1 = lsBytes s core off 1))

/-- 12 R295, 04 R82, R85: `ectxld` loads the word of an element that WORD names (its data with the tensor's tag, a context or extra word tagged RAW, its
bit of the group's SLEEP word tagged N32), and `ectxst` stores it; a SLEEP bit is set or cleared by a reduction. The word's address is computed from
the tensor's fields. -/
def Obligations.ElementWords : Prop :=
  (∀ (h : Hdr) (d a : BitVec 7) (w k : BitVec 3) (lit : Option Word),
    DoneTurnsIf (fun _ _ => True) (match lit with | none => .ectxld h d a w k | some l => .ectxldLit h d a w k l) (elementWord h 38 lit d a w k) false false
      (fun s => elementNames s false d a w k) none
      (fun x i t => ∃ tn y q g, ElementOk x t d (elementOf t a lit) w k tn ∧
        Granted x t (elementAt tn (elementOf t a lit) w) (elementSize tn w) (elementSize tn w) false y q g ∧
        (loadOrTrap y t i.pc (elementAt tn (elementOf t a lit) w) q (elementSize tn w) g (elementFmt t d (elementOf t a lit) w tn)).2 = none)
      (fun x i t => withTensor x t k.toNat fun tn =>
        withPlace x t (elementAt tn (elementOf t a lit) w) (elementSize tn w) (elementSize tn w) false fun y q g =>
          (loadOrTrap y t i.pc (elementAt tn (elementOf t a lit) w) q (elementSize tn w) g (elementFmt t d (elementOf t a lit) w tn)).1)
      (fun _ _ _ => {}) QuietLocal) ∧
  (∀ (h : Hdr) (d a : BitVec 7) (w k : BitVec 3) (lit : Option Word),
    DoneTurnsIf (fun _ _ => True) (match lit with | none => .ectxst h d a w k | some l => .ectxstLit h d a w k l) (elementWord h 40 lit d a w k) false false
      (fun s => elementNames s true d a w k) none
      (fun x _ t => ∃ tn y q g, ElementOk x t d (elementOf t a lit) w k tn ∧
        Granted x t (elementAt tn (elementOf t a lit) w) (elementSize tn w) (elementSize tn w) true y q g)
      (fun x _ t => withTensor x t k.toNat fun tn =>
        withPlace x t (elementAt tn (elementOf t a lit) w) (elementSize tn w) (elementSize tn w) true fun y q _ =>
          pushStore y t
            (if w = 5#3 then
              (if (getV t d.toNat).bits.getLsbD 0 then .red 13 q (BitVec.ofNat 64 (2 ^ (elementOf t a lit % 32)))
               else .red 12 q (BitVec.ofNat 64 (2 ^ 32 - 1 - 2 ^ (elementOf t a lit % 32))))
             else .glob q (dataBytes t d.toNat (elementSize tn w))))
      (fun _ _ _ => {}) Quiet)

/-- 13 R300 to R304: `mma` hands an operation with the active rows and the descriptor's fields to the core's matrix unit where it holds fewer than 4, with
the tile as a result in flight; `mld` loads and `mst` stores the 128 bytes of the row of each active lane, with a chunk's addition to come where B is
a handle pair; `mzero` clears the rows of the active lanes and sets the tile's tag. -/
def Obligations.MatrixWords : Prop :=
  (∀ (h : Hdr) (d a : BitVec 7) (q : BitVec 3) (f : BitVec 4), d.toNat < 8 → f.toNat < 9 →
    DoneGroupIf (fun s i => (s.mmas.filter fun o => o.core == i.core).length < 4) (.mma h d a q f) (memWord h 44 none d a (q ++ f)) false false
      (fun _ => { vr := [(a.toNat, 2)], sr := upFrom (8 * q.toNat) 8, ti := [d.toNat], tw := true
                  tileTags := [(d.toNat, [if f = 6#4 ∨ f = 8#4 then 1 else 3])], tags := typed 1 a.toNat 2 integerTags
                  limits := [(a.toNat % 2 == 1, 1)] }) none
      (fun x i _ => mmaTrap x (mmaOf x i d a q f) = none)
      (fun x i _ => owed { x with mmas := x.mmas ++ [mmaOf x i d a q f] } { Result.empty with uids := i.act, ready := false, pc := i.pc })
      (fun _ _ _ => {}) Quiet) ∧
  (∀ (h : Hdr) (d a : BitVec 7) (tag : BitVec 4) (lit : Option Word), d.toNat < 8 → tag.toNat < 12 →
    DoneGroup (match lit with | none => .mld h d a tag | some l => .mldLit h d a tag l) (memWord h 46 lit d a (tag.setWidth 7)) false false
      (fun _ => { vr := [(a.toNat, 2)], ti := [d.toNat], tw := true, tags := typed 1 a.toNat 2 integerTags, limits := [(a.toNat % 2 == 1, 1)] }) none
      (fun x i _ => ∃ y l, allPieces a.toNat (offLit lit) false x i.act [] = (y, .ok l) ∧ ∀ q ∈ l, ∀ r ∈ q.2,
        l1Bad (readsRows y i l) i.core q.1 r.1 r.2.1 r.2.2 = false ∧ gleanBad (readsRows y i l) i.die r.1 r.2.1 r.2.2 (some q.1) = false)
      (fun x i _ => match allPieces a.toNat (offLit lit) false x i.act [] with
        | (y, .ok l) =>
          let z := readsRows y i l
          loadRows i d.toNat a.toNat (offLit lit) z.fresh (tileOf (flockOf z i.core i.flock) d.toNat)
            (modTile z i.core i.flock d.toNat fun k => k.retag z.fresh tag) l
        | (y, .error _) => y)
      (fun _ _ _ => {}) (fun s t => (∀ a, memByte t a = memByte s a) ∧ (∀ h, cellGet t h = cellGet s h) ∧ KeepsThreads s t ∧ KeepsElements s t ∧
        ∀ e off, off % 2 ^ 27 ≠ 0x148 → getReg t e off = getReg s e off)) ∧
  (∀ (h : Hdr) (d a b : BitVec 7) (lit : Option Word), d.toNat < 8 → b = 1#7 ∨ b.toNat % 2 = 0 →
    DoneGroup (match lit with | none => .mst h d a b | some l => .mstLit h d a b l) (memWord h 48 lit d a b) false false
      (fun _ => { vr := (a.toNat, 2) :: (if b = 1#7 then [] else [(b.toNat, 2)]), ti := [d.toNat]
                  tags := typed 1 a.toNat 2 integerTags ++ (if b = 1#7 then [] else typed 2 b.toNat 2 integerTags), limits := [(a.toNat % 2 == 1, 1)] }) none
      (fun x i t => (b ≠ 1#7 → usable x t (handleV t b)) ∧ ∃ y l, allPieces a.toNat (offLit lit) true x i.act [] = (y, .ok l))
      (fun x i t => match allPieces a.toNat (offLit lit) true x i.act [] with
        | (y, .ok l) =>
          if b = 1#7 then storeRows i (tileOf (flockOf y i.core i.flock) d.toNat) none y l
          else storeRows i (tileOf (flockOf y i.core i.flock) d.toNat) (some y.fresh)
            { y with chunks := y.chunks ++ [⟨y.fresh, i.core, i.act, pairV t b, i.job, i.pc, y.cycle + 1⟩], fresh := y.fresh + 1 } l
        | (y, .error _) => y)
      (fun _ _ _ => {}) Quiet) ∧
  (∀ (h : Hdr) (d : BitVec 7) (tag : BitVec 4), d.toNat < 8 → tag = 1#4 ∨ tag = 3#4 →
    DoneGroup (.mzero h d tag) (memWord h 50 none d 0#7 (tag.setWidth 7)) false false (fun _ => { ti := [d.toNat], tw := true }) none
      (fun _ _ _ => True)
      (fun x i _ => cure (modTile x i.core i.flock d.toNat fun k =>
          { k.retag x.fresh tag with
            elems := mapSetAll 0#32 k.elems ((i.act.map fun u => (threadOf x u).lane).flatMap fun r => (upFrom (32 * r) 32).map fun e => (e, 0#32)) })
        fun p => i.act.any fun u => inRow i.core i.flock d.toNat (32 * (threadOf x u).lane) 32 p)
      (fun _ _ _ => {}) KeepsButFlocks) ∧
  (∀ (k : Tile) (n : Nat) (tag : BitVec 4), k.stamp ≤ n → (k.retag n tag).tag = tag ∧ (k.retag n tag).elems = k.elems)

/-- 13 R306, R307, R309: `trace` hands each active thread's ray record, with its segment, to the core's traversal unit where it has room; `beam` hands its
tile rectangle to the cluster's Harrow, and an empty rectangle is complete once the thread's earlier accesses are; `hitget` loads the part P of a hit record. 07 R165, R166, 13 R310: `tex`, after every earlier result, reads the descriptor and the texels that the wrapped coordinates name, with the weights of
the filter, and writes the four channels to D to D + 3, tagged F32, or I32 or N32 for the integer formats; of the STATUS bits it sets only NX. -/
def Obligations.TraversalAndTextureWords : Prop :=
  ((∀ (h : Hdr) (d a b : BitVec 7) (lit : Option Word),
    DoneTurns (match lit with | none => .trace h d a b | some l => .traceLit h d a l) (engWord h 52 lit d a b) false false
      (fun t => { engineNames d a b lit 2 t with limits := (d.toNat % 2 == 1, 0) :: (engineNames d a b lit 2 t).limits }) none
      (fun x _ t => usable x t (handleV t a) ∧ extentTrap x t false (handleV t d) 576 = none ∧ handleV t d % 64 = 0 ∧
        (x.rays.filter fun o => o.core == t.core).length < 512)
      (fun x i t => { x with
        rays := x.rays ++ [⟨x.fresh, t.core, t.uid, t.job, i.pc, handleV t d, t.segG, pairV t a, amountB t b lit, none, none, false⟩]
        fresh := x.fresh + 1 })
      (fun _ _ _ => {}) Quiet) ∧
  (∀ (h : Hdr) (d a b : BitVec 7) (lit : Option Word),
    let op : State → Issue → Thread → BeamOp := fun x i t =>
      beamOpOf x i t (handleV t d) (vBits t (d.toNat + 2)) (vBits t (d.toNat + 3)) (handleV t a) (amountB t b lit)
    let sound : State → Thread → Prop := fun x t =>
      usable x t (handleV t a) ∧ extentTrap x t false (handleV t d) 128 = none ∧ handleV t d % 64 = 0
    let names : Thread → Names := fun t =>
      { engineNames d a b lit 4 t with limits := (d.toNat % 4 ≠ 0, 0) :: (engineNames d a b lit 4 t).limits }
    DoneTurns (match lit with | none => .beam h d a b | some l => .beamLit h d a l) (engWord h 54 lit d a b) false false names none
      (fun x i t => sound x t ∧ (op x i t).tx0 ≤ (op x i t).tx1 ∧ (op x i t).ty0 ≤ (op x i t).ty1 ∧
        (x.beams.filter fun q => q.harrow == (op x i t).harrow).length < 16)
      (fun x i t => { x with beams := x.beams ++ [op x i t], fresh := x.fresh + 1 }) (fun _ _ _ => {}) Quiet ∧
    DoneTurns (match lit with | none => .beam h d a b | some l => .beamLit h d a l) (engWord h 54 lit d a b) false false names none
      (fun x i t => sound x t ∧ ((op x i t).tx1 < (op x i t).tx0 ∨ (op x i t).ty1 < (op x i t).ty0) ∧ engineHolds x t.core t.uid x.fresh = false)
      (fun x i t => engineAdd x (dieOf t.core) (t.core % 128) t.job i.pc.toNat (handleV t a) (amountB t b lit)) (fun _ _ _ => {}) (fun _ _ => True)) ∧
  (∀ (h : Hdr) (d a : BitVec 7) (p : BitVec 2),
    DoneTurns (.hitget h d a p) (memWord h 56 none d a (p.setWidth 7)) false false
      (fun _ => { vr := [(a.toNat, 2)], vw := [(d.toNat, 8)], tags := typed 1 a.toNat 2 integerTags
                  limits := [(120 < d.toNat, 0), (a.toNat % 2 == 1, 1), (p = 3#2, 2)] }) none
      (fun x i t => handleV t a % 64 = 0 ∧ handleV t a + 0x240 < 2 ^ 64 ∧
        ∃ y k g, Granted x t (partAt t a p) 32 32 false y k g ∧ (loadOrTrap y t i.pc (partAt t a p) k 32 g (partFmt t d p)).2 = none)
      (fun x i t => withPlace x t (partAt t a p) 32 32 false fun y k g => (loadOrTrap y t i.pc (partAt t a p) k 32 g (partFmt t d p)).1)
      (fun _ _ _ => {}) QuietLocal)) ∧
  (∀ (h : Hdr) (d a b : BitVec 7),
    let level : Thread → Texture → Nat := fun t x => min (vBits t (b.toNat + 2)) (x.levels - 1)
    let points : Thread → Texture → List (Nat × Nat) := fun t x =>
      (texTaps x.bilinear x.wrapt (levelDim x.h (level t x)) (texCoord (vBits t (b.toNat + 1)))).flatMap fun q =>
        (texTaps x.bilinear x.wraps (levelDim x.w (level t x)) (texCoord (vBits t b.toNat))).map fun p =>
          (levelAt x (level t x) + (q.1 * levelDim x.w (level t x) + p.1) * texelSize x.fmt, p.2 * q.2)
    let reads : State → Thread → State × Texture × List (List Byte) := fun s t =>
      match texRead s t (handleV t a) 32 32 with
      | (y, .ok db) => (match texReads t (texelSize (textureOf db).fmt) y ((points t (textureOf db)).map (·.1)) [] with
        | (z, .ok bs) => (z, textureOf db, bs)
        | (z, .error _) => (z, textureOf db, []))
      | (y, .error _) => (y, textureOf [], [])
    let channel : State → Thread → Nat → Nat × Flags := fun s t c =>
      texChannel (reads s t).2.1.fmt c (((points t (reads s t).2.1).map (·.2)).zip (reads s t).2.2)
    DoneTurns (.tex h d a b) (memWord h 58 none d a b) true false
      (fun _ => { vr := [(a.toNat, 2), (b.toNat, 3)], vw := [(d.toNat, 4)]
                  tags := typed 1 a.toNat 2 integerTags ++ typed 2 b.toNat 2 [3] ++ typed 2 (b.toNat + 2) 1 integerTags
                  limits := [(124 < d.toNat, 0), (a.toNat % 2 == 1, 1), (125 < b.toNat, 2)] }) none
      (fun s _ t => ∃ y db z bs, texRead s t (handleV t a) 32 32 = (y, .ok db) ∧ textureBad (textureOf db) = none ∧
        texReads t (texelSize (textureOf db).fmt) y ((points t (textureOf db)).map (·.1)) [] = (z, .ok bs))
      (fun s _ t => (reads s t).1)
      (fun s _ t =>
        let tag := if (reads s t).2.1.fmt = 6 then 1#4 else if (reads s t).2.1.fmt = 7 then 2#4 else 3#4
        let nx := ((channel s t 0).2 ||| (channel s t 1).2 ||| (channel s t 2).2 ||| (channel s t 3).2) &&& flagNX
        { v := (List.range 4).map fun c => ⟨t.uid, t.wb + (d.toNat + c), ⟨BitVec.ofNat 32 (channel s t c).1, tag⟩⟩, st := sets t nx }) QuietLocal)

/-- 08 R179, R185, 13 R312 to R316, 20 R400: where the request has no reserved value, the connection or channel is valid and the job's, the handle usable, the
extent inside SG.G and the port has one of its 256 places free, `put`, `get` and `send` are accepted, and what can start at the ports starts; `rwsend`
is accepted and its thread waits for the record's channel, where the record, or the 128 bytes of the least one where its header cannot be read, lies
inside SG.G. A `put` that starts sends its bytes, a `send` its bytes under the connection's next number, and a `get` its request. -/
def Obligations.NetworkWords : Prop :=
  (∀ (k : PortKind) (h : Hdr) (d a b : BitVec 7) (lit : Option Word), k ∈ [PortKind.put, .get, .send] →
    let o : State → Issue → Thread → PortOp := fun x i t => opOf x i t k a (amountB t b lit) (reqOf x t d 4)
    DoneTurns (netInstr k h d a b lit).1 (engWord h (netInstr k h d a b lit).2 lit d a b) false false (engineNames d a b lit 1) none
      (fun x i t => Readable x t (numberD t d) 32 16 ∧ netBad k ((List.range 4).map (reqWord x t (numberD t d))) = false ∧
        entryTrap x (dieOf t.core) t.job false (o x i t).conn = none ∧ usable x t (handleV t a) ∧
        netExtent x t (o x i t).laddr (o x i t).len = none ∧ portHeld x (dieOf t.core) < 256)
      (fun x i t => startOps (taken (readsLocal x t (numberD t d) 32) (o x i t))) (fun _ _ _ => {}) (fun _ _ => True)) ∧
  (∀ (h : Hdr) (d : BitVec 7) (a : BitVec 6) (isAlt : Bool) (b : BitVec 7) (lit : Option Word),
    let pair : BitVec 7 := a ++ 0#1
    let o : State → Issue → Thread → PortOp := fun x i t => opOf x i t (.rwsend isAlt) pair (amountB t b lit) (reqOf x t d 4)
    let head : State → Issue → Thread → State × EngRes (List Byte) := fun x i t => readHeader (readsLocal x t (numberD t d) 32) t (o x i t).laddr
    let hdr : State → Issue → Thread → Option (List Byte) := fun x i t => match (head x i t).2 with
      | .ok bs => some bs
      | _ => none
    let size : Option (List Byte) → Nat := fun b => (b.map fun bs => 64 * (leNat (bs.take 8) / 2 ^ 24 % 128 + 1)).getD 128
    let alt : List Byte → List DWord := fun bs =>
      [BitVec.ofNat 64 (leNat (bs.take 8) / 2 ^ 31 % 2), BitVec.ofNat 64 (leNat ((bs.drop 8).take 8) / 2 ^ 16 % 1024)]
    DoneTurns (match lit with | none => .rwsend h d a isAlt b | some l => .rwsendLit h d a isAlt l) (engWord h 66 lit d (a ++ BitVec.ofBool isAlt) b)
      false false (engineNames d pair b lit 1) none
      (fun x i t => Readable x t (numberD t d) 32 16 ∧ netBad (.rwsend isAlt) ((List.range 4).map (reqWord x t (numberD t d))) = false ∧
        entryTrap x (dieOf t.core) t.job true (o x i t).conn = none ∧ usable x t (handleV t pair) ∧
        netExtent x t (o x i t).laddr 16 = none ∧ (head x i t).2 ≠ .wait ∧ netExtent x t (o x i t).laddr (size (hdr x i t)) = none)
      (fun x i t =>
        let y := (head x i t).1
        waiting (taken y (opOf y i t (.rwsend isAlt) pair (amountB t b lit) ((o x i t).req ++ ((hdr x i t).map alt).getD []))) t (.rwsend y.fresh))
      (fun _ _ _ => {}) QuietRead) ∧
  (∀ (x y : State) (o : PortOp) (bs : List Byte), canStart x o = true → entryBad x o.id = false →
    engRead x o.die o.job o.id o.laddr o.len = (y, .ok bs) →
    let begun : State → State := fun s => modOp s o.id fun q => { q with started := true }
    let w := engTaken y o.id
    let m := sendsOn y o.die o.conn
    (o.kind ≠ .get → QuietRead x (startNet x o)) ∧
    (o.kind = .put → startNet x o = toPeer (begun w) o (.put (peerConn y o) o.job o.region o.roff bs)) ∧
    (o.kind = .send → startNet x o =
      toPeer (begun { w with sendCount := mapSet 0 y.sendCount (4096 * o.die + o.conn) (m + 1) }) o (.send (peerConn y o) o.job m bs))) ∧
  (∀ (x : State) (o : PortOp), canStart x o = true → entryBad x o.id = false → o.kind = .get →
    startNet x o = toPeer (modOp x o.id fun q => { q with started := true }) o (.getReq (peerConn x o) o.job o.region o.roff o.len) ∧ Quiet x (startNet x o))

/-- 08 R182, R183, 13 R317: `post` writes an armed request with its job and ARMED into the lowest free entry of the die's port, sends its condition to the
counter's home, and answers the entry in D; with all 1,024 entries armed it answers 0xFFFFFFFF and does nothing. -/
def Obligations.ArmWord : Prop :=
  ∀ (h : Hdr) (d a : BitVec 7),
    let names : Thread → Names := fun _ => { vr := [(a.toNat, 1)], vw := [(d.toNat, 1)], tags := typed 1 a.toNat 1 integerTags }
    let w : State → Thread → List Nat := fun x t => (List.range 8).map (reqWord x t (numberD t a))
    let sound : State → Thread → Prop := fun x t =>
      Readable x t (numberD t a) 64 64 ∧ armedBad (w x t) = false ∧ postTrap x t (w x t) = none
    DoneTurns (.post h d a) (memWord h 68 none d a 0#7) false false names none
      (fun x _ t => sound x t ∧ freeArmed x (dieOf t.core) = none) (fun x _ t => readsLocal x t (numberD t a) 64)
      (fun _ _ t => { v := [put1 t d 0xFFFFFFFF#32 2#4] }) QuietRead ∧
    DoneTurns (.post h d a) (memWord h 68 none d a 0#7) false false names none
      (fun x _ t => sound x t ∧ (freeArmed x (dieOf t.core)).isSome)
      (fun x i t =>
        let idx := (freeArmed x (dieOf t.core)).getD 0
        let y := armWords (dieOf t.core) idx (readsLocal x t (numberD t a) 64) 0
          (modNth (fun _ => setBits (setBits (reqWord x t (numberD t a) 2) 31 16 t.job) 32 32 1) 2 (w x t))
        sendPacket { y with armed := y.armed ++ [⟨dieOf t.core, idx, t.uid, t.core, t.job, i.pc, x.fresh⟩] }
          { Packet.blank with
            src := 2000000 + dieOf t.core, dst := homeUnit x (reqWord x t (numberD t a) 0), ordered := localHandle x (reqWord x t (numberD t a) 0), job := t.job
            body := .ctr (BitVec.ofNat 64 (reqWord x t (numberD t a) 0))
              (.wait (armedWaiter x t (dieOf t.core) idx (reqWord x t (numberD t a) 0) (reqWord x t (numberD t a) 1))) })
      (fun x _ t => { v := [put1 t d (BitVec.ofNat 32 ((freeArmed x (dieOf t.core)).getD 0)) 2#4] }) KeepsCore

/-- 13 R312, R319, R320, 20 R400: `cgraph` and `comp` of a sound request are accepted by the die's port, and so is `coll`, with the 16 words of its base
table, where the engine holds fewer than 4 replays. -/
def Obligations.CollectiveWords : Prop :=
  (∀ (h : Hdr) (d a b : BitVec 7) (lit : Option Word),
    let w : State → Thread → Nat → Nat := fun x t k => reqWord x t (numberD t d) k
    DoneTurns (collInstr .cgraph h d a b lit).1 (engWord h 72 lit d a b) false false (engineNames d a b lit 1) none
      (fun x _ t => Readable x t (numberD t d) 32 16 ∧ w x t 0 < 2 ^ 57 ∧ w x t 0 % 32 = 0 ∧ w x t 1 / 2 ^ 13 % 2 ^ 19 = 0 ∧ w x t 3 = 0 ∧
        1 ≤ w x t 1 % 1024 ∧ w x t 1 % 1024 ≤ 512 ∧ badBase x (dieOf t.core) (w x t 2) = false ∧ usable x t (w x t 2) ∧ usable x t (handleV t a) ∧
        extentTrap x t false (w x t 0) (32 * (w x t 1 % 1024)) = none ∧ portHeld x (dieOf t.core) < 256)
      (fun x i t => taken (readsLocal x t (numberD t d) 32) (opOf x i t .cgraph a (amountB t b lit) (reqOf x t d 4))) (fun _ _ _ => {}) QuietRead) ∧
  (∀ (h : Hdr) (d a b : BitVec 7) (lit : Option Word),
    let w : State → Thread → Nat → Nat := fun x t k => reqWord x t (numberD t d) k
    DoneTurns (match lit with | none => .coll h d a b | some l => .collLit h d a l) (engWord h 74 lit d a b) false false (engineNames d a b lit 1) none
      (fun x _ t => Readable x t (numberD t d) 16 16 ∧ w x t 0 < 2 ^ 35 ∧ Readable (readsLocal x t (numberD t d) 16) t (w x t 0 % 2 ^ 32) 128 16 ∧
        usable x t (handleV t a) ∧ replaysHeld x (dieOf t.core) < 4 ∧ portHeld x (dieOf t.core) < 256)
      (fun x i t => taken (readsLocal (readsLocal x t (numberD t d) 16) t (w x t 0 % 2 ^ 32) 128)
        { opOf x i t .coll a (amountB t b lit) (reqOf x t d 2) with
          base := (List.range 16).map fun k => BitVec.ofNat 64 (reqWord x t (w x t 0 % 2 ^ 32) k) }) (fun _ _ _ => {}) QuietRead) ∧
  (∀ (h : Hdr) (d a b : BitVec 7) (lit : Option Word),
    let w : State → Thread → Nat → Nat := fun x t k => reqWord x t (numberD t d) k
    let len : State → Thread → Nat := fun x t => w x t 2 % 2 ^ 32
    let fmt : State → Thread → Nat := fun x t => w x t 2 / 2 ^ 32 % 4
    let r : State → Thread → State := fun x t => readsLocal x t (numberD t d) 32
    let y : State → Thread → State := fun x t => (homedOn (r x t) (dieOf t.core) t.job true (len x t / 4096 + 2) (w x t 0) (len x t)).1
    let z : State → Thread → State := fun x t => (homedOn (y x t) (dieOf t.core) t.job false (len x t / 4096 + 2) (w x t 1) (len x t)).1
    DoneTurns (collInstr .comp h d a b lit).1 (engWord h 76 lit d a b) false false (engineNames d a b lit 1) none
      (fun x _ t => Readable x t (numberD t d) 32 16 ∧ w x t 0 < 2 ^ 57 ∧ w x t 1 < 2 ^ 57 ∧ w x t 2 < 2 ^ 37 ∧ w x t 3 = 0 ∧
        pairOk (fmt x t) (w x t 2 / 2 ^ 34 % 4) = true ∧ len x t % elemSize (fmt x t) = 0 ∧ usable x t (handleV t a) ∧
        netExtent x t (w x t 0) (len x t) = none ∧ netExtent x t (w x t 1) (len x t) = none ∧
        homedOn (r x t) (dieOf t.core) t.job true (len x t / 4096 + 2) (w x t 0) (len x t) = (y x t, none) ∧
        homedOn (y x t) (dieOf t.core) t.job false (len x t / 4096 + 2) (w x t 1) (len x t) = (z x t, none) ∧ portHeld (z x t) (dieOf t.core) < 256)
      (fun x i t => taken (z x t) (opOf (z x t) i t .comp a (amountB t b lit) (reqOf x t d 4))) (fun _ _ _ => {}) QuietRead)

namespace Sys2Proof.Claims

open Sys2Proof.Machine Sys2Proof.Safety

/-! ### Steps of other agents: results, schedule, launcher -/

/-- A packet that its receiver can take now (08 R177, 12 R272). -/
def Arrives (s : State) (n : Nat) (p : Packet) (b : Body) : Prop := findPacket s n = some p ∧ deliverable s p = true ∧ p.body = b

/-- The register writes of a result that has returned. -/
def Returned (s : State) (id : Nat) (r : Result) : Prop := (s.results.find? fun q => q.id == id && returned s q) = some r

/-- No result of a thread is outstanding but that one. -/
abbrev lastOf (s : State) (r : Result) (u : Nat) : Prop := (s.results.filter fun q => q.id ≠ r.id ∧ u ∈ q.uids) = []

/-- A thread after a result of its word is written: it unparks when it was its last (02 R46); and a group that waits with a word for results issues it
again, as one group, when none of its threads' results is outstanding (10 R220, 11 R266). -/
def unparked (s : State) (r : Result) (t : Thread) : Thread :=
  let t1 := if t.uid ∈ r.uids ∧ lastOf s r t.uid ∧ t.parked = true then { t with parked := false, age := s.cycle + 1 } else t
  if t.wait = .results ∧ (∀ u ∈ s.threads, u.core = t.core → u.flock = t.flock → u.pc = t.pc → u.wait = .results → lastOf s r u.uid)
    then { t1 with wait := .none, age := s.cycle + 1 } else t1

/-- The waiters of a state are all in the lists that their homes keep on chip. -/
def Unspilled (s : State) : Prop := ∀ w ∈ s.waiters, w.spilled = false

/-- Two counters, which do not overlap in the backing area (03 R71). -/
def Apart (s : State) (h k : Nat) : Prop :=
  k ≠ h ∧ (inBacking s h = true → inBacking s k = true → cellPlace s k + 8 ≤ cellPlace s h ∨ cellPlace s h + 8 ≤ cellPlace s k)

/-- A waiter of the cell `h` is met by the value `v`, and its job is not halted on the home's die (03 R66, R67, 09 R203). -/
def Met (s : State) (h v : Nat) (w : Waiter) : Prop :=
  w.handle.toNat = h ∧ condMet v w.thresh.toNat = true ∧ ¬(localHandle s h = true ∧ jobHeld s (hDie h) w.job = true)

/-- The wake of a waiter is on its way to the unit that waits, or to the module of a remote thread (03 R67, R77). -/
def Woken (s t : State) (w : Waiter) : Prop :=
  if w.module = moduleId s then ∃ q ∈ t.packets, q.dst = 10000 + w.unit ∧ q.body = .wake w else ∃ q ∈ t.peerOut, q.body = .wake w

/-- A home has set the cell `h` to `v`: every waiter that the value meets is woken and leaves the list, the others stay, and no thread, flock, other
register or byte of local store changes; nor does another counter, or a byte of memory but for the cell's place in the backing area and the places of
spilled waiters. -/
def CellMoved (s t : State) (h v : Nat) : Prop :=
  (∀ a, (inBacking s h = true → a < cellPlace s h ∨ cellPlace s h + 8 ≤ a) → (∀ u, a < spillAt s u ∨ spillAt s u + 32 * spilledAt s u ≤ a) →
    memByte t a = memByte s a) ∧
    (inBacking s h = true → t.cells = s.cells) ∧ (inBacking s h = false ∨ Unspilled s → cellGet t h = v) ∧
    (Unspilled s → ∀ k, Apart s h k → cellGet t k = cellGet s k) ∧
    (∀ w ∈ s.waiters, Met s h v w → Woken s t w) ∧ (∀ w ∈ s.waiters, ¬Met s h v w → ∃ x ∈ t.waiters, { x with spilled := w.spilled } = w) ∧
    (∀ x ∈ t.waiters, ¬Met s h v x) ∧ t.threads = s.threads ∧ t.locl = s.locl ∧ KeepsRestRead s t

/-- A flock that waits at the front of its core's waiting set, and its members fit. -/
def FrontFits (s : State) (core : Nat) (f : Flock) : Prop :=
  s.waitset.find? (fun p => p.1 == core) = some (core, f.idx) ∧ findFlock s core f.idx = some f ∧ f.core = core ∧ f.saved = none ∧
    fits s core (membersOf s core f.idx) f.tiles.length = true ∧ pendingRegion s core (membersOf s core f.idx) = none

/-- It is admitted: each member in the lowest free slot of its lane and the lowest free place of the register file (the model's choice, log entry 44). -/
def admitted (s : State) (core : Nat) (f : Flock) : State :=
  { s with
    waitset := s.waitset.filter (· ≠ (core, f.idx))
    threads := s.threads.map fun t => if (membersOf s core f.idx).any (·.uid == t.uid) then
      { t with
        slot := ((freeSlot s core t.lane t.alloc).getD (0, 0)).1
        rbase := ((freeSlot s core t.lane t.alloc).getD (0, 0)).2
        age := s.cycle + 1 } else t
    flocks := s.flocks.map fun k => if k.core = core ∧ k.idx = f.idx then
      { k with resident := true, since := ftime s (dieOf core), evicting := false, saved := none } else k }

/-- No flock waits on a core, or the first one does not fit. -/
def NoneFits (s : State) (core : Nat) : Prop :=
  (∀ p ∈ s.waitset, p.1 ≠ core) ∨
    ∃ f, s.waitset.find? (fun p => p.1 == core) = some (core, f.idx) ∧ findFlock s core f.idx = some f ∧ f.core = core ∧
      fits s core (membersOf s core f.idx) f.tiles.length = false

/-- Whether every thread of a flock waits on counters or is trapped (02 R55, 18 R377). -/
def allWait (s : State) (f : Flock) : Bool := (membersOf s f.core f.idx).all waitsOnCounters

/-- A victim goes before another (02 R55): one whose threads all wait on counters first, then the lower PRIO, then the longer residency. -/
def GoesBefore (s : State) (a b : Flock) : Prop :=
  (allWait s a = true ∧ allWait s b = false) ∨
    (allWait s a = allWait s b ∧ (a.prio < b.prio ∨ (a.prio = b.prio ∧ a.since < b.since)))

/-- The bins after those with `p` are marked due. -/
def dueBins (s : State) (p : Bin → Bool) : List Bin := s.bins.map fun b => if p b then { b with due := true } else b

end Sys2Proof.Claims

/-- 02 R46, 06 R131, 10 R220: RESULT_WRITEBACK writes a result that has returned: its registers, its s registers, its guard bits, its STATUS bits,
the bytes of its load; its threads unpark when it was their last; no byte of memory and no counter changes. -/
def Obligations.ResultWriteback : Prop :=
  (∀ (s : State) (id : Nat) (r : Result), Returned s id r →
    ∃ t, exec (.resultWriteback id) s = .next t ∧ KeepsMemory s t ∧ t.mregs = s.mregs ∧ t.packets = s.packets ∧
      t.results = s.results.filter fun q => q.id ≠ r.id) ∧
  (∀ (s : State) (id u n : Nat) (x : Reg) (r : Result), Returned s id r → r.v = [⟨u, n, x⟩] → r.s = [] → r.g = [] → r.st = [] → r.fmt = none →
    r.poisoned = false →
    exec (.resultWriteback id) s = .next { s with
      threads := s.threads.map fun t => unparked s r (if t.uid = u then { t with regs := mapSet rawZero t.regs n x } else t)
      results := s.results.filter fun q => q.id ≠ r.id
      poison := s.poison.filter (· ≠ .vreg u n)
      flips := s.flips.filter fun p => p.1 ≠ .vreg u n }) ∧
  (∀ (s : State) (id core fl n : Nat) (x : Word) (r : Result), Returned s id r → r.v = [] → r.s = [⟨core, fl, n, x⟩] → r.g = [] → r.st = [] →
    r.fmt = none → r.poisoned = false →
    exec (.resultWriteback id) s = .next { s with
      threads := s.threads.map (unparked s r)
      flocks := s.flocks.map fun f => if f.core = core ∧ f.idx = fl then { f with sregs := mapSet 0#32 f.sregs n x } else f
      results := s.results.filter fun q => q.id ≠ r.id
      poison := s.poison.filter (· ≠ .sreg core fl n)
      flips := s.flips.filter fun p => p.1 ≠ .sreg core fl n }) ∧
  (∀ (s : State) (id u : Nat) (b : Bool) (st : BitVec 16) (r : Result), Returned s id r → r.v = [] → r.s = [] → r.g = [(u, b)] → r.st = [(u, st)] →
    r.fmt = none → r.poisoned = false →
    exec (.resultWriteback id) s = .next { s with
      threads := s.threads.map fun t => unparked s r (if t.uid = u then { t with g := b, status := t.status ||| st } else t)
      results := s.results.filter fun q => q.id ≠ r.id }) ∧
  (∀ (s : State) (id u n : Nat) (tags : List (BitVec 4)) (t : Thread) (r : Result), Returned s id r → r.v = [] → r.s = [] → r.g = [] → r.st = [] →
    r.fmt = some (.regs u n tags) → r.poisoned = false → findThread s u = some t → mapWf rawZero t.regs = true →
    ∃ y x, exec (.resultWriteback id) s = .next y ∧ findThread y u = some x ∧ mapWf rawZero x.regs = true ∧
      (∀ k, k < tags.length → getIdx x (n + k) = ⟨BitVec.ofNat 32 (leNat (((bufBytes r.buf).drop (4 * k)).take 4)), nthD 0#4 tags k⟩) ∧
      (∀ j, j < n ∨ n + tags.length ≤ j → getIdx x j = getIdx t j) ∧ x.g = t.g ∧ x.status = t.status ∧ x.pc = t.pc)

/-- 02 R38, R39, R42, R54, R55: the steps of scheduling. A group eligible for 4,096 core cycles is treated as PRIO 3; a bin's timer makes it due;
the oldest due bin launches as a flock with its tiles, when they are free; the first waiting spawn places its children, and its threads go on when none
is left; the front flock of the waiting set is admitted when it fits; a rotation point is taken once, and with nothing waiting changes no thread, flock or
memory; with a waiting set it evicts victims in R55's order until the first waiting flock fits, and where none is left launches the open bins; a flock that
was chosen as a victim leaves when its results are written and its group has ended, and joins the back of the waiting set; an eviction for which the save
area has no room is abandoned with a record. Of the model's choice are the tiles of zeros of a launched flock (log entry 10), its PRIO, that of the bin (log
entry 101), the place in the register files and the slot (log entry 44), and the order of victims that R55 does not order (log entry 58). -/
def Obligations.ScheduleEvents : Prop :=
  (∀ (s : State) (u : Nat) (t : Thread), findThread s u = some t → eligible s t = true → groupOld s (groupOf (eligibleOn s t.core) t) = true →
    exec (.prioAge u) s = .next { s with threads := s.threads.map fun x =>
      if x.uid ∈ (groupOf (eligibleOn s t.core) t).map (·.uid) then { x with aged := true } else x }) ∧
  (∀ (s : State) (n : Nat) (b : Bin), (s.bins.find? fun c => c.id == n) = some b → b.deadline ≤ ftime s (dieOf b.core) →
    jobHeld s (dieOf b.core) b.job = false →
    exec (.binTimerExpiry n) s = .next { s with bins := dueBins s fun c => c.id == n }) ∧
  (∀ (s : State) (n : Nat) (b : Bin), (s.bins.find? fun c => c.id == n) = some b → nextDue s b.core = some b → b.id = n →
    tilesHeld s b.core + b.tiles ≤ 64 →
    exec (.binLaunch n) s = .next { s with
      flocks := s.flocks ++ [{ Flock.blank with
        core := b.core, idx := freeIndex s b.core, job := b.job, prio := b.prio, tiles := List.replicate b.tiles Tile.zero, since := b.since }]
      bins := s.bins.filter fun c => c.id ≠ n
      threads := s.threads.map fun t => if t.bin = some n then { t with bin := none, flock := freeIndex s b.core, age := s.cycle + 1 } else t }) ∧
  (∀ (s : State) (p : Placing) (u : Nat) (g : List Nat), p.group = u :: g → nextPlacing s p.core = some p →
    (s.placing.find? fun q => has q.group u || (q.group.isEmpty && u == 2 ^ 64 + q.core)) = some p →
    exec (.spawnDeferredPlacement u) s = .next (placeAgain s p)) ∧
  (∀ (s : State) (p : Placing), s.placing.head? = some p → (∃ k ∈ p.kids, jobHeld s (dieOf p.core) k.th.job = false) →
    nextPlacing s p.core = some p) ∧
  (∀ (s s1 : State) (p : Placing) (left : List Kid), placeKids s p.core p.kids = (s1, left) →
    (left ≠ [] → placeAgain s p =
      { timeBins s1 p.core with placing := (timeBins s1 p.core).placing.map fun q => if q = p then { p with kids := left } else q }) ∧
    (left = [] → p.sbit = false → placeAgain s p =
      { timeBins s1 p.core with
        placing := (timeBins s1 p.core).placing.filter (· ≠ p)
        threads := (timeBins s1 p.core).threads.map fun t => if t.uid ∈ p.group then
          { t with
            pc := t.pc + BitVec.ofNat 57 p.len, wait := .none, parked := false, age := (timeBins s1 p.core).cycle + 1
            newPc := if holdsSlot (timeBins s1 p.core) t then none else some (t.pc + BitVec.ofNat 57 p.len) } else t })) ∧
  (∀ (s : State) (core : Nat) (f : Flock), FrontFits s core f → NoneFits (admitted s core f) core →
    exec (.flockAdmit core) s = .next (admitted s core f)) ∧
  (∀ (s : State) (core : Nat) (f g : Flock), FrontFits s core f → FrontFits (admitted s core f) core g →
    NoneFits (admitted (admitted s core f) core g) core →
    exec (.flockAdmit core) s = .next (admitted (admitted s core f) core g)) ∧
  (∀ (s : State) (core : Nat), NoneFits s core → exec (.flockAdmit core) s = .next s ∧ admitFront s core = s) ∧
  (∀ (s : State) (core : Nat), s.power = .run → ftime s (dieOf core) % 100000 = 0 → mapGet 0 s.rotated core ≠ ftime s (dieOf core) / 100000 →
    coreOn s (dieOf core) (core % 128) = true →
    let first := (coresOn s (dieOf core)).head? == some (core % 128)
    let s1 := retryWaits { s with rotated := mapSet 0 s.rotated core (ftime s (dieOf core) / 100000) } core first
    exec (.rotationPoint core) s = .next (rotate (if first then retryQueues s1 (dieOf core) else s1) core (ftime s (dieOf core))) ∧
    ((∀ p ∈ s.waitset, p.1 ≠ core) → (∀ x ∈ s.lqs, x.held = false) → exec (.rotationPoint core) s = .next s1)) ∧
  (∀ (s : State) (core now : Nat) (p : Nat × Nat), p ∈ s.waitset → p.1 = core →
    rotate s core now = rotateOver s core (victims s core now) ∧
    (∀ f, f ∈ victims s core now ↔ f ∈ s.flocks ∧ f.core = core ∧ f.resident = true ∧ f.evicting = false ∧ f.since + 100000 ≤ now ∧
      jobHeld s (dieOf core) f.job = false) ∧
    (victims s core now).Pairwise (fun a b => ¬GoesBefore s b a)) ∧
  (∀ (s : State) (core : Nat) (vs : List Flock), wouldFit s core = true → rotateOver s core vs = admitFront s core) ∧
  (∀ (s : State) (core : Nat) (f : Flock) (vs : List Flock), wouldFit s core = false →
    rotateOver s core (f :: vs) = rotateOver (evict s f) core vs ∧
    rotateOver s core [] = admitFront (launchDue { s with bins := dueBins s fun b => b.core == core && !jobHeld s (dieOf core) b.job } core) core) ∧
  (∀ (s : State) (f : Flock),
    (groupOpen s f = false → (∀ r ∈ flockResults s f, returned s r = true) → evict s f = evictNow s f) ∧
    (groupOpen s f = true ∨ (∃ r ∈ flockResults s f, returned s r = false) →
      evict s f = { s with flocks := s.flocks.map fun k => if k.core = f.core ∧ k.idx = f.idx then { k with evicting := true } else k })) ∧
  (∀ (s s2 : State) (f : Flock) (o : Nat), flockResults s f = [] → saveFlock s (flockOf s f.core f.idx) = (s2, .ok o) →
    (flockOf s f.core f.idx).core = f.core → (flockOf s f.core f.idx).idx = f.idx →
    (∀ r ∈ s2.rays, ∀ t ∈ membersOf s2 f.core f.idx, r.uid ≠ t.uid) →
    evictNow s f = { s2 with
      waitset := s2.waitset ++ [(f.core, f.idx)]
      threads := s2.threads.map fun t => if t.uid ∈ (membersOf s2 f.core f.idx).map (·.uid) then { t with wait := t.wait.evicted } else t
      flocks := s2.flocks.map fun k => if k.core = f.core ∧ k.idx = f.idx then
        { k with resident := false, evicting := false, saved := some o } else k }) ∧
  (∀ (s : State) (f : Flock), flockResults s f = [] → flockOf s f.core f.idx = f →
    saveSize s (dieOf f.core) f.job < lowestFree (savedRuns s (dieOf f.core) f.job) (savedSize s f) + savedSize s f →
    evictNow s f = raiseAsync { s with flocks := s.flocks.map fun k => if k.core = f.core ∧ k.idx = f.idx then { k with evicting := false } else k }
      3 7 f.job (dieOf f.core) (f.core % 128) 0 0 none 0 (flockId f.core f.idx)) ∧
  (∀ (s : State) (core : Nat) (f : Flock), deferredVictim s core = some f →
    exec (.sweepDeferredEviction core) s = .next (evictDeferred s core f) ∧
    ((flockOf (evictNow s f) core f.idx).resident = false → evictDeferred s core f = admitFront (evictNow s f) core) ∧
    ((flockOf (evictNow s f) core f.idx).resident = true →
      evictDeferred s core f = rotateOver (evictNow s f) core (laterVictims (evictNow s f) core f.idx)))

/-- 02 R50 to R53, 18 R375, R417: a write of DIE_LQ_CTLq that sets or clears EN starts or ends the queue at the launcher: T0 and H0 are the values of its
tail and head counters; the launcher reads the next record once the tail counter shows it; it places the threads of a record whose conditions hold, and
adds 1 to the head counter. That a launched flock's tiles hold zeros is the model's choice (log entry 10). -/
def Obligations.LauncherEvents : Prop :=
  (∀ (s : State) (m die q : Nat) (v : DWord), let off := 0x408 + 32 * (q % 8)
    let w := (v ||| 0x100000000#64).toNat
    mgmtStop s m die off true = none → bit (getReg s die off) 32 = false → bit (getReg (regWritePlain s die off w) die off) 32 = true →
    exec (.launchQueueEnable m die q v) s = .next (enableQueue (regWritePlain s die off w) die (q % 8))) ∧
  (∀ (s : State) (die q : Nat), let th := getReg s die (0x410 + 32 * q)
    let hh := getReg s die (0x418 + 32 * q)
    badHandle s th = none → cellPoisoned s th = false → badHandle s hh = none → cellPoisoned s hh = false →
    enableQueue s die q = { s with lqs := s.lqs.filter (fun y => !(y.die == die && y.q == q)) ++
      [{ die := die, q := q, t0 := some (BitVec.ofNat 64 (cellGet s th)), h0 := some (BitVec.ofNat 64 (cellGet s hh)), k := 0, record := none
         wid := none, mask := 0, placed := false, held := false, cause := 0 }] }) ∧
  (∀ (s : State) (m die q : Nat) (v : DWord), let off := 0x408 + 32 * (q % 8)
    let w := (v &&& ~~~0x100000000#64).toNat
    mgmtStop s m die off true = none → bit (getReg s die off) 32 = true → bit (getReg (regWritePlain s die off w) die off) 32 = false →
    exec (.launchQueueDisable m die q v) s = .next (disableQueue (regWritePlain s die off w) die (q % 8)) ∧
    (∀ x, lqOf s die q = some x → x.wid = none →
      disableQueue s die q = { s with
        lqs := s.lqs.filter fun y => !(y.die == die && y.q == q)
        engLines := s.engLines.filter fun l => l.op ≠ lqOp x
        engFails := s.engFails.filter fun l => l.op ≠ lqOp x })) ∧
  (∀ (s s1 : State) (die q : Nat) (x : LaunchQ) (t0 : DWord) (b : List Byte), lqOf s die q = some x → x.held = false → x.record = none →
    x.placed = false → x.t0 = some t0 → dieOn s x.die = true → jobHeld s x.die (lqJob s x) = false →
    badHandle s (getReg s x.die (0x410 + 32 * x.q)) = none → cellPoisoned s (getReg s x.die (0x410 + 32 * x.q)) = false →
    condMet (cellGet s (getReg s x.die (0x410 + 32 * x.q))) (t0.toNat + x.k + 1) = true →
    engRead s x.die (lqJob s x) (lqOp x) (getReg s x.die (0x400 + 32 * x.q) + 64 * (x.k % 2 ^ getField s x.die (0x408 + 32 * x.q) 20 16)) 64 =
      (s1, .ok b) →
    recordBad b = none →
    let y1 : State := { s1 with lqs := s1.lqs.map fun y => if y.die = x.die ∧ y.q = x.q then { y with held := false } else y }
    (bits (recW b 0) 61 59 = 0 →
      exec (.launchRecordTake die q) s = .next { s1 with
        engLines := s1.engLines.filter fun l => l.op ≠ lqOp x
        engFails := s1.engFails.filter fun l => l.op ≠ lqOp x
        lqs := s1.lqs.map fun y => if y.die = x.die ∧ y.q = x.q then { y with record := some (b, []), held := false } else y }) ∧
    (∀ (s2 : State) (c : List Byte), bits (recW b 0) 61 59 ≠ 0 →
      engRead y1 x.die (lqJob y1 x) (lqOp x) (recW b 7) (16 * bits (recW b 0) 61 59) = (s2, .ok c) →
      exec (.launchRecordTake die q) s = .next { s2 with
        engLines := s2.engLines.filter fun l => l.op ≠ lqOp x
        engFails := s2.engFails.filter fun l => l.op ≠ lqOp x
        lqs := s2.lqs.map fun y =>
          if y.die = x.die ∧ y.q = x.q then { y with record := some (b, depConds (bits (recW b 0) 61 59) c), held := false } else y })) ∧
  (∀ (s : State) (die q : Nat) (x : LaunchQ) (b : List Byte) (cs : List Cond), lqOf s die q = some x → x.held = false → x.record = some (b, cs) →
    x.placed = false → dieOn s x.die = true → jobHeld s x.die (lqJob s x) = false → depsMet x b cs = true →
    (bits (recW b 1) 31 0 = 0 ∨ placeCores s x.die b ≠ []) →
    exec (.launchRecordPlace die q) s = .next (endRecord (placeRecord (withdrawDeps s x) x.die (lqJob s x) b) x)) ∧
  (∀ (s : State) (d job n c : Nat) (b : List Byte) (r : List Nat), bits (recW b 1) 31 0 = n → 1 ≤ n → n ≤ 32 → bits (recW b 1) 57 42 = 0 →
    placeCores s d b = c :: r →
    placeRecord s d job b = enterWaiting { s with fresh := s.fresh + n }
      { Flock.blank with
        core := 128 * d + c, idx := freeIndex s (128 * d + c), job := job, prio := bits (recW b 0) 58 57
        tiles := List.replicate (bits (recW b 1) 41 38) Tile.zero }
      ((upFrom 0 n).map fun i => launchedThread s job b (128 * d + c) (freeIndex s (128 * d + c)) i (s.fresh + i) i none)) ∧
  (∀ (s : State) (x : LaunchQ), let h := getReg s x.die (0x418 + 32 * x.q)
    Memory.wf s.mem = true → mapWf 0#64 s.cells = true → badHandle s h = none → cellPoisoned s h = false → localHandle s h = true →
    hDie h = x.die → lqOf s x.die x.q ≠ none →
    lqOf (endRecord s x) x.die x.q = some { x with record := none, wid := none, mask := 0, placed := false, held := false, k := x.k + 1 } ∧
    CellMoved s (endRecord s x) h ((cellGet s h + 1) % 2 ^ 64))


namespace Sys2Proof.Claims

open Sys2Proof.Machine Sys2Proof.Safety

/-! ### Steps of other agents: counters and memory at their homes -/

/-- Packets but one. -/
def othersThan (s : State) (n : Nat) : List Packet := s.packets.filter fun p => p.id ≠ n

/-- What a home sends back for a packet, with its TAG: to the core or the engines that sent it, or to the module that did (03 R77, 08 R174, R177). -/
def SentBack (s : State) (p q : Packet) : Prop :=
  (fromPeer s p = false → q.dst = backUnit p.src ∧ (p.src < 1536 → q.dst = 10000 + p.src)) ∧ q.uid = p.uid ∧ q.tag = some (p.tag.getD p.id)

/-- The value that a home answers, on its way back. -/
def Answered (s t : State) (p : Packet) (rid v : Nat) : Prop :=
  ∃ q ∈ (if fromPeer s p then t.peerOut else t.packets), SentBack s p q ∧ q.body = .ctrResp rid (BitVec.ofNat 64 v) false

/-- Every packet but one is still there, but for the lines that reads under way may have been going to leave in a cache. -/
def OthersStay (s t : State) (n : Nat) : Prop :=
  ∀ q ∈ othersThan s n, ∃ x ∈ t.packets, { x with body := q.body } = q ∧
    (x.body = q.body ∨ (∃ pa m rid k g, q.body = .read pa m rid k g) ∨ ∃ rid b l g z, q.body = .readResp rid b l g z)

/-- Threads that wait for what an engine has asked for look again, where the packet is one of an engine's. -/
def looked (s : State) (p : Packet) : State :=
  if p.eng = none then s
  else { s with threads := s.threads.map fun t => if t.wait = .page 0 then { t with wait := .none, age := s.cycle + 1 } else t }

/-- A wait is tested when its home takes it: while its job is halted there only that of a thread of this module that is stepped (09 R203, R204). -/
def Tested (s : State) (w : Waiter) : Prop :=
  ¬(localHandle s w.handle.toNat = true ∧ jobHeld s (hDie w.handle.toNat) w.job = true) ∨
    (w.kind ≤ 1 ∧ w.module = moduleId s ∧ ∃ t, findThread s w.uid = some t ∧ waitHeld s t = false)

/-- The state after a wait has been taken: threads that wait for what a sweep's engine has asked look again. -/
def lookedFor (s : State) (w : Waiter) : State :=
  if w.kind = 5 then { s with threads := s.threads.map fun t => if t.wait = .page 0 then { t with wait := .none, age := s.cycle + 1 } else t } else s

/-- A counter operation of this module, or of another one at the gateway for a level 4 counter that exists, arrives at its home (08 R177). -/
def ArrivesHome (s : State) (n : Nat) (p : Packet) (h : DWord) (op : CtrOp) : Prop := Arrives s n p (.ctr h op) ∧ peerRefused s p = false

/-- The data of memory and of counters are in canonical form. -/
def SoundCells (s : State) : Prop := Memory.wf s.mem = true ∧ mapWf 0#64 s.cells = true

/-- A home has read the cell `h`, which checks its code words (17 R358). -/
def readCell (s : State) (h : Nat) : State := eccRead s (inCell s h)

/-- A byte of memory after the writes of a list, the last of which counts. -/
def byteAfter (s : State) (bs : List (Nat × Byte)) (a : Nat) : Byte :=
  match bs.reverse.find? fun p => p.1 == a with
  | some p => p.2
  | none => memByte s a

/-- The home's acknowledgement of a thread's packet, or of another module's, is on its way back, and every other packet is still there (05 R116, 08
R177). -/
def Acked (s t : State) (p : Packet) : Prop :=
  (∀ q ∈ othersThan s p.id, q ∈ t.packets) ∧
    if fromPeer s p then ∃ q ∈ t.peerOut, q.body = .ack
    else ∀ u, p.uid = some u → ∃ q ∈ t.packets, q.seq = p.seq ∧ SentBack s p q ∧ q.body = .ack

/-- What a home sends back aside, two states are the same. -/
def SameButSent (s t : State) : Prop := { t with packets := s.packets, peerOut := s.peerOut, fresh := s.fresh } = s

/-- Everything but memory, its errors, and the packets is as before. -/
def KeepsAllButMemory (s t : State) : Prop :=
  { t with mem := s.mem, poison := s.poison, flips := s.flips, packets := s.packets, peerOut := s.peerOut, fresh := s.fresh } = s

/-- The result of a thread with bytes filled in, as it is once its answer has returned. -/
def filled (rid : Nat) (bs : List Byte) (q : Result) : Result := if q.id = rid then { q with ready := true, buf := fillBuf q.buf bs } else q

end Sys2Proof.Claims

/-- 03 R64, R66 to R68, R70, 12 R280 to R287: the home of a counter applies an addition or a set and wakes the waiters that the new value meets; returns
the value before an addition, or the value read; answers a wait at once when it is met, and else lists it, or spills it to the segment; and takes
withdrawn waits off its list. -/
def Obligations.CounterHomeEvents : Prop :=
  (∀ (s : State) (pkt n : Nat) (p : Packet) (h : DWord), ArrivesHome s pkt p h (.add n) → cellPoisoned s h.toNat = false → SoundCells s →
    ∃ t, exec (.counterAdd pkt) s = .next t ∧ CellMoved s t h.toNat ((cellGet s h.toNat + n) % 2 ^ 64) ∧ t.results = s.results ∧
      OthersStay s t pkt) ∧
  (∀ (s : State) (pkt n rid : Nat) (p : Packet) (h : DWord), ArrivesHome s pkt p h (.addRet n rid) → cellPoisoned s h.toNat = false → SoundCells s →
    ∃ t, exec (.counterAddReturn pkt) s = .next t ∧ CellMoved s t h.toNat ((cellGet s h.toNat + n) % 2 ^ 64) ∧ t.results = s.results ∧
      Answered s t p rid (cellGet s h.toNat)) ∧
  (∀ (s : State) (pkt rid : Nat) (p : Packet) (h : DWord), ArrivesHome s pkt p h (.read rid) → cellPoisoned s h.toNat = false →
    ∃ t, exec (.counterRead pkt) s = .next t ∧ Answered s t p rid (cellGet s h.toNat) ∧ SameButSent (readCell s h.toNat) t ∧
      (∀ q ∈ othersThan s pkt, q ∈ t.packets)) ∧
  (∀ (s : State) (pkt : Nat) (p : Packet) (h : DWord) (op : CtrOp), Arrives s pkt p (.ctr h op) → fromPeer s p = true →
    localHandle s h.toNat = true → (hLevel h.toNat ≠ 4 ∨ badHandle s h.toNat ≠ none) →
    exec (match op with
      | .add _ => .counterAdd pkt
      | .addRet _ _ => .counterAddReturn pkt
      | .read _ => .counterRead pkt
      | .wait _ => .counterRegisterWait pkt
      | .withdraw _ _ => .counterWithdrawWait pkt
      | .set _ => .counterSet pkt) s = .next { s with packets := othersThan s pkt }) ∧
  (∀ (s : State) (pkt : Nat) (p : Packet) (h v : DWord), ArrivesHome s pkt p h (.set v) → SoundCells s →
    ∃ t, exec (.counterSet pkt) s = .next t ∧ CellMoved s t h.toNat v.toNat ∧ t.results = s.results ∧ cellPoisoned t h.toNat = false) ∧
  (∀ (s : State) (pkt : Nat) (p : Packet) (h : DWord) (w : Waiter), ArrivesHome s pkt p h (.wait w) → p.grp ≠ 2 ^ 64 →
    cellPoisoned s w.handle.toNat = false →
    let unit := homeUnit s w.handle.toNat
    let met := condMet (cellGet s w.handle.toNat) w.thresh.toNat = true ∧ Tested s w
    (met → ∃ t, exec (.counterRegisterWait pkt) s = .next t ∧ Woken s t w ∧ SameButSent (lookedFor (readCell s w.handle.toNat) w) t ∧
        (∀ q ∈ othersThan s pkt, q ∈ t.packets)) ∧
    (¬met → localHandle s w.handle.toNat = false ∨ ((waitersAt s unit).filter fun x => !x.spilled).length < homeCap (unit % 512) →
      exec (.counterRegisterWait pkt) s =
        .next { lookedFor (readCell s w.handle.toNat) w with packets := othersThan s pkt, waiters := s.waiters ++ [w] }) ∧
    (¬met →
      homeCap (unit % 512) ≤ ((waitersAt s unit).filter fun x => !x.spilled).length → localHandle s w.handle.toNat = true →
      ((waitersAt s unit).filter (·.spilled)).length < 2 ^ getField s (unit / 512) 0x518 4 0 →
      ∃ t, exec (.counterRegisterWait pkt) s = .next t ∧ t.waiters = s.waiters ++ [{ w with spilled := true }] ∧ t.packets = othersThan s pkt ∧
        t.cells = s.cells ∧ t.threads = (lookedFor s w).threads ∧ t.flocks = s.flocks ∧
        (∀ a, a < spillAt s unit ∨ spillAt s unit + 32 * (spilledAt s unit + 1) ≤ a → memByte t a = memByte s a) ∧
        (Memory.wf s.mem = true → memBytes t (spillAt s unit + 32 * spilledAt s unit) 32 = waiterBytes w))) ∧
  (∀ (s : State) (pkt k u : Nat) (p : Packet) (h : DWord), ArrivesHome s pkt p h (.withdraw k u) →
    let gone : Waiter → Bool := fun w =>
      w.kind == k && w.uid == u && w.module == (senderEnd s p).1 && homeUnit s w.handle.toNat == homeUnit s h.toNat
    ∃ t, exec (.counterWithdrawWait pkt) s = .next t ∧ t.packets = othersThan s pkt ∧ t.threads = s.threads ∧ t.flocks = s.flocks ∧ KeepsButSpill s t ∧
      (∀ w ∈ t.waiters, gone w = false) ∧ (∀ w ∈ s.waiters, gone w = false → ∃ x ∈ t.waiters, { x with spilled := w.spilled } = w) ∧
      (Unspilled s → { t with poison := s.poison, flips := s.flips } =
        { s with packets := othersThan s pkt, waiters := s.waiters.filter fun w => !gone w }))

/-- 03 R67, R68, 12 R282 to R286, 09 R203: what a home sends back reaches its core. A response fills its result; the wake of a `cwt` ends its wait, with the
acquire at its effective scope; the wake that ends a `cwait` writes the mask of the conditions that hold, tagged N32; a wake at the launcher or at a
graph's engine is kept there; and at its deadline a `cwait` ends with bit 4 set where its conditions do not hold, but not while its job is halted. -/
def Obligations.CounterCoreEvents : Prop :=
  (∀ (s : State) (pkt rid : Nat) (v : DWord) (p : Packet) (r : Result), Arrives s pkt p (.ctrResp rid v false) → rid < 2 ^ 64 →
    (s.results.find? fun q => q.id == rid) = some r →
    exec (.counterResponse pkt) s = .next { s with packets := othersThan s pkt, results := s.results.map (filled rid (natLe 8 v.toNat)) }) ∧
  (∀ (s : State) (pkt sc : Nat) (w : Waiter) (c : Cond) (p : Packet) (t : Thread), Arrives s pkt p (.wake w) → w.kind = 0 →
    findThread s w.uid = some t → heldBack s t = false → t.wait = .cwt sc c → c = ⟨w.handle, w.thresh⟩ →
    exec (.counterWake pkt) s = .next (modThread (acquire (dropPacket s pkt) t.core (effScope s t.core sc c.handle.toNat)) t.uid
      fun t => { t with wait := .none, age := s.cycle + 1 })) ∧
  (∀ (s : State) (pkt sc dest df mask : Nat) (all : Bool) (dl : Option Nat) (cs : List Cond) (w : Waiter) (p : Packet) (t : Thread),
    Arrives s pkt p (.wake w) → w.kind = 1 → findThread s w.uid = some t → heldBack s t = false → t.wait = .cwait sc false all dl dest df cs mask →
    (∀ d, dl = some d → ftimeRun s (dieOf t.core) ≤ d) → holdsSlot s t = true → cs[w.cond]? = some ⟨w.handle, w.thresh⟩ → cwaitHolds all cs.length (mask ||| 2 ^ w.cond) = true → (∀ q ∈ othersThan s pkt, ∀ x, q.body = .wake x → x.kind = 1 → x.uid ≠ t.uid) →
    mapWf rawZero t.regs = true →
    ∃ y x, exec (.counterWake pkt) s = .next y ∧ findThread y t.uid = some x ∧ x.wait = .none ∧ x.pc = t.pc ∧
      getIdx x dest = ⟨BitVec.ofNat 32 (mask ||| 2 ^ w.cond), 2#4⟩ ∧ (∀ j, j ≠ dest → getIdx x j = getIdx t j) ∧ KeepsMemory s y) ∧
  (∀ (s : State) (pkt : Nat) (w : Waiter) (p : Packet), Arrives s pkt p (.wake w) → w.kind = 2 → jobHeld s (dieOf w.unit) w.job = false →
    exec (.counterWake pkt) s = .next { s with
      packets := othersThan s pkt
      lqs := s.lqs.map fun y => if y.wid = some w.uid then { y with mask := y.mask ||| 2 ^ w.cond } else y }) ∧
  (∀ (s : State) (pkt : Nat) (w : Waiter) (p : Packet) (r : Replay), Arrives s pkt p (.wake w) → w.kind = 4 → jobHeld s (dieOf w.unit) w.job = false →
    replayOn s (dieOf w.unit) = some r → w.uid = 4096 * r.op + w.tag → nthD .done r.nodes w.tag = .asked →
    exec (.counterWake pkt) s = .next (setNode (dropPacket s pkt) r w.tag .ready)) ∧
  (∀ (s : State) (sc dl dest df mask : Nat) (all : Bool) (cs : List Cond) (t : Thread), findThread s t.uid = some t →
    jobHeld s (dieOf t.core) t.job = true → t.wait = .cwait sc false all (some dl) dest df cs mask → exec (.cwaitDeadline t.uid) s = .next s) ∧
  (∀ (s : State) (sc dl dest df mask : Nat) (all : Bool) (cs : List Cond) (t : Thread), findThread s t.uid = some t →
    jobHeld s (dieOf t.core) t.job = false →
    t.wait = .cwait sc false all (some dl) dest df cs mask → dl ≤ ftimeRun s (dieOf t.core) → holdsSlot s t = true → mapWf rawZero t.regs = true →
    ∃ y x, exec (.cwaitDeadline t.uid) s = .next y ∧ findThread y t.uid = some x ∧ x.wait = .none ∧ x.pc = t.pc ∧
      getIdx x dest = ⟨BitVec.ofNat 32 (mask + if cwaitHolds all cs.length mask = true then 0 else 16), 2#4⟩ ∧
      (∀ j, j ≠ dest → getIdx x j = getIdx t j) ∧ KeepsMemory s y ∧
      (∀ c < cs.length, bit mask c = false → ∃ q ∈ y.packets, q.body = .ctr (nthD ⟨0#64, 0#64⟩ cs c).handle (.withdraw 1 t.uid)))

/-- 03 R74, R75, R69, 00 R7: the counter aperture. A host's write of ADD or FADD adds, FADD keeps the value before in LAST; VALUE reads the counter, and
all ones where the handle is malformed; an operation on a counter of another module goes there, and what comes back of it is LAST or what the host
reads; HANDLE, LAST and FIRED read as they stand, and the write-only registers as 0; ARM registers a wait of kind 6;
and its wake sets FIRED and sends MSI-X vector w. -/
def Obligations.ApertureEvents : Prop :=
  (∀ (s : State) (port w : Nat) (v : DWord), let h := (windowOf s port w).handle.toNat
    apertureStop s port w true true = none → postedPending s port = false → v.toNat < 2 ^ 32 → badHandle s h = none → cellPoisoned s h = false →
    localHandle s h = true → SoundCells s →
    (∃ t, exec (.apertureAdd port w v) s = .next t ∧ CellMoved s t h ((cellGet s h + v.toNat) % 2 ^ 64) ∧ t.windows = s.windows) ∧
    (∃ t, exec (.apertureFadd port w v) s = .next t ∧ CellMoved s t h ((cellGet s h + v.toNat) % 2 ^ 64) ∧
      (windowOf t port w).last = BitVec.ofNat 64 (cellGet s h) ∧ (windowOf t port w).handle = (windowOf s port w).handle)) ∧
  (∀ (s : State) (port w : Nat), let h := (windowOf s port w).handle.toNat
    apertureStop s port w false true = none →
    (badHandle s h = none → cellPoisoned s h = false → localHandle s h = true →
      exec (.apertureValueRead port w) s = .next { readCell s h with hostOut := .readData port (BitVec.ofNat 64 (cellGet s h)) :: s.hostOut }) ∧
    (badHandle s h ≠ none →
      exec (.apertureValueRead port w) s = .next { s with hostOut := .readData port (BitVec.allOnes 64) :: s.hostOut })) ∧
  (∀ (s : State) (port w : Nat) (v : DWord), let h := (windowOf s port w).handle
    badHandle s h.toNat = none → localHandle s h.toNat = false →
    (apertureStop s port w true true = none → postedPending s port = false → v.toNat < 2 ^ 32 →
      (∃ q, exec (.apertureAdd port w v) s = .next { s with packets := s.packets ++ [q], fresh := s.fresh + 1 } ∧ q.dst = homeUnit s h.toNat ∧
        q.body = .ctr h (.add v.toNat)) ∧
      ∃ q, exec (.apertureFadd port w v) s = .next { s with packets := s.packets ++ [q], fresh := s.fresh + 1 } ∧ q.dst = homeUnit s h.toNat ∧
        q.body = .ctr h (.addRet v.toNat (2 ^ 64 + 256 * port + w))) ∧
    (apertureStop s port w false true = none →
      ∃ q, exec (.apertureValueRead port w) s = .next { s with packets := s.packets ++ [q], fresh := s.fresh + 1 } ∧ q.dst = homeUnit s h.toNat ∧
        q.body = .ctr h (.read (2 ^ 64 + 512 + 256 * port + w)))) ∧
  (∀ (s : State) (pkt port w : Nat) (v : DWord) (p : Packet), port < 2 → w < 256 →
    (Arrives s pkt p (.ctrResp (2 ^ 64 + 256 * port + w) v false) →
      ∃ t, exec (.counterResponse pkt) s = .next t ∧ (windowOf t port w).last = v ∧ (windowOf t port w).handle = (windowOf s port w).handle ∧
        { t with packets := s.packets, windows := s.windows } = s) ∧
    (Arrives s pkt p (.ctrResp (2 ^ 64 + 512 + 256 * port + w) v false) →
      exec (.counterResponse pkt) s = .next { s with packets := othersThan s pkt, hostOut := .readData port v :: s.hostOut })) ∧
  (∀ (s : State) (port w k v : Nat), port < 2 → w < 256 → apertureStop s port w false false = none →
    (k, v) ∈ [(0x00, (windowOf s port w).handle.toNat), (0x08, 0), (0x10, 0), (0x18, (windowOf s port w).last.toNat), (0x28, 0),
      (0x30, if (windowOf s port w).fired = true then 1 else 0), (0x38, 0)] →
    hostRead port 2 (64 * w + k) s = { s with hostOut := .readData port (BitVec.ofNat 64 v) :: s.hostOut }) ∧
  (∀ (s : State) (port w : Nat) (v : DWord), let h := (windowOf s port w).handle
    apertureStop s port w true true = none → badHandle s h.toNat = none →
    ∃ q k, exec (.apertureArm port w v) s = .next { s with packets := s.packets ++ [q], fresh := s.fresh + 1 } ∧ q.dst = homeUnit s h.toNat ∧
      q.body = .ctr h (.wait k) ∧ k.kind = 6 ∧ k.thresh = v ∧ k.handle = h ∧ k.tag = w ∧ k.lane = port) ∧
  (∀ (s : State) (pkt : Nat) (p : Packet) (w : Waiter), Arrives s pkt p (.wake w) → w.kind = 6 →
    ∃ t, exec (.apertureFired pkt) s = .next t ∧ (windowOf t w.lane w.tag).fired = true ∧
      (windowOf t w.lane w.tag).last = (windowOf s w.lane w.tag).last ∧ t.packets = othersThan s pkt ∧ KeepsMemory s t ∧ t.threads = s.threads ∧
      (w.lane ∉ s.portDown → dieOn s (portDie w.lane) = true → 512 * w.lane + w.tag ∈ s.msixOpen → t.hostOut = .msix w.lane w.tag :: s.hostOut))

/-- 05 R107, R108, R114, R116, R118, R122, 12 R277, 19 R392: a write changes exactly its bytes at its home, or the registers it names, and leaves poison
and a record where its bytes are poisoned; a read answers with the bytes there, which an engine or a result takes; a reduction replaces its operand by its result; a deterministic contribution whose partner has not come is held in its buffer's place; each is
acknowledged. Every other byte of memory reads as before. -/
def Obligations.MemoryHomeEvents : Prop :=
  (∀ (s : State) (pkt k : Nat) (p : Packet) (b : Byte) (bs : List (Nat × Byte)) (c : Option Nat), Arrives s pkt p (.write ((k, b) :: bs) c) →
    mgmtOff k = none → reachable s k = true → Memory.wf s.mem = true →
    (p.bad = [] →
      ∃ t, exec (.writeApply pkt) s = .next t ∧ (∀ a, memByte t a = byteAfter s ((k, b) :: bs) a) ∧ KeepsAllButMemory (looked s p) t ∧ Acked s t p) ∧
    (∀ a r, p.bad = a :: r →
      ∃ t, (∀ a, memByte t a = byteAfter s ((k, b) :: bs) a) ∧ KeepsAllButMemory (looked s p) t ∧ Acked s t p ∧
        exec (.writeApply pkt) s = .next (raiseAsync { t with poison := t.poison ++ (a :: r).map Place.hbm } 7 Config.class7Code.toNat p.job
          (unitEnd s p.dst).2 127 0 a none 0 0))) ∧
  (∀ (s : State) (pkt k : Nat) (p : Packet) (b : Byte) (bs : List (Nat × Byte)) (c : Option Nat), Arrives s pkt p (.write ((k, b) :: bs) c) →
    (mgmtOff k).isSome = true →
    exec (.writeApply pkt) s = .next (writeRegs (masterOf p) ((k, b) :: bs) (looked (acknowledge s p) p) (regsOf ((k, b) :: bs)))) ∧
  (∀ (s : State) (pkt pa n rid : Nat) (keep : Bool) (g : Option (Nat × DWord)) (p : Packet), Arrives s pkt p (.read pa n rid keep g) →
    mgmtOff pa = none → reachable s pa = true → memPoisoned s pa n = false →
    ∃ t l gl, exec (.readRequest pkt) s = .next t ∧ SameButSent (eccRead s (nearHbm pa n)) t ∧ (∀ q ∈ othersThan s pkt, q ∈ t.packets) ∧
      ∃ q ∈ (if fromPeer s p then t.peerOut else t.packets), SentBack s p q ∧ q.body = .readResp rid (memBytes s pa n) l gl false) ∧
  (∀ (s : State) (pkt rid : Nat) (bs : List Byte) (p : Packet) (r : Result), Arrives s pkt p (.readResp rid bs none none false) →
    p.eng = none → entryBad s rid = false → (s.results.find? fun q => q.id == rid) = some r →
    exec (.readResponse pkt) s = .next { s with packets := othersThan s pkt, results := s.results.map (filled rid bs) }) ∧
  (∀ (s : State) (pkt rid o : Nat) (bs : List Byte) (bad : Bool) (p : Packet), Arrives s pkt p (.readResp rid bs none none bad) → p.eng = some o →
    exec (.readResponse pkt) s = .next { looked s p with
      packets := othersThan s pkt
      engLines := s.engLines.map fun l => if l.rid = rid then { l with bytes := some bs, fail := if bad then some 8 else none } else l }) ∧
  (∀ (s : State) (pkt fn pa : Nat) (x : DWord) (p : Packet), Arrives s pkt p (.red fn pa x) → reachable s pa = true →
    memPoisoned s pa (redSize fn) = false → Memory.wf s.mem = true →
    ∃ t, exec (.reductionApply pkt) s = .next t ∧ KeepsAllButMemory (eccRead (looked s p) (nearHbm pa (redSize fn))) t ∧ Acked s t p ∧
      memNat t pa (redSize fn) = redResult fn (memNat s pa (redSize fn)) (x.toNat % 2 ^ (8 * redSize fn)) % 2 ^ (8 * redSize fn) ∧
      (∀ a, a < pa ∨ pa + redSize fn ≤ a → memByte t a = memByte s a)) ∧
  (∀ (s : State) (pkt pa va k i : Nat) (x : Word) (tag : BitVec 4) (job : Nat) (p : Packet), Arrives s pkt p (.redDet pa va k i x tag job) →
    pa < 2 ^ 48 →
    exec (.redDetContribution pkt) s = .next (detTake (eccRead (acknowledge s p) (nearHbm pa 64)) (pa / 2 ^ 44) pa k i x tag job)) ∧
  (∀ (s : State) (die pa k i place : Nat) (x : Word) (tag : BitVec 4) (job : Nat), let w := memNat s (pa + 8) 8
    let b : DetBuf := ⟨die, job, memNat s (pa + 24) 8 % 2 ^ 57⟩
    let op := w / 32 % 8
    let n := w % 32
    memPoisoned s pa 64 = false → op < 2 → n ≤ 20 → tag.toNat = 3 + op → k < n → i < 2 ^ (n - k) → detPages s b n = true →
    detOverlap s b n k i = false → heldAt s b ((i ^^^ 1) * 2 ^ k) k = false → detPlace s b (i * 2 ^ k) = some place →
    detTake s die pa k i x tag job = memWriteNat s place 8 (x.toNat + 2 ^ 32 + k * 2 ^ 33)) ∧
  (∀ (s : State) (pkt : Nat) (p : Packet), Arrives s pkt p .ack →
    exec (.acknowledgement pkt) s = .next { looked s p with packets := othersThan s pkt })

/-- 05 R106, R115, R116, 09 R203, 12 R279, 20 R399: stores of a core move on. The oldest store of a thread to local store changes exactly its bytes there;
write-combined bytes leave for their homes and no byte of memory has changed yet; a fence whose accesses have all happened ends, at cluster scope or
wider with the clean lines dropped. -/
def Obligations.StoreDrainEvents : Prop :=
  (∀ (s : State) (c k off : Nat) (bs : List Byte) (e : StoreEnt), c < 4096 → (s.fifo.find? fun x => x.uid == k) = some e → e.op = .locl off bs →
    storeHeld s e.core e.job k e.seq = false → mapWf 0#8 s.locl = true → off + bs.length ≤ 2 ^ 32 →
    ∃ t, exec (.wcDrain (c + 4096 * (k + 2))) s = .next t ∧ lsBytes t e.core off bs.length = bs ∧
      (∀ x o, x ≠ e.core ∨ o < off ∨ off + bs.length ≤ o → o < 2 ^ 32 → lsBytes t x o 1 = lsBytes s x o 1) ∧
      t.mem = s.mem ∧ t.cells = s.cells ∧ t.threads = s.threads ∧ t.fifo = s.fifo.filter fun x => x.seq ≠ e.seq) ∧
  (∀ (s : State) (c : Nat), c < 4096 →
    ∃ t, exec (.wcDrain (c + 4096)) s = .next t ∧ KeepsMemory s t ∧ t.threads = s.threads ∧ t.fifo = s.fifo ∧
      (∀ w ∈ t.wc, w ∈ s.wc ∧ (w.core = c → storeHeld s c w.job w.uid w.seq = true)) ∧ (∀ w ∈ s.wc, w.core ≠ c → w ∈ t.wc) ∧
      (∀ w ∈ s.wc, w.core = c → storeHeld s c w.job w.uid w.seq = false → ∃ q ∈ t.packets, ∃ bs, q.body = .write bs none ∧ (w.pa, w.val) ∈ bs)) ∧
  (∀ (s : State) (c : Nat), c < 4096 →
    exec (.wcDrain c) s = .next (flushWc (enterAll s (s.fifo.filter fun e => e.core == c && !storeHeld s c e.job e.uid e.seq)) c)) ∧
  (∀ (s : State) (u sc seq : Nat) (t : Thread), findThread s u = some t → t.wait = .fence sc seq → waitHeld s t = false →
    quiet s t.core u seq sc = true → failedWithin s t sc = [] →
    (sc < 2 → exec (.fenceComplete u) s = .next (modThread s u fun t => { t with wait := .none, age := s.cycle + 1 })) ∧
    (2 ≤ sc → exec (.fenceComplete u) s =
      .next (modThread (dropClean s t.core) u fun t => { t with wait := .none, age := s.cycle + 1 }))) ∧
  (∀ (s : State) (u seq : Nat) (t : Thread), findThread s u = some t → t.wait = .before seq → waitHeld s t = false → quiet s t.core u seq 2 = true →
    exec (.fenceComplete u) s = .next (modThread s u fun t => { t with wait := .none, age := s.cycle + 1 }))

namespace Sys2Proof.Claims

open Sys2Proof.Machine Sys2Proof.Safety

/-! ### Steps of other agents: translation, sweeps, engines -/

/-- A sound counter of this module. -/
def SoundHere (s : State) (h : Nat) : Prop := badHandle s h = none ∧ cellPoisoned s h = false ∧ localHandle s h = true ∧ SoundCells s

/-- The invalidation that a write of DIE_TLBI_GO starts (05 R100). -/
def newTlbi (s : State) (d : Nat) : Tlbi where
  die := d
  job := getField s d 0x608 15 0
  all := bit (getReg s d 0x608) 21
  va := getReg s d 0x600
  log2 := getField s d 0x608 20 16
  handle := BitVec.ofNat 64 (getReg s d 0x610)
  before := s.fresh

/-- The threads that waited for a page request are trapped, and wait no longer. -/
def Trapped (s t : State) (req : Nat) : Prop :=
  ∀ x ∈ s.threads, x.wait = .page req → ∃ y ∈ t.threads, y.uid = x.uid ∧ y.trapped = true ∧ y.wait = .none ∧ y.pc = x.pc

/-- No page request of a port waits for one of the 512 to end. -/
def NoneQueued (s : State) (port : Nat) : Prop := ∀ q ∈ s.pageReqs, q.port = port → q.queued = false

/-- The threads that wait on a `tfree` go on past the word. -/
def tfreePassed (s : State) (pc : VAddr) (g : List Nat) (sbit : Bool) : State :=
  { s with threads := s.threads.map fun t => if t.uid ∈ g then
      { t with
        wait := .none, pc := pc + 4#57, parked := sbit && s.results.any fun r => has r.uids t.uid, region := if sbit then [] else t.region
        age := s.cycle + 1, last := s.cycle + 1, aged := false } else t }

/-- A tensor once its sweep has started (04 R87): SWEEPS counts it, ACTIVE is set, CURSOR is 0 and TSTART is the field time. -/
def startedTensor (s : State) (tn : Tensor) : Tensor :=
  { tn with sweeps := tn.sweeps + 1#32, active := true, cursor := 0, tstart := BitVec.ofNat 64 (ftime s (dieOf tn.core)) }

/-- A bound tensor's fields and its record are changed. -/
def recorded (s : State) (tn : Tensor) : State := writeTensorRecord (setTensor s tn) tn

/-- The threads of a sweep flock at its start (04 R88): 32 routine threads, one in each lane, which wait for their first visit. -/
def routineThread (s : State) (w : SweepOp) (tn : Tensor) (idx l : Nat) : Thread :=
  { Thread.blank with
    uid := s.fresh + l, core := w.core, lane := l, job := w.job, flock := idx, pc := BitVec.ofNat 57 tn.routine, alloc := 32 * tn.regs
    segG := w.segG, segL := w.segL, segC := w.segC, tnum := Config.freeWord (s.free + l), wait := .idle, role := .sweep w.slot (2 ^ 32 - 1)
    launch := w.launch }

/-- A sweep has started: its flock is at the back of its core's waiting set. -/
def sweepBegun (s : State) (w : SweepOp) (tn : Tensor) : State :=
  let y := dropClean (recorded s (startedTensor s tn)) w.core
  let idx := freeIndex y w.core
  { y with
    fresh := y.fresh + 32
    free := y.free + 32
    sweeps := y.sweeps.map fun q => if q.id = w.id then { q with started := true, num := tn.sweeps.toNat, flock := idx, open_ := none } else q
    flocks := y.flocks ++ [{ Flock.blank with core := w.core, idx := idx, job := w.job, prio := tn.prio, sweep := some w.slot, resident := false }]
    threads := y.threads ++ (upFrom 0 32).map (routineThread y w tn idx)
    waitset := y.waitset ++ [(w.core, idx)] }

/-- A copy has left its unit: threads that wait for room there look again. -/
def copyLeft (s : State) (o : CopyOp) : State :=
  wakeRoom { s with
    copies := s.copies.filter fun q => q.id ≠ o.id
    engLines := s.engLines.filter fun l => l.op ≠ o.id
    engFails := s.engFails.filter fun l => l.op ≠ o.id } (fun t => t.core == o.core) .copy

/-- Matrix formats without scales or side records whose elements are floating-point. -/
def PlainFloat (f : Nat) : Prop := f = 0 ∨ f = 1 ∨ f = 2 ∨ f = 3

/-- The sweep at the head of a core's queue, its slot's tensor, and its job not halted there. -/
def Sweeping (s : State) (core : Nat) (w : SweepOp) (tn : Tensor) : Prop :=
  headSweep s core = some w ∧ tensorAt s core w.slot = some tn ∧ coreHeld s core w.job w.uid w.id = false

end Sys2Proof.Claims

/-- 05 R100 to R102, 19 R381: DIE_TLBI_GO sends the invalidation to every other enabled die; the last one's arrival, or the write itself on a module of one
die, removes the translations it covers; when what used them is over, 1 is added to DONE. The host's reply completes the accesses that wait, or
asks for the page; an invalidation by the host drops the port's entries and is answered when what used them is over; a page request that is answered in
time asks again, and one that is not traps its threads. That a first reply which shows a page present and not writable asks for the page is the model's
choice (log entry 26). -/
def Obligations.TranslationEvents : Prop :=
  (∀ (s : State) (m die : Nat) (v : DWord), mgmtStop s m die 0x618 true = none → bit v.toNat 0 = true →
    ∃ t, exec (.tlbiGo m die v) s = .next t ∧
      t.packets.map (fun p => (p.dst, p.body)) = s.packets.map (fun p => (p.dst, p.body)) ++
        ((diesOn s).filter (· ≠ die)).map (fun e => (512 * e + 298, .tlbi (newTlbi s die).job (newTlbi s die).all (newTlbi s die).va (newTlbi s die).log2)) ∧
      t.tlbis.length = s.tlbis.length + 1 ∧
      ((diesOn s).filter (· ≠ die) = [] → s.packets.any (ofTlbi (newTlbi s die)) = false → ∀ e ∈ t.tlb, (newTlbi s die).covers e = false) ∧
      t.threads = s.threads ∧ t.mem = s.mem ∧ t.mregs = s.mregs) ∧
  (∀ (s : State) (pkt job va log2 : Nat) (all : Bool) (p : Packet) (x : Tlbi), Arrives s pkt p (.tlbi job all va log2) →
    (s.tlbis.find? fun t => ofTlbi t p) = some x → (othersThan s pkt).any (ofTlbi x) = false →
    ∃ t, exec (.managementPacket pkt) s = .next t ∧ t.tlb = s.tlb.filter (fun e => !x.covers e) ∧ t.packets = othersThan s pkt ∧
      t.threads = s.threads ∧ t.mem = s.mem ∧ t.mregs = s.mregs) ∧
  (∀ (s : State) (pkt kind num die : Nat) (p : Packet), Arrives s pkt p (.capChange kind num die) →
    exec (.managementPacket pkt) s = .next (unitRecord (dropPacket s pkt) (p.dst / 512) kind num die)) ∧
  (∀ (s : State) (die : Nat) (x : Tlbi), (s.tlbis.find? fun t => t.die == die && !tlbiWaits s t) = some x → SoundHere s x.handle.toNat →
    hDie x.handle.toNat = die →
    ∃ t, exec (.tlbiComplete die) s = .next t ∧ t.tlbis = s.tlbis.erase x ∧ CellMoved s t x.handle.toNat ((cellGet s x.handle.toNat + 1) % 2 ^ 64)) ∧
  (∀ (s : State) (port req bus : Nat) (w : Bool) (r : PageReq), findReq s port req false = some r → (w = true ∨ r.write = false) →
    r.cells = [] → NoneQueued s port →
    ∃ t, exec (.atsTranslationCompletion port req 0 true w bus) s = .next t ∧ t.atc.head? = some ⟨port, r.pasid, r.page, bus, w⟩ ∧
      t.pageReqs = s.pageReqs.filter (fun q => q.id ≠ req) ∧
      t.threads = s.threads.map (fun x => if x.wait = .page req ∨ x.wait = .page 0 then { x with wait := .none, age := s.cycle + 1 } else x) ∧
      t.mem = s.mem ∧ t.mregs = s.mregs) ∧
  (∀ (s : State) (port req bus h : Nat) (r : PageReq), let a := getReg s (hDie h) 0x528 + 8 * hIndex h
    findReq s port req false = some r → r.cells = [h] → r.pref = [] → hLevel h = 5 → h ∉ s.shadowOff → port = (if hDie h = 0 then 0 else 1) →
    r.pasid = noPasid → r.page = a / 4096 → port ∉ s.portDown →
    ∃ t, exec (.atsTranslationCompletion port req 0 true true bus) s = .next t ∧
      t.hostOut.head? = some (.shadow port (bus * 4096 + a % 4096) (BitVec.ofNat 64 (cellGet s h))) ∧ t.mem = s.mem ∧ t.cells = s.cells) ∧
  (∀ (s : State) (port req bus : Nat) (present w : Bool) (r : PageReq), findReq s port req false = some r → r.retried = false → r.real = true →
    (present = false ∨ (w = false ∧ r.write = true)) →
    ((s.pageReqs.filter fun q => q.port == port && q.asked).length < 512 →
      exec (.atsTranslationCompletion port req 0 present w bus) s = .next { s with
        pageReqs := s.pageReqs.map fun q => if q.id = req then
          { q with
            asked := true, queued := false, deadline := ftime s (portDie port) + getField s (portDie port) 0x820 15 0 * 1000000, pref := [] } else q
        hostOut := .pageRequest port r.pasid r.page r.write :: s.hostOut }) ∧
    (512 ≤ (s.pageReqs.filter fun q => q.port == port && q.asked).length →
      exec (.atsTranslationCompletion port req 0 present w bus) s = .next { s with
        pageReqs := s.pageReqs.map fun q => if q.id = req then { q with queued := true, pref := [] } else q })) ∧
  (∀ (s : State) (port pasid va pages : Nat), port < 2 → port ∉ s.portDown →
    exec (.atsInvalidationRequest port pasid va pages) s = .next { s with
      atc := s.atc.filter fun e => !(e.port == port && e.pasid == pasid && va / 4096 ≤ e.page && e.page < va / 4096 + pages)
      atsInvs := s.atsInvs ++ [⟨s.fresh, port, if allAsked s port pasid (va / 4096) pages then 0 else s.fresh⟩]
      fresh := s.fresh + 1 }) ∧
  (∀ (s : State) (port pasid page : Nat), allAsked s port pasid page 1 = true ↔
    (∀ e ∈ s.atc, e.port = port → e.pasid = pasid → e.page ≠ page) ∧
      ∃ q ∈ s.pageReqs, q.port = port ∧ q.pasid = pasid ∧ q.page = page ∧ q.asked = true) ∧
  (∀ (s : State) (port n : Nat) (a : AtsInv), (s.atsInvs.find? fun a => a.port == port && a.id == n) = some a → hostAccessBefore s port a.before = false →
    exec (.invalidationCompletion port n) s = .next { s with atsInvs := s.atsInvs.erase a, hostOut := .invalCompletion port n :: s.hostOut }) ∧
  (∀ (s : State) (port req : Nat) (r : PageReq), findReq s port req true = some r → ftime s (portDie port) ≤ r.deadline → NoneQueued s port →
    exec (.pageRequestResponse port req 0) s = .next { s with
      pageReqs := s.pageReqs.map fun q => if q.id = req then { q with asked := false, retried := true } else q
      hostOut := .atsRequest port r.pasid r.page r.write :: s.hostOut }) ∧
  (∀ (s : State) (port req k : Nat) (r : PageReq), findReq s port req true = some r → r.deadline < ftime s (portDie port) →
    exec (.pageRequestResponse port req k) s = .next s) ∧
  (∀ (s : State) (port req : Nat) (r : PageReq), findReq s port req true = some r → r.deadline ≤ ftime s (portDie port) →
    ∃ t, exec (.pageRequestTimeout port req) s = .next t ∧ Trapped s t req)

/-- 05 R105, 04 R85 to R92, 13 R326, 12 R296, 19 R391: a `carve` that adds local store ends when what was stored before it has drained, with the new ways'
bytes 0; a `tfree` ends, and its threads go on, when no sweep of its slot is left; a sweep starts, which SWEEPS, ACTIVE, CURSOR, TSTART and the record
say, and its flock of 32 routine threads waits; it opens its next group; when every visit of a group has ended, what each yielded is written back, its
SLEEP bits set and its waits sent, and when all is in place CURSOR advances, and the next group opens or the sweep ends, ACTIVE clear, and adds its
amount; a counter's wake sets its element's bit in the word that takes wakes. That a sweep whose flock does not fit has started is the model's choice (log
entry 109). -/
def Obligations.SweepEvents : Prop :=
  (∀ (s : State) (core n d q : Nat) (t0 : Thread), t0.core = core → t0.wait = .carve n d q → n ≠ 0 → wcLeft s core q = false →
    (s.threads.filter fun t => t.core == core && (match t.wait with | .carve k _ _ => k ≠ 0 | _ => false)) = [t0] →
    mapWf 0#8 s.locl = true →
    ∃ t, exec (.carveGrowComplete core) s = .next t ∧ t.carve = (setWays s core n).carve ∧
      (∀ x ∈ t.threads, x.core = core → x.wait ≠ .carve 0 0 0 ∧ ∀ k e y, x.wait = .carve k e y → k = 0) ∧ (∀ l ∈ t.clean, l.core ≠ core) ∧
      (findThread s t0.uid = some t0 → holdsSlot s t0 = true → mapWf rawZero t0.regs = true →
        ∃ x, findThread t t0.uid = some x ∧ x.wait = .none ∧ x.pc = t0.pc ∧ getIdx x (t0.wb + d) = ⟨0#32, 2#4⟩) ∧
      (∀ off, off < lsSize s core → lsBytes t core off 1 = lsBytes s core off 1) ∧
      (∀ off, lsSize s core ≤ off → off < 2 ^ 32 → lsBytes t core off 1 = [0#8]) ∧ t.mem = s.mem ∧ t.cells = s.cells) ∧
  (∀ (s : State) (u bind : Nat) (sbit : Bool) (t : Thread), findThread s u = some t → t.wait = .tfree bind sbit → waitHeld s t = false →
    (∀ tn, (s.tensors.find? fun x => x.core == t.core && x.bind == bind) = some tn → slotBusy s tn = false →
      exec (.tfreeComplete u) s = .next (tfreePassed (freeTensor s tn) t.pc (tfreeGroup s t) sbit) ∧ tensorAt (freeTensor s tn) tn.core tn.slot = none) ∧
    ((s.tensors.find? fun x => x.core == t.core && x.bind == bind) = none →
      exec (.tfreeComplete u) s = .next (tfreePassed s t.pc (tfreeGroup s t) sbit))) ∧
  (∀ (s : State) (core : Nat) (w : SweepOp) (tn : Tensor), Sweeping s core w tn → tn.core = core → w.core = core →
    (w.started = false → engineWaits s core w.uid w.id = false → entryBad s w.id = false →
      exec (.sweepStart core) s = .next (admitFront (sweepBegun s w tn) core) ∧ tensorAt (sweepBegun s w tn) core w.slot = some (startedTensor s tn)) ∧
    (w.started = true → w.open_ = none → mayOpen s w = true → exec (.sweepStart core) s = .next (openGroup s w tn))) ∧
  (∀ (s : State) (tn : Tensor), mapWf 0#8 s.locl = true → tn.recAt + 64 ≤ 2 ^ 32 → tn.slot < 8 →
    let t := writeTensorRecord s tn
    lsNat t tn.core (tn.recAt + 0x28) 4 = tn.sweeps.toNat ∧ lsNat t tn.core (tn.recAt + 0x30) 8 = tn.tstart.toNat ∧
      lsNat t tn.core (tn.recAt + 0x2C) 4 = tn.cursor % 16384 + (if tn.active then 16384 else 0) ∧
      bits (lsNat t tn.core (tn.recAt + 0x18) 8) 21 19 = tn.slot ∧
      (∀ c o, c ≠ tn.core ∨ o < tn.recAt + 0x18 ∨ (tn.recAt + 0x20 ≤ o ∧ o < tn.recAt + 0x28) ∨ tn.recAt + 0x38 ≤ o → o < 2 ^ 32 →
        lsBytes t c o 1 = lsBytes s c o 1)) ∧
  (∀ (s s1 s2 s3 s4 : State) (w : SweepOp) (tn : Tensor) (fb : List Byte) (vs : List Visitor) (rs : List (Nat × List (Nat × Nat) × List Byte))
      (visits : List Visit),
    let sleep := leNat (fb.take 4) &&& (2 ^ 32 - 1 - leNat ((fb.drop (4 * (1 + w.num % 2))).take 4))
    wakesDue s w tn = false → engRead s (dieOf w.core) w.job w.id (tn.fallow + 16 * tn.cursor) 16 = (s1, .ok fb) →
    lookAll s1 w.id tn ((upFrom (32 * tn.cursor) 32).filter fun e => e < tn.count && !bit sleep (e % 32)) [] = (s2, .ok vs) →
    runPlaces s2 (dieOf w.core) w.job w.id [(tn.fallow + 16 * tn.cursor, natLe 4 (sleep ||| badBits vs)),
      (tn.fallow + 16 * tn.cursor + 4 * (1 + w.num % 2), natLe 4 0)] [] = (s3, .ok rs) →
    beginVisits w tn (putRuns w.core w.job w.id { s3 with engLines := s3.engLines.filter fun l => l.op ≠ w.id } rs) vs [] = (s4, visits) →
    openGroup s w tn = { s4 with sweeps := s4.sweeps.map fun q => if q.id = w.id then { q with open_ := some visits } else q }) ∧
  (∀ (s : State) (core : Nat) (w : SweepOp) (tn : Tensor) (vs : List Visit), Sweeping s core w tn → w.open_ = some vs →
    (∀ v ∈ vs, v.yielded.isSome = true) → exec (.sweepGroupWriteback core) s = .next (closeGroup s w tn vs)) ∧
  (∀ (s s1 s2 : State) (w : SweepOp) (tn : Tensor) (vs : List Visit) (fk n : Nat) (r : List (Nat × Nat)) (ends : List Placed), vs ≠ [] →
    engPlaces s (dieOf w.core) w.job w.id (pagePieces 2 (tn.fallow + 16 * tn.cursor) 4) [] = (s1, .ok ((fk, n) :: r)) →
    placesOf w s1 (vs.map (endOf s1 w tn)) [] = (s2, ends, .ok ()) →
    let y := putEnded w tn s2 ends
    let z := waitEnded tn (if sleepBits ends = 0 then y else sweepOr y w.core w.job w.id (tn.fallow + 16 * tn.cursor) fk (sleepBits ends)) ends
    closeGroup s w tn vs = endGroup { z with sweeps := z.sweeps.map fun q => if q.id = w.id then { q with open_ := some [] } else q } w tn) ∧
  (∀ (s : State) (w : SweepOp) (tn : Tensor) (v : Visit) (y : Word),
    let k := bits y.toNat 15 12
    let h := tn.handleOf (bits y.toNat 31 16)
    let val := leNat (v.bytes 4 1)
    let good := badHandle s h = none ∧ w.segC.base ≤ hIndex h ∧ hIndex h < w.segC.base + w.segC.limit
    (v.yielded = some none → endOf s w tn v = .invalid v.elem 6 0) ∧
    (v.yielded = some (some y) → 5 ≤ k → endOf s w tn v = .invalid v.elem 5 0) ∧
    (v.yielded = some (some y) → k = 1 → ¬good → endOf s w tn v = .invalid v.elem 5 h) ∧
    (v.yielded = some (some y) → k < 5 → (k = 1 → good) →
      endOf s w tn v = .write v.elem
        ((tn.dataAt v.elem, v.bytes 8 (tn.dataSize / 4)) ::
          (tn.ctxAt v.elem, natLe 8 (bits y.toNat 11 0 * 2 ^ 52 + k * 2 ^ 48 + bits y.toNat 31 16 * 2 ^ 32 + val)) ::
          (upFrom 0 tn.xctx).map fun j => (tn.extraAt v.elem j, v.bytes (12 + 2 * j) 2)) (k = 1 || k = 4) (if k = 1 then some (h, val) else none))) ∧
  (∀ (ends : List Placed) (l : Nat), l < 32 → (bit (sleepBits ends) l = true ↔
    ∃ p ∈ ends, (∃ e c a, p.1 = .invalid e c a ∧ e % 32 = l) ∨ ∃ e rs k, p.1 = .write e rs true k ∧ e % 32 = l)) ∧
  (∀ (s : State) (w : SweepOp) (tn : Tensor) (va k n : Nat) (bs : List Byte) (e : Nat) (rs : List (Nat × List Byte)) (z : Bool) (x : Option (Nat × Nat)),
    bs.length = n → 1 ≤ n → k % 128 + n ≤ 128 →
    ∃ q, (putEnded w tn s [(.write e rs z x, [(va, [(k, n)], bs)])]).packets = (unkeep (mergeClean s w.core k bs) w.core k n).packets ++ [q] ∧
      q.src = w.core ∧ q.dst = byteHome s k ∧ q.eng = some w.id ∧ q.body = .write (atKeys k bs) none) ∧
  (∀ (s : State) (w : SweepOp) (tn : Tensor), let t1 : Tensor := { tn with cursor := tn.cursor + 1 }
    let y := recorded { s with sweeps := s.sweeps.map fun q => if q.id = w.id then { q with open_ := none } else q } t1
    let w1 : SweepOp := { w with open_ := none }
    (engDone s w.id = .wait → endGroup s w tn = s) ∧
    (engDone s w.id = .ok () → tn.cursor + 1 < tn.groups → mayOpen y w1 = true → endGroup s w tn = openGroup y w1 t1) ∧
    (engDone s w.id = .ok () → tn.cursor + 1 < tn.groups → mayOpen y w1 = false → endGroup s w tn = y) ∧
    (engDone s w.id = .ok () → tn.groups ≤ tn.cursor + 1 → loadsBefore s w.uid w.id = false → bindBusy s tn.bind = false →
      endGroup s w tn = finishSweep y w1 t1)) ∧
  (∀ (s : State) (w : SweepOp) (tn : Tensor), tensorAt s tn.core tn.slot = some tn →
    ∃ y, finishSweep s w tn = freeLaunches (engineAdd y (dieOf w.core) (w.core % 128) w.job w.pc.toNat w.handle.toNat w.amount) ∧
      tensorAt y tn.core tn.slot = some { tn with active := false } ∧ y.sweeps = s.sweeps.filter (fun q => q.id ≠ w.id) ∧
      (∀ t ∈ y.threads, ¬(t.core = w.core ∧ t.flock = w.flock ∧ t.bin = none)) ∧ y.mem = s.mem ∧ y.cells = s.cells ∧ y.packets = s.packets) ∧
  (∀ (s s1 : State) (pkt k : Nat) (g : Option Nat) (p : Packet) (w : Waiter) (tn : Tensor), Arrives s pkt p (.wake w) → w.kind = 5 →
    jobHeld s (dieOf w.unit) w.job = false → (s.tensors.find? fun t => t.core == w.unit && t.bind == w.uid) = some tn →
    let e := w.tag % 8192 * 32 + w.lane
    let va := tn.fallow + 16 * (e / 32) + 4 * (1 + tn.sweeps.toNat % 2)
    engAt s (dieOf tn.core) tn.job tn.bind va true = (s1, .at k g) → pkt < s1.fresh →
    ∃ t, exec (.elementWake pkt) s = .next t ∧ (∃ q ∈ t.packets, q.dst = byteHome s1 k ∧ q.body = .red 13 k (BitVec.ofNat 64 (2 ^ (e % 32)))) ∧
      (∀ q ∈ t.packets, q.id ≠ pkt) ∧ (∀ l ∈ t.clean, ¬(l.core = tn.core ∧ l.pa = k / 128 * 128)) ∧ t.mem = s1.mem ∧ t.cells = s1.cells)

/-- 12 R289 to R291, 13 R299 to R303, 06 R138, R139, 07 R146, R154, R155, R162, R163, 13 R306, R307, 19 R389, 05 R119: the engines of a core and a cluster.
A copy reads its rows, sets them out, and adds its amount when their bytes are in place; where a row fails it stops, and its addition is withheld. The
matrix unit fetches A and B, computes each element of the tile's rows and writes them; a chunk's rows are counted when they are applied; a ray goes on by
popped entries, and when it ends its records are written and its amount is added when they are in place; a Harrow takes its beam, and takes up the
answers of its coverage threads. How many entries or pieces of work one step of a ray or a beam takes is the model's choice (1 + `Config.freeWord` mod
65536; log entries 2, 70, 71). -/
def Obligations.EngineEvents : Prop :=
  (∀ (s : State) (d core job pc h n : Nat), n < 2 ^ 32 →
    (SoundHere s h → hDie h = d → CellMoved s (engineAdd s d core job pc h n) h ((cellGet s h + n) % 2 ^ 64)) ∧
    (badHandle s h = none → (localHandle s h = false ∨ hDie h ≠ d) →
      ∃ q, engineAdd s d core job pc h n = { s with packets := s.packets ++ [q], fresh := s.fresh + 1 } ∧ q.dst = homeUnit s h ∧
        q.body = .ctr (BitVec.ofNat 64 h) (.add n))) ∧
  (∀ (s s1 : State) (op : Nat) (o : CopyOp) (rows : List Row), (s.copies.find? fun q => q.id == op) = some o → coreHeld s o.core o.job o.uid o.id = false →
    engineHolds s o.core o.uid o.id = false → o.stop = none →
    (o.rows ≤ o.done.length → o.pend = [] → engDone s op = .ok () →
      exec (.copyComplete op) s = .next (engineAdd (copyLeft s o) (dieOf o.core) (o.core % 128) o.job o.pc.toNat o.handle.toNat o.len)) ∧
    (o.done.length < o.rows → entryBad s op = false → copyWalk s o = (s1, ⟨rows, [], false⟩) →
      exec (.copyComplete op) s = .next (endCopy (setRows { s1 with engLines := s1.engLines.filter fun l => l.op ≠ op } o rows) op)) ∧
    (∀ f, o.done.length < o.rows → entryBad s op = false → copyWalk s o = (s1, ⟨[], [f], false⟩) →
      exec (.copyComplete op) s = .next (endCopy { s1 with
        engLines := s1.engLines.filter fun l => l.op ≠ op
        copies := s1.copies.map fun q => if q.id = op then { q with stop := some f } else q } op))) ∧
  (∀ (s : State) (op : Nat) (o : CopyOp) (f : Nat × Nat), (s.copies.find? fun q => q.id == op) = some o → o.pend = [] → o.stop = some f →
    engDone s op ≠ .wait →
    endCopy s op = raiseAsync (copyLeft s o) 6 1 o.job (dieOf o.core) (o.core % 128) o.pc.toNat f.1 (some (o.handle.toNat, o.len))
      (f.2 + (if o.expand then 16 else 0)) o.req) ∧
  (∀ (s : State) (op : Nat) (o : CopyOp) (c a : Nat) (bs : List Byte), (s.copies.find? fun q => q.id == op) = some o → o.pend = atKeys (lkey c a) bs →
    mapWf 0#8 s.locl = true → a + bs.length ≤ 2 ^ 32 →
    lsBytes (landPend s op fun _ => true) c a bs.length = bs ∧
    (∀ x off, x ≠ c ∨ off < a ∨ a + bs.length ≤ off → off < 2 ^ 32 → lsBytes (landPend s op fun _ => true) x off 1 = lsBytes s x off 1) ∧
    (∀ q ∈ (landPend s op fun _ => true).copies, q.id = op → q.pend = [])) ∧
  (∀ (s : State) (o : CopyOp) (r k n : Nat) (src : List (Nat × Nat)) (bs : List Byte), o.src = [] → o.dst = [] → bs.length = n →
    (o.sls ≠ o.dls ∨ src.all (fun p => !runsMeet p.1 p.2 k n) = true) →
    (o.dls = true → setRows s o [⟨r, [(k, n)], src, bs⟩] = { s with copies := s.copies.map fun q => if q.id = o.id then
      { q with done := q.done ++ [r], src := q.src ++ src, dst := q.dst ++ [(k, n)], pend := q.pend ++ atKeys k bs } else q }) ∧
    (o.dls = false → 1 ≤ n → k % 128 + n ≤ 128 →
      ∃ q, setRows s o [⟨r, [(k, n)], src, bs⟩] = { s with
          packets := s.packets ++ [q]
          fresh := s.fresh + 1
          copies := s.copies.map fun q => if q.id = o.id then { q with done := q.done ++ [r], src := q.src ++ src, dst := q.dst ++ [(k, n)] } else q } ∧
        q.dst = byteHome s k ∧ q.eng = some o.id ∧ q.body = .write (atKeys k bs) none)) ∧
  (∀ (s s1 s2 : State) (o : CopyOp) (len r at' : Nat) (w : CopyWalk) (bs : List Byte) (src dst : List (Nat × Nat)), has o.done r = false →
    o.expand = false → rowRead s o (o.saddr + r * o.sstride) len = (s1, .ok (bs, src)) → rowPlaces s1 o (o.daddr + r * o.dstride) len = (s2, .ok dst) →
    walkRow s o len r at' w = (s2, { w with rows := w.rows ++ [⟨r, dst, src, bs⟩] }, some at')) ∧
  (∀ (s s1 s2 s3 : State) (o : CopyOp) (len r at' : Nat) (w : CopyWalk) (bm vs : List Byte) (p1 p2 dst : List (Nat × Nat)),
    let nb := o.rowlen / 2 ^ o.esz / 8
    let n := ((bitsOfBytes bm).filter id).length * 2 ^ o.esz
    has o.done r = false → o.expand = true → rowRead s o at' nb = (s1, .ok (bm, p1)) → rowRead s1 o (at' + nb) n = (s2, .ok (vs, p2)) →
    rowPlaces s2 o (o.daddr + r * o.dstride) len = (s3, .ok dst) →
    walkRow s o len r at' w =
      (s3, { w with rows := w.rows ++ [⟨r, dst, p1 ++ p2, expandRow o.esz vs (bitsOfBytes bm)⟩] }, some (at' + (nb + n + 15) / 16 * 16))) ∧
  (∀ (esz j : Nat) (vs : List Byte) (bm : List Bool), vs.length = (bm.filter id).length * 2 ^ esz → j < bm.length →
    ((expandRow esz vs bm).drop (j * 2 ^ esz)).take (2 ^ esz) =
      if nthD false bm j then (vs.drop (((bm.take j).filter id).length * 2 ^ esz)).take (2 ^ esz) else List.replicate (2 ^ esz) 0#8) ∧
  (∀ (s s1 : State) (o : CopyOp) (len n r at' next : Nat) (w w1 : CopyWalk), has o.done r = false → walkRow s o len r at' w = (s1, w1, some next) →
    rowsOf o len s (n + 1) r at' w = rowsOf o len s1 n (r + 1) next w1) ∧
  (∀ (s s1 : State) (core : Nat) (o : MmaOp) (x : MmaIn) (rows : List (Nat × List Nat)) (fl : Flags), (s.mmas.find? fun q => q.core == core) = some o →
    (∀ r ∈ o.rows, engineWaits s core r.2.1 o.id = false) → (∃ r ∈ o.rows, coreHeld s core o.job r.2.1 o.id = false) → entryBad s o.id = false →
    mmaFetch s o = (s1, .ok x) → mmaRows s1 o x = .ok (rows, fl) →
    exec (.mmaComplete core) s = .next (mmaDone (putTileRows s1 o rows none) o fl)) ∧
  (∀ (s s1 s2 : State) (o : MmaOp) (a b : List (List Byte)), PlainFloat o.fmt ∨ o.fmt = 6 ∨ o.fmt = 8 →
    fetchEach (dieOf o.core) o.job o.id (mfmt o.fmt).aRow (failA o.tile) s (o.rows.map fun r => (r.1, r.2.2)) [] = (s1, .ok a) →
    fetchEach (dieOf o.core) o.job o.id (mfmt o.fmt).bRow (failB (mfmt o.fmt) o) s1
      ((upFrom 0 (mfmt o.fmt).k).map fun k => (k, o.baddr + k * o.ldb)) [] = (s2, .ok b) →
    mmaFetch s o = (s2, .ok ⟨a, b, [], [], [], []⟩)) ∧
  (∀ (die job op n r a : Nat) (bad : Nat → Nat → Nat → MmaFail) (s s1 : State) (q : List (Nat × Nat)) (acc : List (List Byte)) (bs : List Byte),
    engRead s die job op a n = (s1, .ok bs) →
    fetchEach die job op n bad s ((r, a) :: q) acc = fetchEach die job op n bad s1 q (acc ++ [bs])) ∧
  (∀ (s : State) (o : MmaOp) (x : MmaIn), o.fmt = 6 ∨ o.fmt = 8 → x.a.length = o.rows.length →
    ∃ rows fl, mmaRows s o x = .ok (rows, fl) ∧ rows.length = o.rows.length ∧
      ∀ j n, j < o.rows.length → n < 32 →
        let lane := (nthD (0, 0, 0) o.rows j).1
        let as := (elemsOf (mfmt o.fmt).aTag (mfmt o.fmt).k (nthD [] x.a j)).map fun c => (intElem (mfmt o.fmt).aTag c).1
        let bs := (colCodes (mfmt o.fmt) (x.b.map leNat) n).map fun c => (intElem (mfmt o.fmt).bTag c).1
        (nthD (0, []) rows j).1 = lane ∧ nthD 0 (nthD (0, []) rows j).2 n =
          patN 32 (signedN 32 (tileElem (tileOf (flockOf s o.core o.flock) o.tile) lane n).toNat + ((as.zip bs).map fun p => p.1 * p.2).sum)) ∧
  (∀ (s : State) (o : MmaOp) (x : MmaIn), PlainFloat o.fmt → x.a.length = o.rows.length → x.b.length = (mfmt o.fmt).k →
    ∃ rows fl, mmaRows s o x = .ok (rows, fl) ∧ rows.length = o.rows.length ∧
      ∀ j n, j < o.rows.length → n < 32 →
        let lane := (nthD (0, 0, 0) o.rows j).1
        let as := (elemsOf (mfmt o.fmt).aTag (mfmt o.fmt).k (nthD [] x.a j)).map (fdecode ((fmtOfTag (mfmt o.fmt).aTag).getD fmtF32))
        let bs := (colCodes (mfmt o.fmt) (x.b.map leNat) n).map (fdecode ((fmtOfTag (mfmt o.fmt).bTag).getD fmtF32))
        (nthD (0, []) rows j).1 = lane ∧ nthD 0 (nthD (0, []) rows j).2 n =
          (fencode fmtF32 (dot (fdecode fmtF32 (tileElem (tileOf (flockOf s o.core o.flock) o.tile) lane n).toNat) as bs).1 .rn false false).1) ∧
  (∀ (s : State) (id : Nat) (c : ChunkAdd), (s.chunks.find? fun q => q.id == id) = some c → chunkPending s id = false →
    (∃ u ∈ c.uids, coreHeld s c.core c.job u id = false) →
    (∀ u ∈ c.uids, quiet s c.core u id (effScope s c.core (levelScope c.handle.toNat) c.handle.toNat) = true) →
    (∀ u ∈ c.uids, ∀ t, findThread s u = some t → failedWithin s t (effScope s c.core (levelScope c.handle.toNat) c.handle.toNat) = []) →
    SoundHere s c.handle.toNat → hDie c.handle.toNat = dieOf c.core →
    ∃ t, exec (.mstChunkAdd id) s = .next t ∧ t.chunks = s.chunks.filter (fun q => q.id ≠ id) ∧
      CellMoved s t c.handle.toNat ((cellGet s c.handle.toNat + 1) % 2 ^ 64)) ∧
  (∀ (s : State) (id : Nat) (o : RayOp), (s.rays.find? fun q => q.id == id) = some o → coreHeld s o.core o.job o.uid o.id = false →
    threadAway s o.uid = false → engineHolds s o.core o.uid o.id = false →
    let n := 1 + (Config.freeWord s.free).toNat % 65536
    (o.st = none → exec (.rayComplete id) s = .next (startRay { s with free := s.free + 1 } o n)) ∧
    (∀ r, o.st = some r → o.fin = none → exec (.rayComplete id) s = .next (goOn { s with free := s.free + 1 } o r n)) ∧
    (∀ r res bad, o.st = some r → o.fin = some (res, bad) →
      exec (.rayComplete id) s = .next (if o.written then endRay s o r bad else sendRay s o r res bad))) ∧
  (∀ (s s1 : State) (o : RayOp) (b : List Byte) (n : Nat), engDone s o.id = .ok () → entryBad s o.id = false →
    rayRead s (rayCtx o) o.block 448 = (s1, .ok b) → bits (recNat b 0x30 8) 24 23 ≠ 2 → rayRecordBad b = false →
    startRay s o n = goOn { s1 with engLines := s1.engLines.filter fun l => l.op ≠ o.id } o (rayOf b) n) ∧
  (∀ (s s1 : State) (o : RayOp) (r r1 r2 : RayState) (n : Nat) (x : Bool), spillLost s o = none →
    raySteps (rayCtx o) n s r = (s1, r2, some (.ended r1 x)) →
    goOn s o r n = finishRay s1 o r1 (if x then 2 else if r1.best.isSome then 1 else 0) none) ∧
  (∀ (s s1 : State) (o : RayOp) (r r1 : RayState) (n : Nat), spillLost s o = none → raySteps (rayCtx o) n s r = (s1, r1, none) →
    goOn s o r n = { s1 with rays := s1.rays.map fun q => if q.id = o.id then { q with st := some r1 } else q }) ∧
  (∀ (c : RayCtx) (n : Nat) (s s1 : State) (r r1 : RayState),
    raySteps c 0 s r = (s, r, none) ∧
    (rayStep s c r = (s1, .more r1) →
      raySteps c (n + 1) s r = raySteps c n { s1 with engLines := s1.engLines.filter fun l => l.op ≠ c.op } r1) ∧
    (rayStep s c r = (s1, .wait) → raySteps c (n + 1) s r = (s1, r, none)) ∧
    (∀ x, rayStep s c r = (s1, .ended r1 x) →
      raySteps c (n + 1) s r = ({ s1 with engLines := s1.engLines.filter fun l => l.op ≠ c.op }, r, some (.ended r1 x)))) ∧
  (∀ (s : State) (c : RayCtx) (r : RayState) (e : StackEnt) (q : List StackEnt), r.stack = e :: q →
    let far := flt (fdecode fmtF32 (bestT r)) (fdecode fmtF32 e.tnear.toNat)
    (far = true → rayStep s c r = (s, .more { r with stack := q })) ∧
    (far = false → e.addr % 128 ≠ 0 → rayStep s c r = (s, .bad { r with stack := q } 2 e.addr)) ∧
    (far = false → e.addr % 128 = 0 → e.kind = 1 → rayStep s c r = visitNode s c { r with stack := q } e) ∧
    (far = false → e.addr % 128 = 0 → 2 ≤ e.kind → e.kind ≤ 4 →
      rayStep s c r = visitLeaf s c { r with stack := q } e.kind e.inst e.addr 0 (e.count + 1)) ∧
    (far = false → e.addr % 128 = 0 → e.kind = 5 → rayStep s c r = visitInstance s c { r with stack := q } e)) ∧
  (∀ (s s1 : State) (c : RayCtx) (r : RayState) (b : List Byte), r.stack = [] →
    (r.spilln = 0 → rayStep s c r = (s, .ended r false)) ∧
    (r.spilln ≠ 0 → rayRead s c (r.spill + 16 * (r.spilln - 1)) 16 = (s1, .ok b) →
      rayPop s c r = (s1, .ok (some (entOf b, { r with spilln := r.spilln - 1 }))))) ∧
  (∀ (s s1 s2 : State) (o : RayOp) (r : RayState) (res : Nat) (c : RayCtx), c = rayCtx o →
    let t := fdecode fmtF32 (bestT r)
    let r' : RayState := { r with stack := [], spilln := 0, rem := r.rem.filter fun x => fle (fdecode fmtF32 x.tnear.toNat) t }
    rayWriteAll c { s with rays := s.rays.map fun q => if q.id = o.id then { q with st := some r', fin := some (res, none), written := false } else q }
      [(c.block + 0x1C0, hitRecord r' res)] = (s1, .ok ()) → writeRayRecord s1 c r' 2 = (s2, .ok ()) →
    finishRay s o r res none = { s2 with rays := s2.rays.map fun q => if q.id = o.id then { q with written := true } else q }) ∧
  (∀ (s : State) (o : RayOp) (r : RayState) (bad : Option (Nat × Nat)),
    (engDone s o.id = .wait → endRay s o r bad = s) ∧
    (engDone s o.id = .ok () →
      endRay s o r none = engineAdd (dropRay s o) (dieOf o.core) (o.core % 128) o.job o.pc.toNat o.handle.toNat o.amount)) ∧
  (∀ (s : State) (n : Nat) (b : BeamOp), headBeam s n = some b → coreHeld s b.core b.job b.uid b.id = false → engineHolds s b.core b.uid b.id = false →
    exec (.beamStart n) s = .next (runBeam s b) ∧
    (∀ s1 bytes, b.viewBytes = none → entryBad s b.id = false → rayRead s (beamCtx b) b.view 128 = (s1, .ok bytes) → viewBad bytes = none →
      runBeam s b = beamWalk (viewOf bytes) (1 + (Config.freeWord s1.free).toNat % 65536)
        { s1 with free := s1.free + 1, engLines := s1.engLines.filter fun l => l.op ≠ b.id } { b with viewBytes := some bytes })) ∧
  (∀ (s s1 s2 : State) (n : Nat) (b b1 : BeamOp) (bytes : List Byte) (stored : List (Samp × Hit)), headBeam s n = some b → b.viewBytes = some bytes →
    b.cands ≠ [] → (∀ c ∈ b.cands, c.answer ≠ none) → coreHeld s b.core b.job b.uid b.id = false →
    readSamples (beamCtx b) s (tileSamples (viewOf bytes) b.cur.1 b.cur.2) [] = (s1, .ok stored) →
    writeHits s1 b stored (retest stored b.cands) = (s2, .go b1) →
    exec (.coverageResolve n) s = .next (beamWalk (viewOf bytes) (1 + (Config.freeWord s2.free).toNat % 65536)
      { s2 with free := s2.free + 1, engLines := s2.engLines.filter fun l => l.op ≠ b.id }
      (adopt { b1 with cands := [] } (retest stored b.cands))))

namespace Sys2Proof.Claims

open Sys2Proof.Machine Sys2Proof.Safety

/-! ### Steps of other agents: the network port and the collective engine -/

/-- A message is off the fabric, with what its receiver had asked for, and its answer on the way back, under its TAG (08 R174, R180). -/
def answeredMsg (s : State) (m : NetMsg) (b : NetBody) : State :=
  { s with
    engLines := s.engLines.filter fun l => l.op ≠ m.id
    engFails := s.engFails.filter fun f => f.op ≠ m.id
    fabric := s.fabric.filter (fun q => q.id ≠ m.id) ++
      [{ id := s.fresh, smod := m.dmod, sdie := m.ddie, dmod := m.smod, ddie := m.sdie, op := m.op, sends := 1, sent := s.cycle, got := false
         written := false, tag := some (m.tag.getD m.id), body := b }]
    fresh := s.fresh + 1 }

/-- The message stays on the fabric, and its bytes have set out for their places from the receiving die, in a packet for each line (05 R96, 08 R169). -/
def setOut (s : State) (m : NetMsg) (job va : Nat) (ps : List (Nat × Nat)) (bs : List Byte) : State :=
  let t := sendPackets s (placePackets s m.ddie job m.id va ps bs)
  { t with fabric := t.fabric.map fun q => if q.id = m.id then { q with got := true, written := true } else q }

/-- The places of an arriving message's bytes, none of them poisoned. -/
def PlacesOf (s t : State) (m : NetMsg) (job va n : Nat) (ps : List (Nat × Nat)) : Prop :=
  engPlaces s m.ddie job m.id (pagePieces (n / 4096 + 2) va n) [] = (t, .ok ps) ∧ (ps.any fun p => memPoisoned t p.1 p.2) = false

/-- The receiver keeps a message that it has accepted, and waits (08 R174, R181). -/
def keptMsg (s : State) (m : NetMsg) : State :=
  { s with fabric := s.fabric.map fun q => if q.id = m.id then { q with got := true } else q }

/-- An operation whose bytes have set out. -/
def opWritten (s : State) (id : Nat) : State :=
  { s with portOps := s.portOps.map fun q => if q.id = id then { q with written := true } else q }

/-- A message that arrives at its port now, with its contents. -/
def Comes (s : State) (msg : Nat) (m : NetMsg) (b : NetBody) : Prop := netArriving s msg = some m ∧ m.body = b

/-- The fabric without a message and without the request it answers. -/
def answerTaken (s : State) (m : NetMsg) : List NetMsg :=
  (s.fabric.filter fun q => q.id ≠ m.id).filter fun q => !(q.op == m.op && q.smod == moduleId s && q.dmod ≠ moduleId s && q.body.isRequest)

/-- The state with that fabric, and without what the answer's port had asked for. -/
def taking (s : State) (m : NetMsg) : State :=
  { s with engLines := s.engLines.filter (fun l => l.op ≠ m.id), engFails := s.engFails.filter (fun f => f.op ≠ m.id), fabric := answerTaken s m }

/-- The registers of the management blocks are listed by rising key. -/
def Rising (s : State) : Prop := s.mregs.Pairwise fun a b => a.1 < b.1

/-- A release of a port is on its way to its counter, behind what its thread made before the number `seq` (05 R116). -/
def Released (s t : State) (core uid seq job pc h amount : Nat) : Prop :=
  ∃ p, t = { s with packets := s.packets ++ [p], fresh := s.fresh + 1 } ∧ p.id = s.fresh ∧ p.src = core ∧ p.uid = some uid ∧ p.seq = seq ∧ p.job = job ∧
    p.pc.toNat = pc % 2 ^ 57 ∧ p.dst = homeUnit s h ∧ p.release = some (effScope s core 0 h) ∧ p.body = .ctr (BitVec.ofNat 64 h) (.add amount)

/-- Registers of the queue that a record names: BASE and SLOG2, NSLOTS, JOB and VALID, ABASE (08 R185). -/
def queueReg (s : State) (m : NetMsg) (bs : List Byte) (k : Nat) : Nat := getReg s m.ddie (queueOff (bits (leNat (bs.take 8)) 22 17) + 8 * k)

/-- Bytes of a slot of that queue. -/
def slotSize (s : State) (m : NetMsg) (bs : List Byte) : Nat := 128 * 2 ^ bits (queueReg s m bs 0) 59 57

/-- DSLOT of a record. -/
def recSlot (bs : List Byte) : Nat := bits (leNat ((bs.drop 8).take 8)) 41 26

/-- Address of a record's slot (08 R187). -/
def slotAddr (s : State) (m : NetMsg) (bs : List Byte) : Nat := bits (queueReg s m bs 0) 56 0 + recSlot bs * slotSize s m bs

/-- The arrival addition of a record waits for its turn, on counter ABASE + AIDX (08 R187). -/
def arrivalQueued (s : State) (m : NetMsg) (ch seq job : Nat) (bs : List Byte) : State :=
  { s with arrivals := s.arrivals ++ [⟨m.id, m.ddie, (m.smod, m.sdie, ch), seq,
      BitVec.ofNat 64 (setBits (queueReg s m bs 2) 36 0 (hIndex (queueReg s m bs 2) + bits (leNat ((bs.drop 8).take 8)) 57 42)), job⟩] }

/-- A record is discarded for a reason: the record of the fault at the receiver, the NACK, and the arrival addition all the same (20 R402). -/
def recordLost (s : State) (m : NetMsg) (ch seq job reason : Nat) (bs : List Byte) : State :=
  arrivalQueued (answeredMsg (bumpField (raiseAsync s 8 7 job m.ddie 127 0 0 none reason m.smod) m.ddie 0x838 31 0) m (.nack 6)) m ch seq job bs

/-- The header that stands in the slot of a discarded record: its own with LEN 0 (20 R402). -/
def voidHeader (bs : List Byte) : List Byte := natLe 8 (setBits (leNat (bs.take 8)) 30 24 0) ++ (bs.drop 8).take 8

/-- Why a queue takes no record: it is not VALID, is another job's, has no such slot, or its slots are shorter (20 R402). -/
def notTaken (s : State) (m : NetMsg) (job : Nat) (bs : List Byte) : Option Nat :=
  if bit (queueReg s m bs 1) 32 = false then some 0
  else if bits (queueReg s m bs 1) 31 16 ≠ job then some 1
  else if bits (queueReg s m bs 1) 15 0 ≤ recSlot bs then some 2
  else if slotSize s m bs < bs.length then some 3
  else none

/-- A node of a die's running replay, with the operation and the slot of its graph. -/
def Node (s : State) (die : Nat) (r : Replay) (o : PortOp) (x : GraphSlot) : Prop :=
  replayOn s die = some r ∧ findOp s r.op = some o ∧ graphOf s die r.slot = some x

/-- Nodes of a destination's tree that are held at a die for a job. -/
def heldNodes (s : State) (die job a : Nat) : List TreeNode := s.trees.filter fun n => n.die == die && n.addr == a && n.job == job

/-- The other nodes of the trees. -/
def otherNodes (s : State) (die job a : Nat) : List TreeNode := s.trees.filter fun n => !(n.die == die && n.addr == a && n.job == job)

/-- A chunk has been combined, or its data sent to its place (08 R189). -/
def chunkOut (s : State) (m : NetMsg) : State :=
  { s with fabric := s.fabric.map fun q => if q.id = m.id then { q with got := true, written := true } else q }

/-- What is put in place at the arrival of a chunk: the data, or the combine with what is there (08 R189, R194). -/
def chunkWork (s : State) (m : NetMsg) (c : Chunk) (bs : List Byte) : State × EngRes Unit :=
  let a := chunkAt s m.ddie c
  if c.combine then combineAt s m.ddie c.job m.id a c.fmt c.mode c.front c.tree bs else engWrite s m.ddie c.job m.id a bs

/-- The chunk that a node's send starts from: its connection's number at the peer, its job and node, the place, the mode of the combine, whether the
switch may combine it, and the counter of the destination end (08 R189, R198). -/
def firstChunk (s : State) (r : Replay) (o : PortOp) (x : GraphSlot) (n : Nat) : Chunk :=
  let w0 := nodeW s r n 0
  let w3 := nodeW s r n 3
  let cw := getReg s r.die (connOff (bits w0 23 12))
  { conn := bits cw 28 17, job := o.job, slot := r.slot, node := n, db := bits w0 31 28, off := 0, len := 0, fmt := bits w0 5 4, mode := bits w0 7 6
    front := bit w0 9, combine := decide (bits w0 3 0 = 1), coded := false
    insw := decide (bits w0 3 0 = 1) && bit w0 10 && decide (bits cw 12 0 ≠ moduleId s) && bit (getReg s r.die 0x818) (if bit w0 11 then 1 else 0)
    tree := if bit w0 11 then some (bits w3 52 48, bits (nodeW s r n 2) 59 40) else none, data := [], last := true
    sig := if bits w3 47 32 = 65535 then none else some (BitVec.ofNat 64 (graphCtr x (bits cw 12 0) (bits cw 16 13) (bits w3 47 32))) }

/-- The state with a node of a replay in another state. -/
def nodeSet (s : State) (r : Replay) (n : Nat) (v : NodeState) : State :=
  { s with replays := s.replays.map fun q => if q.die = r.die then { q with nodes := modNth (fun _ => v) n q.nodes } else q }

end Sys2Proof.Claims

/-- 05 R96, 08 R169, R180, R181, 13 R315, 19 R389, 20 R401, R402: at the receiver a `put` is written at its region, a `get` is read there, and a `send` is
written at slot m mod SLOTS of its ring and adds 1 to ARRIVE, when their bytes are in place; each is acknowledged, and one that its checks refuse, or
whose place fails or is poisoned, is answered with a NACK that gives the reason and is counted. At the issuer the answer, when a `get`'s bytes are in
place, or a NACK, that of a record among them, ends the operation. A port's bytes go to their homes in packets, and what it reads beyond its die it asks for. -/
def Obligations.NetworkEvents : Prop :=
  (∀ (s s1 : State) (die job op va k : Nat) (g : Option Nat) (bs : List Byte), bs ≠ [] → va % 128 + bs.length ≤ 128 → k % 4096 = va % 4096 →
    engAt s die job op va true = (s1, .at k g) →
    engPlaces s die job op (pagePieces (bs.length / 4096 + 2) va bs.length) [] = (s1, .ok [(k, bs.length)]) ∧
    ∃ q, engWrite s die job op va bs = ({ s1 with packets := s1.packets ++ [q], fresh := s1.fresh + 1 }, .ok ()) ∧
      sendPackets s1 (placePackets s1 die job op va [(k, bs.length)] bs) = { s1 with packets := s1.packets ++ [q], fresh := s1.fresh + 1 } ∧
      q.dst = byteHome s1 k ∧ q.eng = some op ∧ q.va = va ∧ q.body = .write (atKeys k bs) none) ∧
  (∀ (s s1 : State) (die job op va k n : Nat) (g : Option Nat), n ≠ 0 → va % 128 + n ≤ 128 → k % 4096 = va % 4096 →
    engAt s die job op va false = (s1, .at k g) → ownWrite s1 op k n = false →
    (k / 2 ^ 44 = die →
      engRead s die job op va n =
        ((unitBytes s1 die k n none none).1, if unitBad s1 die k n none none then .fail va 8 else .ok (unitBytes s1 die k n none none).2)) ∧
    (k / 2 ^ 44 ≠ die → g = none → (s1.engLines.find? fun l => l.op == op && l.pa == k && l.n == n) = none →
      ∃ q l, engRead s die job op va n = ({ s1 with engLines := s1.engLines ++ [l], packets := s1.packets ++ [q], fresh := s1.fresh + 2 }, .wait) ∧
        q.dst = byteHome s1 k ∧ q.eng = some op ∧ q.body = .read k n s1.fresh false none ∧ l.op = op ∧ l.pa = k ∧ l.n = n ∧ l.bytes = none) ∧
    (∀ l bs, k / 2 ^ 44 ≠ die → (s1.engLines.find? fun l => l.op == op && l.pa == k && l.n == n) = some l → l.fail = none → l.bytes = some bs →
      engRead s die job op va n = (s1, .ok bs))) ∧
  (∀ (s : State) (msg conn job n off : Nat) (bs : List Byte) (m : NetMsg), let x := startOps s
    let va := getField x m.ddie (regionOff n) 56 0 + off
    Comes x msg m (.put conn job n off bs) →
    (∀ r, m.got = false → regionCheck x m.ddie conn job n off bs.length true = some r →
      exec (.putArrival msg) s = .next (answeredMsg (bumpField x m.ddie 0x838 31 0) m (.nack r))) ∧
    ((m.got = true ∨ regionCheck x m.ddie conn job n off bs.length true = none) →
      (∀ y ps, m.written = false → PlacesOf x y m job va bs.length ps →
        (engDone (setOut y m job va ps bs) m.id = .wait → exec (.putArrival msg) s = .next (setOut y m job va ps bs)) ∧
        (engDone (setOut y m job va ps bs) m.id = .ok () → exec (.putArrival msg) s = .next (answeredMsg (setOut y m job va ps bs) m .done))) ∧
      (m.written = true → engDone x m.id = .ok () → exec (.putArrival msg) s = .next (answeredMsg x m .done)) ∧
      (∀ y ps, m.written = false → engPlaces x m.ddie job m.id (pagePieces (bs.length / 4096 + 2) va bs.length) [] = (y, .ok ps) →
        (ps.any fun p => memPoisoned y p.1 p.2) = true →
        exec (.putArrival msg) s = .next (answeredMsg (bumpField y m.ddie 0x838 31 0) m (.nack 5))) ∧
      (∀ y a c, m.written = false → engPlaces x m.ddie job m.id (pagePieces (bs.length / 4096 + 2) va bs.length) [] = (y, .fail a c) →
        exec (.putArrival msg) s = .next (answeredMsg (bumpField y m.ddie 0x838 31 0) m (.nack 5))))) ∧
  (∀ (s : State) (msg conn job n off len : Nat) (m : NetMsg), let x := startOps s
    let va := getField x m.ddie (regionOff n) 56 0 + off
    Comes x msg m (.getReq conn job n off len) →
    (∀ r, m.got = false → regionCheck x m.ddie conn job n off len false = some r →
      exec (.getArrival msg) s = .next (answeredMsg (bumpField x m.ddie 0x838 31 0) m (.nack r))) ∧
    ((m.got = true ∨ regionCheck x m.ddie conn job n off len false = none) →
      (∀ y bs, engRead x m.ddie job m.id va len = (y, .ok bs) → exec (.getArrival msg) s = .next (answeredMsg y m (.getData bs))) ∧
      (∀ y, engRead x m.ddie job m.id va len = (y, .wait) → exec (.getArrival msg) s = .next (keptMsg y m)) ∧
      (∀ y a c, engRead x m.ddie job m.id va len = (y, .fail a c) →
        exec (.getArrival msg) s = .next (answeredMsg (bumpField y m.ddie 0x838 31 0) m (.nack 5))))) ∧
  (∀ (s : State) (msg conn job k : Nat) (bs : List Byte) (m : NetMsg), let x := startOps s
    let w2 := getReg x m.ddie (connOff conn + 16)
    let va := getField x m.ddie (connOff conn + 8) 56 0 + k % (w2 % 2 ^ 16) * (64 * 2 ^ (w2 / 2 ^ 16 % 16))
    let arrive := fun y : State => engineAdd (answeredMsg y m .done) m.ddie 127 job 0 (getReg y m.ddie (connOff conn + 24)) 1
    Comes x msg m (.send conn job k bs) →
    (∀ r, m.got = false → sendCheck x m.ddie conn job bs.length = some r →
      exec (.sendArrival msg) s = .next (answeredMsg (bumpField x m.ddie 0x838 31 0) m (.nack r))) ∧
    ((m.got = true ∨ sendCheck x m.ddie conn job bs.length = none) →
      (∀ y ps, m.written = false → PlacesOf x y m job va bs.length ps →
        (engDone (setOut y m job va ps bs) m.id = .wait → exec (.sendArrival msg) s = .next (setOut y m job va ps bs)) ∧
        (engDone (setOut y m job va ps bs) m.id = .ok () → exec (.sendArrival msg) s = .next (arrive (setOut y m job va ps bs)))) ∧
      (m.written = true → engDone x m.id = .ok () → exec (.sendArrival msg) s = .next (arrive x)) ∧
      (∀ y ps, m.written = false → engPlaces x m.ddie job m.id (pagePieces (bs.length / 4096 + 2) va bs.length) [] = (y, .ok ps) →
        (ps.any fun p => memPoisoned y p.1 p.2) = true →
        exec (.sendArrival msg) s = .next (answeredMsg (bumpField y m.ddie 0x838 31 0) m (.nack 5))))) ∧
  (∀ (s : State) (msg : Nat) (m : NetMsg) (o : PortOp), let x := startOps s
    Comes x msg m .done → findOp x m.op = some o → o.void = false →
    exec (.networkOpComplete msg) s = .next (completeOp (taking x m) o)) ∧
  (∀ (s : State) (msg : Nat) (bs : List Byte) (m : NetMsg) (o : PortOp), let x := startOps s
    Comes x msg m (.getData bs) → findOp x m.op = some o →
    (∀ y, o.written = false → engWrite x o.die o.job o.id o.laddr bs = (y, .ok ()) →
      (engDone (opWritten y o.id) o.id = .wait → exec (.networkOpComplete msg) s = .next (keptMsg (opWritten y o.id) m)) ∧
      (engDone (opWritten y o.id) o.id = .ok () → exec (.networkOpComplete msg) s = .next (completeOp (taking (opWritten y o.id) m) o))) ∧
    (o.written = true → engDone x o.id = .ok () → exec (.networkOpComplete msg) s = .next (completeOp (taking x m) o)) ∧
    (∀ y a c, o.written = false → engWrite x o.die o.job o.id o.laddr bs = (y, .fail a c) →
      exec (.networkOpComplete msg) s = .next (failOp (taking y m) o 6 1 a (c + 4 * 16) o.conn))) ∧
  (∀ (s : State) (msg r : Nat) (m : NetMsg) (o : PortOp), let x := startOps s
    Comes x msg m (.nack r) → findOp x m.op = some o →
    (o.isRw = false → exec (.nackReceive msg) s = .next (failOp (taking x m) o 8 5 0 r o.conn)) ∧
    (o.isRw = true → o.void = false →
      exec (.nackReceive msg) s = .next (failOp (freeSlotOf (taking x m) o.die o.chan o.job) o 8 5 0 6 o.chan)) ∧
    (o.isRw = true → o.void = true → exec (.nackReceive msg) s = .next (dropOp (freeSlotOf (taking x m) o.die o.chan o.job) o))) ∧
  (∀ (s : State) (o : PortOp), SoundHere s o.handle.toNat → hDie o.handle.toNat = o.die →
    (completeOp s o).portOps = s.portOps.filter (fun q => q.id ≠ o.id) ∧
      CellMoved (dropOp s o) (completeOp s o) o.handle.toNat ((cellGet s o.handle.toNat + o.amount) % 2 ^ 64)) ∧
  (∀ (s : State) (d c job : Nat), let h := freedHandle s d c
    d < 12 → SoundHere s h →
    hLevel h = 4 ∧ hDie h = d ∧ hIndex h = (getField s d 0x808 36 0 + c) % 2 ^ 37 ∧
      CellMoved s (freeSlotOf s d c job) h ((cellGet s h + 1) % 2 ^ 64)) ∧
  (∀ (s : State) (o : PortOp) (cls code addr aux info : Nat), o.armed = none →
    failOp s o cls code addr aux info = raiseAsync (dropOp s o) cls code o.job o.die 127 o.pc.toNat addr (some (o.handle.toNat, o.amount)) aux info)

/-- 08 R181 to R187, 05 R116, 13 R316 to R318, 19 R389, 20 R402, R403: an `rwsend` gets its channel, its SEQ and its header when a slot is free, and its
thread goes on; a record that a queue takes is written at its slot, one that it does not take leaves a void header, a fault record and a NACK, and of
both the arrival addition is made in the channel's order; a `revoke` completes by clearing VALID and REVOKING and adding its amount; an armed request
whose counter is met starts its operation, or adds its amount, and frees its entry. -/
def Obligations.RemoteWorkEvents : Prop :=
  (∀ (s s1 : State) (die ch use : Nat) (redir : Bool) (o : PortOp), let k := getReg s o.die (chanOff use + 16)
    let c0 := getReg s1 o.die (chanOff use)
    let c1 := getReg s1 o.die (chanOff use + 8)
    (s.portOps.find? fun q => q.die == die && q.isRw && !q.started && q.conn == ch) = some o → opReady s o = true →
    (o.armed.isSome = true ∨ quiet s o.core o.uid o.id 5 = true) → portHeld s die < 256 → (o.kind ≠ .rwsend true ∨ o.req.length ≠ 4) →
    pickChannel s o = some (use, redir) →
    (∀ bs, readRecord s o = (s1, .ok bs) →
      ∃ t q, exec (.rwsendChannelAssign die ch) s = .next t ∧ t.fabric = s1.fabric ++ [q] ∧ q.op = o.id ∧ q.smod = moduleId s1 ∧ q.sdie = o.die ∧
        q.dmod = bits c0 12 0 ∧ q.ddie = bits c0 16 13 ∧
        (∃ body, q.body = .rw use (k % 65536) o.job body false ∧ body.drop 16 = bs.drop 16 ∧
          bits (leNat (body.take 8)) 22 0 = c0 % 2 ^ 23 ∧ bit (leNat (body.take 8)) 23 = redir ∧
          bits (leNat (body.take 8)) 63 24 = bits (leNat (bs.take 8)) 63 24 ∧
          bits (leNat ((body.drop 8).take 8)) 15 0 = k % 65536 ∧ bits (leNat ((body.drop 8).take 8)) 57 42 = bits c1 31 16 ∧
          (bits c0 31 23 ≠ 0 → bits (leNat ((body.drop 8).take 8)) 41 26 = (bits c1 15 0 + k % bits c0 31 23) % 65536)) ∧
        t.threads = s1.threads.map (fun x => if x.uid = o.uid ∧ x.wait = .rwsend o.id then { x with wait := .none, age := s1.cycle + 1 } else x) ∧
        t.portOps = s1.portOps.map (fun q => if q.id = o.id then { q with started := true, chan := use, void := false } else q) ∧
        (Rising s1 → getReg t o.die (chanOff use + 16) = (k + 1) % 2 ^ 64) ∧ t.mem = s1.mem ∧ t.cells = s1.cells) ∧
    (∀ a c, readRecord s o = (s1, .fail a c) →
      ∃ t q, exec (.rwsendChannelAssign die ch) s = .next (opRecord t o 6 1 a (c + 4 * 16) use) ∧ t.fabric = s1.fabric ++ [q] ∧
        (∃ body, q.body = .rw use (k % 65536) o.job body true ∧ body.length = 16 ∧ bits (leNat (body.take 8)) 30 24 = 0))) ∧
  (∀ (s : State) (msg ch seq job : Nat) (bs : List Byte) (v : Bool) (m : NetMsg), Comes s msg m (.rw ch seq job bs v) →
    let done := fun y : State => arrivalQueued (answeredMsg y m .done) m ch seq job bs
    (m.written = true → engDone s msg = .ok () → exec (.remoteWorkRecordReceive msg) s = .next (done s)) ∧
    (∀ y ps, m.written = false → notTaken s m job bs = none → PlacesOf s y m job (slotAddr s m bs) bs.length ps →
      let z := setOut y m job (slotAddr s m bs) ps bs
      (engDone z m.id = .wait → exec (.remoteWorkRecordReceive msg) s = .next z) ∧
      (engDone z m.id = .ok () → exec (.remoteWorkRecordReceive msg) s = .next (done z))) ∧
    (∀ r, m.written = false → notTaken s m job bs = some r →
      (bits (queueReg s m bs 1) 15 0 ≤ recSlot bs → exec (.remoteWorkRecordReceive msg) s = .next (recordLost s m ch seq job r bs)) ∧
      (∀ y x, recSlot bs < bits (queueReg s m bs 1) 15 0 → x ≠ .wait →
        engWrite s m.ddie (bits (queueReg s m bs 1) 31 16) m.id (slotAddr s m bs) (voidHeader bs) = (y, x) →
        exec (.remoteWorkRecordReceive msg) s = .next (recordLost y m ch seq job r bs))) ∧
    (∀ y z ps x, m.written = false → notTaken s m job bs = none →
      engPlaces s m.ddie job m.id (pagePieces (bs.length / 4096 + 2) (slotAddr s m bs) bs.length) [] = (y, .ok ps) →
      (ps.any fun p => memPoisoned y p.1 p.2) = true → x ≠ .wait →
      engWrite y m.ddie job m.id (slotAddr s m bs) (voidHeader bs) = (z, x) →
      exec (.remoteWorkRecordReceive msg) s = .next (recordLost z m ch seq job 4 bs))) ∧
  (∀ (s : State) (id : Nat) (a : Arrival), (s.arrivals.find? fun q => q.id == id) = some a → a.seq = nextSeq s a.die a.sender →
    engDone s id ≠ .wait → SoundHere s a.handle.toNat → hDie a.handle.toNat = a.die →
    ∃ t, exec (.arrivalAddition id) s = .next t ∧ CellMoved s t a.handle.toNat ((cellGet s a.handle.toNat + 1) % 2 ^ 64) ∧
      t.arrivals = s.arrivals.filter (fun q => q.id ≠ id) ∧ nextSeq t a.die a.sender = (a.seq + 1) % 65536) ∧
  (∀ (s : State) (die n : Nat) (r : Revoke), (s.revokes.find? fun q => q.die == die && q.region == n) = some r → regionBusy s die n = false →
    let x := setReg { s with revokes := s.revokes.erase r } die (regionOff n + 8) (setBits (getReg s die (regionOff n + 8)) 59 58 0)
    badHandle x r.handle.toNat = none →
    ∃ t, exec (.revokeComplete die n) s = .next t ∧
      Released x t r.core r.uid r.seq r.job r.pc.toNat r.handle.toNat r.amount) ∧
  (∀ (s s1 : State) (pkt : Nat) (p : Packet) (w : Waiter) (a : Armed), Arrives s pkt p (.wake w) → w.kind = 3 →
    jobHeld s (dieOf w.unit) w.job = false → firesBefore s pkt w = false →
    (s.armed.find? fun a => a.die == dieOf w.unit && a.idx == w.tag) = some a →
    (fireArmed s a = (s1, true) → exec (.armedRequestFire pkt) s = .next (dropPacket s1 pkt)) ∧
    (fireArmed s a = (s1, false) → exec (.armedRequestFire pkt) s = .next (parkPacket s1 pkt))) ∧
  (∀ (s : State) (a : Armed), let op := getReg s a.die (armedOff a.idx + 16) % 16
    let h := getReg s a.die (armedOff a.idx + 8 * (if op = 4 then 7 else 6))
    let kind := if op = 0 then PortKind.put else if op = 1 then .get else if op = 2 then .send else .rwsend false
    a.idx < 1024 → badHandle s h = none → badHandle s (getReg s a.die (armedOff a.idx)) = none →
    (op = 4 → (localHandle s h = false ∨ cellPoisoned s h = false) →
      ∃ t, fireArmed s a = (t, true) ∧
        Released (disarm s a.die a.idx) t a.core a.uid a.seq a.job a.pc.toNat h (getReg s a.die (armedOff a.idx + 40) / 2 ^ 32)) ∧
    (op ≤ 3 → (op = 3 ∨ portHeld s a.die < 256) →
      (entryTrap s a.die a.job (op == 3) (armedOp s a kind).conn = none →
        fireArmed s a = (startOps (acceptOp (disarm s a.die a.idx) (armedOp s a kind)), true)) ∧
      (entryTrap s a.die a.job (op == 3) (armedOp s a kind).conn ≠ none →
        fireArmed s a = (failOp (disarm s a.die a.idx) (armedOp s a kind) 8 6 0 0 0, true))) ∧
    (∀ s2 bs, op = 5 → portHeld s a.die < 256 → replaysHeld s a.die < 4 → engineWaits s a.core a.uid a.seq = false →
      engRead s a.die a.job a.seq (armedOp s a .coll).laddr 128 = (s2, .ok bs) →
      fireArmed s a = (acceptOp (disarm (engEnded s2 a.seq) a.die a.idx) { armedOp s a .coll with
        req := [BitVec.ofNat 64 ((armedOp s a .coll).conn % 8 * 2 ^ 32), BitVec.ofNat 64 ((armedOp s a .coll).w 3)]
        base := wordsOf 16 bs }, true)))

/-- 08 R188 to R198, 13 R320, 20 R404 to R408, 05 R119, R122: `cgraph` copies its nodes into its slot; the oldest queued replay starts when none runs; a
node whose counter and time have come runs, a late one is recorded, and it sends chunks, combines or copies, and completes, and its signal is added; a
chunk arrives at its place, or is combined there, and its last one signals; the last node ends the replay; `comp` combines its extents; and a switch's
discovery and refusal are taken down. That the destination's own bytes stand for a node of a tree by a free choice is the model's (log entry 113), and so
is that a `coll` of another job finds its slot unbound (log entry 125). -/
def Obligations.CollectiveEvents : Prop :=
  (∀ (s s1 : State) (op : Nat) (o : PortOp) (bs : List Byte), let n := bits (o.w 1) 9 0
    let g := bits (o.w 1) 12 10
    let x : GraphSlot := ⟨o.die, g, n, BitVec.ofNat 64 (o.w 2), o.w 1 / 2 ^ 32, o.job, 0, true⟩
    (s.portOps.find? fun q => q.id == op && q.kind == .cgraph) = some o → opReady s o = true →
    (s.portOps.any fun q => q.id < o.id && q.die == o.die &&
      ((q.kind == .coll && bits (q.w 0) 34 32 == g) || (q.kind == .cgraph && bits (q.w 1) 12 10 == g))) = false →
    engRead s o.die o.job o.id (o.w 0 % 2 ^ 57) (32 * n) = (s1, .ok bs) →
    (badNode (wordsOf (4 * n) bs) n = none →
      exec (.cgraphBind op) s = .next (completeOp (setGraph (putNodes o.die g s1 0 (wordsOf (4 * n) bs)) x) o)) ∧
    (∀ k, badNode (wordsOf (4 * n) bs) n = some k →
      exec (.cgraphBind op) s = .next (failOp (setGraph s1 { x with bound := false }) o 8 9 0 (g + k * 8) 1))) ∧
  (∀ (s : State) (d g k : Nat) (ws : List DWord), Rising s → g < 8 → k < ws.length → ws.length ≤ 2048 →
    getReg (putNodes d g s 0 ws) d (0x50000 + 32 * 512 * g + 8 * k) = (nthD 0#64 ws k).toNat) ∧
  (∀ (s : State) (die : Nat) (o : PortOp), let g := bits (o.w 0) 34 32
    replayOn s die = none → (s.portOps.find? fun q => q.die == die && q.kind == .coll) = some o → opReady s o = true →
    (s.portOps.any fun q => q.id < o.id && q.die == die && q.kind == .cgraph && bits (q.w 1) 12 10 == g) = false →
    (∀ x, graphOf s die g = some x → x.bound = true → x.job = o.job →
      ∃ t, exec (.replayStart die) s = .next t ∧
        t.replays = s.replays ++ [⟨die, g, o.id, x.r, BitVec.ofNat 64 (o.w 1), startsUntimed s die x.slotw, List.replicate x.n .waiting⟩] ∧
        graphOf t x.die x.slot = some { x with r := x.r + 1 } ∧ KeepsMemory s t ∧ t.threads = s.threads ∧ t.flocks = s.flocks ∧
        (startsUntimed s die x.slotw = false → t.mregs = s.mregs)) ∧
    ((∀ x, graphOf s die g = some x → x.bound = false ∨ x.job ≠ o.job) → exec (.replayStart die) s = .next (failOp s o 8 9 0 g 2))) ∧
  (∀ (s : State) (die n : Nat) (r : Replay) (o : PortOp) (x : GraphSlot), Node s die r o x → opHeld s o = false → let w3 := nodeW s r n 3
    let h := graphCtr x (moduleId s) r.die (bits w3 15 0)
    (nthD .done r.nodes n = .ready ∨ (nthD .done r.nodes n = .waiting ∧ bits w3 31 16 = 0) →
      exec (.graphNodeStart die n) s = .next (runNode s r o x n)) ∧
    (nthD .done r.nodes n = .waiting → bits w3 31 16 ≠ 0 → badHandle s h = none →
      ∃ q w, exec (.graphNodeStart die n) s = .next { nodeSet s r n .asked with packets := s.packets ++ [q], fresh := s.fresh + 1 } ∧
        q.dst = homeUnit s h ∧ q.body = .ctr (BitVec.ofNat 64 h) (.wait w) ∧ w.handle.toNat = h % 2 ^ 64 ∧ w.kind = 4 ∧ w.tag = n ∧
        w.thresh.toNat = bits w3 31 16 * (r.r + 1) % 2 ^ 64 ∧ dieOf w.unit = r.die) ∧
    (nthD .done r.nodes n = .begun → exec (.graphNodeStart die n) s = .next (nodeWork s r o x n)) ∧
    ((notBefore s r n).isSome = true → exec (.notBeforeExpiry die n) s = exec (.graphNodeStart die n) s)) ∧
  (∀ (s : State) (r : Replay) (o : PortOp) (x : GraphSlot) (n : Nat), let now := ftime s r.die
    (notBefore s r n = if r.untimed = true ∨ bits (nodeW s r n 1) 63 40 = 2 ^ 24 - 1 then none else some (r.t0.toNat + bits (nodeW s r n 1) 63 40)) ∧
    (notBefore s r n = none → runNode s r o x n = nodeWork (nodeSet s r n .begun) r o x n) ∧
    (∀ t, notBefore s r n = some t →
      (now < t → runNode s r o x n = s) ∧
      (t ≤ now → now ≤ t + x.slotw → runNode s r o x n = nodeWork (nodeSet s r n .begun) r o x n) ∧
      (t + x.slotw < now → runNode s r o x n = nodeWork (nodeSet (recordLate s r n (now - t)) r n .begun) r o x n))) ∧
  (∀ (s : State) (r : Replay) (n late : Nat), Rising s → let y := recordLate s r n late
    getField y r.die 0x810 15 0 = min (getField s r.die 0x810 15 0 + 1) 65535 ∧ getField y r.die 0x810 27 16 = n % 4096 ∧
    getField y r.die 0x810 31 28 = r.slot % 16 ∧
    getField y r.die 0x810 63 32 = max (getField s r.die 0x810 63 32) (min late (2 ^ 32 - 1)) ∧ KeepsMemory s y ∧ y.replays = s.replays) ∧
  (∀ (s s1 : State) (r : Replay) (o : PortOp) (x : GraphSlot) (n : Nat) (bs : List Byte), let w0 := nodeW s r n 0
    let off := connOff (bits w0 23 12)
    let da := baseAddr o.base (bits w0 31 28) + bits (nodeW s r n 2) 39 0
    (bits w0 3 0 = 4 → nodeWork s r o x n = nodeSet s r n .running) ∧
    (bits w0 3 0 ≤ 1 → (entryValid s r.die off = false ∨ entryJob s r.die off ≠ o.job) → nodeWork s r o x n = failNode s r o n) ∧
    (engRead s r.die o.job (nodeOp r n) (baseAddr o.base (bits w0 27 24) + bits (nodeW s r n 1) 39 0) (w0 / 2 ^ 32) = (s1, .ok bs) →
      (bits w0 3 0 ≤ 1 → entryValid s r.die off = true → entryJob s r.die off = o.job →
        ∃ t ms, nodeWork s r o x n = t ∧ t.fabric = s1.fabric ++ ms ∧ t.replays = (nodeSet s1 r n .running).replays ∧
          ms.map (·.body) = (chunksOf (firstChunk s r o x n) (bit w0 8) (bs.length / 4096 + 1) (bits (nodeW s r n 2) 39 0) bs).map NetBody.chunk ∧
          ∀ m ∈ ms, m.op = o.id ∧ m.smod = moduleId s1 ∧ m.sdie = r.die ∧ m.dmod = bits (getReg s r.die off) 12 0 ∧ m.ddie = bits (getReg s r.die off) 16 13) ∧
      (∀ s2, bits w0 3 0 = 3 → engWrite s1 r.die o.job (nodeOp r n) da bs = (s2, .ok ()) → nodeWork s r o x n = nodeSet s2 r n .running) ∧
      (∀ s2, bits w0 3 0 = 2 → combineAt s1 r.die o.job (nodeOp r n) da (bits w0 5 4) (bits w0 7 6) (bit w0 9) (firstChunk s r o x n).tree bs = (s2, .ok ()) →
        nodeWork s r o x n = nodeSet s2 r n .running))) ∧
  (∀ (c : Chunk) (bs : List Byte) (off : Nat), let cs := chunksOf c false (bs.length / 4096 + 1) off bs
    cs.flatMap (·.data) = bs ∧ (∀ k, k < cs.length →
      ∃ e, nthD c cs k = e ∧ e = { c with off := off + 4096 * k, len := e.data.length, data := e.data, coded := false, last := e.last } ∧
        e.data.length ≤ 4096 ∧ (e.last = true ↔ k + 1 = cs.length))) ∧
  (∀ (c : Chunk) (off : Nat) (bs : List Byte), c.fmt ≤ 1 → bs.length % 4 = 0 → bs ≠ [] → bs.length ≤ 4096 →
    chunksOf c true (bs.length / 4096 + 1) off bs =
      [{ c with off := off, len := bs.length, coded := true, data := encodeChunk c.fmt bs, last := true }]) ∧
  (∀ (s s1 s2 s3 : State) (die job op a fmt mode : Nat) (front : Bool) (ps : List (Nat × Nat)) (bs db v : List Byte),
    engPlaces s die job op (pagePieces (bs.length / 4096 + 2) a bs.length) [] = (s1, .ok ps) → unitWrites s1 die ps = false →
    engRead s1 die job op a bs.length = (s2, .ok db) →
    (combineBytes s2 fmt mode front db bs = (s3, v) →
      combineAt s die job op a fmt mode front none bs = (sendPackets s3 (placePackets s3 die job op a ps v), .ok ())) ∧
    (∀ k i, heldNodes s2 die job a = [] →
      (Config.freeBit s2.free = false →
        combineAt s die job op a fmt mode front (some (k, i)) bs =
          ({ s2 with free := s2.free + 1, trees := otherNodes s2 die job a ++ [⟨die, a, job, k, i, some bs⟩] }, .ok ())) ∧
      (Config.freeBit s2.free = true →
        (if i < i ^^^ 1 then combineBytes { s2 with free := s2.free + 1 } fmt mode front bs db
          else combineBytes { s2 with free := s2.free + 1 } fmt mode front db bs) = (s3, v) →
        combineAt s die job op a fmt mode front (some (k, i)) bs =
          ({ sendPackets s3 (placePackets s3 die job op a ps v) with
              trees := otherNodes s3 die job a ++ [⟨die, a, job, k + 1, i / 2, none⟩] }, .ok ()))) ∧
    (∀ k i y, heldNodes s2 die job a = [⟨die, a, job, k, i ^^^ 1, some y⟩] →
      (if i < i ^^^ 1 then combineBytes s2 fmt mode front bs y else combineBytes s2 fmt mode front y bs) = (s3, v) → Config.freeBit s3.free = false →
      combineAt s die job op a fmt mode front (some (k, i)) bs =
        ({ s3 with free := s3.free + 1, trees := otherNodes s3 die job a ++ [⟨die, a, job, k + 1, i / 2, some v⟩] }, .ok ()))) ∧
  (∀ (s : State) (front : Bool) (d x : List Byte) (n : Nat), d.length = 4 * n → x.length = 4 * n →
    (combineBytes s 0 0 front d x).2 = (upFrom 0 n).flatMap (fun k => natLe 4 (opAdd fmtF32 (wordAt d k) (wordAt x k)).1) ∧
    (combineBytes s 1 0 front d x).2 = (upFrom 0 n).flatMap (fun k =>
      natLe 2 (opAdd fmtBF16 (wordAt d k % 65536) (wordAt x k % 65536)).1 ++ natLe 2 (opAdd fmtBF16 (wordAt d k / 65536) (wordAt x k / 65536)).1)) ∧
  (∀ (s : State) (front : Bool) (d x : List Byte), d.length = 32 → x.length = 32 →
    let dd := fdecode fmtF32 (wordAt d 0)
    let dx := fdecode fmtF32 (wordAt x 0)
    ((flt dd dx = true ∨ (fisNan dd = false ∧ fisNan dx = true)) → (combineBytes s 2 1 front d x).2 = d) ∧
    ((flt dx dd = true ∨ (fisNan dx = false ∧ fisNan dd = true)) → (combineBytes s 2 1 front d x).2 = x) ∧
    ((feq dd dx = true ∨ (fisNan dd = true ∧ fisNan dx = true)) → wordAt d 5 % 8192 < wordAt x 5 % 8192 → (combineBytes s 2 1 front d x).2 = d) ∧
    ((feq dd dx = true ∨ (fisNan dd = true ∧ fisNan dx = true)) → wordAt x 5 % 8192 < wordAt d 5 % 8192 → (combineBytes s 2 1 front d x).2 = x)) ∧
  (∀ (s : State) (d x : List Byte), d.length = 16 → x.length = 16 →
    (∀ front, (combineBytes s 3 2 front d x).2 = (upFrom 0 4).flatMap fun c => natLe 4 (if front then overChannel x d c else overChannel d x c)) ∧
    (∀ front, (combineBytes s 3 3 front d x).2 =
      (upFrom 0 3).flatMap (fun k => natLe 4 (opAdd fmtF32 (wordAt d k) (wordAt x k)).1) ++ natLe 4 ((wordAt d 3 + wordAt x 3) % 2 ^ 32))) ∧
  (∀ (s : State) (msg : Nat) (m : NetMsg) (c : Chunk), Comes s msg m (.chunk c) → m.written = false →
    (m.got = false → (entryValid s m.ddie (connOff c.conn) = false ∨ entryJob s m.ddie (connOff c.conn) ≠ c.job) →
      exec (.collectiveChunkReceive msg) s = .next (answeredMsg (bumpField s m.ddie 0x838 31 0) m (.chunkAck c.node false))) ∧
    ((m.got = true ∨ (entryValid s m.ddie (connOff c.conn) = true ∧ entryJob s m.ddie (connOff c.conn) = c.job)) →
      (∀ bs y, (c.coded = false ∧ bs = c.data) ∨ (c.coded = true ∧ decodeChunk c.fmt c.len c.data = .ok bs) →
        chunkWork s m c bs = (y, .ok ()) →
        (engDone (chunkOut y m) m.id = .wait → exec (.collectiveChunkReceive msg) s = .next (chunkOut y m)) ∧
        (engDone (chunkOut y m) m.id = .ok () → exec (.collectiveChunkReceive msg) s = .next (finishChunk (chunkOut y m) m c))) ∧
      (∀ r, c.coded = true → decodeChunk c.fmt c.len c.data = .error r →
        exec (.collectiveChunkReceive msg) s = .next (answeredMsg
          (bumpField (raiseAsync s 8 10 c.job m.ddie 127 0 0 none (c.slot + c.node * 8) r) m.ddie 0x838 31 0) m (.chunkAck c.node false))))) ∧
  (∀ (s : State) (msg : Nat) (m : NetMsg) (c : Chunk), Comes s msg m (.chunk c) → m.written = true → engDone s m.id = .ok () →
    exec (.collectiveChunkReceive msg) s = .next (finishChunk s m c)) ∧
  (∀ (s : State) (m : NetMsg) (c : Chunk), let t := answeredMsg s m (.chunkAck c.node true)
    ((c.sig = none ∨ c.last = false ∨ chunkFailed s m c.node = true) → finishChunk s m c = t) ∧
    (∀ h, c.sig = some h → c.last = true → chunkFailed s m c.node = false → finishChunk s m c = engineAdd t m.ddie 127 c.job 0 h.toNat 1)) ∧
  (∀ (s : State) (die n : Nat) (r : Replay) (o : PortOp) (x : GraphSlot), Node s die r o x → nthD .done r.nodes n = .running →
    chunksAnswered s die o.id n = true → engDone s (nodeOp r n) ≠ .wait →
    let s1 := { engEnded s (nodeOp r n) with fabric := s.fabric.filter fun m => !nodeMsg s die o.id n m }
    (chunksRefused s die o.id n = false → engDone s (nodeOp r n) = .ok () →
      exec (.graphNodeComplete die n) s = .next (endReplay (if 2 ≤ bits (nodeW s r n 0) 3 0 ∧ bits (nodeW s r n 3) 47 32 ≠ 65535 then
        engineAdd (nodeSet s1 r n .done) die 127 o.job o.pc.toNat (graphCtr x (moduleId s) die (bits (nodeW s r n 3) 47 32)) 1
        else nodeSet s1 r n .done) die o)) ∧
    ((chunksRefused s die o.id n = true ∨ engDone s (nodeOp r n) ≠ .ok ()) → exec (.graphNodeComplete die n) s = .next (failNode s1 r o n))) ∧
  (∀ (s : State) (die : Nat) (r : Replay) (o : PortOp), replayOn s die = some r →
    ((∀ v ∈ r.nodes, v = .done) → endReplay s die o = completeOp { s with replays := s.replays.filter fun q => q.die ≠ die } o) ∧
    ((∃ v ∈ r.nodes, v ≠ .done) → endReplay s die o = s)) ∧
  (∀ (s : State) (r : Replay) (o : PortOp) (n : Nat), o.armed = none →
    failNode s r o n = raiseAsync (nodeSet (engEnded s (nodeOp r n)) r n .failed) 8 9 o.job o.die 127 o.pc.toNat 0 (some (o.handle.toNat, o.amount))
      (r.slot + n * 8) 0) ∧
  (∀ (s s1 s2 s3 s4 : State) (op : Nat) (o : PortOp) (d x v : List Byte), let w2 := o.w 2
    let len := bits w2 31 0
    let da := o.w 0 % 2 ^ 57
    let sa := o.w 1 % 2 ^ 57
    (s.portOps.find? fun q => q.id == op && q.kind == .comp) = some o → opReady s o = true →
    (o.written = false → engRead s o.die o.job op da len = (s1, .ok d) → engRead s1 o.die o.job op sa len = (s2, .ok x) →
      combineBytes s2 (bits w2 33 32) (bits w2 35 34) (bit w2 36) d x = (s3, v) →
      listsMeet (readPlaces s3 o.die o.job op da len) (readPlaces s3 o.die o.job op sa len) = false → engWrite s3 o.die o.job op da v = (s4, .ok ()) →
      (engDone s4 op = .wait → exec (.compComplete op) s = .next (opWritten s4 op)) ∧
      (engDone s4 op = .ok () → exec (.compComplete op) s = .next (completeOp (opWritten s4 op) o))) ∧
    (o.written = true → engDone s op = .ok () → exec (.compComplete op) s = .next (completeOp s o))) ∧
  (∀ (s : State) (die : Nat) (p t : Bool), exec (.inswDiscovery die p t) s = .next (setReg s die 0x818 ((if p then 1 else 0) + (if t then 2 else 0)))) ∧
  (∀ (s : State) (die n : Nat), s.fabric.any (inSwitch s die n) = true →
    ∃ t, exec (.inswRefusal die n) s = .next t ∧ t.fabric.any (inSwitch t die n) = false ∧ t.fabric.length = s.fabric.length ∧
      getField t die 0x850 31 0 = min (getField s die 0x850 31 0 + (s.fabric.filter (inSwitch s die n)).length) (2 ^ 32 - 1) ∧
      KeepsMemory s t ∧ t.threads = s.threads)

namespace Sys2Proof.Claims

open Sys2Proof.Machine Sys2Proof.Safety

/-! ### Steps of other agents: links, the halt wave, resets, management and the host -/

/-- The state with the end of a link changed. -/
def linkWith (s : State) (die peer : Nat) (l : LinkEnd) : State :=
  { s with links := l :: s.links.filter fun x => !(x.die == die && x.peer == peer) }

/-- A register write by a master that nothing stops. -/
def MayWrite (s : State) (m die off : Nat) : Prop := mgmtStop s m die off true = none

/-- A valid slot of a job that takes part in the wave on a die (09 R199). -/
def WaveSlot (s : State) (die h : Nat) : Prop :=
  h < 16 ∧ waveSlot s die (getField s die (hoff h) 15 0) = some h ∧ bit (getReg s die (hoff h)) 16 = true

/-- A token that arrives at a die of this module. -/
def TokenComes (s : State) (msg opc job : Nat) (m : NetMsg) (stamp : DWord) (hseq : Nat) (origin : List Nat) (cause : Nat) (pc : VAddr) : Prop :=
  tokenArriving s msg opc = some m ∧ m.body = .token opc job stamp hseq origin cause pc

/-- Tokens that a die sends: to every other die of the module, and, where there is one, to the multicast group `g` (09 R201). -/
def Tokens (s : State) (d : Nat) (g : Option Nat) (b : NetBody) (ms : List NetMsg) : Prop :=
  ms.map (fun q => (q.smod, q.sdie, q.dmod, q.ddie, q.body)) =
    ((diesOn s).filter (· ≠ d)).map (fun e => (moduleId s, d, moduleId s, e, b)) ++
      match g with
      | some k => [(moduleId s, d, 8192 + k, 0, b)]
      | none => []

/-- HSEQ, the cause registers and the least key of a slot are those of a token (09 R199, R201). -/
def CauseOf (y : State) (d h hseq stamp : Nat) (origin : List Nat) (cause pc : Nat) : Prop :=
  hseqOf y d h = hseq ∧ getReg y d (hoff h + 24) = stamp ∧ getReg y d (hoff h + 32) = tokenWord1 hseq origin cause ∧
    getReg y d (hoff h + 40) = pc % 2 ^ 57 ∧ ∃ w, haltWorkOf y d h = some w ∧ w.least = some (stamp :: origin)

/-- The threads of a job on a core that a step lets issue: with SKIND 2 all that could, with 1 those of the target's group, with 0 the target (09 R204). -/
def stepThreads (s : State) (core job k : Nat) (t : Option Thread) : List Thread :=
  s.threads.filter fun u => decide (u.core = core ∧ u.job = job) && couldIssue s u &&
    (if k = 2 then true
    else if k = 1 then t.any fun t => couldIssue s t && u.flock == t.flock && u.pc == t.pc
    else t.any fun t => u.uid == t.uid)

/-- The target of a step: the job's thread in a slot. -/
def stepTarget (s : State) (core job lane slot : Nat) : Option Thread :=
  s.threads.find? fun t => t.core == core && t.job == job && t.lane == lane && t.slot == slot && holdsSlot s t

/-- What a reset leaves of memory, counters, field time and the host's side, and that everything of threads, flocks and work is gone (14 R341). -/
def ResetTo (s t : State) : Prop :=
  t.power = .locked ∧ t.threads = [] ∧ t.flocks = [] ∧ t.bins = [] ∧ t.results = [] ∧ t.packets = [] ∧ t.fifo = [] ∧ t.wc = [] ∧ t.waiters = [] ∧
    t.copies = [] ∧ t.mmas = [] ∧ t.rays = [] ∧ t.beams = [] ∧ t.sweeps = [] ∧ t.tensors = [] ∧ t.portOps = [] ∧ t.replays = [] ∧ t.halts = [] ∧
    t.waitset = [] ∧ t.locl = [] ∧ t.imgDigest = none ∧ t.cycle = 0 ∧ t.hostOut = s.hostOut

/-- What a warm reset keeps: memory, the module's number, and field time, which keeps running (14 R341). -/
def WarmKept (s t : State) : Prop :=
  t.mem = s.mem ∧ moduleId t = moduleId s ∧ (∀ d, d < 12 → ftime t d = ftime s d) ∧ ∀ h, inBacking s h = false → localHandle s h = true → mapGet 0#64 t.cells h = 0#64

/-- What a cold reset leaves: HBM 0, the memory of the hosts as it was, no counter of the module, and field time from PTP (14 R341, 08 R178). -/
def ColdLeft (s t : State) (ft : Nat) : Prop :=
  t.mem = s.mem.filter (fun c => 2 ^ 48 ≤ c.1) ∧ (∀ h, localHandle s h = true → mapGet 0#64 t.cells h = 0#64) ∧ ∀ d, d < 12 → ftime t d = ft % 2 ^ 64

/-- A value that a host's read of a register, or of memory, is answered with. -/
def readOut (m v : Nat) (s : State) : State := if m < 2 then { s with hostOut := .readData m (BitVec.ofNat 64 v) :: s.hostOut } else s

/-- A packet that reads memory behind a host port is under way under the number `req`. -/
def HostRead (s : State) (port req : Nat) (p : Packet) : Prop :=
  (s.packets.find? fun q => q.id == req && q.body.runs.any (fun r => hostPort r.1 == some port) && !q.body.isStore) = some p ∧ p.id = req

/-- The record of a request to a host that failed: 0 a time-out, 1 UR, 2 CA (20 R413). -/
def hostRecord (port kind : Nat) : FaultRec :=
  { FaultRec.blank with cls := 12, code := 4, job := supJob, die := portDie port, core := 127, aux := kind, info := port }

/-- A field of the value of a register. -/
def fieldAt (v : Nat) (f : RField) : Nat := bits v (f.lo + f.w - 1) f.lo

/-- Bit `b` of a register lies in none of its fields. -/
def NoField (fs : List RField) (b : Nat) : Prop := ∀ f ∈ fs, b < f.lo ∨ f.lo + f.w ≤ b

/-- Every register but one is as before. -/
def OtherRegs (s t : State) (d off : Nat) : Prop := ∀ e o, mkey e o ≠ mkey d off → getReg t e o = getReg s e o

/-- The state `t` after a write of `v` to a register, by its fields' access codes: RW stores the value written, or what a value out of range leaves or
stores, where fields that enable are judged with the register after the write; W1C clears the bits where 1 is written; every other field, and every
reserved bit, is as before (00 R7, R9). -/
def StoredFields (s t : State) (d off v : Nat) : Prop :=
  OtherRegs s t d off ∧ ∀ fs, regFieldsOn d off = some fs →
    (∀ b, NoField fs b → bit (getReg t d off) b = bit (getReg s d off) b) ∧
    ∀ f ∈ fs,
      (f.acc = .rw → fieldAt (getReg t d off) f = (fieldStore s d off f.lo (getReg t d off) (fieldAt v f)).getD (fieldAt (getReg s d off) f)) ∧
      (f.acc = .w1c → ∀ b, f.lo ≤ b → b < f.lo + f.w → bit (getReg t d off) b = (bit (getReg s d off) b && !bit v b)) ∧
      (f.acc ≠ .rw → f.acc ≠ .w1c → fieldAt (getReg t d off) f = fieldAt (getReg s d off) f)

/-- What a read of a register answers, and the state `t` after it: WO fields read 0, and every other field what it holds, but for what the die measures;
fields of access RC are then 0, and nothing else of a register has changed (00 R7, 14 R343). -/
def ReadFields (s t : State) (d off v : Nat) : Prop :=
  (off = 0xE8 ∧ 4000000 ≤ s.cycle → v = (Config.freeWord s.free).toNat % 2 ^ 16 ∧ t = { s with free := s.free + 1 }) ∧
  (¬(off = 0xE8 ∧ 4000000 ≤ s.cycle) → OtherRegs s t d off ∧ ∀ fs, regFieldsOn d off = some fs →
    (off = 0x20 → bits v 28 16 = moduleId s % 2 ^ 13 ∧ bits v 15 0 = bits (getReg s d off) 15 0) ∧ (off = 0x70 → v = ftime s d) ∧
    (off = 0x520 → bits v 31 0 = spilledNow s d % 2 ^ 32 ∧ bits v 63 32 = bits (getReg s d off) 63 32) ∧
    (off ≠ 0x20 → off ≠ 0x70 → off ≠ 0x520 →
      (∀ f ∈ fs, fieldAt v f = if f.acc = .wo then 0 else fieldAt (getReg s d off) f) ∧ ∀ b, NoField fs b → bit v b = bit (getReg s d off) b) ∧
    (∀ f ∈ fs, fieldAt (getReg t d off) f = if f.acc = .rc then 0 else fieldAt (getReg s d off) f) ∧
    ∀ b, NoField fs b → bit (getReg t d off) b = bit (getReg s d off) b)

/-- A host's access is completed with Unsupported Request, with a record of CLASS 12 CODE `code`; a supervisor's has no effect (20 R413). -/
def deniedTo (s : State) (m code aux addr : Nat) : State :=
  if m < 2 then
    { s with
      hostOut := .unsupported m :: s.hostOut
      detected := s.detected ++ [{ FaultRec.blank with
        cls := 12, code := code, job := supJob, die := portDie m, core := 127, addr := addr, aux := aux, info := m }] }
  else s

/-- Master `m` can ask: a host's port has its link up, on a die that is enabled. -/
def CanAsk (s : State) (m : Nat) : Prop := m < 2 → m ∉ s.portDown ∧ dieOn s (portDie m) = true

/-- An access of master `m` to the register at `off` of die `d` is denied, which leaves `u`: its port cannot ask; the die is not there, or the offset is
reserved (CODE 1); the module is not in RUN, and the block is above 1; the access table gives no right (CODE 2); or supervisor code writes an access
table (14 R332, R333, R340, 20 R413). -/
def DeniedAs (s : State) (m d off : Nat) (write : Bool) (u : State) : Prop :=
  let off' := d * 2 ^ 27 + off
  let open_ := s.power = .run ∨ blockOf off ≤ 1
  let right := if write then rightTo s m d (blockOf off) = 3 else rightTo s m d (blockOf off) ≠ 0
  (¬CanAsk s m ∧ u = s) ∨
  (CanAsk s m ∧ (dieOn s d = false ∨ (open_ ∧ regFieldsOn d off = none)) ∧ u = deniedTo s m 1 0 off') ∨
  (CanAsk s m ∧ dieOn s d = true ∧ ¬open_ ∧ u = if m < 2 then { s with hostOut := .unsupported m :: s.hostOut } else s) ∨
  (CanAsk s m ∧ dieOn s d = true ∧ open_ ∧ regFieldsOn d off ≠ none ∧ ¬right ∧ u = deniedTo s m 2 (blockOf off) off') ∨
  (m = 2 ∧ write = true ∧ dieOn s d = true ∧ s.power = .run ∧ right ∧ (off = 0xE00 ∨ off = 0xE08 ∨ off = 0xE10) ∧ u = s)

/-- The unit that DIE_UNIT_OFF names is there and enabled: 0 a core, 1 an L2 slice, 2 an HBM channel, 3 a network lane, 4 a die (17 R359). -/
def UnitThere (s : State) (d kind num : Nat) : Prop :=
  (kind = 0 ∧ coreOn s d num = true) ∨ (kind = 1 ∧ 0 < slicesOn s d ∧ num < 160 ∧ (1, d, num) ∉ s.unitsOff) ∨
    (kind = 2 ∧ num < 128 ∧ bit (getReg s d (0x40 + 8 * (num / 32))) (num % 32) = true) ∨
    (kind = 3 ∧ 0 < getField s d 0x38 22 20 ∧ num < 4 ∧ (3, d, num) ∉ s.unitsOff) ∨ (kind = 4 ∧ dieOn s num = true)

/-- The unit has left use (17 R360): the capabilities say so, and HBM of a die that loses a channel, or leaves, holds 0. -/
def UnitGone (s t : State) (d kind num : Nat) : Prop :=
  (kind = 0 → ∀ e c, coreOn t e c = (coreOn s e c && !(e == d && c == num))) ∧
  (kind = 1 → slicesOn t d + 1 = slicesOn s d ∧ (1, d, num) ∈ t.unitsOff ∧ ∀ k, sliceAt t d k ≠ num) ∧
  (kind = 2 → channelList t d = (channelList s d).filter (· ≠ num) ∧
    (0 < getField s d (0x40 + 8 * (num / 32)) 37 32 → channelsOn t d + 1 = channelsOn s d) ∧ ∀ a, memByte t a = if a / 2 ^ 44 = d then 0#8 else memByte s a) ∧
  (kind = 3 → getField t d 0x38 22 20 + 1 = getField s d 0x38 22 20 ∧ (3, d, num) ∈ t.unitsOff) ∧
  (kind = 4 → (∀ e, dieOn t e = (dieOn s e && !(e == num))) ∧ (∀ a, memByte t a = if a / 2 ^ 44 = num then 0#8 else memByte s a) ∧
    ∀ e, e < 12 → e ≠ num → fixedOf t e num = 0 ∧ swingOf t e num = 0 ∧ swingEn t e num = 0) ∧
  (kind ≤ 3 → ∀ e, dieOn t e = dieOn s e) ∧ (kind = 0 ∨ kind = 3 → ∀ a, memByte t a = memByte s a)

/-- The record of a unit that has left use, as a die makes it. -/
def goneRecord (at_ kind num die : Nat) : FaultRec :=
  { FaultRec.blank with
    cls := 11, code := Config.class11Code.toNat, job := supJob, die := at_, core := 127, aux := kind + 16 * die, info := num }

/-- The regions of a job on a die are revoked: at once where no accepted operation runs, else they are marked for it (08 R181, 17 R356). -/
def RegionsRevoked (s t : State) (d job : Nat) : Prop :=
  (∀ n, n < 512 → jobRegion s d job n = true → if regionBusy s d n = true then
      bit (getReg t d (regionOff n + 8)) 58 = true ∧ bit (getReg t d (regionOff n + 8)) 59 = true
    else bit (getReg t d (regionOff n + 8)) 58 = false) ∧
  (∀ n, n < 512 → jobRegion s d job n = false → getReg t d (regionOff n + 8) = getReg s d (regionOff n + 8)) ∧
  KeepsMemory s t ∧ t.threads = s.threads ∧ t.packets = s.packets ∧ t.kills = s.kills

/-- The register that a clearing read reads, by its row of the table. -/
def ClearingRead (m die : Nat) (i : Instr) (off : Nat) : Prop :=
  (i = .portCeStatusRead m die ∧ off = 0x810) ∨ (i = .dieFltLostRead m die ∧ off = 0x120) ∨ (i = .dieEccRead m die ∧ off = 0x148) ∨
    (∃ j, i = .dieLinkErrRead m die j ∧ off = 0x780 + 8 * (j % 12)) ∨ (i = .portNackRxRead m die ∧ off = 0x838) ∨
    (i = .portCeFallbkRead m die ∧ off = 0x848) ∨ (i = .portInswRefusedRead m die ∧ off = 0x850) ∨
    (∃ h, i = .dieHaltStateRead m die h ∧ off = 0x910 + 64 * (h % 16))

end Sys2Proof.Claims

/-- 08 R172 to R178, 20 R394 to R399, R406: the links and the port's transport. A DIR write turns the enabled lane groups whose bit changes round at both
ends, where BUSY is set for 256 ticks; a group that has turned drives again, or is taken out of use where it does not retrain, which both dies record; the
expected flit is taken and any other is asked for again; what is asked for is sent again; a repaired lane ends the count of retries; a Sync moves
the die's field time; a lock that is lost is cleared; an endpoint that is silent for TICKS is lost, with a record; a mark is cleared; a packet that fails
leaves its thread's failed set, or a poisoned result; and a message is sent again. The model's choices among these: whether a group retrains is a free
value, a die that has nothing to send sends an idle flit, and a sender sends none beyond 1,024 that its peer has not taken (log entry 83); the other dies
of the module follow a Sync in the same step, to within 10 ticks (log entry 84); a message that is sent again only counts, and what comes from a lost
endpoint is taken (log entry 81). -/
def Obligations.LinkEvents : Prop :=
  (∀ (s : State) (m die peer : Nat) (v : DWord), MayWrite s m die (0x700 + 8 * (peer % 12)) →
    exec (.linkSwingDirWrite m die peer v) s = .next (swingWrite s die (peer % 12) v.toNat)) ∧
  (∀ (s : State) (i j v : Nat), hasLink s i j = true → fixedOf s i j ≠ 0 → Rising s →
    let y := swingWrite s i j v
    getField y i (0x700 + 8 * j) 7 0 = v % 256 ∧ getField y j (0x700 + 8 * i) 7 0 = 255 - v % 256 ∧ KeepsMemory s y ∧ y.threads = s.threads ∧
    ∀ g, g < 8 →
      (bit (dirOf s i j) g ≠ bit v g → bit (swingEn s i j) g = true →
        bit (getReg y i (0x700 + 8 * j)) (8 + g) = true ∧ bit (getReg y j (0x700 + 8 * i)) (8 + g) = true ∧
          turnOf y (min i j) (max i j) g = some (ftime s (min i j) + 256)) ∧
      ((bit (dirOf s i j) g = bit v g ∨ bit (swingEn s i j) g = false) →
        bit (getReg y i (0x700 + 8 * j)) (8 + g) = bit (getReg s i (0x700 + 8 * j)) (8 + g) ∧
          bit (getReg y j (0x700 + 8 * i)) (8 + g) = bit (getReg s j (0x700 + 8 * i)) (8 + g) ∧
          turnOf y (min i j) (max i j) g = turnOf s (min i j) (max i j) g)) ∧
  (∀ (s : State) (i j v : Nat), (i = j ∨ 12 ≤ j) → swingWrite s i j v = s) ∧
  (∀ (s : State) (i j g t : Nat), i < j → turnOf s i j g = some t → t ≤ ftime s i →
    let s1 := setBusy (linkWith { s with free := s.free + 1 } i j { linkEnd s i j with turning := (linkEnd s i j).turning.filter fun t => t.1 ≠ g }) i j g false
    let s2 := if Config.freeBit s.free = true then s1 else loseGroup s1 i j true g
    exec (.swingTurnComplete i j g) s = .next s2 ∧ exec (.swingTurnComplete j i g) s = .next s2) ∧
  (∀ (s : State) (i j g : Nat) (b : Bool), i ≠ j → i < 12 → j < 12 → g < 8 → Rising s →
    bit (getReg (setBusy s i j g b) i (0x700 + 8 * j)) (8 + g) = b ∧ bit (getReg (setBusy s i j g b) j (0x700 + 8 * i)) (8 + g) = b ∧
      dirOf (setBusy s i j g b) i j = dirOf s i j ∧ swingEn (setBusy s i j g b) i j = swingEn s i j) ∧
  (∀ (s : State) (i j g : Nat), hasLink s i j = true → Rising s →
    (g < 8 → bit (swingEn s i j) g = true → 1 ≤ swingOf s i j → 1 ≤ swingOf s j i → ∃ z, loseGroup s i j true g = ifDown (linkDown s i j)
        (raiseAsync (raiseAsync z 8 1 supJob i 127 0 0 none (j + 16 + 32 * g) (fixedOf z i j + 16 * swingOf z i j)) 8 1 supJob j 127 0 0 none
          (i + 16 + 32 * g) (fixedOf z j i + 16 * swingOf z j i)) i j ∧
      bit (swingEn z i j) g = false ∧ bit (swingEn z j i) g = false ∧ swingOf z i j = swingOf s i j - 1 ∧ swingOf z j i = swingOf s j i - 1 ∧
      fixedOf z i j = fixedOf s i j ∧ fixedOf z j i = fixedOf s j i ∧ getField z 0 0x10 31 0 = (getField s 0 0x10 31 0 + 1) % 2 ^ 32 ∧ KeepsMemory s z) ∧
    (1 ≤ fixedOf s i j → 1 ≤ fixedOf s j i → ∃ z, loseGroup s i j false g = ifDown (linkDown s i j)
        (raiseAsync (raiseAsync z 8 1 supJob i 127 0 0 none j (fixedOf z i j + 16 * swingOf z i j)) 8 1 supJob j 127 0 0 none i
          (fixedOf z j i + 16 * swingOf z j i)) i j ∧
      fixedOf z i j = fixedOf s i j - 1 ∧ fixedOf z j i = fixedOf s j i - 1 ∧ swingEn z i j = swingEn s i j ∧ swingOf z i j = swingOf s i j ∧
      getField z 0 0x10 31 0 = (getField s 0 0x10 31 0 + 1) % 2 ^ 32 ∧ KeepsMemory s z) ∧
    ((8 ≤ g ∨ bit (swingEn s i j) g = false) → loseGroup s i j true g = s) ∧ (fixedOf s i j = 0 → loseGroup s i j false g = s)) ∧
  (∀ (s : State) (i j : Nat), (linkDown s i j = false → ifDown false s i j = s) ∧ ifDown true s i j = s ∧
    (linkDown s i j = true → ifDown false s i j =
      failLost (raiseAsync (raiseAsync s 8 2 supJob i 127 0 0 none j 0) 8 2 supJob j 127 0 0 none i 0))) ∧
  (∀ (s : State) (die peer : Nat) (f : BitVec 512), hasLink s die peer = true →
    let l := linkEnd s die peer
    let p := linkEnd s peer die
    let x := linkWith s peer die (p.idle l.rx)
    (p.tx ≤ l.rx → flitOk f l.rx = true → isIdle f = false → exec (.flitReceive die peer f) s = .next s) ∧
    (l.rx < p.tx ∨ isIdle f = true →
      (flitOk f l.rx = true → l.partFlits = [] → isIdle f = true →
        exec (.flitReceive die peer f) s =
          .next (pumpLink (linkWith x die peer { l with rx := l.rx + 1, retries := 0, partFlits := [] }) peer die)) ∧
      (flitOk f l.rx = true → (l.partFlits ≠ [] ∨ isIdle f = false) →
        exec (.flitReceive die peer f) s = .next (takePacket
          (pumpLink (linkWith x die peer { l with rx := l.rx + 1, retries := 0, partFlits := l.partFlits ++ [f] }) peer die) die peer))) ∧
    (flitOk f l.rx = false → flitAhead f l.rx = true → l.retries = 0 → exec (.flitReceive die peer f) s = .next (askRetry x die peer)) ∧
    (flitOk f l.rx = false → flitAhead f l.rx = false →
      exec (.flitReceive die peer f) s = .next (askRetry (bumpField x die (0x780 + 8 * peer) 31 16) die peer))) ∧
  (∀ (rx : Nat) (p : LinkEnd), (rx < p.tx → p.idle rx = p) ∧
    (p.tx ≤ rx → ∃ g, p.idle rx = { p with tx := p.tx + 1, kept := (g :: p.kept).take 1024 } ∧ isIdle g = true ∧ flitOk g p.tx = true)) ∧
  (∀ (rx n : Nat) (p : LinkEnd) (bs : List Byte) (r : List (List Byte)), p.queue = bs :: r → bs.length = 62 → p.tx < rx + 1024 →
    ∃ g, p.pump rx (n + 1) = LinkEnd.pump rx n { p with tx := p.tx + 1, kept := (g :: p.kept).take 1024, queue := r } ∧
      (flitBytes g).take 62 = bs ∧ flitOk g p.tx = true) ∧
  (∀ (s : State) (die peer : Nat), die ≠ peer → peer < 12 → let l := linkEnd s die peer
    askRetry s die peer = linkWith (bumpField s die (0x780 + 8 * peer) 15 0) die peer
      { ({ l with queue := l.queue ++ retryFlits die l.rx }).pump (linkEnd s peer die).rx 1024 with retries := l.retries + 1 } ∧
    getField (askRetry s die peer) die (0x780 + 8 * peer) 15 0 = min (getField s die (0x780 + 8 * peer) 15 0 + 1) 65535) ∧
  (∀ die n : Nat, ∃ b, retryFlits die n = [b] ∧ b.length = 62 ∧ leNat (b.take 8) % 16 = 11 ∧ bits (leNat (b.take 8)) 15 8 = 1 ∧
    leNat ((b.drop 8).take 8) / 2 ^ 57 = 16 ∧ leNat ((b.drop 16).take 2) = n % 65536) ∧
  (∀ (s : State) (die peer : Nat) (f : BitVec 512) (r : List (BitVec 512)), let l := linkEnd s die peer
    let w := leNat ((flitBytes f).take 8)
    let k := (l.tx + 65536 - leNat (((flitBytes f).drop 16).take 2) % 65536) % 65536
    l.partFlits = f :: r →
    (r.length + 1 < bits w 15 8 → takePacket s die peer = s) ∧
    (bits w 15 8 ≤ r.length + 1 → bits w 3 0 ≠ 11 → takePacket s die peer = linkWith s die peer { l with partFlits := [] }) ∧
    (bits w 15 8 = 1 → bits w 3 0 = 11 → leNat (((flitBytes f).drop 8).take 8) / 2 ^ 57 = 16 → 1 ≤ k → k ≤ l.kept.length →
      takePacket s die peer = linkWith s die peer { l with partFlits := [], resend := (l.kept.take k).reverse })) ∧
  (∀ (s : State) (die peer : Nat) (n : BitVec 16), hasLink s die peer = true →
    let l := linkEnd s die peer
    let k := (l.tx + 65536 - n.toNat) % 65536
    1 ≤ k → k ≤ l.kept.length → exec (.retryRequest die peer n) s = .next (linkWith s die peer { l with resend := (l.kept.take k).reverse })) ∧
  (∀ (s : State) (die peer g : Nat) (swing : Bool), hasLink s die peer = true → 16 < (linkEnd s die peer).retries →
    let s1 := linkWith s die peer { linkEnd s die peer with retries := 0 }
    exec (.laneDiagnosis die peer true swing g) s = .next s1 ∧ exec (.laneDiagnosis die peer false swing g) s = .next (loseGroup s1 die peer swing g)) ∧
  (∀ (s : State) (die : Nat) (off : Int) (bound : Nat), dieOn s die = true → off.natAbs < 1000 →
    ∃ t, exec (.ptpMessage die off bound) s = .next t ∧ getReg t die 0x840 = 1 + min bound (2 ^ 32 - 1) * 2 ^ 32 ∧
      (mapWf 0 s.ftime = true → ftime t die = (ftime s die + (if off < 0 then off.natAbs else 0)) % 2 ^ 64) ∧
      (mapWf 0 s.slew = true → mapGet 0 t.slew die = if off < 0 then 0 else off.natAbs) ∧ (mapWf 0 s.syncAt = true → mapGet 0 t.syncAt die = s.cycle) ∧
      KeepsMemory s t ∧ t.threads = s.threads) ∧
  (∀ (s : State) (die e : Nat) (off : Int) (bound : Nat), dieOn s die = true → dieOn s e = true → off.natAbs < 1000 → mapWf 0 s.ftime = true →
    (∀ d, ftimeRun s d < 2 ^ 63) →
    ∃ t, exec (.ptpMessage die off bound) s = .next t ∧ ftimeRun t die ≤ ftimeRun t e + 10 ∧ ftimeRun s e ≤ ftimeRun t e) ∧
  (∀ (s : State) (die : Nat) (off : Int) (bound : Nat), dieOn s die = true → locked s die = true → 1000 ≤ off.natAbs →
    exec (.ptpMessage die off bound) s = .next (loseLock s die off)) ∧
  (∀ (s : State) (die : Nat) (off : Int), dieOn s die = true → locked s die = true →
    (mapGet 0 s.syncAt die + 8000000000 ≤ s.cycle ∨ 1000 ≤ off.natAbs) → exec (.ptpLockLost die off) s = .next (loseLock s die off)) ∧
  (∀ (s : State) (die : Nat) (off : Int), ∃ z, loseLock s die off = raiseAsync z 8 11 supJob die 127 0 0 none 0 (patN 64 off) ∧
    (Rising s → getReg z die 0x840 = 2 ^ 64 - 2 ^ 32) ∧ z.ftime = s.ftime) ∧
  (∀ (s : State) (die n d : Nat), let ps := owedPackets s die n d
    let ms := owedMsgs s die n d
    let ticks := getField s die 0x828 31 0
    n ≠ moduleId s → dieOn s die = true → (die, n, d) ∉ s.lost → ((∃ p ∈ ps, ticks ≤ ageTicks s p.sent) ∨ ∃ m ∈ ms, ticks ≤ ageTicks s m.sent) →
    exec (.peerLost die n d) s = .next (failLost (failPackets (raiseAsync { s with lost := s.lost ++ [(die, n, d)] } 8 3 supJob die 127 0 0 none
      (n % 8192 + d % 16 * 2 ^ 13) (ps.length + ms.length)) (ps.filter (·.body.answers))))) ∧
  (∀ (s : State) (a b : Nat × Nat), a.1 = moduleId s → b.1 ≠ moduleId s → (cutOff s a b = true ↔ (a.2, b.1, b.2) ∈ s.lost) ∧ cutOff s b a = false) ∧
  (∀ (s : State) (p : Packet) (u : Nat), p.eng = none → p.uid = some u →
    (p.body.isStore = true → ∀ t ∈ (failPacket s p).threads, t.uid = u → unitEnd s p.dst ∈ t.failed) ∧
    (∀ pa n rid k g, p.body = .read pa n rid k g → ∀ r ∈ (failPacket s p).results, r.id = rid → r.ready = true ∧ r.poisoned = true) ∧
    (failPacket s p).packets = s.packets.filter (fun q => q.id ≠ p.id) ∧ (failPacket s p).mem = s.mem ∧ (failPacket s p).cells = s.cells) ∧
  (∀ (s : State) (m die : Nat) (v : DWord), MayWrite s m die 0x830 → bit v.toNat 17 = true →
    ∃ t, exec (.portPeerClrGo m die v) s = .next t ∧ t.lost = s.lost.filter (· ≠ (die, bits v.toNat 12 0, bits v.toNat 16 13)) ∧ KeepsMemory s t ∧
      t.threads = s.threads) ∧
  (∀ (s : State) (msg : Nat), exec (.transportRetransmission msg) s = .next { s with
    fabric := s.fabric.map fun m =>
      if m.id = msg ∧ m.smod = moduleId s ∧ m.dmod ≠ moduleId s ∧ m.body.isRequest = true then { m with sends := m.sends + 1 } else m })

/-- 09 R199 to R207, 20 R411, R412: the halt wave. A halt command starts a halt in PHASE 0 and sends its token; thaw-arm arms a halted die; go sends T; step runs
one instruction of its target; the tokens do so at every die they reach, and HSEQ, the cause registers and PHASE follow R201 and R206; a die that has
drained, or not in time, is halted and adds 1 to DONE, and adds 1 again when it is armed; at T it resumes, or at once where T has passed, with GOLATE as
the time since, the held traffic sent first and the time limits extended; and a step that has drained gives its result. OCORE 127 for a halt that CMD 1
starts, STEPRES 2 for SKIND 3, and what a die without a slot keeps are the model's readings (log entry 61). -/
def Obligations.HaltEvents : Prop :=
  (∀ (s : State) (m die h : Nat), WaveSlot s die h → MayWrite s m die (0x930 + 64 * h) →
    (phaseOf s die h = 0 → exec (.haltCmdHalt m die h) s = .next (startHalt s die h 127 0 0 3 0)) ∧
    (phaseOf s die h ≠ 0 → exec (.haltCmdHalt m die h) s = .next s) ∧
    (phaseOf s die h = 2 → exec (.haltCmdThawArm m die h) s = .next (armDie s die h (armToken s die h))) ∧
    (phaseOf s die h = 1 → exec (.haltCmdThawArm m die h) s = .next (modHaltWork s die h fun w =>
      { w with armHeld := some (match w.armHeld with | some b => b | none => .done) })) ∧
    (phaseOf s die h = 0 ∨ phaseOf s die h = 3 → exec (.haltCmdThawArm m die h) s = .next s) ∧
    (phaseOf s die h ≠ 3 → exec (.haltCmdGo m die h) s = .next s) ∧
    (let at' := getReg s die (0x938 + 64 * h)
     let go := (haltWorkOf s die h).bind (·.goT)
     let y := sendToken s die h (waveToken s die h 2 at')
     phaseOf s die h = 3 →
      (go ≠ none → exec (.haltCmdGo m die h) s = .next y) ∧
      (go = none → exec (.haltCmdGo m die h) s = .next (takeGo y die h (BitVec.ofNat 64 at')))) ∧
    (∀ k c l x, k < 4 → c < 128 → l < 32 → x < 64 →
      (phaseOf s die h < 2 → exec (.haltCmdStep m die h k c l x) s = .next (setStep s die h 0 2)) ∧
      (2 ≤ phaseOf s die h → getField s die (0x910 + 64 * h) 18 18 ≠ 1 →
        exec (.haltCmdStep m die h k c l x) s = .next (beginStep s die h [k, c, l, x] none)))) ∧
  (∀ (s : State) (d h : Nat) (b : NetBody), ∃ ms, Tokens s d (some (getField s d (hoff h) 40 17)) b ms ∧
    sendToken s d h b = { s with fabric := (sendToken s d h b).fabric, fresh := s.fresh + ms.length } ∧ (sendToken s d h b).fabric = s.fabric ++ ms) ∧
  (∀ (s : State) (d h core lane slot cause pc : Nat), h < 16 → Rising s → phaseOf s d h = 0 →
    let y := startHalt s d h core lane slot cause pc
    let q := (hseqOf s d h + 1) % 65536
    let origin := [moduleId s, d, core, lane, slot]
    phaseOf y d h = 1 ∧ CauseOf y d h q (ftime s d) origin cause pc ∧ (∃ w, haltWorkOf y d h = some w ∧ w.since = ftime s d ∧ w.goT = none) ∧
      (∃ ms, y.fabric = s.fabric ++ ms ∧ Tokens s d (some (getField s d (hoff h) 40 17))
        (.token 0 (getField s d (hoff h) 15 0) (BitVec.ofNat 64 (ftime s d)) q origin cause (BitVec.ofNat 57 pc)) ms) ∧
      y.threads = s.threads ∧ KeepsMemory s y) ∧
  (∀ (s : State) (d h hseq stamp cause pc : Nat) (origin : List Nat), h < 16 → Rising s → hseq < 65536 → stamp < 2 ^ 64 →
    let y := takeCause s d h hseq stamp origin cause pc
    CauseOf y d h hseq stamp origin cause pc ∧ phaseOf y d h = (if phaseOf s d h = 0 then 1 else phaseOf s d h) ∧
      (phaseOf s d h = 0 → ∃ w, haltWorkOf y d h = some w ∧ w.since = ftime s d) ∧ y.threads = s.threads ∧ y.fabric = s.fabric ∧ KeepsMemory s y) ∧
  (∀ (s : State) (msg job hseq cause : Nat) (m : NetMsg) (stamp : DWord) (origin : List Nat) (pc : VAddr),
    (TokenComes s msg 0 job m stamp hseq origin cause pc →
      exec (.haltTokenHalt msg) s = .next (haltToken (dropMsg s msg) m.ddie job stamp.toNat hseq origin cause pc m.body)) ∧
    (TokenComes s msg 1 job m stamp hseq origin cause pc →
      exec (.haltTokenThawArm msg) s = .next (thawToken (dropMsg s msg) m.ddie job hseq m.body)) ∧
    (TokenComes s msg 2 job m stamp hseq origin cause pc →
      exec (.haltTokenGo msg) s = .next (goToken (dropMsg s msg) m.ddie job hseq stamp m.body))) ∧
  (∀ (s : State) (d h job stamp hseq cause : Nat) (origin : List Nat) (pc : VAddr) (b : NetBody), waveSlot s d job = some h →
    let y := haltToken s d job stamp hseq origin cause pc b
    (phaseOf s d h = 0 → seqAbove hseq (hseqOf s d h) = true →
      y = sendToken (takeCause (drainJobRays s d job) d h hseq stamp origin cause pc.toNat) d h b) ∧
    (phaseOf s d h ≠ 0 → (seqAbove hseq (hseqOf s d h) = true ∨ (hseq = hseqOf s d h ∧ ∃ w k, haltWorkOf s d h = some w ∧ w.least = some k ∧
        keyLess (stamp :: origin) k = true)) → y = sendToken (takeCause s d h hseq stamp origin cause pc.toNat) d h b) ∧
    (phaseOf s d h = 0 → seqAbove hseq (hseqOf s d h) = false → y = s) ∧
    (phaseOf s d h ≠ 0 → seqAbove hseq (hseqOf s d h) = false → hseq ≠ hseqOf s d h → y = s) ∧
    (∀ w k, phaseOf s d h ≠ 0 → seqAbove hseq (hseqOf s d h) = false → haltWorkOf s d h = some w → w.least = some k →
      keyLess (stamp :: origin) k = false → y = s)) ∧
  (∀ (s : State) (d job stamp hseq cause : Nat) (origin : List Nat) (pc : VAddr) (b : NetBody), waveSlot s d job = none →
    haltWorkOf s d (16 + job) = none →
    ∃ ms, (haltToken s d job stamp hseq origin cause pc b).fabric = s.fabric ++ ms ∧ Tokens s d none b ms ∧
      (haltToken s d job stamp hseq origin cause pc b).threads = s.threads ∧ (haltToken s d job stamp hseq origin cause pc b).mregs = s.mregs) ∧
  (∀ (s : State) (d h job hseq : Nat) (b : NetBody), waveSlot s d job = some h →
    (hseq ≠ hseqOf s d h ∨ phaseOf s d h = 0 ∨ phaseOf s d h = 3 → thawToken s d job hseq b = s) ∧
    (hseq = hseqOf s d h → phaseOf s d h = 1 → thawToken s d job hseq b = modHaltWork s d h fun w => { w with armHeld := some b }) ∧
    (hseq = hseqOf s d h → phaseOf s d h = 2 → thawToken s d job hseq b = armDie s d h b)) ∧
  (∀ (s : State) (d h job hseq : Nat) (t : DWord) (b : NetBody), waveSlot s d job = some h → let go := (haltWorkOf s d h).bind (·.goT)
    (hseq ≠ hseqOf s d h ∨ phaseOf s d h ≠ 3 ∨ go ≠ none → goToken s d job hseq t b = s) ∧
    (hseq = hseqOf s d h → phaseOf s d h = 3 → go = none → goToken s d job hseq t b = takeGo (sendToken s d h b) d h t)) ∧
  (∀ (s : State) (d job hseq : Nat) (t : DWord) (b : NetBody), waveSlot s d job = none → thawToken s d job hseq b = s ∧ goToken s d job hseq t b = s) ∧
  (∀ (s : State) (d h : Nat) (b : NetBody), let done := getReg s d (hoff h + 8)
    h < 16 → Rising s → SoundHere s done → hDie done = d →
    let y := armDie s d h b
    phaseOf y d h = 3 ∧ CellMoved (setField s d (hoff h + 16) 1 0 3) y done ((cellGet s done + 1) % 2 ^ 64) ∧
      (∃ ms, y.fabric = s.fabric ++ ms ∧ Tokens s d (some (getField s d (hoff h) 40 17)) b ms)) ∧
  (∀ (s : State) (d h : Nat), let done := getReg s d (hoff h + 8)
    let held := (haltWorkOf s d h).bind (·.armHeld)
    h < 16 → Rising s → SoundHere s done → hDie done = d →
    (held = none → phaseOf (becomeHalted s d h) d h = 2 ∧
      CellMoved (setField s d (hoff h + 16) 1 0 2) (becomeHalted s d h) done ((cellGet s done + 1) % 2 ^ 64) ∧ (becomeHalted s d h).fabric = s.fabric) ∧
    (∀ b, held = some b → (b = .done ∨ ∃ o job stamp origin cause pc, b = .token o job stamp (hseqOf s d h) origin cause pc) →
      ∃ y, becomeHalted s d h = armDie y d h (if b = .done then armToken s d h else b) ∧ phaseOf y d h = 2 ∧
        CellMoved (setField s d (hoff h + 16) 1 0 2) y done ((cellGet s done + 1) % 2 ^ 64))) ∧
  (∀ (s : State) (die h : Nat), h < 16 → bit (getReg s die (hoff h)) 16 = true → phaseOf s die h = 1 →
    let job := getField s die (hoff h) 15 0
    (netOutstanding s die job = 0 → raysOut (drainJobRays s die job) die job = false →
      exec (.haltDrained die h) s = .next (becomeHalted (drainJobRays s die job) die h)) ∧
    ((∃ w, haltWorkOf s die h = some w ∧ w.since + getField s die 0xD00 31 0 ≤ ftime s die) →
      exec (.haltDrainTimeout die h) s =
        .next (becomeHalted (drainJobRays (raiseAsync s 10 1 job die 127 0 0 none h (netOutstanding s die job)) die job) die h))) ∧
  (∀ (s : State) (d h : Nat) (t : DWord),
    (ftime s d < t.toNat → takeGo s d h t = modHaltWork s d h (fun w => { w with goT := some t }) ∧
      ∃ w, haltWorkOf (takeGo s d h t) d h = some w ∧ w.goT = some t) ∧
    (t.toNat ≤ ftime s d → takeGo s d h t = beginGo (modHaltWork s d h fun w => { w with goT := some t }) d h (ftime s d))) ∧
  (∀ (s : State) (die h : Nat) (w : HaltWork) (t : DWord), haltWorkOf s die h = some w → w.goT = some t → h < 16 → phaseOf s die h = 3 →
    t.toNat ≤ ftime s die →
    (w.going = none → exec (.haltGoAtT die h) s = .next (beginGo s die h t.toNat)) ∧
    (w.going ≠ none → exec (.haltGoAtT die h) s = .next (goOnward s die h))) ∧
  (∀ (s : State) (die h at' : Nat), beginGo s die h at' = goOnward (modHaltWork s die h fun w => { w with going := some (s.fresh, at') }) die h) ∧
  (∀ (s : State) (die h n at' : Nat) (w : HaltWork) (t : DWord), haltWorkOf s die h = some w → w.going = some (n, at') → w.goT = some t →
    let job := getField s die (hoff h) 15 0
    let x := startOps s
    let y := assignAll die x (x.portOps.filter fun o => o.die == die && o.job == job && o.isRw && !o.started && o.id < n)
    (heldLeft y die job n = true → goOnward s die h = y) ∧
    (heldLeft y die job n = false → goOnward s die h = resumeDie y die h (at' - t.toNat) at') ∧
    (s.portOps = [] → y = s) ∧ (heldLeft y die job n = true ↔ (∃ o ∈ y.portOps, heldSend y die job n o = true) ∨
      ∃ p ∈ y.packets, p.job = job ∧ p.release ≠ none ∧ p.src < 1536 ∧ dieOf p.src = die ∧ p.id < n ∧ hasLeft y p = false ∧ releaseFails y p = false)) ∧
  (∀ (s : State) (die h late at' : Nat), h < 16 → Rising s →
    let job := getField s die (hoff h) 15 0
    let x := resumeDie s die h late at'
    let ext := at' - ((haltWorkOf s die h).map (·.since)).getD 0
    (∀ z ∈ x.threads, dieOf z.core = die → z.job = job → z.trapped = false) ∧
    (s.waiters = [] → s.packets = [] →
      phaseOf x die h = 0 ∧ getField x die (hoff h + 16) 63 32 = min late (2 ^ 32 - 1) ∧
      (∀ y ∈ s.threads, dieOf y.core = die → y.job = job →
        ∃ z ∈ x.threads, z.uid = y.uid ∧ z.trapped = false ∧ z.age = s.cycle + 1 ∧ z.pc = y.pc ∧ z.regs = y.regs ∧
          ∀ sc once all dl dest df cs k, y.wait = .cwait sc once all (some dl) dest df cs k →
            z.wait = .cwait sc once all (some (dl + ext)) dest df cs k) ∧
      (∀ b ∈ s.bins, dieOf b.core = die → b.job = job → { b with deadline := b.deadline + ext, since := b.since + ext } ∈ x.bins) ∧
      (∀ f ∈ s.flocks, dieOf f.core = die → f.job = job → { f with since := f.since + ext } ∈ x.flocks))) ∧
  (∀ (s : State) (t : Thread) (h : Nat), haltSlot s (dieOf t.core) t.job = some h → phaseOf s (dieOf t.core) h ≠ 0 →
    (heldBack s t = false ↔ ∃ w ∈ s.halts, w.die = dieOf t.core ∧ t.uid ∈ w.stepping)) ∧
  (∀ (s : State) (g : List Nat) (u : Nat), u ∈ g → didIssue s u = true → ∀ w ∈ (markStepped g s).halts, u ∉ w.stepping) ∧
  (∀ (s : State) (d h busy res : Nat), h < 16 → busy < 2 → res < 4 → Rising s →
    getField (setStep s d h busy res) d (hoff h + 16) 18 18 = busy ∧ getField (setStep s d h busy res) d (hoff h + 16) 20 19 = res ∧
      phaseOf (setStep s d h busy res) d h = phaseOf s d h) ∧
  (∀ (s : State) (d h k c l x : Nat), let job := getField s d (hoff h) 15 0
    let t := stepTarget s (128 * d + c) job l x
    let ts := stepThreads s (128 * d + c) job k t
    (3 ≤ k → beginStep s d h [k, c, l, x] none = setStep s d h 0 2) ∧
    (k ≤ 2 → ts ≠ [] → beginStep s d h [k, c, l, x] none =
      modHaltWork (setStep s d h 1 0) d h fun w => { w with stepping := ts.map (·.uid), stepAt := s.fresh, asker := none }) ∧
    (k ≤ 2 → ts = [] → (k = 2 ∨ t = none) → beginStep s d h [k, c, l, x] none = setStep s d h 0 2) ∧
    (∀ y, k ≤ 1 → ts = [] → t = some y → ((∃ sc q, y.wait = .cwt sc q) ∨ ∃ sc on al dl dest df cs q, y.wait = .cwait sc on al dl dest df cs q) →
      (∀ s1, testWait s y = some s1 → beginStep s d h [k, c, l, x] none =
        modHaltWork (setStep s1 d h 1 0) d h fun w => { w with stepped := [y.uid], stepAt := s.fresh, asker := none }) ∧
      (testWait s y = none → beginStep s d h [k, c, l, x] none = setStep s d h 0 1))) ∧
  (∀ (s : State) (t : Thread) (sc : Nat) (c : Cond), t.wait = .cwt sc c → badHandle s c.handle.toNat = none → cellPoisoned s c.handle.toNat = false →
    (condMet (cellGet s c.handle.toNat) c.thresh.toNat = true → ∃ s1, testWait s t = some s1 ∧ (∀ x ∈ s1.threads, x.uid = t.uid → x.wait = .none) ∧
      s1.mem = s.mem ∧ s1.cells = s.cells) ∧
    (condMet (cellGet s c.handle.toNat) c.thresh.toNat = false → testWait s t = none)) ∧
  (∀ (s : State) (die h : Nat) (w : HaltWork), haltWorkOf s die h = some w → h < 16 → getField s die (hoff h + 16) 18 18 = 1 → stepDrained s w = true →
    exec (.stepComplete die h) s = .next (nextStep (wakeStepWait (tellAsker (modHaltWork (setField s die (hoff h + 16) 18 18 0) die h
      fun w => { w with stepped := [], asker := none }) die h w.asker) die h) die h))

/-- 14 R337 to R342, 17 R363: resets and the image. A warm or a cold reset, and power-up, leave nothing of threads and work, in LOCKED; a warm one keeps memory
and field time, a cold one clears the module's memory and takes field time from PTP, and a write with both bits is cold; any other write of MOD_RESET has no
effect; power-off ends everything; an image is asked for by GO; one that passes its checks is copied, and the boot flock is placed at ENTRY; one that fails a
check is rejected with the REASON of the first; and each SPDM request is answered by a port whose die is enabled and whose link is up. The model's choices among these: a local
store that is not written holds 0 (log entry 6); a function at power-up has no vector open or pending (PRESUMED, log entry 11); a length outside its limits
is REASON 1 before the link is looked at (log entry 14); and a port whose link is down answers no SPDM request (log entry 15). -/
def Obligations.ResetEvents : Prop :=
  (∀ (s : State) (m die ft : Nat) (v : DWord), MayWrite s m die 0xA0 → m < 2 →
    (bit v.toNat 0 = true → bit v.toNat 1 = false → ∃ t, exec (.warmReset m die v) s = .next t ∧ ResetTo s t ∧ WarmKept s t) ∧
    (bit v.toNat 1 = true →
      (∃ t n, exec (.warmReset m die v) s = .next t ∧ ResetTo s t ∧ ColdLeft s t n) ∧
      ∃ t, exec (.coldReset m die v ft) s = .next t ∧ ResetTo s t ∧ ColdLeft s t ft) ∧
    (bit v.toNat 0 = false → bit v.toNat 1 = false → exec (.warmReset m die v) s = .next s ∧ exec (.coldReset m die v ft) s = .next s)) ∧
  (∀ (s : State) (m die ft : Nat) (v : DWord), MayWrite s m die 0xA0 → 2 ≤ m →
    exec (.warmReset m die v) s = .next s ∧ exec (.coldReset m die v ft) s = .next s) ∧
  (∀ (s u : State) (m die ft : Nat) (v : DWord),
    (mgmtStop s m die 0xA0 true = some u → exec (.warmReset m die v) s = .next u ∧ exec (.coldReset m die v ft) s = .next u) ∧
    (mgmtStop s m die 0xD0 true = some u → exec (.imageLoadGo m die v) s = .next u)) ∧
  (∀ (s : State) (ft : Nat),
    (s.power = .off → ∃ t, exec (.powerUp ft) s = .next t ∧ ResetTo s t ∧ ColdLeft s t ft ∧ t.portDown = [] ∧ t.msixOpen = [] ∧ t.msixPend = []) ∧
    (s.power ≠ .off → exec (.powerUp ft) s = .next s)) ∧
  (∀ (s : State), exec .powerOff s = .next { s with power := .off }) ∧
  (∀ (s : State) (m die : Nat) (v : DWord), MayWrite s m die 0xD0 →
    exec (.imageLoadGo m die v) s = .next
      (if m < 2 ∧ bit v.toNat 0 = true ∧ s.power = .locked ∧ (imgState s = 0 ∨ imgState s = 3) then { setReg s 0 0xD8 1 with imgPort := some m } else s)) ∧
  (∀ (s : State), s.imgPort = none → exec .imageCheckComplete s = .next s) ∧
  (∀ (s : State) (p : Nat), s.imgPort = some p →
    let at' := 2 ^ 64 * (p + 1) + getReg s 0 0xC0
    let h := memBytes s at' 4096
    let body := memBytes s (at' + 4096) (leNat ((h.drop 0x20).take 8))
    let entry := leNat ((h.drop 0x18).take 8)
    imgLimits s h = true → imgReason s (has s.portDown p) h body = none →
    ∃ t, exec .imageCheckComplete s = .next t ∧ t.power = .run ∧ t.imgPort = none ∧ imgState t = 2 ∧
      t.mem = (memWrite s (leNat ((h.drop 0x10).take 8)) body).mem ∧
      (∀ d c, bootCore s = some (d, c) → ∃ us, t.threads = s.threads ++ us ∧ us.length = 32 ∧
        ∀ l < 32, ∃ u, us[l]? = some u ∧ u.core = 128 * d + c ∧ u.lane = l ∧ u.pc = BitVec.ofNat 57 entry ∧ u.job = 0xFFFF ∧ u.tnum = BitVec.ofNat 32 l)) ∧
  (∀ (s : State) (p : Nat), s.imgPort = some p →
    let at' := 2 ^ 64 * (p + 1) + getReg s 0 0xC0
    let h := memBytes s at' 4096
    let body := if imgLimits s h then memBytes s (at' + 4096) (leNat ((h.drop 0x20).take 8)) else []
    let rejected : Nat → Prop := fun r => ∃ t, exec .imageCheckComplete s = .next t ∧ t.power = s.power ∧ t.mem = s.mem ∧ t.threads = s.threads ∧
      t.imgPort = none ∧ getReg t 0 0xD8 = 3 + 2 ^ 8 * r
    (imgFieldsBad s = true → rejected 1) ∧ (imgFieldsBad s = false → p ∈ s.portDown → rejected 2) ∧
      (imgLimits s h = false → p ∉ s.portDown → rejected 1) ∧
      (∀ r, imgReason s (has s.portDown p) h body = some r → r ≤ 8 ∧ rejected r)) ∧
  (∀ (s : State) (port : Nat) (nonce : BitVec 256), port ∉ s.portDown → dieOn s (portDie port) = true →
    let out : Nat → List Byte → Host.Outcome State Fault Refusal := fun k b => .next { s with hostOut := .spdm port k b :: s.hostOut }
    exec (.getVersion port) s = out 0 (Config.spdmFixed 0) ∧ exec (.getCapabilities port) s = out 1 (Config.spdmFixed 1) ∧
    exec (.negotiateAlgorithms port) s = out 2 (Config.spdmFixed 2) ∧
    exec (.getDigests port) s = out 3 (natLe 48 (Config.sha384 Config.certChain).toNat) ∧ exec (.getCertificate port) s = out 4 Config.certChain ∧
    exec (.challenge port nonce) s = out 5 (Config.challengeSign nonce) ∧
    exec (.getMeasurements port) s = out 6 (natLe 48 Config.bootMeasurement.toNat ++ natLe 48 ((s.imgDigest.map (·.toNat)).getD 0) ++
      natLe 8 (getReg s 0 0x10) ++ natLe 8 (getReg s 0 0x8) ++ (upFrom 0 12).flatMap (capBytes s) ++ natLe 8 (getReg s 0 0x90))) ∧
  (∀ (s : State) (port : Nat) (nonce : BitVec 256), port ∈ s.portDown ∨ dieOn s (portDie port) = false →
    exec (.getVersion port) s = .next s ∧ exec (.getCapabilities port) s = .next s ∧ exec (.negotiateAlgorithms port) s = .next s ∧
    exec (.getDigests port) s = .next s ∧ exec (.getCertificate port) s = .next s ∧ exec (.challenge port nonce) s = .next s ∧
    exec (.getMeasurements port) s = .next s)

/-- 00 R7, R9, 01 R20, 14 R331 to R335, 17 R356 to R360, 20 R413: accesses to the management block and to memory by the hosts and the supervisor, under the access
tables. A write stores its fields by their access codes and starts what its GO bits start; a clearing read answers with the register and clears its RC fields;
what a table denies, or a reserved offset, is completed with Unsupported Request and recorded, and a supervisor's has no effect; a unit that leaves use is
gone from the capabilities, which every enabled die records; a job that is killed leaves no thread, and is over when nothing of it runs; a host's
write leaves for its home, and its read answers with the bytes there. That what is under way keeps its meaning under a new module number, and the view of
the counters of the module that had it goes, is the model's choice (log entry 115); which KIND judges NUM, and that ranges hold in tables, is the
model's too (log entry 98). -/
def Obligations.ManagementEvents : Prop :=
  (∀ (s : State) (d off v : Nat), Rising s → StoredFields s (regWritePlain s d off v) d off v ∧
    (regWritePlain s d off v).mem = s.mem ∧ (regWritePlain s d off v).cells = s.cells ∧ (regWritePlain s d off v).threads = s.threads) ∧
  (∀ (s : State) (d off : Nat), Rising s → regFieldsOn d off ≠ none → ReadFields s (regRead s d off).2 d off (regRead s d off).1) ∧
  (∀ (s : State) (m die : Nat) (v : DWord), MayWrite s m die 0 →
    let n := setBits (getReg s 0 0) 12 0 (v.toNat % 2 ^ 13)
    exec (.modIdWrite m die v) s = .next (renumber (setReg s 0 0 n) (getReg s 0 0) (getReg (setReg s 0 0 n) 0 0))) ∧
  (∀ (s : State) (m die : Nat) (v : DWord), MayWrite s m die 0 → Rising s → moduleId s < 2 ^ 13 → (∀ c ∈ s.cells, c.1 < 2 ^ 64) →
    mapWf 0#64 s.cells = true →
    ∃ t, exec (.modIdWrite m die v) s = .next t ∧ moduleId t = v.toNat % 2 ^ 13 ∧ OtherRegs s t 0 0 ∧ t.mem = s.mem ∧ t.threads = s.threads ∧
      ∀ h, h < 2 ^ 64 →
        (hModule h = moduleId s → mapGet 0#64 t.cells (setBits h 60 48 (moduleId t)) = mapGet 0#64 s.cells h) ∧
        (hModule h ≠ moduleId s → hModule h ≠ moduleId t → mapGet 0#64 t.cells h = mapGet 0#64 s.cells h)) ∧
  (∀ (s : State) (m die : Nat) (v : DWord), MayWrite s m die 0x138 → bit v.toNat 16 = true → Rising s →
    let job := bits v.toNat 15 0
    ∃ x y, exec (.jobKillGo m die v) s = .next y ∧ x.kills = s.kills ++ [(die, job)] ∧ y = finishKill x die job ∧
      (∀ t ∈ x.threads, ¬(dieOf t.core = die ∧ t.job = job)) ∧ (∀ f ∈ x.flocks, ¬(dieOf f.core = die ∧ f.job = job))) ∧
  (∀ (s : State) (m die : Nat) (v : DWord), MayWrite s m die 0x138 → bit v.toNat 16 = false →
    exec (.jobKillGo m die v) s = .next (regWritePlain s die 0x138 v.toNat)) ∧
  (∀ (s : State) (die job : Nat), Rising s → RegionsRevoked s (revokeRegions die job s (upFrom 0 512)) die job) ∧
  (∀ (s : State) (die job : Nat), let z := revokeRegions die job s (upFrom 0 512)
    (jobGone z die job = false → finishKill s die job = z) ∧
    (jobGone z die job = true → SoundHere z (getReg z die 0x140) → hDie (getReg z die 0x140) = die →
      (finishKill s die job).kills = s.kills.erase (die, job) ∧
      CellMoved z (finishKill s die job) (getReg z die 0x140) ((cellGet z (getReg z die 0x140) + 1) % 2 ^ 64))) ∧
  (∀ (s : State) (die job : Nat), (s.kills.find? fun k => k.1 == die && jobGone s k.1 k.2) = some (die, job) → Rising s →
    let z := revokeRegions die job s (upFrom 0 512)
    SoundHere z (getReg z die 0x140) → hDie (getReg z die 0x140) = die →
    ∃ t, exec (.jobKillComplete die) s = .next t ∧ t.kills = s.kills.erase (die, job) ∧
      CellMoved z t (getReg z die 0x140) ((cellGet z (getReg z die 0x140) + 1) % 2 ^ 64)) ∧
  (∀ (s : State) (die : Nat), (s.kills.find? fun k => k.1 == die && jobGone s k.1 k.2) = none → exec (.jobKillComplete die) s = .next s) ∧
  (∀ (s : State) (m die : Nat) (v : DWord), MayWrite s m die 0x150 →
    exec (.unitOffGo m die v) s = .next (if m < 2 then unitOffWrite s die v.toNat else regWritePlain s die 0x150 v.toNat)) ∧
  (∀ (s : State) (m die : Nat) (v : DWord), MayWrite s m die 0x150 → m < 2 → Rising s →
    let s1 := regWritePlain s die 0x150 v.toNat
    let kind := bits (getReg s1 die 0x150) 2 0
    let num := bits (getReg s1 die 0x150) 15 8
    let busy := dieBusy s die = true ∨ (kind = 4 ∧ dieBusy s num = true)
    (bit v.toNat 16 = false → exec (.unitOffGo m die v) s = .next s1) ∧
    (bit v.toNat 16 = true → busy → exec (.unitOffGo m die v) s = .next (setField s1 die 0x150 17 17 1)) ∧
    (bit v.toNat 16 = true → ¬busy → ¬UnitThere s die kind num → exec (.unitOffGo m die v) s = .next (setField s1 die 0x150 17 17 0)) ∧
    (bit v.toNat 16 = true → ¬busy → UnitThere s die kind num →
      let at_ := if kind = 4 then num else die
      ∃ t, exec (.unitOffGo m die v) s = .next t ∧ getField t die 0x150 17 17 = 0 ∧ UnitGone s t die kind num ∧ t.threads = s.threads ∧
        getField t 0 0x10 31 0 = (getField s 0 0x10 31 0 + 1) % 2 ^ 32 ∧
        t.detected = s.detected ++ (if dieOn t die then [goneRecord die kind num at_] else []) ∧
        t.packets.map (fun p => (p.dst, p.body)) = s.packets.map (fun p => (p.dst, p.body)) ++
          ((diesOn t).filter (· ≠ die)).map (fun e => (512 * e + 298, .capChange kind num at_)))) ∧
  (∀ (s : State) (d : Nat), (∃ t ∈ s.threads, dieOf t.core = d ∧ t.job ≠ supJob) ∨ (∃ b ∈ s.bins, dieOf b.core = d ∧ b.job ≠ supJob) → dieBusy s d = true) ∧
  (∀ (s : State) (m die off : Nat) (v : DWord), MayWrite s m die off → off < 2 ^ 27 → off ≠ 0xA0 → off ≠ 0xD0 → off ≠ 0x138 → off ≠ 0x150 →
    ¬(0x400 ≤ off ∧ off < 0x500 ∧ off % 32 = 8) → off ≠ 0x618 → ¬(0x700 ≤ off ∧ off < 0x760) → off ≠ 0x830 →
    ¬(0x900 ≤ off ∧ off < 0xD00 ∧ off % 64 = 48) → off ≠ 0 →
    exec (.registerWrite m die off v) s = .next (regWritePlain s die off v.toNat)) ∧
  (∀ (s : State) (m die peer : Nat) (v : DWord), peer < 12 →
    exec (.registerWrite m die 0 v) s = exec (.modIdWrite m die v) s ∧ exec (.registerWrite m die 0xD0 v) s = exec (.imageLoadGo m die v) s ∧
    exec (.registerWrite m die 0x138 v) s = exec (.jobKillGo m die v) s ∧ exec (.registerWrite m die 0x150 v) s = exec (.unitOffGo m die v) s ∧
    exec (.registerWrite m die 0x618 v) s = exec (.tlbiGo m die v) s ∧ exec (.registerWrite m die 0x830 v) s = exec (.portPeerClrGo m die v) s ∧
    exec (.registerWrite m die (0x700 + 8 * peer) v) s = exec (.linkSwingDirWrite m die peer v) s) ∧
  (∀ (s u : State) (m d off : Nat) (v : DWord), m < 3 → off < 2 ^ 27 → DeniedAs s m d off true u →
    exec (.registerWrite m d off v) s = .next u ∧ (off = 0xD0 → exec (.imageLoadGo m d v) s = .next u) ∧
    (off = 0 → exec (.modIdWrite m d v) s = .next u) ∧ (off = 0x138 → exec (.jobKillGo m d v) s = .next u) ∧
    (off = 0x150 → exec (.unitOffGo m d v) s = .next u) ∧ (off = 0x618 → exec (.tlbiGo m d v) s = .next u) ∧
    (off = 0x830 → exec (.portPeerClrGo m d v) s = .next u) ∧
    (∀ k, off = 0x700 + 8 * (k % 12) → exec (.linkSwingDirWrite m d k v) s = .next u) ∧
    (∀ q, off = 0x408 + 32 * (q % 8) → exec (.launchQueueEnable m d q v) s = .next u ∧ exec (.launchQueueDisable m d q v) s = .next u) ∧
    (∀ h, off = 0x930 + 64 * (h % 16) → exec (.haltCmdHalt m d h) s = .next u ∧ exec (.haltCmdThawArm m d h) s = .next u ∧
      exec (.haltCmdGo m d h) s = .next u ∧ ∀ sk sc sl ss, exec (.haltCmdStep m d h sk sc sl ss) s = .next u)) ∧
  (∀ (s : State) (port w : Nat) (v : DWord), w < 256 → apertureStop s port w true false = none →
    exec (.registerWrite port 0 (2 ^ 27 + 64 * w) v) s = .next (setWindow s { windowOf s port w with handle := v }) ∧
    exec (.registerWrite port 0 (2 ^ 27 + 64 * w + 0x30) v) s =
      .next (setWindow s { windowOf s port w with fired := (windowOf s port w).fired && !bit v.toNat 0 })) ∧
  (∀ (s : State) (m die off : Nat) (i : Instr), ClearingRead m die i off → mgmtStop s m die off false = none →
    exec i s = .next (readOut m (regRead s die off).1 (regRead s die off).2)) ∧
  (∀ (s : State) (m die off : Nat) (i : Instr), ClearingRead m die i off → mgmtStop s m die off false = none → Rising s →
    ∃ v t, exec i s = .next (readOut m v t) ∧ ReadFields s t die off v ∧ KeepsMemory s t ∧ t.threads = s.threads) ∧
  (∀ (s u : State) (m die off : Nat) (i : Instr), ClearingRead m die i off → m < 3 → DeniedAs s m die off false u → exec i s = .next u) ∧
  (∀ (s : State) (port addr n : Nat) (v : DWord), bar4Stop s port addr n true = none →
    ∃ q, exec (.hostBar4Write port addr n v) s = .next { s with packets := s.packets ++ [q], fresh := s.fresh + 1 } ∧ q.dst = byteHome s addr ∧
      q.uid = none ∧ q.src = 3000000 + port ∧ q.body = .write (atKeys addr (natLe n v.toNat)) none) ∧
  (∀ (s : State) (port addr n : Nat), bar4Stop s port addr n false = none → postedPending s port = false → mgmtOff addr = none →
    memPoisoned s addr n = false →
    exec (.hostBar4Read port addr n) s =
      .next { eccRead s (nearHbm addr n) with hostOut := .readData port (BitVec.ofNat 64 (memNat s addr n)) :: s.hostOut }) ∧
  (∀ (s : State) (port addr n d off : Nat), bar4Stop s port addr n false = none → postedPending s port = false → mgmtOff addr = some (d, off) →
    mgmtStop s port d (off / 8 * 8) false = none → Rising s →
    ∃ v t, exec (.hostBar4Read port addr n) s =
      .next { t with hostOut := .readData port (BitVec.ofNat 64 (v / 2 ^ (8 * (off % 8)) % 2 ^ (8 * n))) :: s.hostOut } ∧
      ReadFields s t d (off / 8 * 8) v) ∧
  (∀ (s : State) (m addr : Nat), m < 2 → m ∉ s.portDown → dieOn s (if m = 0 then 0 else 6) = true → s.power = .run → dieOn s (addr / 2 ^ 27) = true →
    regFieldsOn (addr / 2 ^ 27) (addr % 2 ^ 27 / 8 * 8) = none →
    ∃ t, exec (.hostReservedOffsetAccess m 0 addr) s = .next t ∧
      t = raiseAsync { s with hostOut := .unsupported m :: s.hostOut } 12 1 supJob (if m = 0 then 0 else 6) 127 0
        (addr / 2 ^ 27 * 2 ^ 27 + addr % 2 ^ 27 / 8 * 8) none 0 m) ∧
  (∀ (s u : State) (m addr : Nat), m < 2 → DeniedAs s m (addr / 2 ^ 27) (addr % 2 ^ 27 / 8 * 8) false u →
    exec (.hostReservedOffsetAccess m 0 addr) s = .next u) ∧
  (∀ (s : State) (m addr : Nat), m < 2 → CanAsk s m → s.power = .run → addr < 2 ^ 48 → mgmtOff addr = none →
    (hbmBytes s (addr / 2 ^ 44) ≤ addr % 2 ^ 44 → exec (.hostReservedOffsetAccess m 4 addr) s = .next (deniedTo s m 1 4 addr)) ∧
    (addr % 2 ^ 44 < hbmBytes s (addr / 2 ^ 44) → rightTo s m (addr / 2 ^ 44) 14 = 0 →
      exec (.hostReservedOffsetAccess m 4 addr) s = .next (deniedTo s m 2 14 addr))) ∧
  (∀ (s : State) (m addr : Nat), m < 2 → CanAsk s m → s.power = .run → addr < 0x4000 → rightTo s m (portDie m) 13 = 0 →
    exec (.hostReservedOffsetAccess m 2 addr) s = .next (deniedTo s m 2 13 (64 * (addr / 64))))

/-- 17 R352, R357, R358, 18 R365, R368, 19 R379, R381, 20 R413: errors and faults. A soft error poisons what it leaves uncorrectable, and a scrub counts and corrects;
an unmasked vector sends what is pending; a host request that fails is recorded, be it a load's, an engine's, a shadow write or the image, and a port whose link
goes down ends what it had asked for; a word that is no instruction traps with CLASS 1 CODE 1, one with a reserved field with CODE 2; and a fetch that fails
traps its threads at their PC. The faults of a core cycle are recorded at its end, by ascending core, then lane. The model's choices among these: what cannot
be corrected is poisoned at the moment of the soft error (log entry 34); requests under way at a link that goes down fail at once, as time-outs do (log
entry 27); and a record is written at the end of its cycle, not before (log entry 87). -/
def Obligations.ErrorEvents : Prop :=
  (∀ (s : State) (p : Place) (n : Nat), n ≠ 0 →
    let s1 : State := { s with flips := (p, ((s.flips.find? fun q => q.1 == p).map (·.2)).getD 0 + n) :: s.flips.filter fun q => q.1 ≠ p }
    (correctable s1 p = true → exec (.softError p n) s = .next s1) ∧
    (correctable s1 p = false → ∃ t, exec (.softError p n) s = .next t ∧ (∀ x ∈ wordPlaces p, x ∈ t.poison) ∧ (∀ x ∈ s.poison, x ∈ t.poison) ∧
      KeepsMemory s t ∧ t.threads = s.threads)) ∧
  (∀ (s : State) (p : Place), (∃ q ∈ s.flips, sameWord p q.1 = true) →
    ∃ t, exec (.eccScrub p) s = .next t ∧ (∀ q ∈ t.flips, sameWord p q.1 = false) ∧ t.poison = s.poison ∧ KeepsMemory s t ∧ t.threads = s.threads ∧
      (correctable s p = true → getField t (placeDie s p) 0x148 31 0 = min (getField s (placeDie s p) 0x148 31 0 + 1) (2 ^ 32 - 1))) ∧
  (∀ (s : State) (port vec : Nat), 512 * port + vec ∈ s.msixPend → port ∉ s.portDown → dieOn s (portDie port) = true →
    ∃ t, exec (.msiXUnmask port vec) s = .next t ∧ t.hostOut = .msix port vec :: s.hostOut ∧ 512 * port + vec ∉ t.msixPend ∧
      512 * port + vec ∈ t.msixOpen) ∧
  (∀ (s : State) (port n kind : Nat), port < 2 → kind ≤ 2 → n < 4096 → moduleId s < 2 ^ 13 →
    ∃ h, exec (.hostCompletionTimeout port (2 ^ 64 + n) kind) s = .next (raiseAsync { s with shadowOff := h :: s.shadowOff } 12 4 supJob (portDie port) 127 0 0 none
      kind port) ∧ hLevel h = 5 ∧ hIndex h = n ∧ hDie h = portDie port) ∧
  (∀ (s : State) (port req kind rid pa n : Nat) (keep : Bool) (glean : Option (Nat × DWord)) (p : Packet), port < 2 → kind ≤ 2 → req < 2 ^ 64 →
    HostRead s port req p → p.body = .read pa n rid keep glean →
    (∀ r, p.eng = none → (s.results.find? fun q => q.id == rid) = some r →
      ∃ t, exec (.hostCompletionTimeout port req kind) s = .next t ∧ (∀ q ∈ t.packets, q.id ≠ req) ∧
        (∀ x ∈ s.threads, x.uid ∈ r.uids → ∃ y ∈ t.threads, y.uid = x.uid ∧ y.trapped = true ∧ y.pc = r.pc) ∧
        t.detected = s.detected ++ [hostRecord port kind]) ∧
    (p.eng ≠ none →
      ∃ t, exec (.hostCompletionTimeout port req kind) s = .next t ∧ (∀ q ∈ t.packets, q.id ≠ req) ∧
        t.engLines = s.engLines.map (fun l => if l.rid = rid then { l with fail := some 7 } else l) ∧ t.detected = s.detected ++ [hostRecord port kind])) ∧
  (∀ (s : State) (port kind : Nat), port < 2 → kind ≤ 2 → s.imgPort = some port → Rising s →
    ∃ t, exec (.hostCompletionTimeout port (2 ^ 65) kind) s = .next t ∧ t.imgPort = none ∧
      getReg t 0 0xD8 = 3 + 2 ^ 8 * (if imgFieldsBad s then 1 else 2) ∧ t.detected = s.detected ++ [hostRecord port kind] ∧ t.power = s.power) ∧
  (∀ (s : State) (port : Nat), port < 2 → port ∉ s.portDown →
    (∀ p ∈ s.packets, p.body.isStore = true ∨ p.body.runs.any (fun q => hostPort q.1 == some port) = false) →
    ∃ t, exec (.hostPortLinkDown port) s = .next t ∧ port ∈ t.portDown ∧ (∀ r ∈ t.pageReqs, r.port ≠ port) ∧
      ∀ r ∈ s.pageReqs, r.port = port → r.id ≠ 0 → ∀ x ∈ s.threads, x.wait = .page r.id → ∃ y ∈ t.threads, y.uid = x.uid ∧ y.trapped = true) ∧
  (∀ (s : State) (port : Nat), port < 2 → port ∉ s.portDown →
    (∀ p ∈ s.packets, p.body.isStore = true ∨ p.body.runs.any (fun q => hostPort q.1 == some port) = false) → (∀ r ∈ s.pageReqs, r.port ≠ port) →
    exec (.hostPortLinkDown port) s = .next (raiseAsync { s with portDown := s.portDown ++ [port], atsInvs := s.atsInvs.filter fun a => a.port ≠ port }
      12 5 supJob (portDie port) 127 0 0 none 0 port)) ∧
  (∀ (s : State) (w : Word) (i : Issue), mkIssue s (Fields.ofWord w) = some i →
    (decode (bytesOfWord w ++ bytesOfWord 0#32) = .error .unassigned → exec (.unassignedOpcode w) s = .next (wordTrap s i 1)) ∧
    (decode (bytesOfWord w ++ bytesOfWord 0#32) ≠ .error .unassigned → (∀ r, decode (bytesOfWord w ++ bytesOfWord 0#32) ≠ .ok r) →
      exec (.unassignedOpcode w) s = .next (wordTrap s i 2))) ∧
  (∀ (s s1 : State) (i : Issue) (acc : Acc4), mkIssue s (Fields.ofWord 0#32) = some i → fetchGroup s {} i.group = (s1, acc) →
    exec .instructionFetchFault s = .next (takeTrap s1 i acc.fails)) ∧
  (∀ (s : State) (i : Issue) (u : Nat) (f : Trap) (r : List (Nat × Trap)),
    ∃ t, takeTrap s i ((u, f) :: r) = t ∧ (∀ x ∈ s.threads, x.uid ∈ u :: r.map (·.1) → ∃ y ∈ t.threads, y.uid = x.uid ∧ y.trapped = true ∧ y.pc = x.pc ∧
      y.regs = x.regs ∧ y.g = x.g ∧ y.status = x.status)) ∧
  (∀ (s : State) (i : Issue) (u : Nat) (f : Trap) (r : List (Nat × Trap)) (a : Nat), ringSlot s i.die = some a →
    badHandle s (getReg s i.die 0x110) ≠ none → policyOf s i.die i.job = 0 → Memory.wf s.mem = true → s.detected = [] →
    memBytes (recordDetected (takeTrap s i ((u, f) :: r))) a 64 = FaultRec.bytes
      { cls := f.cls, code := f.code, job := i.job, die := i.die, core := i.core % 128, lane := (threadOf s u).lane, slot := (threadOf s u).slot
        precise := true, withheld := false, pc := i.pc.toNat, addr := f.addr, ctr := 0, amount := 0, aux := f.aux
        info := laneMask s (u :: r.map (·.1)) } (ftime s i.die) (faultSeqOf s i.die)) ∧
  (∀ (s : State) (a b : FaultRec), s.detected = [a, b] →
    recordDetected s = (if 32 * b.core + b.lane < 32 * a.core + a.lane then recordFault (recordFault { s with detected := [] } b) a
      else recordFault (recordFault { s with detected := [] } a) b))

namespace Sys2Proof.Claims

open Sys2Proof.Machine Sys2Proof.Safety

/-! ### Encoding, fetch, issue, operands, conditions, reset, the canonical form -/

/-- Core `c` is next on the agenda, and `g` is the group that it issues, in the state `s0` in which it issues (02 R41). -/
def Issuing (s : State) (c : Nat) (q : List Agenda) (s0 : State) (g : List Thread) : Prop :=
  s.power ≠ .off ∧ s.agenda = .issue c :: q ∧ s0 = issueState { s with agenda := q } c ∧ nextGroup s0 c = g

/-- Four bytes at an address can be fetched by a thread, and these are the bytes that it sees there (05 R94, 19 R379). -/
def Fetches (s : State) (t : Thread) (a : Nat) (bs : List Byte) : Prop :=
  ∃ k, globalPre t a 4 4 true = none ∧ xlate s (dieOf t.core) t.job a false true = (s, .at k none) ∧ threadBad s t k 4 none = false ∧
    threadBytes s t k 4 none = (s, bs)

/-- What the issue stage of core `c` notes of the issue of the word `i` by the group of `t` and `r`, which began in `old`: its class and its lanes count
against the limits of the cycle, groups that have formed anew are new, and threads of a stepped job stop again (02 R41, 09 R204). -/
def issuedAs (old : State) (c : Nat) (t : Thread) (r : List Thread) (i : Instr) (z : State) : State :=
  markStepped ((t :: r).map (·.uid)) (regroup old t { z with
    issuedNow := z.issuedNow ++ [(c, match i.fields with | some f => f.1.cl.toNat | none => 0)]
    lanesNow := z.lanesNow ++ (t :: r).map fun u => (c, u.lane) })

/-- The word is privileged: a control code of 64 or more (10 R234). -/
def Privileged (f : Fields) : Prop := f.cl = 3#2 ∧ 64 ≤ f.op.toNat

/-- The word is a `spawn`. -/
def IsSpawn (i : Instr) : Prop := ∃ h d a b l, i = .spawn h d a b l

/-- The word is not a `csrr`, at job level, of a number that a thread of its group may not read, or that word's selector is reserved (13 R324, 18 R365). -/
def CsrrFits (s : State) (i : Issue) (instr : Instr) : Prop :=
  ∀ h d b l, instr = .csrr h d b l → i.job ≠ supJob →
    ∀ u ∈ i.group, csrSup (src (found s i) i (threadOf (found s i) u) b.toNat l .int) = false

/-- The word is not a `cvt` whose Q is reserved for the source format of a thread of its group (11 R250, 18 R365). -/
def QFits (s : State) (i : Issue) (instr : Instr) : Prop :=
  ∀ h d c b, instr = .cvtReg h d c b → ∀ u ∈ i.group, cvtQBad (threadOf s u) c (.reg b) = false

end Sys2Proof.Claims

/-- 10 R208, R209, R223 to R234, 00 R3: decoding the bytes of a well-formed word gives the word back, with every operand at every value that the
encoding admits, whatever follows; and the bytes of whatever is decoded are those it was decoded from, so no bit of an instruction is dropped. -/
def Obligations.DecodeEncode : Prop :=
  (∀ (i : Instr) (rest : List Byte), i.wellFormed = true → i.fields ≠ none → decode (encodeBytes i ++ rest) = .ok (i, rest)) ∧
  (∀ (bs rest : List Byte) (i : Instr), decode bs = .ok (i, rest) → i.fields ≠ none ∧ encodeBytes i ++ rest = bs)

/-- 10 R208, R210, R216, R223 to R234: words written out from the encoding, and the instructions that they are. -/
def Obligations.DecodeWords : Prop :=
  decodeTableWord 32 0x10E04104 = some (.addI32Sel ⟨false, true⟩ 1#7 2#7 4#7 0#32) ∧
  decodeTableWord 32 0x2800C286 = some (.mulF32Reg ⟨true, false⟩ 3#7 5#7 6#7) ∧
  decodeTableWord 32 0x07A200D2 = some (.addF32Sel ⟨false, false⟩ 8#7 1#7 82#7 0#32) ∧
  decodeTableWord 32 0x0B018988 = some (.cvtReg ⟨false, false⟩ 6#7 19#7 8#7) ∧
  decodeTableWord 32 0x43008082 = some (.scmpI32 ⟨false, false⟩ 2#7 1#7 2#7 0#32) ∧
  decodeTableWord 32 0xC1C00000 = some (.nop ⟨false, false⟩) ∧
  decodeTableWord 32 0xC0603F00 = some (.jr ⟨false, false⟩ 126#7) ∧
  decodeTableWord 32 0xC0850403 = some (.spawn ⟨false, false⟩ 20#7 8#7 3#7 0#32) ∧
  decodeTableWord 32 0xE0E00180 = some (.joink ⟨true, false⟩ 3#7) ∧
  decodeTableWord 32 0x82000005 = some (.fence ⟨false, false⟩ 5#3) ∧
  decodeTableWord 32 0xC840C056 = some (.carve ⟨false, false⟩ 3#7 86#7 0#32) ∧
  decodeTableWord 64 0x000000108022861A = some (.ldLit ⟨false, false⟩ 10#7 12#7 26#7 16#32) ∧
  decodeTableWord 64 0x00000001A2A20203 = some (.caddrLit ⟨true, false⟩ 8#7 4#7 3#3 1#32) ∧
  decodeTableWord 64 0x0000000188650280 = some (.rwsendLit ⟨false, false⟩ 20#7 2#6 true 1#32) ∧
  decodeTableWord 64 0x00000020C120407E = some (.winb ⟨false, false⟩ 1#7 126#7 0x20#32) ∧
  (∀ w, decodeTableWord 32 w = decodeTableWord 64 (w % 2 ^ 32))

open Sys2Proof.Machine Sys2Proof.Safety Sys2Proof.Claims in
/-- 10 R221, 02 R41, 05 R94, 14 R340: a step runs what is decoded. A core's issue runs, for its next group, the instruction that the bytes at its PC
decode to, and when these are the bytes of a well-formed word, that word; threads of a stepped job stop again. A step of another agent, the passing
of time and a module without power are steps too; after each, traffic to lost endpoints fails, and what has left its sender goes onto its link. That one step is one entry of the agenda is the
model's own form (log entry 3). -/
def Obligations.StepRunsDecoded : Prop :=
  (∀ (s s0 s1 x1 : State) (c : Nat) (q : List Agenda) (t : Thread) (r : List Thread) (acc : Acc4) (w l : Word) (i : Instr) (rest : List Byte),
    Issuing s c q s0 (t :: r) →
    let us := (t :: r).map (·.uid)
    let y := eccRead s0 (nearGroup t us)
    fetchGroup y {} (r.map (·.uid)) = (s1, acc) → acc.fails = [] → acc.waits = [] →
    fetch s1 t = (x1, .ok (w, l)) → decode (bytesOfWord w ++ bytesOfWord l) = .ok (i, rest) →
    step s = andThen settleLinks (andThen (issuedAs y c t r i) (exec i x1))) ∧
  (∀ (s s0 : State) (c : Nat) (q : List Agenda) (t : Thread) (i : Instr) (bs : List Byte),
    Issuing s c q s0 [t] → (∀ p ∈ s0.flips, nearGroup t [t.uid] p.1 = false) → i.wellFormed = true → i.fields ≠ none → encodeBytes i = bs →
    Fetches s0 t t.pc.toNat (bs.take 4) → (bs.length = 8 → Fetches s0 t (t.pc.toNat + 4) (bs.drop 4)) →
    step s = andThen settleLinks (andThen (issuedAs s0 c t [] i) (exec i s0))) ∧
  (∀ (s : State) (i : Instr) (q : List Agenda), s.power ≠ .off → s.agenda = .event i :: q → i.fields = none →
    step s = andThen settleLinks (exec i { s with agenda := q })) ∧
  (∀ (s : State) (n : Nat) (q : List Agenda), s.power ≠ .off → s.agenda = .idle n :: q →
    step s = .next (settleLinks (tick n { s with agenda := q }))) ∧
  (∀ s : State, s.power ≠ .off → s.agenda = [] → dueSteps s = [] → s.threads = [] → step s = .next (settleLinks (tickOne s))) ∧
  (∀ s : State, (s.cycle + 1) % 4 ≠ 0 → s.late = [] → (∀ f ∈ s.flocks, f.evicting = false) →
    tickOne { s with detected := [] } = { s with detected := [], cycle := s.cycle + 1, issuedNow := [], lanesNow := [], passed := [] }) ∧
  (∀ (s : State), s.power = .off → (∀ ft q, s.agenda ≠ .event (.powerUp ft) :: q) → step s = .fault .poweredOff) ∧
  (∀ (s : State) (ft : Nat) (q : List Agenda), s.power = .off → s.agenda = .event (.powerUp ft) :: q → step s = exec (.powerUp ft) { s with agenda := q })

open Sys2Proof.Machine Sys2Proof.Safety in
/-- 00 R3, 05 R93, R104, 03 R58: memory, local store and counters have one value at each place, whatever happens: every step keeps their sparse data in
canonical form, from any state that has it. -/
def Obligations.CanonicalKept : Prop :=
  ∀ s t : State, Canonical s = true → step s = .next t → Canonical t = true

open Sys2Proof.Machine Sys2Proof.Safety in
/-- 14 R341, 00 R8, 02 R41, 05 R105, 14 R334: right after reset the module is locked, with no thread, no flock and nothing in flight; no byte of memory or of
local store and no counter holds anything but 0; its L1 has 4 ways on every core; every register of the management blocks holds its
reset value; and the sparse data are in canonical form. That local store reads as 0 then
is the model's choice where the manual gives no value (log entry 6). -/
def Obligations.ResetState : Prop :=
  Canonical State.reset = true ∧ State.reset.power = .locked ∧ State.reset.cycle = 0 ∧ State.reset.threads = [] ∧ State.reset.flocks = [] ∧
  State.reset.results = [] ∧ State.reset.packets = [] ∧ State.reset.waiters = [] ∧ State.reset.mregs = [] ∧ State.reset.agenda = [] ∧
  (∀ a, memByte State.reset a = 0#8) ∧ (∀ c off, lsNat State.reset c off 1 = 0) ∧ (∀ h, cellGet State.reset h = 0) ∧
  (∀ c, l1Ways State.reset c = 4) ∧ (∀ d off, getReg State.reset d off = (regReset (if isModReg off then 0 else d) off).toNat) ∧
  (∀ d, getReg State.reset d 0 = 0 ∧ getReg State.reset d 0x28 = 2 ^ 64 - 1 ∧ getReg State.reset d 0x820 = 1000 ∧ getReg State.reset d 0x828 = 1000000 ∧
    getReg State.reset d 0xD00 = 2000000 ∧ getReg State.reset d 0xE00 = 0x3FFFFFFF)

open Sys2Proof.Machine Sys2Proof.Safety Sys2Proof.Claims in
/-- 10 R217, R218, R220, R221, 11 R250, 13 R324, 14 R334, 18 R365, R366: what the issue of any word comes to before its own meaning. A guarded word is
active in the threads of the group whose g is 1, and another in every thread. A word with a reserved value traps the whole group (class 1, code 2), and so
does a `cvt` whose Q is reserved for the source of one of its threads, which the source that a selector chooses never is; a privileged word at job level, or a `csrr` there of a number that jobs may not
read, traps it too (code 3), guarded off or not. One that would give a thread more than 32 results in flight waits; and one that is guarded off in
every thread only moves each thread past it, and with the switch bit ends its region. -/
def Obligations.IssueRules : Prop :=
  (∀ (s : State) (f : Fields) (i : Issue), mkIssue s f = some i → (s.threads.map (·.uid)).Nodup →
    i.word = f.toWord ∧ i.sbit = f.s ∧ (i.len = 8 ↔ f.hasLiteral = true) ∧ i.core = s.focus ∧ i.group ≠ [] ∧ i.act.Sublist i.group ∧
    (∀ u ∈ i.group, (threadOf s u).uid = u ∧ (threadOf s u).pc = i.pc ∧ (threadOf s u).flock = i.flock ∧ eligible s (threadOf s u) = true ∧
      (u ∈ i.act ↔ (f.g = true → (threadOf s u).g = true)))) ∧
  (∀ (s : State) (instr : Instr) (f : Fields) (l : Option Word) (i : Issue), instr.fields = some (f, l) → mkIssue s f = some i →
    decode (encodeBytes instr) = .ok (instr, []) → instr.wellFormed = false → exec instr s = .next (wordTrap s i 2)) ∧
  (∀ (s : State) (instr : Instr) (f : Fields) (l : Option Word) (i : Issue), instr.fields = some (f, l) → mkIssue s f = some i →
    instr.wellFormed = true → Privileged f → i.job ≠ supJob → exec instr s = .next (wordTrap s i 3)) ∧
  (∀ (s : State) (instr : Instr) (f : Fields) (l : Option Word) (i : Issue), instr.fields = some (f, l) → mkIssue s f = some i →
    instr.wellFormed = true → (Privileged f → i.job = supJob) → ¬IsSpawn instr → CsrrFits s i instr → QFits s i instr → tooMany s i = true →
    exec instr s = .next (waitResults s i)) ∧
  (∀ (s : State) (h : Hdr) (d b : BitVec 7) (l : Word) (i : Issue), mkIssue s (ctlF h 17#7 d 0#7 b) = some i → i.job ≠ supJob → selRsv b.toNat = false →
    (∃ u ∈ i.group, csrSup (src (found s i) i (threadOf (found s i) u) b.toNat l .int) = true) →
    exec (.csrr h d b l) s = .next (wordTrap (found s i) i 3)) ∧
  (∀ (s : State) (h : Hdr) (d c b : BitVec 7) (i : Issue), mkIssue s ⟨0#2, h.s, h.g, 88#7, d, c, b⟩ = some i →
    (∃ u ∈ i.group, cvtQBad (threadOf s u) c (.reg b) = true) → exec (.cvtReg h d c b) s = .next (wordTrap s i 2)) ∧
  (∀ (t : Thread) (c b : BitVec 7) (l : Word), cvtQBad t c (.sel b l) = false) ∧
  (∀ (s : State) (instr : Instr) (f : Fields) (l : Option Word) (i : Issue), instr.fields = some (f, l) → mkIssue s f = some i →
    instr.wellFormed = true → (Privileged f → i.job = supJob) → ¬IsSpawn instr → CsrrFits s i instr → QFits s i instr → i.act = [] →
    exec instr s = .next (finish (found s i) i [] [] fun _ => []))

open Sys2Proof.Machine in
/-- 03 R66: a wait condition holds when the difference of value and threshold, modulo 2^64 and as a signed number, is zero or more; while software keeps
the threshold within 2^63 − 1 of the value, that is when the count has reached the threshold, however it wraps; and it keeps holding under an addition of
at most 2^62 that keeps that bound. -/
def Obligations.ConditionHolds : Prop :=
  (∀ v t : Nat, condMet v t = true ↔ 0 ≤ (BitVec.ofNat 64 v - BitVec.ofNat 64 t).toInt) ∧
  (∀ v t : Int, v - t ≤ 2 ^ 63 - 1 → t - v ≤ 2 ^ 63 - 1 → (condMet (v % 2 ^ 64).toNat (t % 2 ^ 64).toNat = true ↔ t ≤ v)) ∧
  (∀ v t a : Int, v - t ≤ 2 ^ 63 - 1 → t - v ≤ 2 ^ 63 - 1 → 0 ≤ a → a ≤ 2 ^ 62 → v + a - t ≤ 2 ^ 63 - 1 →
    condMet (v % 2 ^ 64).toNat (t % 2 ^ 64).toNat = true → condMet ((v + a) % 2 ^ 64).toNat (t % 2 ^ 64).toNat = true) ∧
  condMet 0xFFFFFFFFFFFFFFF0 0x10 = false ∧ condMet 0x20 0x10 = true ∧ condMet 0 0xFFFFFFFFFFFFFFFC = true ∧ condMet 0x10 0x8000000000000011 = true

open Sys2Proof.Machine in
/-- 10 R211 to R213: the operand that a selector chooses: an s register of the issuing flock, an immediate from −16 to 15 in the format of the operand, a special
source of the thread, the literal (sign-extended as `.i64`, zero-extended as `.n64`), or zero; the other values are reserved, and a word that holds one
traps its group (18 R365). -/
def Obligations.SelectorOperands : Prop :=
  (∀ (s : State) (i : Issue) (t : Thread) (lit : Word) (b : Nat), b ≤ 63 →
    src s i t b lit .int = (getS (flockOf s t.core t.flock) b).toNat ∧ src s i t b lit .f32 = (getS (flockOf s t.core t.flock) b).toNat ∧
    src s i t b lit .n64 = (getS (flockOf s t.core t.flock) b).toNat + 2 ^ 32 * (getS (flockOf s t.core t.flock) (b + 1)).toNat) ∧
  (∀ (s : State) (i : Issue) (t : Thread) (lit : Word) (b : Nat), 64 ≤ b → b ≤ 95 →
    signedN 32 (src s i t b lit .int) = (b : Int) - 80 ∧ signedN 64 (src s i t b lit .i64) = (b : Int) - 80 ∧
    signedN 64 (src s i t b lit .n64) = (b : Int) - 80) ∧
  (∀ (s : State) (i : Issue) (t : Thread) (lit : Word) (b : Nat) (f : SFmt), 96 ≤ b → b ≤ 119 → src s i t b lit f = special s i t b % 2 ^ 32) ∧
  (∀ (s : State) (i : Issue) (t : Thread) (lit : Word),
    src s i t 126 lit .int = lit.toNat ∧ src s i t 126 lit .f32 = lit.toNat ∧ src s i t 126 lit .bf16x2 = lit.toNat ∧ src s i t 126 lit .f16x2 = lit.toNat ∧
    src s i t 126 lit .n64 = lit.toNat ∧ signedN 64 (src s i t 126 lit .i64) = lit.toInt) ∧
  (∀ (s : State) (i : Issue) (t : Thread) (lit : Word) (f : SFmt), src s i t 127 lit f = 0) ∧
  (∀ (s : State) (h : Hdr) (b : BitVec 7) (lit : Word) (i : Issue), 120 ≤ b.toNat → b.toNat ≤ 125 → mkIssue s (ctlF h 16#7 0#7 0#7 b) = some i →
    exec (.statclr h b lit) s = .next (wordTrap s i 2)) ∧
  (∀ (s : State) (i : Issue) (t : Thread) (lit : Word),
    src s i t 96 lit .int = t.lane % 2 ^ 32 ∧ src s i t 97 lit .int = t.slot % 2 ^ 32 ∧ src s i t 98 lit .int = t.tnum.toNat ∧
    src s i t 100 lit .int = t.core % 128 ∧ src s i t 101 lit .int = t.core % 128 / 16 ∧ src s i t 105 lit .int = t.ftHi.toNat ∧
    src s i t 109 lit .int = t.job % 2 ^ 32 ∧ src s i t 111 lit .int = t.wb % 2 ^ 32 ∧ src s i t 112 lit .int = t.alloc % 2 ^ 32 ∧
    src s i t 113 lit .int = t.status.toNat ∧ src s i t 117 lit .int = (if t.g then 1 else 0) ∧ src s i t 119 lit .int = 2 ^ 32 - 1)
end

