-- ==== Sys2Proof/Laws/Maps.lean ====
section
/-! SUPPORT. The laws of the canonical maps: what a key holds after a write, and that every write keeps the canonical form. -/

namespace Sys2Proof.Laws

open Sys2Proof.Machine

/-- A key below every key of a canonical map is not listed. -/
theorem mapGet_of_above {β : Type} (d : β) : ∀ (m : List (Nat × β)) (k : Nat), keysAbove k m = true → mapGet d m k = d
  | [], _, _ => rfl
  | (j, v) :: r, k, h => by
    simp only [keysAbove, Bool.and_eq_true, decide_eq_true_eq] at h
    have : j ≠ k := by omega
    simp [mapGet, this, mapGet_of_above d r k h.2]

/-- Keys above a bound are above every smaller bound. -/
theorem keysAbove_mono {β : Type} : ∀ (m : List (Nat × β)) {j k : Nat}, j ≤ k → keysAbove k m = true → keysAbove j m = true
  | [], _, _, _, _ => rfl
  | (i, v) :: r, j, k, hjk, h => by
    simp only [keysAbove, Bool.and_eq_true, decide_eq_true_eq] at h ⊢
    exact ⟨by omega, keysAbove_mono r hjk h.2⟩

/-- A write puts no key at or below a bound that was below all keys and the written one. -/
theorem keysAbove_mapSet {β : Type} [DecidableEq β] (d : β) : ∀ (m : List (Nat × β)) {b k : Nat} {v : β},
    b < k → keysAbove b m = true → keysAbove b (mapSet d m k v) = true
  | [], b, k, v, hk, _ => by
    unfold mapSet; split <;> simp [keysAbove, hk]
  | (j, w) :: r, b, k, v, hk, h => by
    have h' := h
    simp only [keysAbove, Bool.and_eq_true, decide_eq_true_eq] at h'
    unfold mapSet
    split
    · split
      · exact h
      · simp only [keysAbove, Bool.and_eq_true, decide_eq_true_eq]; exact ⟨hk, h'.1, h'.2⟩
    · split
      · split
        · exact h'.2
        · simp only [keysAbove, Bool.and_eq_true, decide_eq_true_eq]; exact ⟨hk, h'.2⟩
      · simp only [keysAbove, Bool.and_eq_true, decide_eq_true_eq]
        exact ⟨h'.1, keysAbove_mapSet d r hk h'.2⟩

/-- A write keeps the canonical form. -/
theorem mapWf_mapSet {β : Type} [DecidableEq β] (d : β) : ∀ (m : List (Nat × β)) (k : Nat) (v : β), mapWf d m = true → mapWf d (mapSet d m k v) = true
  | [], k, v, _ => by
    unfold mapSet; split
    · rfl
    · simp [mapWf, keysAbove, *]
  | (j, w) :: r, k, v, h => by
    have h' := h
    simp only [mapWf, Bool.and_eq_true, decide_eq_true_eq] at h'
    unfold mapSet
    split
    · rename_i hkj
      split
      · exact h
      · rename_i hv
        simp only [mapWf, Bool.and_eq_true, decide_eq_true_eq, keysAbove]
        exact ⟨⟨hv, hkj, keysAbove_mono r (by omega) h'.1.2⟩, h'⟩
    · split
      · rename_i hkj
        split
        · exact h'.2
        · rename_i hv
          simp only [mapWf, Bool.and_eq_true, decide_eq_true_eq]
          exact ⟨⟨hv, hkj ▸ h'.1.2⟩, h'.2⟩
      · rename_i h1 h2
        simp only [mapWf, Bool.and_eq_true, decide_eq_true_eq]
        exact ⟨⟨h'.1.1, keysAbove_mapSet d r (by omega) h'.1.2⟩, mapWf_mapSet d r k v h'.2⟩

/-- Several writes keep the canonical form. -/
theorem mapWf_mapSetAll {β : Type} [DecidableEq β] (d : β) : ∀ (ws m : List (Nat × β)), mapWf d m = true → mapWf d (mapSetAll d m ws) = true
  | [], _, h => h
  | (k, v) :: r, m, h => mapWf_mapSetAll d r (mapSet d m k v) (mapWf_mapSet d m k v h)

/-- Leaving out entries keeps keys above a bound. -/
theorem keysAbove_filter {β : Type} (p : Nat × β → Bool) : ∀ (m : List (Nat × β)) {b : Nat}, keysAbove b m = true → keysAbove b (m.filter p) = true
  | [], _, _ => rfl
  | (j, v) :: r, b, h => by
    simp only [keysAbove, Bool.and_eq_true, decide_eq_true_eq] at h
    simp only [List.filter_cons]
    split
    · simp only [keysAbove, Bool.and_eq_true, decide_eq_true_eq]; exact ⟨h.1, keysAbove_filter p r h.2⟩
    · exact keysAbove_filter p r h.2

/-- Leaving out entries keeps the canonical form. -/
theorem mapWf_filter {β : Type} [DecidableEq β] (d : β) (p : Nat × β → Bool) : ∀ (m : List (Nat × β)), mapWf d m = true → mapWf d (m.filter p) = true
  | [], _ => rfl
  | (j, v) :: r, h => by
    simp only [mapWf, Bool.and_eq_true, decide_eq_true_eq] at h
    simp only [List.filter_cons]
    split
    · simp only [mapWf, Bool.and_eq_true, decide_eq_true_eq]; exact ⟨⟨h.1.1, keysAbove_filter p r h.1.2⟩, mapWf_filter d p r h.2⟩
    · exact mapWf_filter d p r h.2

/-- What a written key holds. -/
theorem mapGet_mapSet_same {β : Type} [DecidableEq β] (d : β) : ∀ (m : List (Nat × β)) (k : Nat) (v : β), mapWf d m = true → mapGet d (mapSet d m k v) k = v
  | [], k, v, _ => by
    unfold mapSet; split <;> simp_all [mapGet]
  | (j, w) :: r, k, v, h => by
    have h' := h
    simp only [mapWf, Bool.and_eq_true, decide_eq_true_eq] at h'
    unfold mapSet
    split
    · rename_i hkj
      split
      · rename_i hv
        have : j ≠ k := by omega
        simp [mapGet, this, mapGet_of_above d r k (keysAbove_mono r (by omega) h'.1.2), hv]
      · simp [mapGet]
    · split
      · rename_i hkj
        split
        · rename_i hv; subst hkj; rw [mapGet_of_above d r k h'.1.2, hv]
        · simp [mapGet]
      · rename_i h1 h2
        have : j ≠ k := fun e => h2 e.symm
        simp [mapGet, this, mapGet_mapSet_same d r k v h'.2]

/-- What any other key holds after a write. -/
theorem mapGet_mapSet_other {β : Type} [DecidableEq β] (d : β) {e : β} : ∀ (m : List (Nat × β)) (k : Nat) (v : β) (a : Nat), a ≠ k → mapGet e (mapSet d m k v) a = mapGet e m a
  | [], k, v, a, h => by
    unfold mapSet; split
    · rfl
    · simp [mapGet, Ne.symm h]
  | (j, w) :: r, k, v, a, h => by
    unfold mapSet
    split
    · split
      · rfl
      · simp [mapGet, Ne.symm h]
    · split
      · rename_i hkj
        split
        · have : j ≠ a := by omega
          simp [mapGet, this]
        · have : j ≠ a := by omega
          simp [mapGet, this, Ne.symm h]
      · simp only [mapGet, mapGet_mapSet_other d r k v a h]

/-- A key outside consecutive writes. -/
theorem mapGet_atKeys_other {β : Type} [DecidableEq β] (d : β) : ∀ (bs : List β) (m : List (Nat × β)) (k a : Nat), a < k ∨ k + bs.length ≤ a →
    mapGet d (mapSetAll d m (atKeys k bs)) a = mapGet d m a
  | [], _, _, _, _ => rfl
  | b :: r, m, k, a, h => by
    simp only [List.length_cons] at h
    simp only [atKeys, mapSetAll]
    rw [mapGet_atKeys_other d r _ (k + 1) a (by omega), mapGet_mapSet_other d m k b a (by omega)]

/-- A key inside consecutive writes. -/
theorem mapGet_atKeys_same {β : Type} [DecidableEq β] (d : β) : ∀ (bs : List β) (m : List (Nat × β)) (k i : Nat) (h : i < bs.length), mapWf d m = true →
    mapGet d (mapSetAll d m (atKeys k bs)) (k + i) = bs[i]
  | [], _, _, _, h, _ => by simp at h
  | b :: r, m, k, i, h, hm => by
    simp only [atKeys, mapSetAll]
    cases i with
    | zero =>
      rw [mapGet_atKeys_other d r _ (k + 1) (k + 0) (by omega)]
      simpa using mapGet_mapSet_same d m k b hm
    | succ n =>
      have := mapGet_atKeys_same d r (mapSet d m k b) (k + 1) n (by simpa using h) (mapWf_mapSet d m k b hm)
      simpa [Nat.add_assoc, Nat.add_comm 1 n] using this

/-- What a key holds after the consecutive writes of one value each: a canonical map with equal reads is the same list. -/
theorem mapGet_mem {β : Type} [DecidableEq β] (d : β) : ∀ (m : List (Nat × β)) (k : Nat) (v : β), mapWf d m = true → (k, v) ∈ m → mapGet d m k = v
  | [], _, _, _, h => by simp at h
  | (j, w) :: r, k, v, hm, h => by
    have h' := hm
    simp only [mapWf, Bool.and_eq_true, decide_eq_true_eq] at h'
    rcases List.mem_cons.1 h with e | e
    · cases e; simp [mapGet]
    · have hlt : ∀ (l : List (Nat × β)), keysAbove j l = true → (k, v) ∈ l → j < k := by
        intro l; induction l with
        | nil => simp
        | cons a l ih =>
          intro ha hb
          simp only [keysAbove, Bool.and_eq_true, decide_eq_true_eq] at ha
          rcases List.mem_cons.1 hb with e | e
          · cases e; exact ha.1
          · exact ih ha.2 e
      have : j ≠ k := by have := hlt r h'.1.2 e; omega
      simp [mapGet, this, mapGet_mem d r k v h'.2 e]

end Sys2Proof.Laws
end

