-- ==== Sys2Proof/Laws/State.lean ====
section
/-! SUPPORT. What the plain updates of the state leave as it was: one lemma for each update and each field that it does not write. -/

namespace Sys2Proof.Laws

open Sys2Proof.Machine

@[simp] theorem modThread_power (s : State) (u : Nat) (f : Thread → Thread) : (modThread s u f).power = s.power := rfl
@[simp] theorem modThread_cycle (s : State) (u : Nat) (f : Thread → Thread) : (modThread s u f).cycle = s.cycle := rfl
@[simp] theorem modThread_ftime (s : State) (u : Nat) (f : Thread → Thread) : (modThread s u f).ftime = s.ftime := rfl
@[simp] theorem modThread_slew (s : State) (u : Nat) (f : Thread → Thread) : (modThread s u f).slew = s.slew := rfl
@[simp] theorem modThread_syncAt (s : State) (u : Nat) (f : Thread → Thread) : (modThread s u f).syncAt = s.syncAt := rfl
@[simp] theorem modThread_mem (s : State) (u : Nat) (f : Thread → Thread) : (modThread s u f).mem = s.mem := rfl
@[simp] theorem modThread_locl (s : State) (u : Nat) (f : Thread → Thread) : (modThread s u f).locl = s.locl := rfl
@[simp] theorem modThread_cells (s : State) (u : Nat) (f : Thread → Thread) : (modThread s u f).cells = s.cells := rfl
@[simp] theorem modThread_mregs (s : State) (u : Nat) (f : Thread → Thread) : (modThread s u f).mregs = s.mregs := rfl
@[simp] theorem modThread_carve (s : State) (u : Nat) (f : Thread → Thread) : (modThread s u f).carve = s.carve := rfl
@[simp] theorem modThread_unitsOff (s : State) (u : Nat) (f : Thread → Thread) : (modThread s u f).unitsOff = s.unitsOff := rfl
@[simp] theorem modThread_strict (s : State) (u : Nat) (f : Thread → Thread) : (modThread s u f).strict = s.strict := rfl
@[simp] theorem modThread_flocks (s : State) (u : Nat) (f : Thread → Thread) : (modThread s u f).flocks = s.flocks := rfl
@[simp] theorem modThread_keys (s : State) (u : Nat) (f : Thread → Thread) : (modThread s u f).keys = s.keys := rfl
@[simp] theorem modThread_bins (s : State) (u : Nat) (f : Thread → Thread) : (modThread s u f).bins = s.bins := rfl
@[simp] theorem modThread_placing (s : State) (u : Nat) (f : Thread → Thread) : (modThread s u f).placing = s.placing := rfl
@[simp] theorem modThread_waitset (s : State) (u : Nat) (f : Thread → Thread) : (modThread s u f).waitset = s.waitset := rfl
@[simp] theorem modThread_issuedNow (s : State) (u : Nat) (f : Thread → Thread) : (modThread s u f).issuedNow = s.issuedNow := rfl
@[simp] theorem modThread_lanesNow (s : State) (u : Nat) (f : Thread → Thread) : (modThread s u f).lanesNow = s.lanesNow := rfl
@[simp] theorem modThread_passed (s : State) (u : Nat) (f : Thread → Thread) : (modThread s u f).passed = s.passed := rfl
@[simp] theorem modThread_rotated (s : State) (u : Nat) (f : Thread → Thread) : (modThread s u f).rotated = s.rotated := rfl
@[simp] theorem modThread_launches (s : State) (u : Nat) (f : Thread → Thread) : (modThread s u f).launches = s.launches := rfl
@[simp] theorem modThread_results (s : State) (u : Nat) (f : Thread → Thread) : (modThread s u f).results = s.results := rfl
@[simp] theorem modThread_fifo (s : State) (u : Nat) (f : Thread → Thread) : (modThread s u f).fifo = s.fifo := rfl
@[simp] theorem modThread_wc (s : State) (u : Nat) (f : Thread → Thread) : (modThread s u f).wc = s.wc := rfl
@[simp] theorem modThread_clean (s : State) (u : Nat) (f : Thread → Thread) : (modThread s u f).clean = s.clean := rfl
@[simp] theorem modThread_packets (s : State) (u : Nat) (f : Thread → Thread) : (modThread s u f).packets = s.packets := rfl
@[simp] theorem modThread_peerOut (s : State) (u : Nat) (f : Thread → Thread) : (modThread s u f).peerOut = s.peerOut := rfl
@[simp] theorem modThread_engLines (s : State) (u : Nat) (f : Thread → Thread) : (modThread s u f).engLines = s.engLines := rfl
@[simp] theorem modThread_engFails (s : State) (u : Nat) (f : Thread → Thread) : (modThread s u f).engFails = s.engFails := rfl
@[simp] theorem modThread_waiters (s : State) (u : Nat) (f : Thread → Thread) : (modThread s u f).waiters = s.waiters := rfl
@[simp] theorem modThread_copies (s : State) (u : Nat) (f : Thread → Thread) : (modThread s u f).copies = s.copies := rfl
@[simp] theorem modThread_mmas (s : State) (u : Nat) (f : Thread → Thread) : (modThread s u f).mmas = s.mmas := rfl
@[simp] theorem modThread_chunks (s : State) (u : Nat) (f : Thread → Thread) : (modThread s u f).chunks = s.chunks := rfl
@[simp] theorem modThread_rays (s : State) (u : Nat) (f : Thread → Thread) : (modThread s u f).rays = s.rays := rfl
@[simp] theorem modThread_beams (s : State) (u : Nat) (f : Thread → Thread) : (modThread s u f).beams = s.beams := rfl
@[simp] theorem modThread_tensors (s : State) (u : Nat) (f : Thread → Thread) : (modThread s u f).tensors = s.tensors := rfl
@[simp] theorem modThread_sweeps (s : State) (u : Nat) (f : Thread → Thread) : (modThread s u f).sweeps = s.sweeps := rfl
@[simp] theorem modThread_lqs (s : State) (u : Nat) (f : Thread → Thread) : (modThread s u f).lqs = s.lqs := rfl
@[simp] theorem modThread_fabric (s : State) (u : Nat) (f : Thread → Thread) : (modThread s u f).fabric = s.fabric := rfl
@[simp] theorem modThread_portOps (s : State) (u : Nat) (f : Thread → Thread) : (modThread s u f).portOps = s.portOps := rfl
@[simp] theorem modThread_sendCount (s : State) (u : Nat) (f : Thread → Thread) : (modThread s u f).sendCount = s.sendCount := rfl
@[simp] theorem modThread_graphs (s : State) (u : Nat) (f : Thread → Thread) : (modThread s u f).graphs = s.graphs := rfl
@[simp] theorem modThread_replays (s : State) (u : Nat) (f : Thread → Thread) : (modThread s u f).replays = s.replays := rfl
@[simp] theorem modThread_trees (s : State) (u : Nat) (f : Thread → Thread) : (modThread s u f).trees = s.trees := rfl
@[simp] theorem modThread_arrivals (s : State) (u : Nat) (f : Thread → Thread) : (modThread s u f).arrivals = s.arrivals := rfl
@[simp] theorem modThread_arrivalNext (s : State) (u : Nat) (f : Thread → Thread) : (modThread s u f).arrivalNext = s.arrivalNext := rfl
@[simp] theorem modThread_revokes (s : State) (u : Nat) (f : Thread → Thread) : (modThread s u f).revokes = s.revokes := rfl
@[simp] theorem modThread_armed (s : State) (u : Nat) (f : Thread → Thread) : (modThread s u f).armed = s.armed := rfl
@[simp] theorem modThread_ceBase (s : State) (u : Nat) (f : Thread → Thread) : (modThread s u f).ceBase = s.ceBase := rfl
@[simp] theorem modThread_halts (s : State) (u : Nat) (f : Thread → Thread) : (modThread s u f).halts = s.halts := rfl
@[simp] theorem modThread_tlb (s : State) (u : Nat) (f : Thread → Thread) : (modThread s u f).tlb = s.tlb := rfl
@[simp] theorem modThread_tlbis (s : State) (u : Nat) (f : Thread → Thread) : (modThread s u f).tlbis = s.tlbis := rfl
@[simp] theorem modThread_atc (s : State) (u : Nat) (f : Thread → Thread) : (modThread s u f).atc = s.atc := rfl
@[simp] theorem modThread_pageReqs (s : State) (u : Nat) (f : Thread → Thread) : (modThread s u f).pageReqs = s.pageReqs := rfl
@[simp] theorem modThread_atsInvs (s : State) (u : Nat) (f : Thread → Thread) : (modThread s u f).atsInvs = s.atsInvs := rfl
@[simp] theorem modThread_windows (s : State) (u : Nat) (f : Thread → Thread) : (modThread s u f).windows = s.windows := rfl
@[simp] theorem modThread_glean (s : State) (u : Nat) (f : Thread → Thread) : (modThread s u f).glean = s.glean := rfl
@[simp] theorem modThread_links (s : State) (u : Nat) (f : Thread → Thread) : (modThread s u f).links = s.links := rfl
@[simp] theorem modThread_lost (s : State) (u : Nat) (f : Thread → Thread) : (modThread s u f).lost = s.lost := rfl
@[simp] theorem modThread_kills (s : State) (u : Nat) (f : Thread → Thread) : (modThread s u f).kills = s.kills := rfl
@[simp] theorem modThread_msixOpen (s : State) (u : Nat) (f : Thread → Thread) : (modThread s u f).msixOpen = s.msixOpen := rfl
@[simp] theorem modThread_msixTab (s : State) (u : Nat) (f : Thread → Thread) : (modThread s u f).msixTab = s.msixTab := rfl
@[simp] theorem modThread_msixPend (s : State) (u : Nat) (f : Thread → Thread) : (modThread s u f).msixPend = s.msixPend := rfl
@[simp] theorem modThread_portDown (s : State) (u : Nat) (f : Thread → Thread) : (modThread s u f).portDown = s.portDown := rfl
@[simp] theorem modThread_shadowOff (s : State) (u : Nat) (f : Thread → Thread) : (modThread s u f).shadowOff = s.shadowOff := rfl
@[simp] theorem modThread_detected (s : State) (u : Nat) (f : Thread → Thread) : (modThread s u f).detected = s.detected := rfl
@[simp] theorem modThread_late (s : State) (u : Nat) (f : Thread → Thread) : (modThread s u f).late = s.late := rfl
@[simp] theorem modThread_faultSeq (s : State) (u : Nat) (f : Thread → Thread) : (modThread s u f).faultSeq = s.faultSeq := rfl
@[simp] theorem modThread_flips (s : State) (u : Nat) (f : Thread → Thread) : (modThread s u f).flips = s.flips := rfl
@[simp] theorem modThread_poison (s : State) (u : Nat) (f : Thread → Thread) : (modThread s u f).poison = s.poison := rfl
@[simp] theorem modThread_imgPort (s : State) (u : Nat) (f : Thread → Thread) : (modThread s u f).imgPort = s.imgPort := rfl
@[simp] theorem modThread_imgDigest (s : State) (u : Nat) (f : Thread → Thread) : (modThread s u f).imgDigest = s.imgDigest := rfl
@[simp] theorem modThread_hostOut (s : State) (u : Nat) (f : Thread → Thread) : (modThread s u f).hostOut = s.hostOut := rfl
@[simp] theorem modThread_focus (s : State) (u : Nat) (f : Thread → Thread) : (modThread s u f).focus = s.focus := rfl
@[simp] theorem modThread_fresh (s : State) (u : Nat) (f : Thread → Thread) : (modThread s u f).fresh = s.fresh := rfl
@[simp] theorem modThread_free (s : State) (u : Nat) (f : Thread → Thread) : (modThread s u f).free = s.free := rfl
@[simp] theorem modThread_agenda (s : State) (u : Nat) (f : Thread → Thread) : (modThread s u f).agenda = s.agenda := rfl

@[simp] theorem modThreads_power (s : State) (us : List Nat) (f : Thread → Thread) : (modThreads s us f).power = s.power := rfl
@[simp] theorem modThreads_cycle (s : State) (us : List Nat) (f : Thread → Thread) : (modThreads s us f).cycle = s.cycle := rfl
@[simp] theorem modThreads_ftime (s : State) (us : List Nat) (f : Thread → Thread) : (modThreads s us f).ftime = s.ftime := rfl
@[simp] theorem modThreads_slew (s : State) (us : List Nat) (f : Thread → Thread) : (modThreads s us f).slew = s.slew := rfl
@[simp] theorem modThreads_syncAt (s : State) (us : List Nat) (f : Thread → Thread) : (modThreads s us f).syncAt = s.syncAt := rfl
@[simp] theorem modThreads_mem (s : State) (us : List Nat) (f : Thread → Thread) : (modThreads s us f).mem = s.mem := rfl
@[simp] theorem modThreads_locl (s : State) (us : List Nat) (f : Thread → Thread) : (modThreads s us f).locl = s.locl := rfl
@[simp] theorem modThreads_cells (s : State) (us : List Nat) (f : Thread → Thread) : (modThreads s us f).cells = s.cells := rfl
@[simp] theorem modThreads_mregs (s : State) (us : List Nat) (f : Thread → Thread) : (modThreads s us f).mregs = s.mregs := rfl
@[simp] theorem modThreads_carve (s : State) (us : List Nat) (f : Thread → Thread) : (modThreads s us f).carve = s.carve := rfl
@[simp] theorem modThreads_unitsOff (s : State) (us : List Nat) (f : Thread → Thread) : (modThreads s us f).unitsOff = s.unitsOff := rfl
@[simp] theorem modThreads_strict (s : State) (us : List Nat) (f : Thread → Thread) : (modThreads s us f).strict = s.strict := rfl
@[simp] theorem modThreads_flocks (s : State) (us : List Nat) (f : Thread → Thread) : (modThreads s us f).flocks = s.flocks := rfl
@[simp] theorem modThreads_keys (s : State) (us : List Nat) (f : Thread → Thread) : (modThreads s us f).keys = s.keys := rfl
@[simp] theorem modThreads_bins (s : State) (us : List Nat) (f : Thread → Thread) : (modThreads s us f).bins = s.bins := rfl
@[simp] theorem modThreads_placing (s : State) (us : List Nat) (f : Thread → Thread) : (modThreads s us f).placing = s.placing := rfl
@[simp] theorem modThreads_waitset (s : State) (us : List Nat) (f : Thread → Thread) : (modThreads s us f).waitset = s.waitset := rfl
@[simp] theorem modThreads_issuedNow (s : State) (us : List Nat) (f : Thread → Thread) : (modThreads s us f).issuedNow = s.issuedNow := rfl
@[simp] theorem modThreads_lanesNow (s : State) (us : List Nat) (f : Thread → Thread) : (modThreads s us f).lanesNow = s.lanesNow := rfl
@[simp] theorem modThreads_passed (s : State) (us : List Nat) (f : Thread → Thread) : (modThreads s us f).passed = s.passed := rfl
@[simp] theorem modThreads_rotated (s : State) (us : List Nat) (f : Thread → Thread) : (modThreads s us f).rotated = s.rotated := rfl
@[simp] theorem modThreads_launches (s : State) (us : List Nat) (f : Thread → Thread) : (modThreads s us f).launches = s.launches := rfl
@[simp] theorem modThreads_results (s : State) (us : List Nat) (f : Thread → Thread) : (modThreads s us f).results = s.results := rfl
@[simp] theorem modThreads_fifo (s : State) (us : List Nat) (f : Thread → Thread) : (modThreads s us f).fifo = s.fifo := rfl
@[simp] theorem modThreads_wc (s : State) (us : List Nat) (f : Thread → Thread) : (modThreads s us f).wc = s.wc := rfl
@[simp] theorem modThreads_clean (s : State) (us : List Nat) (f : Thread → Thread) : (modThreads s us f).clean = s.clean := rfl
@[simp] theorem modThreads_packets (s : State) (us : List Nat) (f : Thread → Thread) : (modThreads s us f).packets = s.packets := rfl
@[simp] theorem modThreads_peerOut (s : State) (us : List Nat) (f : Thread → Thread) : (modThreads s us f).peerOut = s.peerOut := rfl
@[simp] theorem modThreads_engLines (s : State) (us : List Nat) (f : Thread → Thread) : (modThreads s us f).engLines = s.engLines := rfl
@[simp] theorem modThreads_engFails (s : State) (us : List Nat) (f : Thread → Thread) : (modThreads s us f).engFails = s.engFails := rfl
@[simp] theorem modThreads_waiters (s : State) (us : List Nat) (f : Thread → Thread) : (modThreads s us f).waiters = s.waiters := rfl
@[simp] theorem modThreads_copies (s : State) (us : List Nat) (f : Thread → Thread) : (modThreads s us f).copies = s.copies := rfl
@[simp] theorem modThreads_mmas (s : State) (us : List Nat) (f : Thread → Thread) : (modThreads s us f).mmas = s.mmas := rfl
@[simp] theorem modThreads_chunks (s : State) (us : List Nat) (f : Thread → Thread) : (modThreads s us f).chunks = s.chunks := rfl
@[simp] theorem modThreads_rays (s : State) (us : List Nat) (f : Thread → Thread) : (modThreads s us f).rays = s.rays := rfl
@[simp] theorem modThreads_beams (s : State) (us : List Nat) (f : Thread → Thread) : (modThreads s us f).beams = s.beams := rfl
@[simp] theorem modThreads_tensors (s : State) (us : List Nat) (f : Thread → Thread) : (modThreads s us f).tensors = s.tensors := rfl
@[simp] theorem modThreads_sweeps (s : State) (us : List Nat) (f : Thread → Thread) : (modThreads s us f).sweeps = s.sweeps := rfl
@[simp] theorem modThreads_lqs (s : State) (us : List Nat) (f : Thread → Thread) : (modThreads s us f).lqs = s.lqs := rfl
@[simp] theorem modThreads_fabric (s : State) (us : List Nat) (f : Thread → Thread) : (modThreads s us f).fabric = s.fabric := rfl
@[simp] theorem modThreads_portOps (s : State) (us : List Nat) (f : Thread → Thread) : (modThreads s us f).portOps = s.portOps := rfl
@[simp] theorem modThreads_sendCount (s : State) (us : List Nat) (f : Thread → Thread) : (modThreads s us f).sendCount = s.sendCount := rfl
@[simp] theorem modThreads_graphs (s : State) (us : List Nat) (f : Thread → Thread) : (modThreads s us f).graphs = s.graphs := rfl
@[simp] theorem modThreads_replays (s : State) (us : List Nat) (f : Thread → Thread) : (modThreads s us f).replays = s.replays := rfl
@[simp] theorem modThreads_trees (s : State) (us : List Nat) (f : Thread → Thread) : (modThreads s us f).trees = s.trees := rfl
@[simp] theorem modThreads_arrivals (s : State) (us : List Nat) (f : Thread → Thread) : (modThreads s us f).arrivals = s.arrivals := rfl
@[simp] theorem modThreads_arrivalNext (s : State) (us : List Nat) (f : Thread → Thread) : (modThreads s us f).arrivalNext = s.arrivalNext := rfl
@[simp] theorem modThreads_revokes (s : State) (us : List Nat) (f : Thread → Thread) : (modThreads s us f).revokes = s.revokes := rfl
@[simp] theorem modThreads_armed (s : State) (us : List Nat) (f : Thread → Thread) : (modThreads s us f).armed = s.armed := rfl
@[simp] theorem modThreads_ceBase (s : State) (us : List Nat) (f : Thread → Thread) : (modThreads s us f).ceBase = s.ceBase := rfl
@[simp] theorem modThreads_halts (s : State) (us : List Nat) (f : Thread → Thread) : (modThreads s us f).halts = s.halts := rfl
@[simp] theorem modThreads_tlb (s : State) (us : List Nat) (f : Thread → Thread) : (modThreads s us f).tlb = s.tlb := rfl
@[simp] theorem modThreads_tlbis (s : State) (us : List Nat) (f : Thread → Thread) : (modThreads s us f).tlbis = s.tlbis := rfl
@[simp] theorem modThreads_atc (s : State) (us : List Nat) (f : Thread → Thread) : (modThreads s us f).atc = s.atc := rfl
@[simp] theorem modThreads_pageReqs (s : State) (us : List Nat) (f : Thread → Thread) : (modThreads s us f).pageReqs = s.pageReqs := rfl
@[simp] theorem modThreads_atsInvs (s : State) (us : List Nat) (f : Thread → Thread) : (modThreads s us f).atsInvs = s.atsInvs := rfl
@[simp] theorem modThreads_windows (s : State) (us : List Nat) (f : Thread → Thread) : (modThreads s us f).windows = s.windows := rfl
@[simp] theorem modThreads_glean (s : State) (us : List Nat) (f : Thread → Thread) : (modThreads s us f).glean = s.glean := rfl
@[simp] theorem modThreads_links (s : State) (us : List Nat) (f : Thread → Thread) : (modThreads s us f).links = s.links := rfl
@[simp] theorem modThreads_lost (s : State) (us : List Nat) (f : Thread → Thread) : (modThreads s us f).lost = s.lost := rfl
@[simp] theorem modThreads_kills (s : State) (us : List Nat) (f : Thread → Thread) : (modThreads s us f).kills = s.kills := rfl
@[simp] theorem modThreads_msixOpen (s : State) (us : List Nat) (f : Thread → Thread) : (modThreads s us f).msixOpen = s.msixOpen := rfl
@[simp] theorem modThreads_msixTab (s : State) (us : List Nat) (f : Thread → Thread) : (modThreads s us f).msixTab = s.msixTab := rfl
@[simp] theorem modThreads_msixPend (s : State) (us : List Nat) (f : Thread → Thread) : (modThreads s us f).msixPend = s.msixPend := rfl
@[simp] theorem modThreads_portDown (s : State) (us : List Nat) (f : Thread → Thread) : (modThreads s us f).portDown = s.portDown := rfl
@[simp] theorem modThreads_shadowOff (s : State) (us : List Nat) (f : Thread → Thread) : (modThreads s us f).shadowOff = s.shadowOff := rfl
@[simp] theorem modThreads_detected (s : State) (us : List Nat) (f : Thread → Thread) : (modThreads s us f).detected = s.detected := rfl
@[simp] theorem modThreads_late (s : State) (us : List Nat) (f : Thread → Thread) : (modThreads s us f).late = s.late := rfl
@[simp] theorem modThreads_faultSeq (s : State) (us : List Nat) (f : Thread → Thread) : (modThreads s us f).faultSeq = s.faultSeq := rfl
@[simp] theorem modThreads_flips (s : State) (us : List Nat) (f : Thread → Thread) : (modThreads s us f).flips = s.flips := rfl
@[simp] theorem modThreads_poison (s : State) (us : List Nat) (f : Thread → Thread) : (modThreads s us f).poison = s.poison := rfl
@[simp] theorem modThreads_imgPort (s : State) (us : List Nat) (f : Thread → Thread) : (modThreads s us f).imgPort = s.imgPort := rfl
@[simp] theorem modThreads_imgDigest (s : State) (us : List Nat) (f : Thread → Thread) : (modThreads s us f).imgDigest = s.imgDigest := rfl
@[simp] theorem modThreads_hostOut (s : State) (us : List Nat) (f : Thread → Thread) : (modThreads s us f).hostOut = s.hostOut := rfl
@[simp] theorem modThreads_focus (s : State) (us : List Nat) (f : Thread → Thread) : (modThreads s us f).focus = s.focus := rfl
@[simp] theorem modThreads_fresh (s : State) (us : List Nat) (f : Thread → Thread) : (modThreads s us f).fresh = s.fresh := rfl
@[simp] theorem modThreads_free (s : State) (us : List Nat) (f : Thread → Thread) : (modThreads s us f).free = s.free := rfl
@[simp] theorem modThreads_agenda (s : State) (us : List Nat) (f : Thread → Thread) : (modThreads s us f).agenda = s.agenda := rfl

@[simp] theorem modFlock_power (s : State) (c i : Nat) (f : Flock → Flock) : (modFlock s c i f).power = s.power := rfl
@[simp] theorem modFlock_cycle (s : State) (c i : Nat) (f : Flock → Flock) : (modFlock s c i f).cycle = s.cycle := rfl
@[simp] theorem modFlock_ftime (s : State) (c i : Nat) (f : Flock → Flock) : (modFlock s c i f).ftime = s.ftime := rfl
@[simp] theorem modFlock_slew (s : State) (c i : Nat) (f : Flock → Flock) : (modFlock s c i f).slew = s.slew := rfl
@[simp] theorem modFlock_syncAt (s : State) (c i : Nat) (f : Flock → Flock) : (modFlock s c i f).syncAt = s.syncAt := rfl
@[simp] theorem modFlock_mem (s : State) (c i : Nat) (f : Flock → Flock) : (modFlock s c i f).mem = s.mem := rfl
@[simp] theorem modFlock_locl (s : State) (c i : Nat) (f : Flock → Flock) : (modFlock s c i f).locl = s.locl := rfl
@[simp] theorem modFlock_cells (s : State) (c i : Nat) (f : Flock → Flock) : (modFlock s c i f).cells = s.cells := rfl
@[simp] theorem modFlock_mregs (s : State) (c i : Nat) (f : Flock → Flock) : (modFlock s c i f).mregs = s.mregs := rfl
@[simp] theorem modFlock_carve (s : State) (c i : Nat) (f : Flock → Flock) : (modFlock s c i f).carve = s.carve := rfl
@[simp] theorem modFlock_unitsOff (s : State) (c i : Nat) (f : Flock → Flock) : (modFlock s c i f).unitsOff = s.unitsOff := rfl
@[simp] theorem modFlock_strict (s : State) (c i : Nat) (f : Flock → Flock) : (modFlock s c i f).strict = s.strict := rfl
@[simp] theorem modFlock_threads (s : State) (c i : Nat) (f : Flock → Flock) : (modFlock s c i f).threads = s.threads := rfl
@[simp] theorem modFlock_keys (s : State) (c i : Nat) (f : Flock → Flock) : (modFlock s c i f).keys = s.keys := rfl
@[simp] theorem modFlock_bins (s : State) (c i : Nat) (f : Flock → Flock) : (modFlock s c i f).bins = s.bins := rfl
@[simp] theorem modFlock_placing (s : State) (c i : Nat) (f : Flock → Flock) : (modFlock s c i f).placing = s.placing := rfl
@[simp] theorem modFlock_waitset (s : State) (c i : Nat) (f : Flock → Flock) : (modFlock s c i f).waitset = s.waitset := rfl
@[simp] theorem modFlock_issuedNow (s : State) (c i : Nat) (f : Flock → Flock) : (modFlock s c i f).issuedNow = s.issuedNow := rfl
@[simp] theorem modFlock_lanesNow (s : State) (c i : Nat) (f : Flock → Flock) : (modFlock s c i f).lanesNow = s.lanesNow := rfl
@[simp] theorem modFlock_passed (s : State) (c i : Nat) (f : Flock → Flock) : (modFlock s c i f).passed = s.passed := rfl
@[simp] theorem modFlock_rotated (s : State) (c i : Nat) (f : Flock → Flock) : (modFlock s c i f).rotated = s.rotated := rfl
@[simp] theorem modFlock_launches (s : State) (c i : Nat) (f : Flock → Flock) : (modFlock s c i f).launches = s.launches := rfl
@[simp] theorem modFlock_results (s : State) (c i : Nat) (f : Flock → Flock) : (modFlock s c i f).results = s.results := rfl
@[simp] theorem modFlock_fifo (s : State) (c i : Nat) (f : Flock → Flock) : (modFlock s c i f).fifo = s.fifo := rfl
@[simp] theorem modFlock_wc (s : State) (c i : Nat) (f : Flock → Flock) : (modFlock s c i f).wc = s.wc := rfl
@[simp] theorem modFlock_clean (s : State) (c i : Nat) (f : Flock → Flock) : (modFlock s c i f).clean = s.clean := rfl
@[simp] theorem modFlock_packets (s : State) (c i : Nat) (f : Flock → Flock) : (modFlock s c i f).packets = s.packets := rfl
@[simp] theorem modFlock_peerOut (s : State) (c i : Nat) (f : Flock → Flock) : (modFlock s c i f).peerOut = s.peerOut := rfl
@[simp] theorem modFlock_engLines (s : State) (c i : Nat) (f : Flock → Flock) : (modFlock s c i f).engLines = s.engLines := rfl
@[simp] theorem modFlock_engFails (s : State) (c i : Nat) (f : Flock → Flock) : (modFlock s c i f).engFails = s.engFails := rfl
@[simp] theorem modFlock_waiters (s : State) (c i : Nat) (f : Flock → Flock) : (modFlock s c i f).waiters = s.waiters := rfl
@[simp] theorem modFlock_copies (s : State) (c i : Nat) (f : Flock → Flock) : (modFlock s c i f).copies = s.copies := rfl
@[simp] theorem modFlock_mmas (s : State) (c i : Nat) (f : Flock → Flock) : (modFlock s c i f).mmas = s.mmas := rfl
@[simp] theorem modFlock_chunks (s : State) (c i : Nat) (f : Flock → Flock) : (modFlock s c i f).chunks = s.chunks := rfl
@[simp] theorem modFlock_rays (s : State) (c i : Nat) (f : Flock → Flock) : (modFlock s c i f).rays = s.rays := rfl
@[simp] theorem modFlock_beams (s : State) (c i : Nat) (f : Flock → Flock) : (modFlock s c i f).beams = s.beams := rfl
@[simp] theorem modFlock_tensors (s : State) (c i : Nat) (f : Flock → Flock) : (modFlock s c i f).tensors = s.tensors := rfl
@[simp] theorem modFlock_sweeps (s : State) (c i : Nat) (f : Flock → Flock) : (modFlock s c i f).sweeps = s.sweeps := rfl
@[simp] theorem modFlock_lqs (s : State) (c i : Nat) (f : Flock → Flock) : (modFlock s c i f).lqs = s.lqs := rfl
@[simp] theorem modFlock_fabric (s : State) (c i : Nat) (f : Flock → Flock) : (modFlock s c i f).fabric = s.fabric := rfl
@[simp] theorem modFlock_portOps (s : State) (c i : Nat) (f : Flock → Flock) : (modFlock s c i f).portOps = s.portOps := rfl
@[simp] theorem modFlock_sendCount (s : State) (c i : Nat) (f : Flock → Flock) : (modFlock s c i f).sendCount = s.sendCount := rfl
@[simp] theorem modFlock_graphs (s : State) (c i : Nat) (f : Flock → Flock) : (modFlock s c i f).graphs = s.graphs := rfl
@[simp] theorem modFlock_replays (s : State) (c i : Nat) (f : Flock → Flock) : (modFlock s c i f).replays = s.replays := rfl
@[simp] theorem modFlock_trees (s : State) (c i : Nat) (f : Flock → Flock) : (modFlock s c i f).trees = s.trees := rfl
@[simp] theorem modFlock_arrivals (s : State) (c i : Nat) (f : Flock → Flock) : (modFlock s c i f).arrivals = s.arrivals := rfl
@[simp] theorem modFlock_arrivalNext (s : State) (c i : Nat) (f : Flock → Flock) : (modFlock s c i f).arrivalNext = s.arrivalNext := rfl
@[simp] theorem modFlock_revokes (s : State) (c i : Nat) (f : Flock → Flock) : (modFlock s c i f).revokes = s.revokes := rfl
@[simp] theorem modFlock_armed (s : State) (c i : Nat) (f : Flock → Flock) : (modFlock s c i f).armed = s.armed := rfl
@[simp] theorem modFlock_ceBase (s : State) (c i : Nat) (f : Flock → Flock) : (modFlock s c i f).ceBase = s.ceBase := rfl
@[simp] theorem modFlock_halts (s : State) (c i : Nat) (f : Flock → Flock) : (modFlock s c i f).halts = s.halts := rfl
@[simp] theorem modFlock_tlb (s : State) (c i : Nat) (f : Flock → Flock) : (modFlock s c i f).tlb = s.tlb := rfl
@[simp] theorem modFlock_tlbis (s : State) (c i : Nat) (f : Flock → Flock) : (modFlock s c i f).tlbis = s.tlbis := rfl
@[simp] theorem modFlock_atc (s : State) (c i : Nat) (f : Flock → Flock) : (modFlock s c i f).atc = s.atc := rfl
@[simp] theorem modFlock_pageReqs (s : State) (c i : Nat) (f : Flock → Flock) : (modFlock s c i f).pageReqs = s.pageReqs := rfl
@[simp] theorem modFlock_atsInvs (s : State) (c i : Nat) (f : Flock → Flock) : (modFlock s c i f).atsInvs = s.atsInvs := rfl
@[simp] theorem modFlock_windows (s : State) (c i : Nat) (f : Flock → Flock) : (modFlock s c i f).windows = s.windows := rfl
@[simp] theorem modFlock_glean (s : State) (c i : Nat) (f : Flock → Flock) : (modFlock s c i f).glean = s.glean := rfl
@[simp] theorem modFlock_links (s : State) (c i : Nat) (f : Flock → Flock) : (modFlock s c i f).links = s.links := rfl
@[simp] theorem modFlock_lost (s : State) (c i : Nat) (f : Flock → Flock) : (modFlock s c i f).lost = s.lost := rfl
@[simp] theorem modFlock_kills (s : State) (c i : Nat) (f : Flock → Flock) : (modFlock s c i f).kills = s.kills := rfl
@[simp] theorem modFlock_msixOpen (s : State) (c i : Nat) (f : Flock → Flock) : (modFlock s c i f).msixOpen = s.msixOpen := rfl
@[simp] theorem modFlock_msixTab (s : State) (c i : Nat) (f : Flock → Flock) : (modFlock s c i f).msixTab = s.msixTab := rfl
@[simp] theorem modFlock_msixPend (s : State) (c i : Nat) (f : Flock → Flock) : (modFlock s c i f).msixPend = s.msixPend := rfl
@[simp] theorem modFlock_portDown (s : State) (c i : Nat) (f : Flock → Flock) : (modFlock s c i f).portDown = s.portDown := rfl
@[simp] theorem modFlock_shadowOff (s : State) (c i : Nat) (f : Flock → Flock) : (modFlock s c i f).shadowOff = s.shadowOff := rfl
@[simp] theorem modFlock_detected (s : State) (c i : Nat) (f : Flock → Flock) : (modFlock s c i f).detected = s.detected := rfl
@[simp] theorem modFlock_late (s : State) (c i : Nat) (f : Flock → Flock) : (modFlock s c i f).late = s.late := rfl
@[simp] theorem modFlock_faultSeq (s : State) (c i : Nat) (f : Flock → Flock) : (modFlock s c i f).faultSeq = s.faultSeq := rfl
@[simp] theorem modFlock_flips (s : State) (c i : Nat) (f : Flock → Flock) : (modFlock s c i f).flips = s.flips := rfl
@[simp] theorem modFlock_poison (s : State) (c i : Nat) (f : Flock → Flock) : (modFlock s c i f).poison = s.poison := rfl
@[simp] theorem modFlock_imgPort (s : State) (c i : Nat) (f : Flock → Flock) : (modFlock s c i f).imgPort = s.imgPort := rfl
@[simp] theorem modFlock_imgDigest (s : State) (c i : Nat) (f : Flock → Flock) : (modFlock s c i f).imgDigest = s.imgDigest := rfl
@[simp] theorem modFlock_hostOut (s : State) (c i : Nat) (f : Flock → Flock) : (modFlock s c i f).hostOut = s.hostOut := rfl
@[simp] theorem modFlock_focus (s : State) (c i : Nat) (f : Flock → Flock) : (modFlock s c i f).focus = s.focus := rfl
@[simp] theorem modFlock_fresh (s : State) (c i : Nat) (f : Flock → Flock) : (modFlock s c i f).fresh = s.fresh := rfl
@[simp] theorem modFlock_free (s : State) (c i : Nat) (f : Flock → Flock) : (modFlock s c i f).free = s.free := rfl
@[simp] theorem modFlock_agenda (s : State) (c i : Nat) (f : Flock → Flock) : (modFlock s c i f).agenda = s.agenda := rfl

@[simp] theorem setIdx_power (s : State) (u i : Nat) (r : Reg) : (setIdx s u i r).power = s.power := rfl
@[simp] theorem setIdx_cycle (s : State) (u i : Nat) (r : Reg) : (setIdx s u i r).cycle = s.cycle := rfl
@[simp] theorem setIdx_ftime (s : State) (u i : Nat) (r : Reg) : (setIdx s u i r).ftime = s.ftime := rfl
@[simp] theorem setIdx_slew (s : State) (u i : Nat) (r : Reg) : (setIdx s u i r).slew = s.slew := rfl
@[simp] theorem setIdx_syncAt (s : State) (u i : Nat) (r : Reg) : (setIdx s u i r).syncAt = s.syncAt := rfl
@[simp] theorem setIdx_mem (s : State) (u i : Nat) (r : Reg) : (setIdx s u i r).mem = s.mem := rfl
@[simp] theorem setIdx_locl (s : State) (u i : Nat) (r : Reg) : (setIdx s u i r).locl = s.locl := rfl
@[simp] theorem setIdx_cells (s : State) (u i : Nat) (r : Reg) : (setIdx s u i r).cells = s.cells := rfl
@[simp] theorem setIdx_mregs (s : State) (u i : Nat) (r : Reg) : (setIdx s u i r).mregs = s.mregs := rfl
@[simp] theorem setIdx_carve (s : State) (u i : Nat) (r : Reg) : (setIdx s u i r).carve = s.carve := rfl
@[simp] theorem setIdx_unitsOff (s : State) (u i : Nat) (r : Reg) : (setIdx s u i r).unitsOff = s.unitsOff := rfl
@[simp] theorem setIdx_strict (s : State) (u i : Nat) (r : Reg) : (setIdx s u i r).strict = s.strict := rfl
@[simp] theorem setIdx_flocks (s : State) (u i : Nat) (r : Reg) : (setIdx s u i r).flocks = s.flocks := rfl
@[simp] theorem setIdx_keys (s : State) (u i : Nat) (r : Reg) : (setIdx s u i r).keys = s.keys := rfl
@[simp] theorem setIdx_bins (s : State) (u i : Nat) (r : Reg) : (setIdx s u i r).bins = s.bins := rfl
@[simp] theorem setIdx_placing (s : State) (u i : Nat) (r : Reg) : (setIdx s u i r).placing = s.placing := rfl
@[simp] theorem setIdx_waitset (s : State) (u i : Nat) (r : Reg) : (setIdx s u i r).waitset = s.waitset := rfl
@[simp] theorem setIdx_issuedNow (s : State) (u i : Nat) (r : Reg) : (setIdx s u i r).issuedNow = s.issuedNow := rfl
@[simp] theorem setIdx_lanesNow (s : State) (u i : Nat) (r : Reg) : (setIdx s u i r).lanesNow = s.lanesNow := rfl
@[simp] theorem setIdx_passed (s : State) (u i : Nat) (r : Reg) : (setIdx s u i r).passed = s.passed := rfl
@[simp] theorem setIdx_rotated (s : State) (u i : Nat) (r : Reg) : (setIdx s u i r).rotated = s.rotated := rfl
@[simp] theorem setIdx_launches (s : State) (u i : Nat) (r : Reg) : (setIdx s u i r).launches = s.launches := rfl
@[simp] theorem setIdx_results (s : State) (u i : Nat) (r : Reg) : (setIdx s u i r).results = s.results := rfl
@[simp] theorem setIdx_fifo (s : State) (u i : Nat) (r : Reg) : (setIdx s u i r).fifo = s.fifo := rfl
@[simp] theorem setIdx_wc (s : State) (u i : Nat) (r : Reg) : (setIdx s u i r).wc = s.wc := rfl
@[simp] theorem setIdx_clean (s : State) (u i : Nat) (r : Reg) : (setIdx s u i r).clean = s.clean := rfl
@[simp] theorem setIdx_packets (s : State) (u i : Nat) (r : Reg) : (setIdx s u i r).packets = s.packets := rfl
@[simp] theorem setIdx_peerOut (s : State) (u i : Nat) (r : Reg) : (setIdx s u i r).peerOut = s.peerOut := rfl
@[simp] theorem setIdx_engLines (s : State) (u i : Nat) (r : Reg) : (setIdx s u i r).engLines = s.engLines := rfl
@[simp] theorem setIdx_engFails (s : State) (u i : Nat) (r : Reg) : (setIdx s u i r).engFails = s.engFails := rfl
@[simp] theorem setIdx_waiters (s : State) (u i : Nat) (r : Reg) : (setIdx s u i r).waiters = s.waiters := rfl
@[simp] theorem setIdx_copies (s : State) (u i : Nat) (r : Reg) : (setIdx s u i r).copies = s.copies := rfl
@[simp] theorem setIdx_mmas (s : State) (u i : Nat) (r : Reg) : (setIdx s u i r).mmas = s.mmas := rfl
@[simp] theorem setIdx_chunks (s : State) (u i : Nat) (r : Reg) : (setIdx s u i r).chunks = s.chunks := rfl
@[simp] theorem setIdx_rays (s : State) (u i : Nat) (r : Reg) : (setIdx s u i r).rays = s.rays := rfl
@[simp] theorem setIdx_beams (s : State) (u i : Nat) (r : Reg) : (setIdx s u i r).beams = s.beams := rfl
@[simp] theorem setIdx_tensors (s : State) (u i : Nat) (r : Reg) : (setIdx s u i r).tensors = s.tensors := rfl
@[simp] theorem setIdx_sweeps (s : State) (u i : Nat) (r : Reg) : (setIdx s u i r).sweeps = s.sweeps := rfl
@[simp] theorem setIdx_lqs (s : State) (u i : Nat) (r : Reg) : (setIdx s u i r).lqs = s.lqs := rfl
@[simp] theorem setIdx_fabric (s : State) (u i : Nat) (r : Reg) : (setIdx s u i r).fabric = s.fabric := rfl
@[simp] theorem setIdx_portOps (s : State) (u i : Nat) (r : Reg) : (setIdx s u i r).portOps = s.portOps := rfl
@[simp] theorem setIdx_sendCount (s : State) (u i : Nat) (r : Reg) : (setIdx s u i r).sendCount = s.sendCount := rfl
@[simp] theorem setIdx_graphs (s : State) (u i : Nat) (r : Reg) : (setIdx s u i r).graphs = s.graphs := rfl
@[simp] theorem setIdx_replays (s : State) (u i : Nat) (r : Reg) : (setIdx s u i r).replays = s.replays := rfl
@[simp] theorem setIdx_trees (s : State) (u i : Nat) (r : Reg) : (setIdx s u i r).trees = s.trees := rfl
@[simp] theorem setIdx_arrivals (s : State) (u i : Nat) (r : Reg) : (setIdx s u i r).arrivals = s.arrivals := rfl
@[simp] theorem setIdx_arrivalNext (s : State) (u i : Nat) (r : Reg) : (setIdx s u i r).arrivalNext = s.arrivalNext := rfl
@[simp] theorem setIdx_revokes (s : State) (u i : Nat) (r : Reg) : (setIdx s u i r).revokes = s.revokes := rfl
@[simp] theorem setIdx_armed (s : State) (u i : Nat) (r : Reg) : (setIdx s u i r).armed = s.armed := rfl
@[simp] theorem setIdx_ceBase (s : State) (u i : Nat) (r : Reg) : (setIdx s u i r).ceBase = s.ceBase := rfl
@[simp] theorem setIdx_halts (s : State) (u i : Nat) (r : Reg) : (setIdx s u i r).halts = s.halts := rfl
@[simp] theorem setIdx_tlb (s : State) (u i : Nat) (r : Reg) : (setIdx s u i r).tlb = s.tlb := rfl
@[simp] theorem setIdx_tlbis (s : State) (u i : Nat) (r : Reg) : (setIdx s u i r).tlbis = s.tlbis := rfl
@[simp] theorem setIdx_atc (s : State) (u i : Nat) (r : Reg) : (setIdx s u i r).atc = s.atc := rfl
@[simp] theorem setIdx_pageReqs (s : State) (u i : Nat) (r : Reg) : (setIdx s u i r).pageReqs = s.pageReqs := rfl
@[simp] theorem setIdx_atsInvs (s : State) (u i : Nat) (r : Reg) : (setIdx s u i r).atsInvs = s.atsInvs := rfl
@[simp] theorem setIdx_windows (s : State) (u i : Nat) (r : Reg) : (setIdx s u i r).windows = s.windows := rfl
@[simp] theorem setIdx_glean (s : State) (u i : Nat) (r : Reg) : (setIdx s u i r).glean = s.glean := rfl
@[simp] theorem setIdx_links (s : State) (u i : Nat) (r : Reg) : (setIdx s u i r).links = s.links := rfl
@[simp] theorem setIdx_lost (s : State) (u i : Nat) (r : Reg) : (setIdx s u i r).lost = s.lost := rfl
@[simp] theorem setIdx_kills (s : State) (u i : Nat) (r : Reg) : (setIdx s u i r).kills = s.kills := rfl
@[simp] theorem setIdx_msixOpen (s : State) (u i : Nat) (r : Reg) : (setIdx s u i r).msixOpen = s.msixOpen := rfl
@[simp] theorem setIdx_msixTab (s : State) (u i : Nat) (r : Reg) : (setIdx s u i r).msixTab = s.msixTab := rfl
@[simp] theorem setIdx_msixPend (s : State) (u i : Nat) (r : Reg) : (setIdx s u i r).msixPend = s.msixPend := rfl
@[simp] theorem setIdx_portDown (s : State) (u i : Nat) (r : Reg) : (setIdx s u i r).portDown = s.portDown := rfl
@[simp] theorem setIdx_shadowOff (s : State) (u i : Nat) (r : Reg) : (setIdx s u i r).shadowOff = s.shadowOff := rfl
@[simp] theorem setIdx_detected (s : State) (u i : Nat) (r : Reg) : (setIdx s u i r).detected = s.detected := rfl
@[simp] theorem setIdx_late (s : State) (u i : Nat) (r : Reg) : (setIdx s u i r).late = s.late := rfl
@[simp] theorem setIdx_faultSeq (s : State) (u i : Nat) (r : Reg) : (setIdx s u i r).faultSeq = s.faultSeq := rfl
@[simp] theorem setIdx_imgPort (s : State) (u i : Nat) (r : Reg) : (setIdx s u i r).imgPort = s.imgPort := rfl
@[simp] theorem setIdx_imgDigest (s : State) (u i : Nat) (r : Reg) : (setIdx s u i r).imgDigest = s.imgDigest := rfl
@[simp] theorem setIdx_hostOut (s : State) (u i : Nat) (r : Reg) : (setIdx s u i r).hostOut = s.hostOut := rfl
@[simp] theorem setIdx_focus (s : State) (u i : Nat) (r : Reg) : (setIdx s u i r).focus = s.focus := rfl
@[simp] theorem setIdx_fresh (s : State) (u i : Nat) (r : Reg) : (setIdx s u i r).fresh = s.fresh := rfl
@[simp] theorem setIdx_free (s : State) (u i : Nat) (r : Reg) : (setIdx s u i r).free = s.free := rfl
@[simp] theorem setIdx_agenda (s : State) (u i : Nat) (r : Reg) : (setIdx s u i r).agenda = s.agenda := rfl

@[simp] theorem setS_power (s : State) (c k i : Nat) (v : Word) : (setS s c k i v).power = s.power := rfl
@[simp] theorem setS_cycle (s : State) (c k i : Nat) (v : Word) : (setS s c k i v).cycle = s.cycle := rfl
@[simp] theorem setS_ftime (s : State) (c k i : Nat) (v : Word) : (setS s c k i v).ftime = s.ftime := rfl
@[simp] theorem setS_slew (s : State) (c k i : Nat) (v : Word) : (setS s c k i v).slew = s.slew := rfl
@[simp] theorem setS_syncAt (s : State) (c k i : Nat) (v : Word) : (setS s c k i v).syncAt = s.syncAt := rfl
@[simp] theorem setS_mem (s : State) (c k i : Nat) (v : Word) : (setS s c k i v).mem = s.mem := rfl
@[simp] theorem setS_locl (s : State) (c k i : Nat) (v : Word) : (setS s c k i v).locl = s.locl := rfl
@[simp] theorem setS_cells (s : State) (c k i : Nat) (v : Word) : (setS s c k i v).cells = s.cells := rfl
@[simp] theorem setS_mregs (s : State) (c k i : Nat) (v : Word) : (setS s c k i v).mregs = s.mregs := rfl
@[simp] theorem setS_carve (s : State) (c k i : Nat) (v : Word) : (setS s c k i v).carve = s.carve := rfl
@[simp] theorem setS_unitsOff (s : State) (c k i : Nat) (v : Word) : (setS s c k i v).unitsOff = s.unitsOff := rfl
@[simp] theorem setS_strict (s : State) (c k i : Nat) (v : Word) : (setS s c k i v).strict = s.strict := rfl
@[simp] theorem setS_threads (s : State) (c k i : Nat) (v : Word) : (setS s c k i v).threads = s.threads := rfl
@[simp] theorem setS_keys (s : State) (c k i : Nat) (v : Word) : (setS s c k i v).keys = s.keys := rfl
@[simp] theorem setS_bins (s : State) (c k i : Nat) (v : Word) : (setS s c k i v).bins = s.bins := rfl
@[simp] theorem setS_placing (s : State) (c k i : Nat) (v : Word) : (setS s c k i v).placing = s.placing := rfl
@[simp] theorem setS_waitset (s : State) (c k i : Nat) (v : Word) : (setS s c k i v).waitset = s.waitset := rfl
@[simp] theorem setS_issuedNow (s : State) (c k i : Nat) (v : Word) : (setS s c k i v).issuedNow = s.issuedNow := rfl
@[simp] theorem setS_lanesNow (s : State) (c k i : Nat) (v : Word) : (setS s c k i v).lanesNow = s.lanesNow := rfl
@[simp] theorem setS_passed (s : State) (c k i : Nat) (v : Word) : (setS s c k i v).passed = s.passed := rfl
@[simp] theorem setS_rotated (s : State) (c k i : Nat) (v : Word) : (setS s c k i v).rotated = s.rotated := rfl
@[simp] theorem setS_launches (s : State) (c k i : Nat) (v : Word) : (setS s c k i v).launches = s.launches := rfl
@[simp] theorem setS_results (s : State) (c k i : Nat) (v : Word) : (setS s c k i v).results = s.results := rfl
@[simp] theorem setS_fifo (s : State) (c k i : Nat) (v : Word) : (setS s c k i v).fifo = s.fifo := rfl
@[simp] theorem setS_wc (s : State) (c k i : Nat) (v : Word) : (setS s c k i v).wc = s.wc := rfl
@[simp] theorem setS_clean (s : State) (c k i : Nat) (v : Word) : (setS s c k i v).clean = s.clean := rfl
@[simp] theorem setS_packets (s : State) (c k i : Nat) (v : Word) : (setS s c k i v).packets = s.packets := rfl
@[simp] theorem setS_peerOut (s : State) (c k i : Nat) (v : Word) : (setS s c k i v).peerOut = s.peerOut := rfl
@[simp] theorem setS_engLines (s : State) (c k i : Nat) (v : Word) : (setS s c k i v).engLines = s.engLines := rfl
@[simp] theorem setS_engFails (s : State) (c k i : Nat) (v : Word) : (setS s c k i v).engFails = s.engFails := rfl
@[simp] theorem setS_waiters (s : State) (c k i : Nat) (v : Word) : (setS s c k i v).waiters = s.waiters := rfl
@[simp] theorem setS_copies (s : State) (c k i : Nat) (v : Word) : (setS s c k i v).copies = s.copies := rfl
@[simp] theorem setS_mmas (s : State) (c k i : Nat) (v : Word) : (setS s c k i v).mmas = s.mmas := rfl
@[simp] theorem setS_chunks (s : State) (c k i : Nat) (v : Word) : (setS s c k i v).chunks = s.chunks := rfl
@[simp] theorem setS_rays (s : State) (c k i : Nat) (v : Word) : (setS s c k i v).rays = s.rays := rfl
@[simp] theorem setS_beams (s : State) (c k i : Nat) (v : Word) : (setS s c k i v).beams = s.beams := rfl
@[simp] theorem setS_tensors (s : State) (c k i : Nat) (v : Word) : (setS s c k i v).tensors = s.tensors := rfl
@[simp] theorem setS_sweeps (s : State) (c k i : Nat) (v : Word) : (setS s c k i v).sweeps = s.sweeps := rfl
@[simp] theorem setS_lqs (s : State) (c k i : Nat) (v : Word) : (setS s c k i v).lqs = s.lqs := rfl
@[simp] theorem setS_fabric (s : State) (c k i : Nat) (v : Word) : (setS s c k i v).fabric = s.fabric := rfl
@[simp] theorem setS_portOps (s : State) (c k i : Nat) (v : Word) : (setS s c k i v).portOps = s.portOps := rfl
@[simp] theorem setS_sendCount (s : State) (c k i : Nat) (v : Word) : (setS s c k i v).sendCount = s.sendCount := rfl
@[simp] theorem setS_graphs (s : State) (c k i : Nat) (v : Word) : (setS s c k i v).graphs = s.graphs := rfl
@[simp] theorem setS_replays (s : State) (c k i : Nat) (v : Word) : (setS s c k i v).replays = s.replays := rfl
@[simp] theorem setS_trees (s : State) (c k i : Nat) (v : Word) : (setS s c k i v).trees = s.trees := rfl
@[simp] theorem setS_arrivals (s : State) (c k i : Nat) (v : Word) : (setS s c k i v).arrivals = s.arrivals := rfl
@[simp] theorem setS_arrivalNext (s : State) (c k i : Nat) (v : Word) : (setS s c k i v).arrivalNext = s.arrivalNext := rfl
@[simp] theorem setS_revokes (s : State) (c k i : Nat) (v : Word) : (setS s c k i v).revokes = s.revokes := rfl
@[simp] theorem setS_armed (s : State) (c k i : Nat) (v : Word) : (setS s c k i v).armed = s.armed := rfl
@[simp] theorem setS_ceBase (s : State) (c k i : Nat) (v : Word) : (setS s c k i v).ceBase = s.ceBase := rfl
@[simp] theorem setS_halts (s : State) (c k i : Nat) (v : Word) : (setS s c k i v).halts = s.halts := rfl
@[simp] theorem setS_tlb (s : State) (c k i : Nat) (v : Word) : (setS s c k i v).tlb = s.tlb := rfl
@[simp] theorem setS_tlbis (s : State) (c k i : Nat) (v : Word) : (setS s c k i v).tlbis = s.tlbis := rfl
@[simp] theorem setS_atc (s : State) (c k i : Nat) (v : Word) : (setS s c k i v).atc = s.atc := rfl
@[simp] theorem setS_pageReqs (s : State) (c k i : Nat) (v : Word) : (setS s c k i v).pageReqs = s.pageReqs := rfl
@[simp] theorem setS_atsInvs (s : State) (c k i : Nat) (v : Word) : (setS s c k i v).atsInvs = s.atsInvs := rfl
@[simp] theorem setS_windows (s : State) (c k i : Nat) (v : Word) : (setS s c k i v).windows = s.windows := rfl
@[simp] theorem setS_glean (s : State) (c k i : Nat) (v : Word) : (setS s c k i v).glean = s.glean := rfl
@[simp] theorem setS_links (s : State) (c k i : Nat) (v : Word) : (setS s c k i v).links = s.links := rfl
@[simp] theorem setS_lost (s : State) (c k i : Nat) (v : Word) : (setS s c k i v).lost = s.lost := rfl
@[simp] theorem setS_kills (s : State) (c k i : Nat) (v : Word) : (setS s c k i v).kills = s.kills := rfl
@[simp] theorem setS_msixOpen (s : State) (c k i : Nat) (v : Word) : (setS s c k i v).msixOpen = s.msixOpen := rfl
@[simp] theorem setS_msixTab (s : State) (c k i : Nat) (v : Word) : (setS s c k i v).msixTab = s.msixTab := rfl
@[simp] theorem setS_msixPend (s : State) (c k i : Nat) (v : Word) : (setS s c k i v).msixPend = s.msixPend := rfl
@[simp] theorem setS_portDown (s : State) (c k i : Nat) (v : Word) : (setS s c k i v).portDown = s.portDown := rfl
@[simp] theorem setS_shadowOff (s : State) (c k i : Nat) (v : Word) : (setS s c k i v).shadowOff = s.shadowOff := rfl
@[simp] theorem setS_detected (s : State) (c k i : Nat) (v : Word) : (setS s c k i v).detected = s.detected := rfl
@[simp] theorem setS_late (s : State) (c k i : Nat) (v : Word) : (setS s c k i v).late = s.late := rfl
@[simp] theorem setS_faultSeq (s : State) (c k i : Nat) (v : Word) : (setS s c k i v).faultSeq = s.faultSeq := rfl
@[simp] theorem setS_imgPort (s : State) (c k i : Nat) (v : Word) : (setS s c k i v).imgPort = s.imgPort := rfl
@[simp] theorem setS_imgDigest (s : State) (c k i : Nat) (v : Word) : (setS s c k i v).imgDigest = s.imgDigest := rfl
@[simp] theorem setS_hostOut (s : State) (c k i : Nat) (v : Word) : (setS s c k i v).hostOut = s.hostOut := rfl
@[simp] theorem setS_focus (s : State) (c k i : Nat) (v : Word) : (setS s c k i v).focus = s.focus := rfl
@[simp] theorem setS_fresh (s : State) (c k i : Nat) (v : Word) : (setS s c k i v).fresh = s.fresh := rfl
@[simp] theorem setS_free (s : State) (c k i : Nat) (v : Word) : (setS s c k i v).free = s.free := rfl
@[simp] theorem setS_agenda (s : State) (c k i : Nat) (v : Word) : (setS s c k i v).agenda = s.agenda := rfl

@[simp] theorem cure_power (s : State) (g : Place → Bool) : (cure s g).power = s.power := rfl
@[simp] theorem cure_cycle (s : State) (g : Place → Bool) : (cure s g).cycle = s.cycle := rfl
@[simp] theorem cure_ftime (s : State) (g : Place → Bool) : (cure s g).ftime = s.ftime := rfl
@[simp] theorem cure_slew (s : State) (g : Place → Bool) : (cure s g).slew = s.slew := rfl
@[simp] theorem cure_syncAt (s : State) (g : Place → Bool) : (cure s g).syncAt = s.syncAt := rfl
@[simp] theorem cure_mem (s : State) (g : Place → Bool) : (cure s g).mem = s.mem := rfl
@[simp] theorem cure_locl (s : State) (g : Place → Bool) : (cure s g).locl = s.locl := rfl
@[simp] theorem cure_cells (s : State) (g : Place → Bool) : (cure s g).cells = s.cells := rfl
@[simp] theorem cure_mregs (s : State) (g : Place → Bool) : (cure s g).mregs = s.mregs := rfl
@[simp] theorem cure_carve (s : State) (g : Place → Bool) : (cure s g).carve = s.carve := rfl
@[simp] theorem cure_unitsOff (s : State) (g : Place → Bool) : (cure s g).unitsOff = s.unitsOff := rfl
@[simp] theorem cure_strict (s : State) (g : Place → Bool) : (cure s g).strict = s.strict := rfl
@[simp] theorem cure_threads (s : State) (g : Place → Bool) : (cure s g).threads = s.threads := rfl
@[simp] theorem cure_flocks (s : State) (g : Place → Bool) : (cure s g).flocks = s.flocks := rfl
@[simp] theorem cure_keys (s : State) (g : Place → Bool) : (cure s g).keys = s.keys := rfl
@[simp] theorem cure_bins (s : State) (g : Place → Bool) : (cure s g).bins = s.bins := rfl
@[simp] theorem cure_placing (s : State) (g : Place → Bool) : (cure s g).placing = s.placing := rfl
@[simp] theorem cure_waitset (s : State) (g : Place → Bool) : (cure s g).waitset = s.waitset := rfl
@[simp] theorem cure_issuedNow (s : State) (g : Place → Bool) : (cure s g).issuedNow = s.issuedNow := rfl
@[simp] theorem cure_lanesNow (s : State) (g : Place → Bool) : (cure s g).lanesNow = s.lanesNow := rfl
@[simp] theorem cure_passed (s : State) (g : Place → Bool) : (cure s g).passed = s.passed := rfl
@[simp] theorem cure_rotated (s : State) (g : Place → Bool) : (cure s g).rotated = s.rotated := rfl
@[simp] theorem cure_launches (s : State) (g : Place → Bool) : (cure s g).launches = s.launches := rfl
@[simp] theorem cure_results (s : State) (g : Place → Bool) : (cure s g).results = s.results := rfl
@[simp] theorem cure_fifo (s : State) (g : Place → Bool) : (cure s g).fifo = s.fifo := rfl
@[simp] theorem cure_wc (s : State) (g : Place → Bool) : (cure s g).wc = s.wc := rfl
@[simp] theorem cure_clean (s : State) (g : Place → Bool) : (cure s g).clean = s.clean := rfl
@[simp] theorem cure_packets (s : State) (g : Place → Bool) : (cure s g).packets = s.packets := rfl
@[simp] theorem cure_peerOut (s : State) (g : Place → Bool) : (cure s g).peerOut = s.peerOut := rfl
@[simp] theorem cure_engLines (s : State) (g : Place → Bool) : (cure s g).engLines = s.engLines := rfl
@[simp] theorem cure_engFails (s : State) (g : Place → Bool) : (cure s g).engFails = s.engFails := rfl
@[simp] theorem cure_waiters (s : State) (g : Place → Bool) : (cure s g).waiters = s.waiters := rfl
@[simp] theorem cure_copies (s : State) (g : Place → Bool) : (cure s g).copies = s.copies := rfl
@[simp] theorem cure_mmas (s : State) (g : Place → Bool) : (cure s g).mmas = s.mmas := rfl
@[simp] theorem cure_chunks (s : State) (g : Place → Bool) : (cure s g).chunks = s.chunks := rfl
@[simp] theorem cure_rays (s : State) (g : Place → Bool) : (cure s g).rays = s.rays := rfl
@[simp] theorem cure_beams (s : State) (g : Place → Bool) : (cure s g).beams = s.beams := rfl
@[simp] theorem cure_tensors (s : State) (g : Place → Bool) : (cure s g).tensors = s.tensors := rfl
@[simp] theorem cure_sweeps (s : State) (g : Place → Bool) : (cure s g).sweeps = s.sweeps := rfl
@[simp] theorem cure_lqs (s : State) (g : Place → Bool) : (cure s g).lqs = s.lqs := rfl
@[simp] theorem cure_fabric (s : State) (g : Place → Bool) : (cure s g).fabric = s.fabric := rfl
@[simp] theorem cure_portOps (s : State) (g : Place → Bool) : (cure s g).portOps = s.portOps := rfl
@[simp] theorem cure_sendCount (s : State) (g : Place → Bool) : (cure s g).sendCount = s.sendCount := rfl
@[simp] theorem cure_graphs (s : State) (g : Place → Bool) : (cure s g).graphs = s.graphs := rfl
@[simp] theorem cure_replays (s : State) (g : Place → Bool) : (cure s g).replays = s.replays := rfl
@[simp] theorem cure_trees (s : State) (g : Place → Bool) : (cure s g).trees = s.trees := rfl
@[simp] theorem cure_arrivals (s : State) (g : Place → Bool) : (cure s g).arrivals = s.arrivals := rfl
@[simp] theorem cure_arrivalNext (s : State) (g : Place → Bool) : (cure s g).arrivalNext = s.arrivalNext := rfl
@[simp] theorem cure_revokes (s : State) (g : Place → Bool) : (cure s g).revokes = s.revokes := rfl
@[simp] theorem cure_armed (s : State) (g : Place → Bool) : (cure s g).armed = s.armed := rfl
@[simp] theorem cure_ceBase (s : State) (g : Place → Bool) : (cure s g).ceBase = s.ceBase := rfl
@[simp] theorem cure_halts (s : State) (g : Place → Bool) : (cure s g).halts = s.halts := rfl
@[simp] theorem cure_tlb (s : State) (g : Place → Bool) : (cure s g).tlb = s.tlb := rfl
@[simp] theorem cure_tlbis (s : State) (g : Place → Bool) : (cure s g).tlbis = s.tlbis := rfl
@[simp] theorem cure_atc (s : State) (g : Place → Bool) : (cure s g).atc = s.atc := rfl
@[simp] theorem cure_pageReqs (s : State) (g : Place → Bool) : (cure s g).pageReqs = s.pageReqs := rfl
@[simp] theorem cure_atsInvs (s : State) (g : Place → Bool) : (cure s g).atsInvs = s.atsInvs := rfl
@[simp] theorem cure_windows (s : State) (g : Place → Bool) : (cure s g).windows = s.windows := rfl
@[simp] theorem cure_glean (s : State) (g : Place → Bool) : (cure s g).glean = s.glean := rfl
@[simp] theorem cure_links (s : State) (g : Place → Bool) : (cure s g).links = s.links := rfl
@[simp] theorem cure_lost (s : State) (g : Place → Bool) : (cure s g).lost = s.lost := rfl
@[simp] theorem cure_kills (s : State) (g : Place → Bool) : (cure s g).kills = s.kills := rfl
@[simp] theorem cure_msixOpen (s : State) (g : Place → Bool) : (cure s g).msixOpen = s.msixOpen := rfl
@[simp] theorem cure_msixTab (s : State) (g : Place → Bool) : (cure s g).msixTab = s.msixTab := rfl
@[simp] theorem cure_msixPend (s : State) (g : Place → Bool) : (cure s g).msixPend = s.msixPend := rfl
@[simp] theorem cure_portDown (s : State) (g : Place → Bool) : (cure s g).portDown = s.portDown := rfl
@[simp] theorem cure_shadowOff (s : State) (g : Place → Bool) : (cure s g).shadowOff = s.shadowOff := rfl
@[simp] theorem cure_detected (s : State) (g : Place → Bool) : (cure s g).detected = s.detected := rfl
@[simp] theorem cure_late (s : State) (g : Place → Bool) : (cure s g).late = s.late := rfl
@[simp] theorem cure_faultSeq (s : State) (g : Place → Bool) : (cure s g).faultSeq = s.faultSeq := rfl
@[simp] theorem cure_imgPort (s : State) (g : Place → Bool) : (cure s g).imgPort = s.imgPort := rfl
@[simp] theorem cure_imgDigest (s : State) (g : Place → Bool) : (cure s g).imgDigest = s.imgDigest := rfl
@[simp] theorem cure_hostOut (s : State) (g : Place → Bool) : (cure s g).hostOut = s.hostOut := rfl
@[simp] theorem cure_focus (s : State) (g : Place → Bool) : (cure s g).focus = s.focus := rfl
@[simp] theorem cure_fresh (s : State) (g : Place → Bool) : (cure s g).fresh = s.fresh := rfl
@[simp] theorem cure_free (s : State) (g : Place → Bool) : (cure s g).free = s.free := rfl
@[simp] theorem cure_agenda (s : State) (g : Place → Bool) : (cure s g).agenda = s.agenda := rfl

@[simp] theorem memWrite_power (s : State) (a : Nat) (bs : List Byte) : (memWrite s a bs).power = s.power := rfl
@[simp] theorem memWrite_cycle (s : State) (a : Nat) (bs : List Byte) : (memWrite s a bs).cycle = s.cycle := rfl
@[simp] theorem memWrite_ftime (s : State) (a : Nat) (bs : List Byte) : (memWrite s a bs).ftime = s.ftime := rfl
@[simp] theorem memWrite_slew (s : State) (a : Nat) (bs : List Byte) : (memWrite s a bs).slew = s.slew := rfl
@[simp] theorem memWrite_syncAt (s : State) (a : Nat) (bs : List Byte) : (memWrite s a bs).syncAt = s.syncAt := rfl
@[simp] theorem memWrite_locl (s : State) (a : Nat) (bs : List Byte) : (memWrite s a bs).locl = s.locl := rfl
@[simp] theorem memWrite_cells (s : State) (a : Nat) (bs : List Byte) : (memWrite s a bs).cells = s.cells := rfl
@[simp] theorem memWrite_mregs (s : State) (a : Nat) (bs : List Byte) : (memWrite s a bs).mregs = s.mregs := rfl
@[simp] theorem memWrite_carve (s : State) (a : Nat) (bs : List Byte) : (memWrite s a bs).carve = s.carve := rfl
@[simp] theorem memWrite_unitsOff (s : State) (a : Nat) (bs : List Byte) : (memWrite s a bs).unitsOff = s.unitsOff := rfl
@[simp] theorem memWrite_strict (s : State) (a : Nat) (bs : List Byte) : (memWrite s a bs).strict = s.strict := rfl
@[simp] theorem memWrite_threads (s : State) (a : Nat) (bs : List Byte) : (memWrite s a bs).threads = s.threads := rfl
@[simp] theorem memWrite_flocks (s : State) (a : Nat) (bs : List Byte) : (memWrite s a bs).flocks = s.flocks := rfl
@[simp] theorem memWrite_keys (s : State) (a : Nat) (bs : List Byte) : (memWrite s a bs).keys = s.keys := rfl
@[simp] theorem memWrite_bins (s : State) (a : Nat) (bs : List Byte) : (memWrite s a bs).bins = s.bins := rfl
@[simp] theorem memWrite_placing (s : State) (a : Nat) (bs : List Byte) : (memWrite s a bs).placing = s.placing := rfl
@[simp] theorem memWrite_waitset (s : State) (a : Nat) (bs : List Byte) : (memWrite s a bs).waitset = s.waitset := rfl
@[simp] theorem memWrite_issuedNow (s : State) (a : Nat) (bs : List Byte) : (memWrite s a bs).issuedNow = s.issuedNow := rfl
@[simp] theorem memWrite_lanesNow (s : State) (a : Nat) (bs : List Byte) : (memWrite s a bs).lanesNow = s.lanesNow := rfl
@[simp] theorem memWrite_passed (s : State) (a : Nat) (bs : List Byte) : (memWrite s a bs).passed = s.passed := rfl
@[simp] theorem memWrite_rotated (s : State) (a : Nat) (bs : List Byte) : (memWrite s a bs).rotated = s.rotated := rfl
@[simp] theorem memWrite_launches (s : State) (a : Nat) (bs : List Byte) : (memWrite s a bs).launches = s.launches := rfl
@[simp] theorem memWrite_results (s : State) (a : Nat) (bs : List Byte) : (memWrite s a bs).results = s.results := rfl
@[simp] theorem memWrite_fifo (s : State) (a : Nat) (bs : List Byte) : (memWrite s a bs).fifo = s.fifo := rfl
@[simp] theorem memWrite_wc (s : State) (a : Nat) (bs : List Byte) : (memWrite s a bs).wc = s.wc := rfl
@[simp] theorem memWrite_clean (s : State) (a : Nat) (bs : List Byte) : (memWrite s a bs).clean = s.clean := rfl
@[simp] theorem memWrite_packets (s : State) (a : Nat) (bs : List Byte) : (memWrite s a bs).packets = s.packets := rfl
@[simp] theorem memWrite_peerOut (s : State) (a : Nat) (bs : List Byte) : (memWrite s a bs).peerOut = s.peerOut := rfl
@[simp] theorem memWrite_engLines (s : State) (a : Nat) (bs : List Byte) : (memWrite s a bs).engLines = s.engLines := rfl
@[simp] theorem memWrite_engFails (s : State) (a : Nat) (bs : List Byte) : (memWrite s a bs).engFails = s.engFails := rfl
@[simp] theorem memWrite_waiters (s : State) (a : Nat) (bs : List Byte) : (memWrite s a bs).waiters = s.waiters := rfl
@[simp] theorem memWrite_copies (s : State) (a : Nat) (bs : List Byte) : (memWrite s a bs).copies = s.copies := rfl
@[simp] theorem memWrite_mmas (s : State) (a : Nat) (bs : List Byte) : (memWrite s a bs).mmas = s.mmas := rfl
@[simp] theorem memWrite_chunks (s : State) (a : Nat) (bs : List Byte) : (memWrite s a bs).chunks = s.chunks := rfl
@[simp] theorem memWrite_rays (s : State) (a : Nat) (bs : List Byte) : (memWrite s a bs).rays = s.rays := rfl
@[simp] theorem memWrite_beams (s : State) (a : Nat) (bs : List Byte) : (memWrite s a bs).beams = s.beams := rfl
@[simp] theorem memWrite_tensors (s : State) (a : Nat) (bs : List Byte) : (memWrite s a bs).tensors = s.tensors := rfl
@[simp] theorem memWrite_sweeps (s : State) (a : Nat) (bs : List Byte) : (memWrite s a bs).sweeps = s.sweeps := rfl
@[simp] theorem memWrite_lqs (s : State) (a : Nat) (bs : List Byte) : (memWrite s a bs).lqs = s.lqs := rfl
@[simp] theorem memWrite_fabric (s : State) (a : Nat) (bs : List Byte) : (memWrite s a bs).fabric = s.fabric := rfl
@[simp] theorem memWrite_portOps (s : State) (a : Nat) (bs : List Byte) : (memWrite s a bs).portOps = s.portOps := rfl
@[simp] theorem memWrite_sendCount (s : State) (a : Nat) (bs : List Byte) : (memWrite s a bs).sendCount = s.sendCount := rfl
@[simp] theorem memWrite_graphs (s : State) (a : Nat) (bs : List Byte) : (memWrite s a bs).graphs = s.graphs := rfl
@[simp] theorem memWrite_replays (s : State) (a : Nat) (bs : List Byte) : (memWrite s a bs).replays = s.replays := rfl
@[simp] theorem memWrite_trees (s : State) (a : Nat) (bs : List Byte) : (memWrite s a bs).trees = s.trees := rfl
@[simp] theorem memWrite_arrivals (s : State) (a : Nat) (bs : List Byte) : (memWrite s a bs).arrivals = s.arrivals := rfl
@[simp] theorem memWrite_arrivalNext (s : State) (a : Nat) (bs : List Byte) : (memWrite s a bs).arrivalNext = s.arrivalNext := rfl
@[simp] theorem memWrite_revokes (s : State) (a : Nat) (bs : List Byte) : (memWrite s a bs).revokes = s.revokes := rfl
@[simp] theorem memWrite_armed (s : State) (a : Nat) (bs : List Byte) : (memWrite s a bs).armed = s.armed := rfl
@[simp] theorem memWrite_ceBase (s : State) (a : Nat) (bs : List Byte) : (memWrite s a bs).ceBase = s.ceBase := rfl
@[simp] theorem memWrite_halts (s : State) (a : Nat) (bs : List Byte) : (memWrite s a bs).halts = s.halts := rfl
@[simp] theorem memWrite_tlb (s : State) (a : Nat) (bs : List Byte) : (memWrite s a bs).tlb = s.tlb := rfl
@[simp] theorem memWrite_tlbis (s : State) (a : Nat) (bs : List Byte) : (memWrite s a bs).tlbis = s.tlbis := rfl
@[simp] theorem memWrite_atc (s : State) (a : Nat) (bs : List Byte) : (memWrite s a bs).atc = s.atc := rfl
@[simp] theorem memWrite_pageReqs (s : State) (a : Nat) (bs : List Byte) : (memWrite s a bs).pageReqs = s.pageReqs := rfl
@[simp] theorem memWrite_atsInvs (s : State) (a : Nat) (bs : List Byte) : (memWrite s a bs).atsInvs = s.atsInvs := rfl
@[simp] theorem memWrite_windows (s : State) (a : Nat) (bs : List Byte) : (memWrite s a bs).windows = s.windows := rfl
@[simp] theorem memWrite_glean (s : State) (a : Nat) (bs : List Byte) : (memWrite s a bs).glean = s.glean := rfl
@[simp] theorem memWrite_links (s : State) (a : Nat) (bs : List Byte) : (memWrite s a bs).links = s.links := rfl
@[simp] theorem memWrite_lost (s : State) (a : Nat) (bs : List Byte) : (memWrite s a bs).lost = s.lost := rfl
@[simp] theorem memWrite_kills (s : State) (a : Nat) (bs : List Byte) : (memWrite s a bs).kills = s.kills := rfl
@[simp] theorem memWrite_msixOpen (s : State) (a : Nat) (bs : List Byte) : (memWrite s a bs).msixOpen = s.msixOpen := rfl
@[simp] theorem memWrite_msixTab (s : State) (a : Nat) (bs : List Byte) : (memWrite s a bs).msixTab = s.msixTab := rfl
@[simp] theorem memWrite_msixPend (s : State) (a : Nat) (bs : List Byte) : (memWrite s a bs).msixPend = s.msixPend := rfl
@[simp] theorem memWrite_portDown (s : State) (a : Nat) (bs : List Byte) : (memWrite s a bs).portDown = s.portDown := rfl
@[simp] theorem memWrite_shadowOff (s : State) (a : Nat) (bs : List Byte) : (memWrite s a bs).shadowOff = s.shadowOff := rfl
@[simp] theorem memWrite_detected (s : State) (a : Nat) (bs : List Byte) : (memWrite s a bs).detected = s.detected := rfl
@[simp] theorem memWrite_late (s : State) (a : Nat) (bs : List Byte) : (memWrite s a bs).late = s.late := rfl
@[simp] theorem memWrite_faultSeq (s : State) (a : Nat) (bs : List Byte) : (memWrite s a bs).faultSeq = s.faultSeq := rfl
@[simp] theorem memWrite_imgPort (s : State) (a : Nat) (bs : List Byte) : (memWrite s a bs).imgPort = s.imgPort := rfl
@[simp] theorem memWrite_imgDigest (s : State) (a : Nat) (bs : List Byte) : (memWrite s a bs).imgDigest = s.imgDigest := rfl
@[simp] theorem memWrite_hostOut (s : State) (a : Nat) (bs : List Byte) : (memWrite s a bs).hostOut = s.hostOut := rfl
@[simp] theorem memWrite_focus (s : State) (a : Nat) (bs : List Byte) : (memWrite s a bs).focus = s.focus := rfl
@[simp] theorem memWrite_fresh (s : State) (a : Nat) (bs : List Byte) : (memWrite s a bs).fresh = s.fresh := rfl
@[simp] theorem memWrite_free (s : State) (a : Nat) (bs : List Byte) : (memWrite s a bs).free = s.free := rfl
@[simp] theorem memWrite_agenda (s : State) (a : Nat) (bs : List Byte) : (memWrite s a bs).agenda = s.agenda := rfl

@[simp] theorem lsWrite_power (s : State) (c o : Nat) (bs : List Byte) : (lsWrite s c o bs).power = s.power := rfl
@[simp] theorem lsWrite_cycle (s : State) (c o : Nat) (bs : List Byte) : (lsWrite s c o bs).cycle = s.cycle := rfl
@[simp] theorem lsWrite_ftime (s : State) (c o : Nat) (bs : List Byte) : (lsWrite s c o bs).ftime = s.ftime := rfl
@[simp] theorem lsWrite_slew (s : State) (c o : Nat) (bs : List Byte) : (lsWrite s c o bs).slew = s.slew := rfl
@[simp] theorem lsWrite_syncAt (s : State) (c o : Nat) (bs : List Byte) : (lsWrite s c o bs).syncAt = s.syncAt := rfl
@[simp] theorem lsWrite_mem (s : State) (c o : Nat) (bs : List Byte) : (lsWrite s c o bs).mem = s.mem := rfl
@[simp] theorem lsWrite_cells (s : State) (c o : Nat) (bs : List Byte) : (lsWrite s c o bs).cells = s.cells := rfl
@[simp] theorem lsWrite_mregs (s : State) (c o : Nat) (bs : List Byte) : (lsWrite s c o bs).mregs = s.mregs := rfl
@[simp] theorem lsWrite_carve (s : State) (c o : Nat) (bs : List Byte) : (lsWrite s c o bs).carve = s.carve := rfl
@[simp] theorem lsWrite_unitsOff (s : State) (c o : Nat) (bs : List Byte) : (lsWrite s c o bs).unitsOff = s.unitsOff := rfl
@[simp] theorem lsWrite_strict (s : State) (c o : Nat) (bs : List Byte) : (lsWrite s c o bs).strict = s.strict := rfl
@[simp] theorem lsWrite_threads (s : State) (c o : Nat) (bs : List Byte) : (lsWrite s c o bs).threads = s.threads := rfl
@[simp] theorem lsWrite_flocks (s : State) (c o : Nat) (bs : List Byte) : (lsWrite s c o bs).flocks = s.flocks := rfl
@[simp] theorem lsWrite_keys (s : State) (c o : Nat) (bs : List Byte) : (lsWrite s c o bs).keys = s.keys := rfl
@[simp] theorem lsWrite_bins (s : State) (c o : Nat) (bs : List Byte) : (lsWrite s c o bs).bins = s.bins := rfl
@[simp] theorem lsWrite_placing (s : State) (c o : Nat) (bs : List Byte) : (lsWrite s c o bs).placing = s.placing := rfl
@[simp] theorem lsWrite_waitset (s : State) (c o : Nat) (bs : List Byte) : (lsWrite s c o bs).waitset = s.waitset := rfl
@[simp] theorem lsWrite_issuedNow (s : State) (c o : Nat) (bs : List Byte) : (lsWrite s c o bs).issuedNow = s.issuedNow := rfl
@[simp] theorem lsWrite_lanesNow (s : State) (c o : Nat) (bs : List Byte) : (lsWrite s c o bs).lanesNow = s.lanesNow := rfl
@[simp] theorem lsWrite_passed (s : State) (c o : Nat) (bs : List Byte) : (lsWrite s c o bs).passed = s.passed := rfl
@[simp] theorem lsWrite_rotated (s : State) (c o : Nat) (bs : List Byte) : (lsWrite s c o bs).rotated = s.rotated := rfl
@[simp] theorem lsWrite_launches (s : State) (c o : Nat) (bs : List Byte) : (lsWrite s c o bs).launches = s.launches := rfl
@[simp] theorem lsWrite_results (s : State) (c o : Nat) (bs : List Byte) : (lsWrite s c o bs).results = s.results := rfl
@[simp] theorem lsWrite_fifo (s : State) (c o : Nat) (bs : List Byte) : (lsWrite s c o bs).fifo = s.fifo := rfl
@[simp] theorem lsWrite_wc (s : State) (c o : Nat) (bs : List Byte) : (lsWrite s c o bs).wc = s.wc := rfl
@[simp] theorem lsWrite_clean (s : State) (c o : Nat) (bs : List Byte) : (lsWrite s c o bs).clean = s.clean := rfl
@[simp] theorem lsWrite_packets (s : State) (c o : Nat) (bs : List Byte) : (lsWrite s c o bs).packets = s.packets := rfl
@[simp] theorem lsWrite_peerOut (s : State) (c o : Nat) (bs : List Byte) : (lsWrite s c o bs).peerOut = s.peerOut := rfl
@[simp] theorem lsWrite_engLines (s : State) (c o : Nat) (bs : List Byte) : (lsWrite s c o bs).engLines = s.engLines := rfl
@[simp] theorem lsWrite_engFails (s : State) (c o : Nat) (bs : List Byte) : (lsWrite s c o bs).engFails = s.engFails := rfl
@[simp] theorem lsWrite_waiters (s : State) (c o : Nat) (bs : List Byte) : (lsWrite s c o bs).waiters = s.waiters := rfl
@[simp] theorem lsWrite_copies (s : State) (c o : Nat) (bs : List Byte) : (lsWrite s c o bs).copies = s.copies := rfl
@[simp] theorem lsWrite_mmas (s : State) (c o : Nat) (bs : List Byte) : (lsWrite s c o bs).mmas = s.mmas := rfl
@[simp] theorem lsWrite_chunks (s : State) (c o : Nat) (bs : List Byte) : (lsWrite s c o bs).chunks = s.chunks := rfl
@[simp] theorem lsWrite_rays (s : State) (c o : Nat) (bs : List Byte) : (lsWrite s c o bs).rays = s.rays := rfl
@[simp] theorem lsWrite_beams (s : State) (c o : Nat) (bs : List Byte) : (lsWrite s c o bs).beams = s.beams := rfl
@[simp] theorem lsWrite_tensors (s : State) (c o : Nat) (bs : List Byte) : (lsWrite s c o bs).tensors = s.tensors := rfl
@[simp] theorem lsWrite_sweeps (s : State) (c o : Nat) (bs : List Byte) : (lsWrite s c o bs).sweeps = s.sweeps := rfl
@[simp] theorem lsWrite_lqs (s : State) (c o : Nat) (bs : List Byte) : (lsWrite s c o bs).lqs = s.lqs := rfl
@[simp] theorem lsWrite_fabric (s : State) (c o : Nat) (bs : List Byte) : (lsWrite s c o bs).fabric = s.fabric := rfl
@[simp] theorem lsWrite_portOps (s : State) (c o : Nat) (bs : List Byte) : (lsWrite s c o bs).portOps = s.portOps := rfl
@[simp] theorem lsWrite_sendCount (s : State) (c o : Nat) (bs : List Byte) : (lsWrite s c o bs).sendCount = s.sendCount := rfl
@[simp] theorem lsWrite_graphs (s : State) (c o : Nat) (bs : List Byte) : (lsWrite s c o bs).graphs = s.graphs := rfl
@[simp] theorem lsWrite_replays (s : State) (c o : Nat) (bs : List Byte) : (lsWrite s c o bs).replays = s.replays := rfl
@[simp] theorem lsWrite_trees (s : State) (c o : Nat) (bs : List Byte) : (lsWrite s c o bs).trees = s.trees := rfl
@[simp] theorem lsWrite_arrivals (s : State) (c o : Nat) (bs : List Byte) : (lsWrite s c o bs).arrivals = s.arrivals := rfl
@[simp] theorem lsWrite_arrivalNext (s : State) (c o : Nat) (bs : List Byte) : (lsWrite s c o bs).arrivalNext = s.arrivalNext := rfl
@[simp] theorem lsWrite_revokes (s : State) (c o : Nat) (bs : List Byte) : (lsWrite s c o bs).revokes = s.revokes := rfl
@[simp] theorem lsWrite_armed (s : State) (c o : Nat) (bs : List Byte) : (lsWrite s c o bs).armed = s.armed := rfl
@[simp] theorem lsWrite_ceBase (s : State) (c o : Nat) (bs : List Byte) : (lsWrite s c o bs).ceBase = s.ceBase := rfl
@[simp] theorem lsWrite_halts (s : State) (c o : Nat) (bs : List Byte) : (lsWrite s c o bs).halts = s.halts := rfl
@[simp] theorem lsWrite_tlb (s : State) (c o : Nat) (bs : List Byte) : (lsWrite s c o bs).tlb = s.tlb := rfl
@[simp] theorem lsWrite_tlbis (s : State) (c o : Nat) (bs : List Byte) : (lsWrite s c o bs).tlbis = s.tlbis := rfl
@[simp] theorem lsWrite_atc (s : State) (c o : Nat) (bs : List Byte) : (lsWrite s c o bs).atc = s.atc := rfl
@[simp] theorem lsWrite_pageReqs (s : State) (c o : Nat) (bs : List Byte) : (lsWrite s c o bs).pageReqs = s.pageReqs := rfl
@[simp] theorem lsWrite_atsInvs (s : State) (c o : Nat) (bs : List Byte) : (lsWrite s c o bs).atsInvs = s.atsInvs := rfl
@[simp] theorem lsWrite_windows (s : State) (c o : Nat) (bs : List Byte) : (lsWrite s c o bs).windows = s.windows := rfl
@[simp] theorem lsWrite_glean (s : State) (c o : Nat) (bs : List Byte) : (lsWrite s c o bs).glean = s.glean := rfl
@[simp] theorem lsWrite_links (s : State) (c o : Nat) (bs : List Byte) : (lsWrite s c o bs).links = s.links := rfl
@[simp] theorem lsWrite_lost (s : State) (c o : Nat) (bs : List Byte) : (lsWrite s c o bs).lost = s.lost := rfl
@[simp] theorem lsWrite_kills (s : State) (c o : Nat) (bs : List Byte) : (lsWrite s c o bs).kills = s.kills := rfl
@[simp] theorem lsWrite_msixOpen (s : State) (c o : Nat) (bs : List Byte) : (lsWrite s c o bs).msixOpen = s.msixOpen := rfl
@[simp] theorem lsWrite_msixTab (s : State) (c o : Nat) (bs : List Byte) : (lsWrite s c o bs).msixTab = s.msixTab := rfl
@[simp] theorem lsWrite_msixPend (s : State) (c o : Nat) (bs : List Byte) : (lsWrite s c o bs).msixPend = s.msixPend := rfl
@[simp] theorem lsWrite_portDown (s : State) (c o : Nat) (bs : List Byte) : (lsWrite s c o bs).portDown = s.portDown := rfl
@[simp] theorem lsWrite_shadowOff (s : State) (c o : Nat) (bs : List Byte) : (lsWrite s c o bs).shadowOff = s.shadowOff := rfl
@[simp] theorem lsWrite_detected (s : State) (c o : Nat) (bs : List Byte) : (lsWrite s c o bs).detected = s.detected := rfl
@[simp] theorem lsWrite_late (s : State) (c o : Nat) (bs : List Byte) : (lsWrite s c o bs).late = s.late := rfl
@[simp] theorem lsWrite_faultSeq (s : State) (c o : Nat) (bs : List Byte) : (lsWrite s c o bs).faultSeq = s.faultSeq := rfl
@[simp] theorem lsWrite_imgPort (s : State) (c o : Nat) (bs : List Byte) : (lsWrite s c o bs).imgPort = s.imgPort := rfl
@[simp] theorem lsWrite_imgDigest (s : State) (c o : Nat) (bs : List Byte) : (lsWrite s c o bs).imgDigest = s.imgDigest := rfl
@[simp] theorem lsWrite_hostOut (s : State) (c o : Nat) (bs : List Byte) : (lsWrite s c o bs).hostOut = s.hostOut := rfl
@[simp] theorem lsWrite_focus (s : State) (c o : Nat) (bs : List Byte) : (lsWrite s c o bs).focus = s.focus := rfl
@[simp] theorem lsWrite_fresh (s : State) (c o : Nat) (bs : List Byte) : (lsWrite s c o bs).fresh = s.fresh := rfl
@[simp] theorem lsWrite_free (s : State) (c o : Nat) (bs : List Byte) : (lsWrite s c o bs).free = s.free := rfl
@[simp] theorem lsWrite_agenda (s : State) (c o : Nat) (bs : List Byte) : (lsWrite s c o bs).agenda = s.agenda := rfl

@[simp] theorem cellSet_power (s : State) (h v : Nat) : (cellSet s h v).power = s.power := by unfold cellSet; split <;> rfl
@[simp] theorem cellSet_cycle (s : State) (h v : Nat) : (cellSet s h v).cycle = s.cycle := by unfold cellSet; split <;> rfl
@[simp] theorem cellSet_ftime (s : State) (h v : Nat) : (cellSet s h v).ftime = s.ftime := by unfold cellSet; split <;> rfl
@[simp] theorem cellSet_slew (s : State) (h v : Nat) : (cellSet s h v).slew = s.slew := by unfold cellSet; split <;> rfl
@[simp] theorem cellSet_syncAt (s : State) (h v : Nat) : (cellSet s h v).syncAt = s.syncAt := by unfold cellSet; split <;> rfl
@[simp] theorem cellSet_locl (s : State) (h v : Nat) : (cellSet s h v).locl = s.locl := by unfold cellSet; split <;> rfl
@[simp] theorem cellSet_mregs (s : State) (h v : Nat) : (cellSet s h v).mregs = s.mregs := by unfold cellSet; split <;> rfl
@[simp] theorem cellSet_carve (s : State) (h v : Nat) : (cellSet s h v).carve = s.carve := by unfold cellSet; split <;> rfl
@[simp] theorem cellSet_unitsOff (s : State) (h v : Nat) : (cellSet s h v).unitsOff = s.unitsOff := by unfold cellSet; split <;> rfl
@[simp] theorem cellSet_strict (s : State) (h v : Nat) : (cellSet s h v).strict = s.strict := by unfold cellSet; split <;> rfl
@[simp] theorem cellSet_threads (s : State) (h v : Nat) : (cellSet s h v).threads = s.threads := by unfold cellSet; split <;> rfl
@[simp] theorem cellSet_flocks (s : State) (h v : Nat) : (cellSet s h v).flocks = s.flocks := by unfold cellSet; split <;> rfl
@[simp] theorem cellSet_keys (s : State) (h v : Nat) : (cellSet s h v).keys = s.keys := by unfold cellSet; split <;> rfl
@[simp] theorem cellSet_bins (s : State) (h v : Nat) : (cellSet s h v).bins = s.bins := by unfold cellSet; split <;> rfl
@[simp] theorem cellSet_placing (s : State) (h v : Nat) : (cellSet s h v).placing = s.placing := by unfold cellSet; split <;> rfl
@[simp] theorem cellSet_waitset (s : State) (h v : Nat) : (cellSet s h v).waitset = s.waitset := by unfold cellSet; split <;> rfl
@[simp] theorem cellSet_issuedNow (s : State) (h v : Nat) : (cellSet s h v).issuedNow = s.issuedNow := by unfold cellSet; split <;> rfl
@[simp] theorem cellSet_lanesNow (s : State) (h v : Nat) : (cellSet s h v).lanesNow = s.lanesNow := by unfold cellSet; split <;> rfl
@[simp] theorem cellSet_passed (s : State) (h v : Nat) : (cellSet s h v).passed = s.passed := by unfold cellSet; split <;> rfl
@[simp] theorem cellSet_rotated (s : State) (h v : Nat) : (cellSet s h v).rotated = s.rotated := by unfold cellSet; split <;> rfl
@[simp] theorem cellSet_launches (s : State) (h v : Nat) : (cellSet s h v).launches = s.launches := by unfold cellSet; split <;> rfl
@[simp] theorem cellSet_results (s : State) (h v : Nat) : (cellSet s h v).results = s.results := by unfold cellSet; split <;> rfl
@[simp] theorem cellSet_fifo (s : State) (h v : Nat) : (cellSet s h v).fifo = s.fifo := by unfold cellSet; split <;> rfl
@[simp] theorem cellSet_wc (s : State) (h v : Nat) : (cellSet s h v).wc = s.wc := by unfold cellSet; split <;> rfl
@[simp] theorem cellSet_clean (s : State) (h v : Nat) : (cellSet s h v).clean = s.clean := by unfold cellSet; split <;> rfl
@[simp] theorem cellSet_packets (s : State) (h v : Nat) : (cellSet s h v).packets = s.packets := by unfold cellSet; split <;> rfl
@[simp] theorem cellSet_peerOut (s : State) (h v : Nat) : (cellSet s h v).peerOut = s.peerOut := by unfold cellSet; split <;> rfl
@[simp] theorem cellSet_engLines (s : State) (h v : Nat) : (cellSet s h v).engLines = s.engLines := by unfold cellSet; split <;> rfl
@[simp] theorem cellSet_engFails (s : State) (h v : Nat) : (cellSet s h v).engFails = s.engFails := by unfold cellSet; split <;> rfl
@[simp] theorem cellSet_waiters (s : State) (h v : Nat) : (cellSet s h v).waiters = s.waiters := by unfold cellSet; split <;> rfl
@[simp] theorem cellSet_copies (s : State) (h v : Nat) : (cellSet s h v).copies = s.copies := by unfold cellSet; split <;> rfl
@[simp] theorem cellSet_mmas (s : State) (h v : Nat) : (cellSet s h v).mmas = s.mmas := by unfold cellSet; split <;> rfl
@[simp] theorem cellSet_chunks (s : State) (h v : Nat) : (cellSet s h v).chunks = s.chunks := by unfold cellSet; split <;> rfl
@[simp] theorem cellSet_rays (s : State) (h v : Nat) : (cellSet s h v).rays = s.rays := by unfold cellSet; split <;> rfl
@[simp] theorem cellSet_beams (s : State) (h v : Nat) : (cellSet s h v).beams = s.beams := by unfold cellSet; split <;> rfl
@[simp] theorem cellSet_tensors (s : State) (h v : Nat) : (cellSet s h v).tensors = s.tensors := by unfold cellSet; split <;> rfl
@[simp] theorem cellSet_sweeps (s : State) (h v : Nat) : (cellSet s h v).sweeps = s.sweeps := by unfold cellSet; split <;> rfl
@[simp] theorem cellSet_lqs (s : State) (h v : Nat) : (cellSet s h v).lqs = s.lqs := by unfold cellSet; split <;> rfl
@[simp] theorem cellSet_fabric (s : State) (h v : Nat) : (cellSet s h v).fabric = s.fabric := by unfold cellSet; split <;> rfl
@[simp] theorem cellSet_portOps (s : State) (h v : Nat) : (cellSet s h v).portOps = s.portOps := by unfold cellSet; split <;> rfl
@[simp] theorem cellSet_sendCount (s : State) (h v : Nat) : (cellSet s h v).sendCount = s.sendCount := by unfold cellSet; split <;> rfl
@[simp] theorem cellSet_graphs (s : State) (h v : Nat) : (cellSet s h v).graphs = s.graphs := by unfold cellSet; split <;> rfl
@[simp] theorem cellSet_replays (s : State) (h v : Nat) : (cellSet s h v).replays = s.replays := by unfold cellSet; split <;> rfl
@[simp] theorem cellSet_trees (s : State) (h v : Nat) : (cellSet s h v).trees = s.trees := by unfold cellSet; split <;> rfl
@[simp] theorem cellSet_arrivals (s : State) (h v : Nat) : (cellSet s h v).arrivals = s.arrivals := by unfold cellSet; split <;> rfl
@[simp] theorem cellSet_arrivalNext (s : State) (h v : Nat) : (cellSet s h v).arrivalNext = s.arrivalNext := by unfold cellSet; split <;> rfl
@[simp] theorem cellSet_revokes (s : State) (h v : Nat) : (cellSet s h v).revokes = s.revokes := by unfold cellSet; split <;> rfl
@[simp] theorem cellSet_armed (s : State) (h v : Nat) : (cellSet s h v).armed = s.armed := by unfold cellSet; split <;> rfl
@[simp] theorem cellSet_ceBase (s : State) (h v : Nat) : (cellSet s h v).ceBase = s.ceBase := by unfold cellSet; split <;> rfl
@[simp] theorem cellSet_halts (s : State) (h v : Nat) : (cellSet s h v).halts = s.halts := by unfold cellSet; split <;> rfl
@[simp] theorem cellSet_tlb (s : State) (h v : Nat) : (cellSet s h v).tlb = s.tlb := by unfold cellSet; split <;> rfl
@[simp] theorem cellSet_tlbis (s : State) (h v : Nat) : (cellSet s h v).tlbis = s.tlbis := by unfold cellSet; split <;> rfl
@[simp] theorem cellSet_atc (s : State) (h v : Nat) : (cellSet s h v).atc = s.atc := by unfold cellSet; split <;> rfl
@[simp] theorem cellSet_pageReqs (s : State) (h v : Nat) : (cellSet s h v).pageReqs = s.pageReqs := by unfold cellSet; split <;> rfl
@[simp] theorem cellSet_atsInvs (s : State) (h v : Nat) : (cellSet s h v).atsInvs = s.atsInvs := by unfold cellSet; split <;> rfl
@[simp] theorem cellSet_windows (s : State) (h v : Nat) : (cellSet s h v).windows = s.windows := by unfold cellSet; split <;> rfl
@[simp] theorem cellSet_glean (s : State) (h v : Nat) : (cellSet s h v).glean = s.glean := by unfold cellSet; split <;> rfl
@[simp] theorem cellSet_links (s : State) (h v : Nat) : (cellSet s h v).links = s.links := by unfold cellSet; split <;> rfl
@[simp] theorem cellSet_lost (s : State) (h v : Nat) : (cellSet s h v).lost = s.lost := by unfold cellSet; split <;> rfl
@[simp] theorem cellSet_kills (s : State) (h v : Nat) : (cellSet s h v).kills = s.kills := by unfold cellSet; split <;> rfl
@[simp] theorem cellSet_msixOpen (s : State) (h v : Nat) : (cellSet s h v).msixOpen = s.msixOpen := by unfold cellSet; split <;> rfl
@[simp] theorem cellSet_msixTab (s : State) (h v : Nat) : (cellSet s h v).msixTab = s.msixTab := by unfold cellSet; split <;> rfl
@[simp] theorem cellSet_msixPend (s : State) (h v : Nat) : (cellSet s h v).msixPend = s.msixPend := by unfold cellSet; split <;> rfl
@[simp] theorem cellSet_portDown (s : State) (h v : Nat) : (cellSet s h v).portDown = s.portDown := by unfold cellSet; split <;> rfl
@[simp] theorem cellSet_shadowOff (s : State) (h v : Nat) : (cellSet s h v).shadowOff = s.shadowOff := by unfold cellSet; split <;> rfl
@[simp] theorem cellSet_detected (s : State) (h v : Nat) : (cellSet s h v).detected = s.detected := by unfold cellSet; split <;> rfl
@[simp] theorem cellSet_late (s : State) (h v : Nat) : (cellSet s h v).late = s.late := by unfold cellSet; split <;> rfl
@[simp] theorem cellSet_faultSeq (s : State) (h v : Nat) : (cellSet s h v).faultSeq = s.faultSeq := by unfold cellSet; split <;> rfl
@[simp] theorem cellSet_imgPort (s : State) (h v : Nat) : (cellSet s h v).imgPort = s.imgPort := by unfold cellSet; split <;> rfl
@[simp] theorem cellSet_imgDigest (s : State) (h v : Nat) : (cellSet s h v).imgDigest = s.imgDigest := by unfold cellSet; split <;> rfl
@[simp] theorem cellSet_hostOut (s : State) (h v : Nat) : (cellSet s h v).hostOut = s.hostOut := by unfold cellSet; split <;> rfl
@[simp] theorem cellSet_focus (s : State) (h v : Nat) : (cellSet s h v).focus = s.focus := by unfold cellSet; split <;> rfl
@[simp] theorem cellSet_fresh (s : State) (h v : Nat) : (cellSet s h v).fresh = s.fresh := by unfold cellSet; split <;> rfl
@[simp] theorem cellSet_free (s : State) (h v : Nat) : (cellSet s h v).free = s.free := by unfold cellSet; split <;> rfl
@[simp] theorem cellSet_agenda (s : State) (h v : Nat) : (cellSet s h v).agenda = s.agenda := by unfold cellSet; split <;> rfl

@[simp] theorem sendPacket_power (s : State) (p : Packet) : (sendPacket s p).power = s.power := rfl
@[simp] theorem sendPacket_cycle (s : State) (p : Packet) : (sendPacket s p).cycle = s.cycle := rfl
@[simp] theorem sendPacket_ftime (s : State) (p : Packet) : (sendPacket s p).ftime = s.ftime := rfl
@[simp] theorem sendPacket_slew (s : State) (p : Packet) : (sendPacket s p).slew = s.slew := rfl
@[simp] theorem sendPacket_syncAt (s : State) (p : Packet) : (sendPacket s p).syncAt = s.syncAt := rfl
@[simp] theorem sendPacket_mem (s : State) (p : Packet) : (sendPacket s p).mem = s.mem := rfl
@[simp] theorem sendPacket_locl (s : State) (p : Packet) : (sendPacket s p).locl = s.locl := rfl
@[simp] theorem sendPacket_cells (s : State) (p : Packet) : (sendPacket s p).cells = s.cells := rfl
@[simp] theorem sendPacket_mregs (s : State) (p : Packet) : (sendPacket s p).mregs = s.mregs := rfl
@[simp] theorem sendPacket_carve (s : State) (p : Packet) : (sendPacket s p).carve = s.carve := rfl
@[simp] theorem sendPacket_unitsOff (s : State) (p : Packet) : (sendPacket s p).unitsOff = s.unitsOff := rfl
@[simp] theorem sendPacket_strict (s : State) (p : Packet) : (sendPacket s p).strict = s.strict := rfl
@[simp] theorem sendPacket_threads (s : State) (p : Packet) : (sendPacket s p).threads = s.threads := rfl
@[simp] theorem sendPacket_flocks (s : State) (p : Packet) : (sendPacket s p).flocks = s.flocks := rfl
@[simp] theorem sendPacket_keys (s : State) (p : Packet) : (sendPacket s p).keys = s.keys := rfl
@[simp] theorem sendPacket_bins (s : State) (p : Packet) : (sendPacket s p).bins = s.bins := rfl
@[simp] theorem sendPacket_placing (s : State) (p : Packet) : (sendPacket s p).placing = s.placing := rfl
@[simp] theorem sendPacket_waitset (s : State) (p : Packet) : (sendPacket s p).waitset = s.waitset := rfl
@[simp] theorem sendPacket_issuedNow (s : State) (p : Packet) : (sendPacket s p).issuedNow = s.issuedNow := rfl
@[simp] theorem sendPacket_lanesNow (s : State) (p : Packet) : (sendPacket s p).lanesNow = s.lanesNow := rfl
@[simp] theorem sendPacket_passed (s : State) (p : Packet) : (sendPacket s p).passed = s.passed := rfl
@[simp] theorem sendPacket_rotated (s : State) (p : Packet) : (sendPacket s p).rotated = s.rotated := rfl
@[simp] theorem sendPacket_launches (s : State) (p : Packet) : (sendPacket s p).launches = s.launches := rfl
@[simp] theorem sendPacket_results (s : State) (p : Packet) : (sendPacket s p).results = s.results := rfl
@[simp] theorem sendPacket_fifo (s : State) (p : Packet) : (sendPacket s p).fifo = s.fifo := rfl
@[simp] theorem sendPacket_wc (s : State) (p : Packet) : (sendPacket s p).wc = s.wc := rfl
@[simp] theorem sendPacket_clean (s : State) (p : Packet) : (sendPacket s p).clean = s.clean := rfl
@[simp] theorem sendPacket_peerOut (s : State) (p : Packet) : (sendPacket s p).peerOut = s.peerOut := rfl
@[simp] theorem sendPacket_engLines (s : State) (p : Packet) : (sendPacket s p).engLines = s.engLines := rfl
@[simp] theorem sendPacket_engFails (s : State) (p : Packet) : (sendPacket s p).engFails = s.engFails := rfl
@[simp] theorem sendPacket_waiters (s : State) (p : Packet) : (sendPacket s p).waiters = s.waiters := rfl
@[simp] theorem sendPacket_copies (s : State) (p : Packet) : (sendPacket s p).copies = s.copies := rfl
@[simp] theorem sendPacket_mmas (s : State) (p : Packet) : (sendPacket s p).mmas = s.mmas := rfl
@[simp] theorem sendPacket_chunks (s : State) (p : Packet) : (sendPacket s p).chunks = s.chunks := rfl
@[simp] theorem sendPacket_rays (s : State) (p : Packet) : (sendPacket s p).rays = s.rays := rfl
@[simp] theorem sendPacket_beams (s : State) (p : Packet) : (sendPacket s p).beams = s.beams := rfl
@[simp] theorem sendPacket_tensors (s : State) (p : Packet) : (sendPacket s p).tensors = s.tensors := rfl
@[simp] theorem sendPacket_sweeps (s : State) (p : Packet) : (sendPacket s p).sweeps = s.sweeps := rfl
@[simp] theorem sendPacket_lqs (s : State) (p : Packet) : (sendPacket s p).lqs = s.lqs := rfl
@[simp] theorem sendPacket_fabric (s : State) (p : Packet) : (sendPacket s p).fabric = s.fabric := rfl
@[simp] theorem sendPacket_portOps (s : State) (p : Packet) : (sendPacket s p).portOps = s.portOps := rfl
@[simp] theorem sendPacket_sendCount (s : State) (p : Packet) : (sendPacket s p).sendCount = s.sendCount := rfl
@[simp] theorem sendPacket_graphs (s : State) (p : Packet) : (sendPacket s p).graphs = s.graphs := rfl
@[simp] theorem sendPacket_replays (s : State) (p : Packet) : (sendPacket s p).replays = s.replays := rfl
@[simp] theorem sendPacket_trees (s : State) (p : Packet) : (sendPacket s p).trees = s.trees := rfl
@[simp] theorem sendPacket_arrivals (s : State) (p : Packet) : (sendPacket s p).arrivals = s.arrivals := rfl
@[simp] theorem sendPacket_arrivalNext (s : State) (p : Packet) : (sendPacket s p).arrivalNext = s.arrivalNext := rfl
@[simp] theorem sendPacket_revokes (s : State) (p : Packet) : (sendPacket s p).revokes = s.revokes := rfl
@[simp] theorem sendPacket_armed (s : State) (p : Packet) : (sendPacket s p).armed = s.armed := rfl
@[simp] theorem sendPacket_ceBase (s : State) (p : Packet) : (sendPacket s p).ceBase = s.ceBase := rfl
@[simp] theorem sendPacket_halts (s : State) (p : Packet) : (sendPacket s p).halts = s.halts := rfl
@[simp] theorem sendPacket_tlb (s : State) (p : Packet) : (sendPacket s p).tlb = s.tlb := rfl
@[simp] theorem sendPacket_tlbis (s : State) (p : Packet) : (sendPacket s p).tlbis = s.tlbis := rfl
@[simp] theorem sendPacket_atc (s : State) (p : Packet) : (sendPacket s p).atc = s.atc := rfl
@[simp] theorem sendPacket_pageReqs (s : State) (p : Packet) : (sendPacket s p).pageReqs = s.pageReqs := rfl
@[simp] theorem sendPacket_atsInvs (s : State) (p : Packet) : (sendPacket s p).atsInvs = s.atsInvs := rfl
@[simp] theorem sendPacket_windows (s : State) (p : Packet) : (sendPacket s p).windows = s.windows := rfl
@[simp] theorem sendPacket_glean (s : State) (p : Packet) : (sendPacket s p).glean = s.glean := rfl
@[simp] theorem sendPacket_links (s : State) (p : Packet) : (sendPacket s p).links = s.links := rfl
@[simp] theorem sendPacket_lost (s : State) (p : Packet) : (sendPacket s p).lost = s.lost := rfl
@[simp] theorem sendPacket_kills (s : State) (p : Packet) : (sendPacket s p).kills = s.kills := rfl
@[simp] theorem sendPacket_msixOpen (s : State) (p : Packet) : (sendPacket s p).msixOpen = s.msixOpen := rfl
@[simp] theorem sendPacket_msixTab (s : State) (p : Packet) : (sendPacket s p).msixTab = s.msixTab := rfl
@[simp] theorem sendPacket_msixPend (s : State) (p : Packet) : (sendPacket s p).msixPend = s.msixPend := rfl
@[simp] theorem sendPacket_portDown (s : State) (p : Packet) : (sendPacket s p).portDown = s.portDown := rfl
@[simp] theorem sendPacket_shadowOff (s : State) (p : Packet) : (sendPacket s p).shadowOff = s.shadowOff := rfl
@[simp] theorem sendPacket_detected (s : State) (p : Packet) : (sendPacket s p).detected = s.detected := rfl
@[simp] theorem sendPacket_late (s : State) (p : Packet) : (sendPacket s p).late = s.late := rfl
@[simp] theorem sendPacket_faultSeq (s : State) (p : Packet) : (sendPacket s p).faultSeq = s.faultSeq := rfl
@[simp] theorem sendPacket_flips (s : State) (p : Packet) : (sendPacket s p).flips = s.flips := rfl
@[simp] theorem sendPacket_poison (s : State) (p : Packet) : (sendPacket s p).poison = s.poison := rfl
@[simp] theorem sendPacket_imgPort (s : State) (p : Packet) : (sendPacket s p).imgPort = s.imgPort := rfl
@[simp] theorem sendPacket_imgDigest (s : State) (p : Packet) : (sendPacket s p).imgDigest = s.imgDigest := rfl
@[simp] theorem sendPacket_hostOut (s : State) (p : Packet) : (sendPacket s p).hostOut = s.hostOut := rfl
@[simp] theorem sendPacket_focus (s : State) (p : Packet) : (sendPacket s p).focus = s.focus := rfl
@[simp] theorem sendPacket_free (s : State) (p : Packet) : (sendPacket s p).free = s.free := rfl
@[simp] theorem sendPacket_agenda (s : State) (p : Packet) : (sendPacket s p).agenda = s.agenda := rfl

@[simp] theorem dropPacket_power (s : State) (id : Nat) : (dropPacket s id).power = s.power := rfl
@[simp] theorem dropPacket_cycle (s : State) (id : Nat) : (dropPacket s id).cycle = s.cycle := rfl
@[simp] theorem dropPacket_ftime (s : State) (id : Nat) : (dropPacket s id).ftime = s.ftime := rfl
@[simp] theorem dropPacket_slew (s : State) (id : Nat) : (dropPacket s id).slew = s.slew := rfl
@[simp] theorem dropPacket_syncAt (s : State) (id : Nat) : (dropPacket s id).syncAt = s.syncAt := rfl
@[simp] theorem dropPacket_mem (s : State) (id : Nat) : (dropPacket s id).mem = s.mem := rfl
@[simp] theorem dropPacket_locl (s : State) (id : Nat) : (dropPacket s id).locl = s.locl := rfl
@[simp] theorem dropPacket_cells (s : State) (id : Nat) : (dropPacket s id).cells = s.cells := rfl
@[simp] theorem dropPacket_mregs (s : State) (id : Nat) : (dropPacket s id).mregs = s.mregs := rfl
@[simp] theorem dropPacket_carve (s : State) (id : Nat) : (dropPacket s id).carve = s.carve := rfl
@[simp] theorem dropPacket_unitsOff (s : State) (id : Nat) : (dropPacket s id).unitsOff = s.unitsOff := rfl
@[simp] theorem dropPacket_strict (s : State) (id : Nat) : (dropPacket s id).strict = s.strict := rfl
@[simp] theorem dropPacket_threads (s : State) (id : Nat) : (dropPacket s id).threads = s.threads := rfl
@[simp] theorem dropPacket_flocks (s : State) (id : Nat) : (dropPacket s id).flocks = s.flocks := rfl
@[simp] theorem dropPacket_keys (s : State) (id : Nat) : (dropPacket s id).keys = s.keys := rfl
@[simp] theorem dropPacket_bins (s : State) (id : Nat) : (dropPacket s id).bins = s.bins := rfl
@[simp] theorem dropPacket_placing (s : State) (id : Nat) : (dropPacket s id).placing = s.placing := rfl
@[simp] theorem dropPacket_waitset (s : State) (id : Nat) : (dropPacket s id).waitset = s.waitset := rfl
@[simp] theorem dropPacket_issuedNow (s : State) (id : Nat) : (dropPacket s id).issuedNow = s.issuedNow := rfl
@[simp] theorem dropPacket_lanesNow (s : State) (id : Nat) : (dropPacket s id).lanesNow = s.lanesNow := rfl
@[simp] theorem dropPacket_passed (s : State) (id : Nat) : (dropPacket s id).passed = s.passed := rfl
@[simp] theorem dropPacket_rotated (s : State) (id : Nat) : (dropPacket s id).rotated = s.rotated := rfl
@[simp] theorem dropPacket_launches (s : State) (id : Nat) : (dropPacket s id).launches = s.launches := rfl
@[simp] theorem dropPacket_results (s : State) (id : Nat) : (dropPacket s id).results = s.results := rfl
@[simp] theorem dropPacket_fifo (s : State) (id : Nat) : (dropPacket s id).fifo = s.fifo := rfl
@[simp] theorem dropPacket_wc (s : State) (id : Nat) : (dropPacket s id).wc = s.wc := rfl
@[simp] theorem dropPacket_clean (s : State) (id : Nat) : (dropPacket s id).clean = s.clean := rfl
@[simp] theorem dropPacket_peerOut (s : State) (id : Nat) : (dropPacket s id).peerOut = s.peerOut := rfl
@[simp] theorem dropPacket_engLines (s : State) (id : Nat) : (dropPacket s id).engLines = s.engLines := rfl
@[simp] theorem dropPacket_engFails (s : State) (id : Nat) : (dropPacket s id).engFails = s.engFails := rfl
@[simp] theorem dropPacket_waiters (s : State) (id : Nat) : (dropPacket s id).waiters = s.waiters := rfl
@[simp] theorem dropPacket_copies (s : State) (id : Nat) : (dropPacket s id).copies = s.copies := rfl
@[simp] theorem dropPacket_mmas (s : State) (id : Nat) : (dropPacket s id).mmas = s.mmas := rfl
@[simp] theorem dropPacket_chunks (s : State) (id : Nat) : (dropPacket s id).chunks = s.chunks := rfl
@[simp] theorem dropPacket_rays (s : State) (id : Nat) : (dropPacket s id).rays = s.rays := rfl
@[simp] theorem dropPacket_beams (s : State) (id : Nat) : (dropPacket s id).beams = s.beams := rfl
@[simp] theorem dropPacket_tensors (s : State) (id : Nat) : (dropPacket s id).tensors = s.tensors := rfl
@[simp] theorem dropPacket_sweeps (s : State) (id : Nat) : (dropPacket s id).sweeps = s.sweeps := rfl
@[simp] theorem dropPacket_lqs (s : State) (id : Nat) : (dropPacket s id).lqs = s.lqs := rfl
@[simp] theorem dropPacket_fabric (s : State) (id : Nat) : (dropPacket s id).fabric = s.fabric := rfl
@[simp] theorem dropPacket_portOps (s : State) (id : Nat) : (dropPacket s id).portOps = s.portOps := rfl
@[simp] theorem dropPacket_sendCount (s : State) (id : Nat) : (dropPacket s id).sendCount = s.sendCount := rfl
@[simp] theorem dropPacket_graphs (s : State) (id : Nat) : (dropPacket s id).graphs = s.graphs := rfl
@[simp] theorem dropPacket_replays (s : State) (id : Nat) : (dropPacket s id).replays = s.replays := rfl
@[simp] theorem dropPacket_trees (s : State) (id : Nat) : (dropPacket s id).trees = s.trees := rfl
@[simp] theorem dropPacket_arrivals (s : State) (id : Nat) : (dropPacket s id).arrivals = s.arrivals := rfl
@[simp] theorem dropPacket_arrivalNext (s : State) (id : Nat) : (dropPacket s id).arrivalNext = s.arrivalNext := rfl
@[simp] theorem dropPacket_revokes (s : State) (id : Nat) : (dropPacket s id).revokes = s.revokes := rfl
@[simp] theorem dropPacket_armed (s : State) (id : Nat) : (dropPacket s id).armed = s.armed := rfl
@[simp] theorem dropPacket_ceBase (s : State) (id : Nat) : (dropPacket s id).ceBase = s.ceBase := rfl
@[simp] theorem dropPacket_halts (s : State) (id : Nat) : (dropPacket s id).halts = s.halts := rfl
@[simp] theorem dropPacket_tlb (s : State) (id : Nat) : (dropPacket s id).tlb = s.tlb := rfl
@[simp] theorem dropPacket_tlbis (s : State) (id : Nat) : (dropPacket s id).tlbis = s.tlbis := rfl
@[simp] theorem dropPacket_atc (s : State) (id : Nat) : (dropPacket s id).atc = s.atc := rfl
@[simp] theorem dropPacket_pageReqs (s : State) (id : Nat) : (dropPacket s id).pageReqs = s.pageReqs := rfl
@[simp] theorem dropPacket_atsInvs (s : State) (id : Nat) : (dropPacket s id).atsInvs = s.atsInvs := rfl
@[simp] theorem dropPacket_windows (s : State) (id : Nat) : (dropPacket s id).windows = s.windows := rfl
@[simp] theorem dropPacket_glean (s : State) (id : Nat) : (dropPacket s id).glean = s.glean := rfl
@[simp] theorem dropPacket_links (s : State) (id : Nat) : (dropPacket s id).links = s.links := rfl
@[simp] theorem dropPacket_lost (s : State) (id : Nat) : (dropPacket s id).lost = s.lost := rfl
@[simp] theorem dropPacket_kills (s : State) (id : Nat) : (dropPacket s id).kills = s.kills := rfl
@[simp] theorem dropPacket_msixOpen (s : State) (id : Nat) : (dropPacket s id).msixOpen = s.msixOpen := rfl
@[simp] theorem dropPacket_msixTab (s : State) (id : Nat) : (dropPacket s id).msixTab = s.msixTab := rfl
@[simp] theorem dropPacket_msixPend (s : State) (id : Nat) : (dropPacket s id).msixPend = s.msixPend := rfl
@[simp] theorem dropPacket_portDown (s : State) (id : Nat) : (dropPacket s id).portDown = s.portDown := rfl
@[simp] theorem dropPacket_shadowOff (s : State) (id : Nat) : (dropPacket s id).shadowOff = s.shadowOff := rfl
@[simp] theorem dropPacket_detected (s : State) (id : Nat) : (dropPacket s id).detected = s.detected := rfl
@[simp] theorem dropPacket_late (s : State) (id : Nat) : (dropPacket s id).late = s.late := rfl
@[simp] theorem dropPacket_faultSeq (s : State) (id : Nat) : (dropPacket s id).faultSeq = s.faultSeq := rfl
@[simp] theorem dropPacket_flips (s : State) (id : Nat) : (dropPacket s id).flips = s.flips := rfl
@[simp] theorem dropPacket_poison (s : State) (id : Nat) : (dropPacket s id).poison = s.poison := rfl
@[simp] theorem dropPacket_imgPort (s : State) (id : Nat) : (dropPacket s id).imgPort = s.imgPort := rfl
@[simp] theorem dropPacket_imgDigest (s : State) (id : Nat) : (dropPacket s id).imgDigest = s.imgDigest := rfl
@[simp] theorem dropPacket_hostOut (s : State) (id : Nat) : (dropPacket s id).hostOut = s.hostOut := rfl
@[simp] theorem dropPacket_focus (s : State) (id : Nat) : (dropPacket s id).focus = s.focus := rfl
@[simp] theorem dropPacket_fresh (s : State) (id : Nat) : (dropPacket s id).fresh = s.fresh := rfl
@[simp] theorem dropPacket_free (s : State) (id : Nat) : (dropPacket s id).free = s.free := rfl
@[simp] theorem dropPacket_agenda (s : State) (id : Nat) : (dropPacket s id).agenda = s.agenda := rfl

@[simp] theorem addResult_power (s : State) (r : Result) : (addResult s r).power = s.power := rfl
@[simp] theorem addResult_cycle (s : State) (r : Result) : (addResult s r).cycle = s.cycle := rfl
@[simp] theorem addResult_ftime (s : State) (r : Result) : (addResult s r).ftime = s.ftime := rfl
@[simp] theorem addResult_slew (s : State) (r : Result) : (addResult s r).slew = s.slew := rfl
@[simp] theorem addResult_syncAt (s : State) (r : Result) : (addResult s r).syncAt = s.syncAt := rfl
@[simp] theorem addResult_mem (s : State) (r : Result) : (addResult s r).mem = s.mem := rfl
@[simp] theorem addResult_locl (s : State) (r : Result) : (addResult s r).locl = s.locl := rfl
@[simp] theorem addResult_cells (s : State) (r : Result) : (addResult s r).cells = s.cells := rfl
@[simp] theorem addResult_mregs (s : State) (r : Result) : (addResult s r).mregs = s.mregs := rfl
@[simp] theorem addResult_carve (s : State) (r : Result) : (addResult s r).carve = s.carve := rfl
@[simp] theorem addResult_unitsOff (s : State) (r : Result) : (addResult s r).unitsOff = s.unitsOff := rfl
@[simp] theorem addResult_strict (s : State) (r : Result) : (addResult s r).strict = s.strict := rfl
@[simp] theorem addResult_threads (s : State) (r : Result) : (addResult s r).threads = s.threads := rfl
@[simp] theorem addResult_flocks (s : State) (r : Result) : (addResult s r).flocks = s.flocks := rfl
@[simp] theorem addResult_keys (s : State) (r : Result) : (addResult s r).keys = s.keys := rfl
@[simp] theorem addResult_bins (s : State) (r : Result) : (addResult s r).bins = s.bins := rfl
@[simp] theorem addResult_placing (s : State) (r : Result) : (addResult s r).placing = s.placing := rfl
@[simp] theorem addResult_waitset (s : State) (r : Result) : (addResult s r).waitset = s.waitset := rfl
@[simp] theorem addResult_issuedNow (s : State) (r : Result) : (addResult s r).issuedNow = s.issuedNow := rfl
@[simp] theorem addResult_lanesNow (s : State) (r : Result) : (addResult s r).lanesNow = s.lanesNow := rfl
@[simp] theorem addResult_passed (s : State) (r : Result) : (addResult s r).passed = s.passed := rfl
@[simp] theorem addResult_rotated (s : State) (r : Result) : (addResult s r).rotated = s.rotated := rfl
@[simp] theorem addResult_launches (s : State) (r : Result) : (addResult s r).launches = s.launches := rfl
@[simp] theorem addResult_fifo (s : State) (r : Result) : (addResult s r).fifo = s.fifo := rfl
@[simp] theorem addResult_wc (s : State) (r : Result) : (addResult s r).wc = s.wc := rfl
@[simp] theorem addResult_clean (s : State) (r : Result) : (addResult s r).clean = s.clean := rfl
@[simp] theorem addResult_packets (s : State) (r : Result) : (addResult s r).packets = s.packets := rfl
@[simp] theorem addResult_peerOut (s : State) (r : Result) : (addResult s r).peerOut = s.peerOut := rfl
@[simp] theorem addResult_engLines (s : State) (r : Result) : (addResult s r).engLines = s.engLines := rfl
@[simp] theorem addResult_engFails (s : State) (r : Result) : (addResult s r).engFails = s.engFails := rfl
@[simp] theorem addResult_waiters (s : State) (r : Result) : (addResult s r).waiters = s.waiters := rfl
@[simp] theorem addResult_copies (s : State) (r : Result) : (addResult s r).copies = s.copies := rfl
@[simp] theorem addResult_mmas (s : State) (r : Result) : (addResult s r).mmas = s.mmas := rfl
@[simp] theorem addResult_chunks (s : State) (r : Result) : (addResult s r).chunks = s.chunks := rfl
@[simp] theorem addResult_rays (s : State) (r : Result) : (addResult s r).rays = s.rays := rfl
@[simp] theorem addResult_beams (s : State) (r : Result) : (addResult s r).beams = s.beams := rfl
@[simp] theorem addResult_tensors (s : State) (r : Result) : (addResult s r).tensors = s.tensors := rfl
@[simp] theorem addResult_sweeps (s : State) (r : Result) : (addResult s r).sweeps = s.sweeps := rfl
@[simp] theorem addResult_lqs (s : State) (r : Result) : (addResult s r).lqs = s.lqs := rfl
@[simp] theorem addResult_fabric (s : State) (r : Result) : (addResult s r).fabric = s.fabric := rfl
@[simp] theorem addResult_portOps (s : State) (r : Result) : (addResult s r).portOps = s.portOps := rfl
@[simp] theorem addResult_sendCount (s : State) (r : Result) : (addResult s r).sendCount = s.sendCount := rfl
@[simp] theorem addResult_graphs (s : State) (r : Result) : (addResult s r).graphs = s.graphs := rfl
@[simp] theorem addResult_replays (s : State) (r : Result) : (addResult s r).replays = s.replays := rfl
@[simp] theorem addResult_trees (s : State) (r : Result) : (addResult s r).trees = s.trees := rfl
@[simp] theorem addResult_arrivals (s : State) (r : Result) : (addResult s r).arrivals = s.arrivals := rfl
@[simp] theorem addResult_arrivalNext (s : State) (r : Result) : (addResult s r).arrivalNext = s.arrivalNext := rfl
@[simp] theorem addResult_revokes (s : State) (r : Result) : (addResult s r).revokes = s.revokes := rfl
@[simp] theorem addResult_armed (s : State) (r : Result) : (addResult s r).armed = s.armed := rfl
@[simp] theorem addResult_ceBase (s : State) (r : Result) : (addResult s r).ceBase = s.ceBase := rfl
@[simp] theorem addResult_halts (s : State) (r : Result) : (addResult s r).halts = s.halts := rfl
@[simp] theorem addResult_tlb (s : State) (r : Result) : (addResult s r).tlb = s.tlb := rfl
@[simp] theorem addResult_tlbis (s : State) (r : Result) : (addResult s r).tlbis = s.tlbis := rfl
@[simp] theorem addResult_atc (s : State) (r : Result) : (addResult s r).atc = s.atc := rfl
@[simp] theorem addResult_pageReqs (s : State) (r : Result) : (addResult s r).pageReqs = s.pageReqs := rfl
@[simp] theorem addResult_atsInvs (s : State) (r : Result) : (addResult s r).atsInvs = s.atsInvs := rfl
@[simp] theorem addResult_windows (s : State) (r : Result) : (addResult s r).windows = s.windows := rfl
@[simp] theorem addResult_glean (s : State) (r : Result) : (addResult s r).glean = s.glean := rfl
@[simp] theorem addResult_links (s : State) (r : Result) : (addResult s r).links = s.links := rfl
@[simp] theorem addResult_lost (s : State) (r : Result) : (addResult s r).lost = s.lost := rfl
@[simp] theorem addResult_kills (s : State) (r : Result) : (addResult s r).kills = s.kills := rfl
@[simp] theorem addResult_msixOpen (s : State) (r : Result) : (addResult s r).msixOpen = s.msixOpen := rfl
@[simp] theorem addResult_msixTab (s : State) (r : Result) : (addResult s r).msixTab = s.msixTab := rfl
@[simp] theorem addResult_msixPend (s : State) (r : Result) : (addResult s r).msixPend = s.msixPend := rfl
@[simp] theorem addResult_portDown (s : State) (r : Result) : (addResult s r).portDown = s.portDown := rfl
@[simp] theorem addResult_shadowOff (s : State) (r : Result) : (addResult s r).shadowOff = s.shadowOff := rfl
@[simp] theorem addResult_detected (s : State) (r : Result) : (addResult s r).detected = s.detected := rfl
@[simp] theorem addResult_late (s : State) (r : Result) : (addResult s r).late = s.late := rfl
@[simp] theorem addResult_faultSeq (s : State) (r : Result) : (addResult s r).faultSeq = s.faultSeq := rfl
@[simp] theorem addResult_flips (s : State) (r : Result) : (addResult s r).flips = s.flips := rfl
@[simp] theorem addResult_poison (s : State) (r : Result) : (addResult s r).poison = s.poison := rfl
@[simp] theorem addResult_imgPort (s : State) (r : Result) : (addResult s r).imgPort = s.imgPort := rfl
@[simp] theorem addResult_imgDigest (s : State) (r : Result) : (addResult s r).imgDigest = s.imgDigest := rfl
@[simp] theorem addResult_hostOut (s : State) (r : Result) : (addResult s r).hostOut = s.hostOut := rfl
@[simp] theorem addResult_focus (s : State) (r : Result) : (addResult s r).focus = s.focus := rfl
@[simp] theorem addResult_free (s : State) (r : Result) : (addResult s r).free = s.free := rfl
@[simp] theorem addResult_agenda (s : State) (r : Result) : (addResult s r).agenda = s.agenda := rfl

@[simp] theorem pushStore_power (s : State) (t : Thread) (op : StoreOp) : (pushStore s t op).power = s.power := rfl
@[simp] theorem pushStore_cycle (s : State) (t : Thread) (op : StoreOp) : (pushStore s t op).cycle = s.cycle := rfl
@[simp] theorem pushStore_ftime (s : State) (t : Thread) (op : StoreOp) : (pushStore s t op).ftime = s.ftime := rfl
@[simp] theorem pushStore_slew (s : State) (t : Thread) (op : StoreOp) : (pushStore s t op).slew = s.slew := rfl
@[simp] theorem pushStore_syncAt (s : State) (t : Thread) (op : StoreOp) : (pushStore s t op).syncAt = s.syncAt := rfl
@[simp] theorem pushStore_mem (s : State) (t : Thread) (op : StoreOp) : (pushStore s t op).mem = s.mem := rfl
@[simp] theorem pushStore_locl (s : State) (t : Thread) (op : StoreOp) : (pushStore s t op).locl = s.locl := rfl
@[simp] theorem pushStore_cells (s : State) (t : Thread) (op : StoreOp) : (pushStore s t op).cells = s.cells := rfl
@[simp] theorem pushStore_mregs (s : State) (t : Thread) (op : StoreOp) : (pushStore s t op).mregs = s.mregs := rfl
@[simp] theorem pushStore_carve (s : State) (t : Thread) (op : StoreOp) : (pushStore s t op).carve = s.carve := rfl
@[simp] theorem pushStore_unitsOff (s : State) (t : Thread) (op : StoreOp) : (pushStore s t op).unitsOff = s.unitsOff := rfl
@[simp] theorem pushStore_strict (s : State) (t : Thread) (op : StoreOp) : (pushStore s t op).strict = s.strict := rfl
@[simp] theorem pushStore_threads (s : State) (t : Thread) (op : StoreOp) : (pushStore s t op).threads = s.threads := rfl
@[simp] theorem pushStore_flocks (s : State) (t : Thread) (op : StoreOp) : (pushStore s t op).flocks = s.flocks := rfl
@[simp] theorem pushStore_keys (s : State) (t : Thread) (op : StoreOp) : (pushStore s t op).keys = s.keys := rfl
@[simp] theorem pushStore_bins (s : State) (t : Thread) (op : StoreOp) : (pushStore s t op).bins = s.bins := rfl
@[simp] theorem pushStore_placing (s : State) (t : Thread) (op : StoreOp) : (pushStore s t op).placing = s.placing := rfl
@[simp] theorem pushStore_waitset (s : State) (t : Thread) (op : StoreOp) : (pushStore s t op).waitset = s.waitset := rfl
@[simp] theorem pushStore_issuedNow (s : State) (t : Thread) (op : StoreOp) : (pushStore s t op).issuedNow = s.issuedNow := rfl
@[simp] theorem pushStore_lanesNow (s : State) (t : Thread) (op : StoreOp) : (pushStore s t op).lanesNow = s.lanesNow := rfl
@[simp] theorem pushStore_passed (s : State) (t : Thread) (op : StoreOp) : (pushStore s t op).passed = s.passed := rfl
@[simp] theorem pushStore_rotated (s : State) (t : Thread) (op : StoreOp) : (pushStore s t op).rotated = s.rotated := rfl
@[simp] theorem pushStore_launches (s : State) (t : Thread) (op : StoreOp) : (pushStore s t op).launches = s.launches := rfl
@[simp] theorem pushStore_results (s : State) (t : Thread) (op : StoreOp) : (pushStore s t op).results = s.results := rfl
@[simp] theorem pushStore_wc (s : State) (t : Thread) (op : StoreOp) : (pushStore s t op).wc = s.wc := rfl
@[simp] theorem pushStore_clean (s : State) (t : Thread) (op : StoreOp) : (pushStore s t op).clean = s.clean := rfl
@[simp] theorem pushStore_packets (s : State) (t : Thread) (op : StoreOp) : (pushStore s t op).packets = s.packets := rfl
@[simp] theorem pushStore_peerOut (s : State) (t : Thread) (op : StoreOp) : (pushStore s t op).peerOut = s.peerOut := rfl
@[simp] theorem pushStore_engLines (s : State) (t : Thread) (op : StoreOp) : (pushStore s t op).engLines = s.engLines := rfl
@[simp] theorem pushStore_engFails (s : State) (t : Thread) (op : StoreOp) : (pushStore s t op).engFails = s.engFails := rfl
@[simp] theorem pushStore_waiters (s : State) (t : Thread) (op : StoreOp) : (pushStore s t op).waiters = s.waiters := rfl
@[simp] theorem pushStore_copies (s : State) (t : Thread) (op : StoreOp) : (pushStore s t op).copies = s.copies := rfl
@[simp] theorem pushStore_mmas (s : State) (t : Thread) (op : StoreOp) : (pushStore s t op).mmas = s.mmas := rfl
@[simp] theorem pushStore_chunks (s : State) (t : Thread) (op : StoreOp) : (pushStore s t op).chunks = s.chunks := rfl
@[simp] theorem pushStore_rays (s : State) (t : Thread) (op : StoreOp) : (pushStore s t op).rays = s.rays := rfl
@[simp] theorem pushStore_beams (s : State) (t : Thread) (op : StoreOp) : (pushStore s t op).beams = s.beams := rfl
@[simp] theorem pushStore_tensors (s : State) (t : Thread) (op : StoreOp) : (pushStore s t op).tensors = s.tensors := rfl
@[simp] theorem pushStore_sweeps (s : State) (t : Thread) (op : StoreOp) : (pushStore s t op).sweeps = s.sweeps := rfl
@[simp] theorem pushStore_lqs (s : State) (t : Thread) (op : StoreOp) : (pushStore s t op).lqs = s.lqs := rfl
@[simp] theorem pushStore_fabric (s : State) (t : Thread) (op : StoreOp) : (pushStore s t op).fabric = s.fabric := rfl
@[simp] theorem pushStore_portOps (s : State) (t : Thread) (op : StoreOp) : (pushStore s t op).portOps = s.portOps := rfl
@[simp] theorem pushStore_sendCount (s : State) (t : Thread) (op : StoreOp) : (pushStore s t op).sendCount = s.sendCount := rfl
@[simp] theorem pushStore_graphs (s : State) (t : Thread) (op : StoreOp) : (pushStore s t op).graphs = s.graphs := rfl
@[simp] theorem pushStore_replays (s : State) (t : Thread) (op : StoreOp) : (pushStore s t op).replays = s.replays := rfl
@[simp] theorem pushStore_trees (s : State) (t : Thread) (op : StoreOp) : (pushStore s t op).trees = s.trees := rfl
@[simp] theorem pushStore_arrivals (s : State) (t : Thread) (op : StoreOp) : (pushStore s t op).arrivals = s.arrivals := rfl
@[simp] theorem pushStore_arrivalNext (s : State) (t : Thread) (op : StoreOp) : (pushStore s t op).arrivalNext = s.arrivalNext := rfl
@[simp] theorem pushStore_revokes (s : State) (t : Thread) (op : StoreOp) : (pushStore s t op).revokes = s.revokes := rfl
@[simp] theorem pushStore_armed (s : State) (t : Thread) (op : StoreOp) : (pushStore s t op).armed = s.armed := rfl
@[simp] theorem pushStore_ceBase (s : State) (t : Thread) (op : StoreOp) : (pushStore s t op).ceBase = s.ceBase := rfl
@[simp] theorem pushStore_halts (s : State) (t : Thread) (op : StoreOp) : (pushStore s t op).halts = s.halts := rfl
@[simp] theorem pushStore_tlb (s : State) (t : Thread) (op : StoreOp) : (pushStore s t op).tlb = s.tlb := rfl
@[simp] theorem pushStore_tlbis (s : State) (t : Thread) (op : StoreOp) : (pushStore s t op).tlbis = s.tlbis := rfl
@[simp] theorem pushStore_atc (s : State) (t : Thread) (op : StoreOp) : (pushStore s t op).atc = s.atc := rfl
@[simp] theorem pushStore_pageReqs (s : State) (t : Thread) (op : StoreOp) : (pushStore s t op).pageReqs = s.pageReqs := rfl
@[simp] theorem pushStore_atsInvs (s : State) (t : Thread) (op : StoreOp) : (pushStore s t op).atsInvs = s.atsInvs := rfl
@[simp] theorem pushStore_windows (s : State) (t : Thread) (op : StoreOp) : (pushStore s t op).windows = s.windows := rfl
@[simp] theorem pushStore_glean (s : State) (t : Thread) (op : StoreOp) : (pushStore s t op).glean = s.glean := rfl
@[simp] theorem pushStore_links (s : State) (t : Thread) (op : StoreOp) : (pushStore s t op).links = s.links := rfl
@[simp] theorem pushStore_lost (s : State) (t : Thread) (op : StoreOp) : (pushStore s t op).lost = s.lost := rfl
@[simp] theorem pushStore_kills (s : State) (t : Thread) (op : StoreOp) : (pushStore s t op).kills = s.kills := rfl
@[simp] theorem pushStore_msixOpen (s : State) (t : Thread) (op : StoreOp) : (pushStore s t op).msixOpen = s.msixOpen := rfl
@[simp] theorem pushStore_msixTab (s : State) (t : Thread) (op : StoreOp) : (pushStore s t op).msixTab = s.msixTab := rfl
@[simp] theorem pushStore_msixPend (s : State) (t : Thread) (op : StoreOp) : (pushStore s t op).msixPend = s.msixPend := rfl
@[simp] theorem pushStore_portDown (s : State) (t : Thread) (op : StoreOp) : (pushStore s t op).portDown = s.portDown := rfl
@[simp] theorem pushStore_shadowOff (s : State) (t : Thread) (op : StoreOp) : (pushStore s t op).shadowOff = s.shadowOff := rfl
@[simp] theorem pushStore_detected (s : State) (t : Thread) (op : StoreOp) : (pushStore s t op).detected = s.detected := rfl
@[simp] theorem pushStore_late (s : State) (t : Thread) (op : StoreOp) : (pushStore s t op).late = s.late := rfl
@[simp] theorem pushStore_faultSeq (s : State) (t : Thread) (op : StoreOp) : (pushStore s t op).faultSeq = s.faultSeq := rfl
@[simp] theorem pushStore_flips (s : State) (t : Thread) (op : StoreOp) : (pushStore s t op).flips = s.flips := rfl
@[simp] theorem pushStore_poison (s : State) (t : Thread) (op : StoreOp) : (pushStore s t op).poison = s.poison := rfl
@[simp] theorem pushStore_imgPort (s : State) (t : Thread) (op : StoreOp) : (pushStore s t op).imgPort = s.imgPort := rfl
@[simp] theorem pushStore_imgDigest (s : State) (t : Thread) (op : StoreOp) : (pushStore s t op).imgDigest = s.imgDigest := rfl
@[simp] theorem pushStore_hostOut (s : State) (t : Thread) (op : StoreOp) : (pushStore s t op).hostOut = s.hostOut := rfl
@[simp] theorem pushStore_focus (s : State) (t : Thread) (op : StoreOp) : (pushStore s t op).focus = s.focus := rfl
@[simp] theorem pushStore_free (s : State) (t : Thread) (op : StoreOp) : (pushStore s t op).free = s.free := rfl
@[simp] theorem pushStore_agenda (s : State) (t : Thread) (op : StoreOp) : (pushStore s t op).agenda = s.agenda := rfl

@[simp] theorem sendMsg_power (s : State) (m : NetMsg) : (sendMsg s m).power = s.power := rfl
@[simp] theorem sendMsg_cycle (s : State) (m : NetMsg) : (sendMsg s m).cycle = s.cycle := rfl
@[simp] theorem sendMsg_ftime (s : State) (m : NetMsg) : (sendMsg s m).ftime = s.ftime := rfl
@[simp] theorem sendMsg_slew (s : State) (m : NetMsg) : (sendMsg s m).slew = s.slew := rfl
@[simp] theorem sendMsg_syncAt (s : State) (m : NetMsg) : (sendMsg s m).syncAt = s.syncAt := rfl
@[simp] theorem sendMsg_mem (s : State) (m : NetMsg) : (sendMsg s m).mem = s.mem := rfl
@[simp] theorem sendMsg_locl (s : State) (m : NetMsg) : (sendMsg s m).locl = s.locl := rfl
@[simp] theorem sendMsg_cells (s : State) (m : NetMsg) : (sendMsg s m).cells = s.cells := rfl
@[simp] theorem sendMsg_mregs (s : State) (m : NetMsg) : (sendMsg s m).mregs = s.mregs := rfl
@[simp] theorem sendMsg_carve (s : State) (m : NetMsg) : (sendMsg s m).carve = s.carve := rfl
@[simp] theorem sendMsg_unitsOff (s : State) (m : NetMsg) : (sendMsg s m).unitsOff = s.unitsOff := rfl
@[simp] theorem sendMsg_strict (s : State) (m : NetMsg) : (sendMsg s m).strict = s.strict := rfl
@[simp] theorem sendMsg_threads (s : State) (m : NetMsg) : (sendMsg s m).threads = s.threads := rfl
@[simp] theorem sendMsg_flocks (s : State) (m : NetMsg) : (sendMsg s m).flocks = s.flocks := rfl
@[simp] theorem sendMsg_keys (s : State) (m : NetMsg) : (sendMsg s m).keys = s.keys := rfl
@[simp] theorem sendMsg_bins (s : State) (m : NetMsg) : (sendMsg s m).bins = s.bins := rfl
@[simp] theorem sendMsg_placing (s : State) (m : NetMsg) : (sendMsg s m).placing = s.placing := rfl
@[simp] theorem sendMsg_waitset (s : State) (m : NetMsg) : (sendMsg s m).waitset = s.waitset := rfl
@[simp] theorem sendMsg_issuedNow (s : State) (m : NetMsg) : (sendMsg s m).issuedNow = s.issuedNow := rfl
@[simp] theorem sendMsg_lanesNow (s : State) (m : NetMsg) : (sendMsg s m).lanesNow = s.lanesNow := rfl
@[simp] theorem sendMsg_passed (s : State) (m : NetMsg) : (sendMsg s m).passed = s.passed := rfl
@[simp] theorem sendMsg_rotated (s : State) (m : NetMsg) : (sendMsg s m).rotated = s.rotated := rfl
@[simp] theorem sendMsg_launches (s : State) (m : NetMsg) : (sendMsg s m).launches = s.launches := rfl
@[simp] theorem sendMsg_results (s : State) (m : NetMsg) : (sendMsg s m).results = s.results := rfl
@[simp] theorem sendMsg_fifo (s : State) (m : NetMsg) : (sendMsg s m).fifo = s.fifo := rfl
@[simp] theorem sendMsg_wc (s : State) (m : NetMsg) : (sendMsg s m).wc = s.wc := rfl
@[simp] theorem sendMsg_clean (s : State) (m : NetMsg) : (sendMsg s m).clean = s.clean := rfl
@[simp] theorem sendMsg_packets (s : State) (m : NetMsg) : (sendMsg s m).packets = s.packets := rfl
@[simp] theorem sendMsg_peerOut (s : State) (m : NetMsg) : (sendMsg s m).peerOut = s.peerOut := rfl
@[simp] theorem sendMsg_engLines (s : State) (m : NetMsg) : (sendMsg s m).engLines = s.engLines := rfl
@[simp] theorem sendMsg_engFails (s : State) (m : NetMsg) : (sendMsg s m).engFails = s.engFails := rfl
@[simp] theorem sendMsg_waiters (s : State) (m : NetMsg) : (sendMsg s m).waiters = s.waiters := rfl
@[simp] theorem sendMsg_copies (s : State) (m : NetMsg) : (sendMsg s m).copies = s.copies := rfl
@[simp] theorem sendMsg_mmas (s : State) (m : NetMsg) : (sendMsg s m).mmas = s.mmas := rfl
@[simp] theorem sendMsg_chunks (s : State) (m : NetMsg) : (sendMsg s m).chunks = s.chunks := rfl
@[simp] theorem sendMsg_rays (s : State) (m : NetMsg) : (sendMsg s m).rays = s.rays := rfl
@[simp] theorem sendMsg_beams (s : State) (m : NetMsg) : (sendMsg s m).beams = s.beams := rfl
@[simp] theorem sendMsg_tensors (s : State) (m : NetMsg) : (sendMsg s m).tensors = s.tensors := rfl
@[simp] theorem sendMsg_sweeps (s : State) (m : NetMsg) : (sendMsg s m).sweeps = s.sweeps := rfl
@[simp] theorem sendMsg_lqs (s : State) (m : NetMsg) : (sendMsg s m).lqs = s.lqs := rfl
@[simp] theorem sendMsg_portOps (s : State) (m : NetMsg) : (sendMsg s m).portOps = s.portOps := rfl
@[simp] theorem sendMsg_sendCount (s : State) (m : NetMsg) : (sendMsg s m).sendCount = s.sendCount := rfl
@[simp] theorem sendMsg_graphs (s : State) (m : NetMsg) : (sendMsg s m).graphs = s.graphs := rfl
@[simp] theorem sendMsg_replays (s : State) (m : NetMsg) : (sendMsg s m).replays = s.replays := rfl
@[simp] theorem sendMsg_trees (s : State) (m : NetMsg) : (sendMsg s m).trees = s.trees := rfl
@[simp] theorem sendMsg_arrivals (s : State) (m : NetMsg) : (sendMsg s m).arrivals = s.arrivals := rfl
@[simp] theorem sendMsg_arrivalNext (s : State) (m : NetMsg) : (sendMsg s m).arrivalNext = s.arrivalNext := rfl
@[simp] theorem sendMsg_revokes (s : State) (m : NetMsg) : (sendMsg s m).revokes = s.revokes := rfl
@[simp] theorem sendMsg_armed (s : State) (m : NetMsg) : (sendMsg s m).armed = s.armed := rfl
@[simp] theorem sendMsg_ceBase (s : State) (m : NetMsg) : (sendMsg s m).ceBase = s.ceBase := rfl
@[simp] theorem sendMsg_halts (s : State) (m : NetMsg) : (sendMsg s m).halts = s.halts := rfl
@[simp] theorem sendMsg_tlb (s : State) (m : NetMsg) : (sendMsg s m).tlb = s.tlb := rfl
@[simp] theorem sendMsg_tlbis (s : State) (m : NetMsg) : (sendMsg s m).tlbis = s.tlbis := rfl
@[simp] theorem sendMsg_atc (s : State) (m : NetMsg) : (sendMsg s m).atc = s.atc := rfl
@[simp] theorem sendMsg_pageReqs (s : State) (m : NetMsg) : (sendMsg s m).pageReqs = s.pageReqs := rfl
@[simp] theorem sendMsg_atsInvs (s : State) (m : NetMsg) : (sendMsg s m).atsInvs = s.atsInvs := rfl
@[simp] theorem sendMsg_windows (s : State) (m : NetMsg) : (sendMsg s m).windows = s.windows := rfl
@[simp] theorem sendMsg_glean (s : State) (m : NetMsg) : (sendMsg s m).glean = s.glean := rfl
@[simp] theorem sendMsg_links (s : State) (m : NetMsg) : (sendMsg s m).links = s.links := rfl
@[simp] theorem sendMsg_lost (s : State) (m : NetMsg) : (sendMsg s m).lost = s.lost := rfl
@[simp] theorem sendMsg_kills (s : State) (m : NetMsg) : (sendMsg s m).kills = s.kills := rfl
@[simp] theorem sendMsg_msixOpen (s : State) (m : NetMsg) : (sendMsg s m).msixOpen = s.msixOpen := rfl
@[simp] theorem sendMsg_msixTab (s : State) (m : NetMsg) : (sendMsg s m).msixTab = s.msixTab := rfl
@[simp] theorem sendMsg_msixPend (s : State) (m : NetMsg) : (sendMsg s m).msixPend = s.msixPend := rfl
@[simp] theorem sendMsg_portDown (s : State) (m : NetMsg) : (sendMsg s m).portDown = s.portDown := rfl
@[simp] theorem sendMsg_shadowOff (s : State) (m : NetMsg) : (sendMsg s m).shadowOff = s.shadowOff := rfl
@[simp] theorem sendMsg_detected (s : State) (m : NetMsg) : (sendMsg s m).detected = s.detected := rfl
@[simp] theorem sendMsg_late (s : State) (m : NetMsg) : (sendMsg s m).late = s.late := rfl
@[simp] theorem sendMsg_faultSeq (s : State) (m : NetMsg) : (sendMsg s m).faultSeq = s.faultSeq := rfl
@[simp] theorem sendMsg_flips (s : State) (m : NetMsg) : (sendMsg s m).flips = s.flips := rfl
@[simp] theorem sendMsg_poison (s : State) (m : NetMsg) : (sendMsg s m).poison = s.poison := rfl
@[simp] theorem sendMsg_imgPort (s : State) (m : NetMsg) : (sendMsg s m).imgPort = s.imgPort := rfl
@[simp] theorem sendMsg_imgDigest (s : State) (m : NetMsg) : (sendMsg s m).imgDigest = s.imgDigest := rfl
@[simp] theorem sendMsg_hostOut (s : State) (m : NetMsg) : (sendMsg s m).hostOut = s.hostOut := rfl
@[simp] theorem sendMsg_focus (s : State) (m : NetMsg) : (sendMsg s m).focus = s.focus := rfl
@[simp] theorem sendMsg_free (s : State) (m : NetMsg) : (sendMsg s m).free = s.free := rfl
@[simp] theorem sendMsg_agenda (s : State) (m : NetMsg) : (sendMsg s m).agenda = s.agenda := rfl

end Sys2Proof.Laws
end

