-- ==== Sys2Proof/Laws/Issue.lean ====
section
/-! SUPPORT. What the issue of a word can do: the group's end, the results it puts in flight, and words whose effect is registers, guard
bits and STATUS alone. -/

namespace Sys2Proof.Laws

open Sys2Proof.Machine

@[simp] theorem settle_power (s : State) (us : List Nat) : (settle s us).power = s.power := rfl
@[simp] theorem settle_cycle (s : State) (us : List Nat) : (settle s us).cycle = s.cycle := rfl
@[simp] theorem settle_ftime (s : State) (us : List Nat) : (settle s us).ftime = s.ftime := rfl
@[simp] theorem settle_mem (s : State) (us : List Nat) : (settle s us).mem = s.mem := rfl
@[simp] theorem settle_locl (s : State) (us : List Nat) : (settle s us).locl = s.locl := rfl
@[simp] theorem settle_cells (s : State) (us : List Nat) : (settle s us).cells = s.cells := rfl
@[simp] theorem settle_mregs (s : State) (us : List Nat) : (settle s us).mregs = s.mregs := rfl
@[simp] theorem settle_carve (s : State) (us : List Nat) : (settle s us).carve = s.carve := rfl
@[simp] theorem settle_strict (s : State) (us : List Nat) : (settle s us).strict = s.strict := rfl
@[simp] theorem settle_flocks (s : State) (us : List Nat) : (settle s us).flocks = s.flocks := rfl
@[simp] theorem settle_keys (s : State) (us : List Nat) : (settle s us).keys = s.keys := rfl
@[simp] theorem settle_bins (s : State) (us : List Nat) : (settle s us).bins = s.bins := rfl
@[simp] theorem settle_placing (s : State) (us : List Nat) : (settle s us).placing = s.placing := rfl
@[simp] theorem settle_waitset (s : State) (us : List Nat) : (settle s us).waitset = s.waitset := rfl
@[simp] theorem settle_launches (s : State) (us : List Nat) : (settle s us).launches = s.launches := rfl
@[simp] theorem settle_results (s : State) (us : List Nat) : (settle s us).results = s.results := rfl
@[simp] theorem settle_fifo (s : State) (us : List Nat) : (settle s us).fifo = s.fifo := rfl
@[simp] theorem settle_wc (s : State) (us : List Nat) : (settle s us).wc = s.wc := rfl
@[simp] theorem settle_clean (s : State) (us : List Nat) : (settle s us).clean = s.clean := rfl
@[simp] theorem settle_packets (s : State) (us : List Nat) : (settle s us).packets = s.packets := rfl
@[simp] theorem settle_waiters (s : State) (us : List Nat) : (settle s us).waiters = s.waiters := rfl
@[simp] theorem settle_copies (s : State) (us : List Nat) : (settle s us).copies = s.copies := rfl
@[simp] theorem settle_mmas (s : State) (us : List Nat) : (settle s us).mmas = s.mmas := rfl
@[simp] theorem settle_chunks (s : State) (us : List Nat) : (settle s us).chunks = s.chunks := rfl
@[simp] theorem settle_rays (s : State) (us : List Nat) : (settle s us).rays = s.rays := rfl
@[simp] theorem settle_beams (s : State) (us : List Nat) : (settle s us).beams = s.beams := rfl
@[simp] theorem settle_tensors (s : State) (us : List Nat) : (settle s us).tensors = s.tensors := rfl
@[simp] theorem settle_sweeps (s : State) (us : List Nat) : (settle s us).sweeps = s.sweeps := rfl
@[simp] theorem settle_lqs (s : State) (us : List Nat) : (settle s us).lqs = s.lqs := rfl
@[simp] theorem settle_fabric (s : State) (us : List Nat) : (settle s us).fabric = s.fabric := rfl
@[simp] theorem settle_portOps (s : State) (us : List Nat) : (settle s us).portOps = s.portOps := rfl
@[simp] theorem settle_graphs (s : State) (us : List Nat) : (settle s us).graphs = s.graphs := rfl
@[simp] theorem settle_replays (s : State) (us : List Nat) : (settle s us).replays = s.replays := rfl
@[simp] theorem settle_armed (s : State) (us : List Nat) : (settle s us).armed = s.armed := rfl
@[simp] theorem settle_halts (s : State) (us : List Nat) : (settle s us).halts = s.halts := rfl
@[simp] theorem settle_tlb (s : State) (us : List Nat) : (settle s us).tlb = s.tlb := rfl
@[simp] theorem settle_tlbis (s : State) (us : List Nat) : (settle s us).tlbis = s.tlbis := rfl
@[simp] theorem settle_atc (s : State) (us : List Nat) : (settle s us).atc = s.atc := rfl
@[simp] theorem settle_pageReqs (s : State) (us : List Nat) : (settle s us).pageReqs = s.pageReqs := rfl
@[simp] theorem settle_glean (s : State) (us : List Nat) : (settle s us).glean = s.glean := rfl
@[simp] theorem settle_links (s : State) (us : List Nat) : (settle s us).links = s.links := rfl
@[simp] theorem settle_faultSeq (s : State) (us : List Nat) : (settle s us).faultSeq = s.faultSeq := rfl
@[simp] theorem settle_flips (s : State) (us : List Nat) : (settle s us).flips = s.flips := rfl
@[simp] theorem settle_poison (s : State) (us : List Nat) : (settle s us).poison = s.poison := rfl
@[simp] theorem settle_hostOut (s : State) (us : List Nat) : (settle s us).hostOut = s.hostOut := rfl
@[simp] theorem settle_focus (s : State) (us : List Nat) : (settle s us).focus = s.focus := rfl
@[simp] theorem settle_fresh (s : State) (us : List Nat) : (settle s us).fresh = s.fresh := rfl
@[simp] theorem settle_free (s : State) (us : List Nat) : (settle s us).free = s.free := rfl
@[simp] theorem settle_agenda (s : State) (us : List Nat) : (settle s us).agenda = s.agenda := rfl

@[simp] theorem finish_power (s : State) (i : Issue) (stay : List Nat) (br : List (Nat × VAddr)) (w : Nat → List Target) :
    (finish s i stay br w).power = s.power := by unfold finish; dsimp only; split <;> rfl
@[simp] theorem finish_cycle (s : State) (i : Issue) (stay : List Nat) (br : List (Nat × VAddr)) (w : Nat → List Target) :
    (finish s i stay br w).cycle = s.cycle := by unfold finish; dsimp only; split <;> rfl
@[simp] theorem finish_ftime (s : State) (i : Issue) (stay : List Nat) (br : List (Nat × VAddr)) (w : Nat → List Target) :
    (finish s i stay br w).ftime = s.ftime := by unfold finish; dsimp only; split <;> rfl
@[simp] theorem finish_mem (s : State) (i : Issue) (stay : List Nat) (br : List (Nat × VAddr)) (w : Nat → List Target) :
    (finish s i stay br w).mem = s.mem := by unfold finish; dsimp only; split <;> rfl
@[simp] theorem finish_locl (s : State) (i : Issue) (stay : List Nat) (br : List (Nat × VAddr)) (w : Nat → List Target) :
    (finish s i stay br w).locl = s.locl := by unfold finish; dsimp only; split <;> rfl
@[simp] theorem finish_cells (s : State) (i : Issue) (stay : List Nat) (br : List (Nat × VAddr)) (w : Nat → List Target) :
    (finish s i stay br w).cells = s.cells := by unfold finish; dsimp only; split <;> rfl
@[simp] theorem finish_mregs (s : State) (i : Issue) (stay : List Nat) (br : List (Nat × VAddr)) (w : Nat → List Target) :
    (finish s i stay br w).mregs = s.mregs := by unfold finish; dsimp only; split <;> rfl
@[simp] theorem finish_carve (s : State) (i : Issue) (stay : List Nat) (br : List (Nat × VAddr)) (w : Nat → List Target) :
    (finish s i stay br w).carve = s.carve := by unfold finish; dsimp only; split <;> rfl
@[simp] theorem finish_strict (s : State) (i : Issue) (stay : List Nat) (br : List (Nat × VAddr)) (w : Nat → List Target) :
    (finish s i stay br w).strict = s.strict := by unfold finish; dsimp only; split <;> rfl
@[simp] theorem finish_flocks (s : State) (i : Issue) (stay : List Nat) (br : List (Nat × VAddr)) (w : Nat → List Target) :
    (finish s i stay br w).flocks = s.flocks := by unfold finish; dsimp only; split <;> rfl
@[simp] theorem finish_keys (s : State) (i : Issue) (stay : List Nat) (br : List (Nat × VAddr)) (w : Nat → List Target) :
    (finish s i stay br w).keys = s.keys := by unfold finish; dsimp only; split <;> rfl
@[simp] theorem finish_bins (s : State) (i : Issue) (stay : List Nat) (br : List (Nat × VAddr)) (w : Nat → List Target) :
    (finish s i stay br w).bins = s.bins := by unfold finish; dsimp only; split <;> rfl
@[simp] theorem finish_placing (s : State) (i : Issue) (stay : List Nat) (br : List (Nat × VAddr)) (w : Nat → List Target) :
    (finish s i stay br w).placing = s.placing := by unfold finish; dsimp only; split <;> rfl
@[simp] theorem finish_waitset (s : State) (i : Issue) (stay : List Nat) (br : List (Nat × VAddr)) (w : Nat → List Target) :
    (finish s i stay br w).waitset = s.waitset := by unfold finish; dsimp only; split <;> rfl
@[simp] theorem finish_launches (s : State) (i : Issue) (stay : List Nat) (br : List (Nat × VAddr)) (w : Nat → List Target) :
    (finish s i stay br w).launches = s.launches := by unfold finish; dsimp only; split <;> rfl
@[simp] theorem finish_results (s : State) (i : Issue) (stay : List Nat) (br : List (Nat × VAddr)) (w : Nat → List Target) :
    (finish s i stay br w).results = s.results := by unfold finish; dsimp only; split <;> rfl
@[simp] theorem finish_fifo (s : State) (i : Issue) (stay : List Nat) (br : List (Nat × VAddr)) (w : Nat → List Target) :
    (finish s i stay br w).fifo = s.fifo := by unfold finish; dsimp only; split <;> rfl
@[simp] theorem finish_wc (s : State) (i : Issue) (stay : List Nat) (br : List (Nat × VAddr)) (w : Nat → List Target) :
    (finish s i stay br w).wc = s.wc := by unfold finish; dsimp only; split <;> rfl
@[simp] theorem finish_clean (s : State) (i : Issue) (stay : List Nat) (br : List (Nat × VAddr)) (w : Nat → List Target) :
    (finish s i stay br w).clean = s.clean := by unfold finish; dsimp only; split <;> rfl
@[simp] theorem finish_packets (s : State) (i : Issue) (stay : List Nat) (br : List (Nat × VAddr)) (w : Nat → List Target) :
    (finish s i stay br w).packets = s.packets := by unfold finish; dsimp only; split <;> rfl
@[simp] theorem finish_waiters (s : State) (i : Issue) (stay : List Nat) (br : List (Nat × VAddr)) (w : Nat → List Target) :
    (finish s i stay br w).waiters = s.waiters := by unfold finish; dsimp only; split <;> rfl
@[simp] theorem finish_copies (s : State) (i : Issue) (stay : List Nat) (br : List (Nat × VAddr)) (w : Nat → List Target) :
    (finish s i stay br w).copies = s.copies := by unfold finish; dsimp only; split <;> rfl
@[simp] theorem finish_mmas (s : State) (i : Issue) (stay : List Nat) (br : List (Nat × VAddr)) (w : Nat → List Target) :
    (finish s i stay br w).mmas = s.mmas := by unfold finish; dsimp only; split <;> rfl
@[simp] theorem finish_chunks (s : State) (i : Issue) (stay : List Nat) (br : List (Nat × VAddr)) (w : Nat → List Target) :
    (finish s i stay br w).chunks = s.chunks := by unfold finish; dsimp only; split <;> rfl
@[simp] theorem finish_rays (s : State) (i : Issue) (stay : List Nat) (br : List (Nat × VAddr)) (w : Nat → List Target) :
    (finish s i stay br w).rays = s.rays := by unfold finish; dsimp only; split <;> rfl
@[simp] theorem finish_beams (s : State) (i : Issue) (stay : List Nat) (br : List (Nat × VAddr)) (w : Nat → List Target) :
    (finish s i stay br w).beams = s.beams := by unfold finish; dsimp only; split <;> rfl
@[simp] theorem finish_tensors (s : State) (i : Issue) (stay : List Nat) (br : List (Nat × VAddr)) (w : Nat → List Target) :
    (finish s i stay br w).tensors = s.tensors := by unfold finish; dsimp only; split <;> rfl
@[simp] theorem finish_sweeps (s : State) (i : Issue) (stay : List Nat) (br : List (Nat × VAddr)) (w : Nat → List Target) :
    (finish s i stay br w).sweeps = s.sweeps := by unfold finish; dsimp only; split <;> rfl
@[simp] theorem finish_lqs (s : State) (i : Issue) (stay : List Nat) (br : List (Nat × VAddr)) (w : Nat → List Target) :
    (finish s i stay br w).lqs = s.lqs := by unfold finish; dsimp only; split <;> rfl
@[simp] theorem finish_fabric (s : State) (i : Issue) (stay : List Nat) (br : List (Nat × VAddr)) (w : Nat → List Target) :
    (finish s i stay br w).fabric = s.fabric := by unfold finish; dsimp only; split <;> rfl
@[simp] theorem finish_portOps (s : State) (i : Issue) (stay : List Nat) (br : List (Nat × VAddr)) (w : Nat → List Target) :
    (finish s i stay br w).portOps = s.portOps := by unfold finish; dsimp only; split <;> rfl
@[simp] theorem finish_graphs (s : State) (i : Issue) (stay : List Nat) (br : List (Nat × VAddr)) (w : Nat → List Target) :
    (finish s i stay br w).graphs = s.graphs := by unfold finish; dsimp only; split <;> rfl
@[simp] theorem finish_replays (s : State) (i : Issue) (stay : List Nat) (br : List (Nat × VAddr)) (w : Nat → List Target) :
    (finish s i stay br w).replays = s.replays := by unfold finish; dsimp only; split <;> rfl
@[simp] theorem finish_armed (s : State) (i : Issue) (stay : List Nat) (br : List (Nat × VAddr)) (w : Nat → List Target) :
    (finish s i stay br w).armed = s.armed := by unfold finish; dsimp only; split <;> rfl
@[simp] theorem finish_halts (s : State) (i : Issue) (stay : List Nat) (br : List (Nat × VAddr)) (w : Nat → List Target) :
    (finish s i stay br w).halts = s.halts := by unfold finish; dsimp only; split <;> rfl
@[simp] theorem finish_tlb (s : State) (i : Issue) (stay : List Nat) (br : List (Nat × VAddr)) (w : Nat → List Target) :
    (finish s i stay br w).tlb = s.tlb := by unfold finish; dsimp only; split <;> rfl
@[simp] theorem finish_tlbis (s : State) (i : Issue) (stay : List Nat) (br : List (Nat × VAddr)) (w : Nat → List Target) :
    (finish s i stay br w).tlbis = s.tlbis := by unfold finish; dsimp only; split <;> rfl
@[simp] theorem finish_atc (s : State) (i : Issue) (stay : List Nat) (br : List (Nat × VAddr)) (w : Nat → List Target) :
    (finish s i stay br w).atc = s.atc := by unfold finish; dsimp only; split <;> rfl
@[simp] theorem finish_pageReqs (s : State) (i : Issue) (stay : List Nat) (br : List (Nat × VAddr)) (w : Nat → List Target) :
    (finish s i stay br w).pageReqs = s.pageReqs := by unfold finish; dsimp only; split <;> rfl
@[simp] theorem finish_glean (s : State) (i : Issue) (stay : List Nat) (br : List (Nat × VAddr)) (w : Nat → List Target) :
    (finish s i stay br w).glean = s.glean := by unfold finish; dsimp only; split <;> rfl
@[simp] theorem finish_links (s : State) (i : Issue) (stay : List Nat) (br : List (Nat × VAddr)) (w : Nat → List Target) :
    (finish s i stay br w).links = s.links := by unfold finish; dsimp only; split <;> rfl
@[simp] theorem finish_faultSeq (s : State) (i : Issue) (stay : List Nat) (br : List (Nat × VAddr)) (w : Nat → List Target) :
    (finish s i stay br w).faultSeq = s.faultSeq := by unfold finish; dsimp only; split <;> rfl
@[simp] theorem finish_flips (s : State) (i : Issue) (stay : List Nat) (br : List (Nat × VAddr)) (w : Nat → List Target) :
    (finish s i stay br w).flips = s.flips := by unfold finish; dsimp only; split <;> rfl
@[simp] theorem finish_poison (s : State) (i : Issue) (stay : List Nat) (br : List (Nat × VAddr)) (w : Nat → List Target) :
    (finish s i stay br w).poison = s.poison := by unfold finish; dsimp only; split <;> rfl
@[simp] theorem finish_hostOut (s : State) (i : Issue) (stay : List Nat) (br : List (Nat × VAddr)) (w : Nat → List Target) :
    (finish s i stay br w).hostOut = s.hostOut := by unfold finish; dsimp only; split <;> rfl
@[simp] theorem finish_focus (s : State) (i : Issue) (stay : List Nat) (br : List (Nat × VAddr)) (w : Nat → List Target) :
    (finish s i stay br w).focus = s.focus := by unfold finish; dsimp only; split <;> rfl
@[simp] theorem finish_fresh (s : State) (i : Issue) (stay : List Nat) (br : List (Nat × VAddr)) (w : Nat → List Target) :
    (finish s i stay br w).fresh = s.fresh := by unfold finish; dsimp only; split <;> rfl
@[simp] theorem finish_free (s : State) (i : Issue) (stay : List Nat) (br : List (Nat × VAddr)) (w : Nat → List Target) :
    (finish s i stay br w).free = s.free := by unfold finish; dsimp only; split <;> rfl
@[simp] theorem finish_agenda (s : State) (i : Issue) (stay : List Nat) (br : List (Nat × VAddr)) (w : Nat → List Target) :
    (finish s i stay br w).agenda = s.agenda := by unfold finish; dsimp only; split <;> rfl

@[simp] theorem latch_power (s : State) (us : List Nat) (b : Nat) : (latch s us b).power = s.power := by unfold latch; split; rfl; split <;> rfl
@[simp] theorem latch_cycle (s : State) (us : List Nat) (b : Nat) : (latch s us b).cycle = s.cycle := by unfold latch; split; rfl; split <;> rfl
@[simp] theorem latch_ftime (s : State) (us : List Nat) (b : Nat) : (latch s us b).ftime = s.ftime := by unfold latch; split; rfl; split <;> rfl
@[simp] theorem latch_mem (s : State) (us : List Nat) (b : Nat) : (latch s us b).mem = s.mem := by unfold latch; split; rfl; split <;> rfl
@[simp] theorem latch_locl (s : State) (us : List Nat) (b : Nat) : (latch s us b).locl = s.locl := by unfold latch; split; rfl; split <;> rfl
@[simp] theorem latch_cells (s : State) (us : List Nat) (b : Nat) : (latch s us b).cells = s.cells := by unfold latch; split; rfl; split <;> rfl
@[simp] theorem latch_mregs (s : State) (us : List Nat) (b : Nat) : (latch s us b).mregs = s.mregs := by unfold latch; split; rfl; split <;> rfl
@[simp] theorem latch_carve (s : State) (us : List Nat) (b : Nat) : (latch s us b).carve = s.carve := by unfold latch; split; rfl; split <;> rfl
@[simp] theorem latch_strict (s : State) (us : List Nat) (b : Nat) : (latch s us b).strict = s.strict := by unfold latch; split; rfl; split <;> rfl
@[simp] theorem latch_flocks (s : State) (us : List Nat) (b : Nat) : (latch s us b).flocks = s.flocks := by unfold latch; split; rfl; split <;> rfl
@[simp] theorem latch_keys (s : State) (us : List Nat) (b : Nat) : (latch s us b).keys = s.keys := by unfold latch; split; rfl; split <;> rfl
@[simp] theorem latch_bins (s : State) (us : List Nat) (b : Nat) : (latch s us b).bins = s.bins := by unfold latch; split; rfl; split <;> rfl
@[simp] theorem latch_placing (s : State) (us : List Nat) (b : Nat) : (latch s us b).placing = s.placing := by unfold latch; split; rfl; split <;> rfl
@[simp] theorem latch_waitset (s : State) (us : List Nat) (b : Nat) : (latch s us b).waitset = s.waitset := by unfold latch; split; rfl; split <;> rfl
@[simp] theorem latch_launches (s : State) (us : List Nat) (b : Nat) : (latch s us b).launches = s.launches := by unfold latch; split; rfl; split <;> rfl
@[simp] theorem latch_results (s : State) (us : List Nat) (b : Nat) : (latch s us b).results = s.results := by unfold latch; split; rfl; split <;> rfl
@[simp] theorem latch_fifo (s : State) (us : List Nat) (b : Nat) : (latch s us b).fifo = s.fifo := by unfold latch; split; rfl; split <;> rfl
@[simp] theorem latch_wc (s : State) (us : List Nat) (b : Nat) : (latch s us b).wc = s.wc := by unfold latch; split; rfl; split <;> rfl
@[simp] theorem latch_clean (s : State) (us : List Nat) (b : Nat) : (latch s us b).clean = s.clean := by unfold latch; split; rfl; split <;> rfl
@[simp] theorem latch_packets (s : State) (us : List Nat) (b : Nat) : (latch s us b).packets = s.packets := by unfold latch; split; rfl; split <;> rfl
@[simp] theorem latch_waiters (s : State) (us : List Nat) (b : Nat) : (latch s us b).waiters = s.waiters := by unfold latch; split; rfl; split <;> rfl
@[simp] theorem latch_copies (s : State) (us : List Nat) (b : Nat) : (latch s us b).copies = s.copies := by unfold latch; split; rfl; split <;> rfl
@[simp] theorem latch_mmas (s : State) (us : List Nat) (b : Nat) : (latch s us b).mmas = s.mmas := by unfold latch; split; rfl; split <;> rfl
@[simp] theorem latch_chunks (s : State) (us : List Nat) (b : Nat) : (latch s us b).chunks = s.chunks := by unfold latch; split; rfl; split <;> rfl
@[simp] theorem latch_rays (s : State) (us : List Nat) (b : Nat) : (latch s us b).rays = s.rays := by unfold latch; split; rfl; split <;> rfl
@[simp] theorem latch_beams (s : State) (us : List Nat) (b : Nat) : (latch s us b).beams = s.beams := by unfold latch; split; rfl; split <;> rfl
@[simp] theorem latch_tensors (s : State) (us : List Nat) (b : Nat) : (latch s us b).tensors = s.tensors := by unfold latch; split; rfl; split <;> rfl
@[simp] theorem latch_sweeps (s : State) (us : List Nat) (b : Nat) : (latch s us b).sweeps = s.sweeps := by unfold latch; split; rfl; split <;> rfl
@[simp] theorem latch_lqs (s : State) (us : List Nat) (b : Nat) : (latch s us b).lqs = s.lqs := by unfold latch; split; rfl; split <;> rfl
@[simp] theorem latch_fabric (s : State) (us : List Nat) (b : Nat) : (latch s us b).fabric = s.fabric := by unfold latch; split; rfl; split <;> rfl
@[simp] theorem latch_portOps (s : State) (us : List Nat) (b : Nat) : (latch s us b).portOps = s.portOps := by unfold latch; split; rfl; split <;> rfl
@[simp] theorem latch_graphs (s : State) (us : List Nat) (b : Nat) : (latch s us b).graphs = s.graphs := by unfold latch; split; rfl; split <;> rfl
@[simp] theorem latch_replays (s : State) (us : List Nat) (b : Nat) : (latch s us b).replays = s.replays := by unfold latch; split; rfl; split <;> rfl
@[simp] theorem latch_armed (s : State) (us : List Nat) (b : Nat) : (latch s us b).armed = s.armed := by unfold latch; split; rfl; split <;> rfl
@[simp] theorem latch_halts (s : State) (us : List Nat) (b : Nat) : (latch s us b).halts = s.halts := by unfold latch; split; rfl; split <;> rfl
@[simp] theorem latch_tlb (s : State) (us : List Nat) (b : Nat) : (latch s us b).tlb = s.tlb := by unfold latch; split; rfl; split <;> rfl
@[simp] theorem latch_tlbis (s : State) (us : List Nat) (b : Nat) : (latch s us b).tlbis = s.tlbis := by unfold latch; split; rfl; split <;> rfl
@[simp] theorem latch_atc (s : State) (us : List Nat) (b : Nat) : (latch s us b).atc = s.atc := by unfold latch; split; rfl; split <;> rfl
@[simp] theorem latch_pageReqs (s : State) (us : List Nat) (b : Nat) : (latch s us b).pageReqs = s.pageReqs := by unfold latch; split; rfl; split <;> rfl
@[simp] theorem latch_glean (s : State) (us : List Nat) (b : Nat) : (latch s us b).glean = s.glean := by unfold latch; split; rfl; split <;> rfl
@[simp] theorem latch_links (s : State) (us : List Nat) (b : Nat) : (latch s us b).links = s.links := by unfold latch; split; rfl; split <;> rfl
@[simp] theorem latch_faultSeq (s : State) (us : List Nat) (b : Nat) : (latch s us b).faultSeq = s.faultSeq := by unfold latch; split; rfl; split <;> rfl
@[simp] theorem latch_flips (s : State) (us : List Nat) (b : Nat) : (latch s us b).flips = s.flips := by unfold latch; split; rfl; split <;> rfl
@[simp] theorem latch_poison (s : State) (us : List Nat) (b : Nat) : (latch s us b).poison = s.poison := by unfold latch; split; rfl; split <;> rfl
@[simp] theorem latch_hostOut (s : State) (us : List Nat) (b : Nat) : (latch s us b).hostOut = s.hostOut := by unfold latch; split; rfl; split <;> rfl
@[simp] theorem latch_focus (s : State) (us : List Nat) (b : Nat) : (latch s us b).focus = s.focus := by unfold latch; split; rfl; split <;> rfl
@[simp] theorem latch_fresh (s : State) (us : List Nat) (b : Nat) : (latch s us b).fresh = s.fresh := by unfold latch; split; rfl; split <;> rfl
@[simp] theorem latch_free (s : State) (us : List Nat) (b : Nat) : (latch s us b).free = s.free := by unfold latch; split; rfl; split <;> rfl
@[simp] theorem latch_agenda (s : State) (us : List Nat) (b : Nat) : (latch s us b).agenda = s.agenda := by unfold latch; split; rfl; split <;> rfl

@[simp] theorem commit_power (s : State) (us : List Nat) (e : Eff) : (commit s us e).power = s.power := by unfold commit; split <;> rfl
@[simp] theorem commit_cycle (s : State) (us : List Nat) (e : Eff) : (commit s us e).cycle = s.cycle := by unfold commit; split <;> rfl
@[simp] theorem commit_ftime (s : State) (us : List Nat) (e : Eff) : (commit s us e).ftime = s.ftime := by unfold commit; split <;> rfl
@[simp] theorem commit_mem (s : State) (us : List Nat) (e : Eff) : (commit s us e).mem = s.mem := by unfold commit; split <;> rfl
@[simp] theorem commit_locl (s : State) (us : List Nat) (e : Eff) : (commit s us e).locl = s.locl := by unfold commit; split <;> rfl
@[simp] theorem commit_cells (s : State) (us : List Nat) (e : Eff) : (commit s us e).cells = s.cells := by unfold commit; split <;> rfl
@[simp] theorem commit_mregs (s : State) (us : List Nat) (e : Eff) : (commit s us e).mregs = s.mregs := by unfold commit; split <;> rfl
@[simp] theorem commit_carve (s : State) (us : List Nat) (e : Eff) : (commit s us e).carve = s.carve := by unfold commit; split <;> rfl
@[simp] theorem commit_strict (s : State) (us : List Nat) (e : Eff) : (commit s us e).strict = s.strict := by unfold commit; split <;> rfl
@[simp] theorem commit_flocks (s : State) (us : List Nat) (e : Eff) : (commit s us e).flocks = s.flocks := by unfold commit; split <;> rfl
@[simp] theorem commit_keys (s : State) (us : List Nat) (e : Eff) : (commit s us e).keys = s.keys := by unfold commit; split <;> rfl
@[simp] theorem commit_bins (s : State) (us : List Nat) (e : Eff) : (commit s us e).bins = s.bins := by unfold commit; split <;> rfl
@[simp] theorem commit_placing (s : State) (us : List Nat) (e : Eff) : (commit s us e).placing = s.placing := by unfold commit; split <;> rfl
@[simp] theorem commit_waitset (s : State) (us : List Nat) (e : Eff) : (commit s us e).waitset = s.waitset := by unfold commit; split <;> rfl
@[simp] theorem commit_launches (s : State) (us : List Nat) (e : Eff) : (commit s us e).launches = s.launches := by unfold commit; split <;> rfl
@[simp] theorem commit_fifo (s : State) (us : List Nat) (e : Eff) : (commit s us e).fifo = s.fifo := by unfold commit; split <;> rfl
@[simp] theorem commit_wc (s : State) (us : List Nat) (e : Eff) : (commit s us e).wc = s.wc := by unfold commit; split <;> rfl
@[simp] theorem commit_clean (s : State) (us : List Nat) (e : Eff) : (commit s us e).clean = s.clean := by unfold commit; split <;> rfl
@[simp] theorem commit_packets (s : State) (us : List Nat) (e : Eff) : (commit s us e).packets = s.packets := by unfold commit; split <;> rfl
@[simp] theorem commit_waiters (s : State) (us : List Nat) (e : Eff) : (commit s us e).waiters = s.waiters := by unfold commit; split <;> rfl
@[simp] theorem commit_copies (s : State) (us : List Nat) (e : Eff) : (commit s us e).copies = s.copies := by unfold commit; split <;> rfl
@[simp] theorem commit_mmas (s : State) (us : List Nat) (e : Eff) : (commit s us e).mmas = s.mmas := by unfold commit; split <;> rfl
@[simp] theorem commit_chunks (s : State) (us : List Nat) (e : Eff) : (commit s us e).chunks = s.chunks := by unfold commit; split <;> rfl
@[simp] theorem commit_rays (s : State) (us : List Nat) (e : Eff) : (commit s us e).rays = s.rays := by unfold commit; split <;> rfl
@[simp] theorem commit_beams (s : State) (us : List Nat) (e : Eff) : (commit s us e).beams = s.beams := by unfold commit; split <;> rfl
@[simp] theorem commit_tensors (s : State) (us : List Nat) (e : Eff) : (commit s us e).tensors = s.tensors := by unfold commit; split <;> rfl
@[simp] theorem commit_sweeps (s : State) (us : List Nat) (e : Eff) : (commit s us e).sweeps = s.sweeps := by unfold commit; split <;> rfl
@[simp] theorem commit_lqs (s : State) (us : List Nat) (e : Eff) : (commit s us e).lqs = s.lqs := by unfold commit; split <;> rfl
@[simp] theorem commit_fabric (s : State) (us : List Nat) (e : Eff) : (commit s us e).fabric = s.fabric := by unfold commit; split <;> rfl
@[simp] theorem commit_portOps (s : State) (us : List Nat) (e : Eff) : (commit s us e).portOps = s.portOps := by unfold commit; split <;> rfl
@[simp] theorem commit_graphs (s : State) (us : List Nat) (e : Eff) : (commit s us e).graphs = s.graphs := by unfold commit; split <;> rfl
@[simp] theorem commit_replays (s : State) (us : List Nat) (e : Eff) : (commit s us e).replays = s.replays := by unfold commit; split <;> rfl
@[simp] theorem commit_armed (s : State) (us : List Nat) (e : Eff) : (commit s us e).armed = s.armed := by unfold commit; split <;> rfl
@[simp] theorem commit_halts (s : State) (us : List Nat) (e : Eff) : (commit s us e).halts = s.halts := by unfold commit; split <;> rfl
@[simp] theorem commit_tlb (s : State) (us : List Nat) (e : Eff) : (commit s us e).tlb = s.tlb := by unfold commit; split <;> rfl
@[simp] theorem commit_tlbis (s : State) (us : List Nat) (e : Eff) : (commit s us e).tlbis = s.tlbis := by unfold commit; split <;> rfl
@[simp] theorem commit_atc (s : State) (us : List Nat) (e : Eff) : (commit s us e).atc = s.atc := by unfold commit; split <;> rfl
@[simp] theorem commit_pageReqs (s : State) (us : List Nat) (e : Eff) : (commit s us e).pageReqs = s.pageReqs := by unfold commit; split <;> rfl
@[simp] theorem commit_glean (s : State) (us : List Nat) (e : Eff) : (commit s us e).glean = s.glean := by unfold commit; split <;> rfl
@[simp] theorem commit_links (s : State) (us : List Nat) (e : Eff) : (commit s us e).links = s.links := by unfold commit; split <;> rfl
@[simp] theorem commit_faultSeq (s : State) (us : List Nat) (e : Eff) : (commit s us e).faultSeq = s.faultSeq := by unfold commit; split <;> rfl
@[simp] theorem commit_flips (s : State) (us : List Nat) (e : Eff) : (commit s us e).flips = s.flips := by unfold commit; split <;> rfl
@[simp] theorem commit_poison (s : State) (us : List Nat) (e : Eff) : (commit s us e).poison = s.poison := by unfold commit; split <;> rfl
@[simp] theorem commit_hostOut (s : State) (us : List Nat) (e : Eff) : (commit s us e).hostOut = s.hostOut := by unfold commit; split <;> rfl
@[simp] theorem commit_focus (s : State) (us : List Nat) (e : Eff) : (commit s us e).focus = s.focus := by unfold commit; split <;> rfl
@[simp] theorem commit_free (s : State) (us : List Nat) (e : Eff) : (commit s us e).free = s.free := by unfold commit; split <;> rfl
@[simp] theorem commit_agenda (s : State) (us : List Nat) (e : Eff) : (commit s us e).agenda = s.agenda := by unfold commit; split <;> rfl
@[simp] theorem commit_threads (s : State) (us : List Nat) (e : Eff) : (commit s us e).threads = s.threads := by unfold commit; split <;> rfl

/-- A word with no failure takes no trap. -/
@[simp] theorem takeTrap_nil (s : State) (i : Issue) : takeTrap s i [] = s := rfl

/-- The joint effect of a word in several threads. -/
def joint (eff : State → Issue → Thread → Eff) (s : State) (i : Issue) : Eff → List Nat → Eff
  | e, [] => e
  | e, u :: r => joint eff s i (e.append (eff s i (threadOf s u))) r

/-- A word whose effect is registers alone, run in threads whose checks pass: the state is as it was, and the effects are joined. -/
theorem eachThread_pure (i : Issue) (guard : Bool) (names : Thread → Names) (eff : State → Issue → Thread → Eff) (s : State) :
    ∀ (us : List Nat) (acc : Acc4), (∀ u ∈ us, checkThread s (threadOf s u) guard (names (threadOf s u)) = none) →
      eachThread i guard names (fun s i t => (s, .eff (eff s i t))) s acc us = (s, { acc with e := joint eff s i acc.e us })
  | [], _, _ => rfl
  | u :: r, acc, h => by
    have hu := h u (by simp)
    have hr : ∀ v ∈ r, checkThread s (threadOf s v) guard (names (threadOf s v)) = none := fun v hv => h v (by simp [hv])
    simp only [eachThread, hu, enter, joint]
    rw [eachThread_pure i guard names eff s r _ hr]

/-- The end of a word whose effect is registers alone. -/
def landed (w : Word4) (names : Thread → Names) (i : Issue) (s1 : State) (e : Eff) : State :=
  finish (match w.sel with
    | some b => latch (commit s1 i.act e) i.act b.toNat
    | none => commit s1 i.act e) i [] e.pc fun u => if has i.act u then writtenBy (threadOf s1 u) (names (threadOf s1 u)) else []

/-- A word of the first form whose checks pass and whose effect is registers alone. -/
theorem perThread_pure (w : Word4) (names : Thread → Names) (eff : State → Issue → Thread → Eff) (s : State) (i : Issue)
    (hi : mkIssue s w.f = some i) (hr : w.rsv = false) (hp : (w.priv && !i.sup) = false) (hm : tooMany s i = false)
    (hl : (w.last && pending s i) = false)
    (hc : ∀ u ∈ i.act, checkThread (interlock s i.core i.flock i.group) (threadOf (interlock s i.core i.flock i.group) u) w.f.g
      (w.names names (threadOf (interlock s i.core i.flock i.group) u)) = none) :
    perThread w names (fun s i t => (s, .eff (eff s i t))) s =
      landed w names i (interlock s i.core i.flock i.group) (joint eff (interlock s i.core i.flock i.group) i {} i.act) := by
  unfold perThread
  simp only [hi, hr, hp, hm, hl, Bool.or_self, Bool.false_eq_true, if_false]
  rw [eachThread_pure i w.f.g (w.names names) eff _ i.act {} hc]
  have hf : (i.act.filter fun _ => true) = i.act := List.filter_eq_self.2 fun _ _ => rfl
  cases hs : w.sel <;> simp [landed, hs, hf]

/-- A word of the second form whose checks pass, with an active thread, and whose effect is registers alone. -/
theorem oncePerGroup_pure (w : Word4) (names : Thread → Names) (eff : State → Issue → Thread → Eff) (s : State) (i : Issue) (lead : Nat)
    (rest : List Nat) (hi : mkIssue s w.f = some i) (hr : w.rsv = false) (hp : (w.priv && !i.sup) = false) (hm : tooMany s i = false)
    (hl : (w.last && pending s i) = false) (ha : i.act = lead :: rest)
    (hc : firstFail (interlock s i.core i.flock i.group) w.f.g (w.names names) i.act = none) :
    oncePerGroup w names (fun s i t => (s, .eff (eff s i t))) s =
      finish (match w.sel with
        | some b => latch (commit (interlock s i.core i.flock i.group) i.act
            (eff (interlock s i.core i.flock i.group) i (threadOf (interlock s i.core i.flock i.group) lead))) [lead] b.toNat
        | none => commit (interlock s i.core i.flock i.group) i.act
            (eff (interlock s i.core i.flock i.group) i (threadOf (interlock s i.core i.flock i.group) lead))) i []
        (eff (interlock s i.core i.flock i.group) i (threadOf (interlock s i.core i.flock i.group) lead)).pc
        (fun u => if has i.act u then writtenBy (threadOf (interlock s i.core i.flock i.group) u)
          (names (threadOf (interlock s i.core i.flock i.group) u)) else []) := by
  unfold oncePerGroup
  simp only [hi, hr, hp, hm, hl, Bool.or_self, Bool.false_eq_true, if_false]
  rw [ha] at hc ⊢
  simp only [hc] <;> cases hs : w.sel <;> rfl

/-- The v registers of a joint effect are those of its threads, in their order. -/
theorem joint_v (eff : State → Issue → Thread → Eff) (s : State) (i : Issue) : ∀ (us : List Nat) (e : Eff),
    (joint eff s i e us).v = e.v ++ us.flatMap fun u => (eff s i (threadOf s u)).v
  | [], e => by simp [joint]
  | u :: r, e => by rw [joint, joint_v eff s i r]; simp [Eff.append, List.append_assoc]

/-- The s registers of a joint effect. -/
theorem joint_s (eff : State → Issue → Thread → Eff) (s : State) (i : Issue) : ∀ (us : List Nat) (e : Eff),
    (joint eff s i e us).s = e.s ++ us.flatMap fun u => (eff s i (threadOf s u)).s
  | [], e => by simp [joint]
  | u :: r, e => by rw [joint, joint_s eff s i r]; simp [Eff.append, List.append_assoc]

/-- The guard bits of a joint effect. -/
theorem joint_g (eff : State → Issue → Thread → Eff) (s : State) (i : Issue) : ∀ (us : List Nat) (e : Eff),
    (joint eff s i e us).g = e.g ++ us.flatMap fun u => (eff s i (threadOf s u)).g
  | [], e => by simp [joint]
  | u :: r, e => by rw [joint, joint_g eff s i r]; simp [Eff.append, List.append_assoc]

/-- The STATUS bits of a joint effect. -/
theorem joint_st (eff : State → Issue → Thread → Eff) (s : State) (i : Issue) : ∀ (us : List Nat) (e : Eff),
    (joint eff s i e us).st = e.st ++ us.flatMap fun u => (eff s i (threadOf s u)).st
  | [], e => by simp [joint]
  | u :: r, e => by rw [joint, joint_st eff s i r]; simp [Eff.append, List.append_assoc]

/-- The branches of a joint effect. -/
theorem joint_pc (eff : State → Issue → Thread → Eff) (s : State) (i : Issue) : ∀ (us : List Nat) (e : Eff),
    (joint eff s i e us).pc = e.pc ++ us.flatMap fun u => (eff s i (threadOf s u)).pc
  | [], e => by simp [joint]
  | u :: r, e => by rw [joint, joint_pc eff s i r]; simp [Eff.append, List.append_assoc]

/-- A result in flight holds the effect of its word. -/
theorem commit_results (s : State) (act : List Nat) (e : Eff) (h : e.hasResult = true) :
    (commit s act e).results = s.results ++
      [{ Result.empty with id := s.fresh, at_ := s.cycle + 1, uids := e.uids act, v := e.v, s := e.s, g := e.g, st := e.st.filter fun p => p.2 ≠ 0#16 }] := by
  simp [commit, h, addResult]

end Sys2Proof.Laws
end

