-- ==== Sys2Proof/Laws/Words.lean ====
section
/-! SUPPORT. What the issue of a word leaves, in the words of the claims: the end of a word, words that act in each thread and words that act
once for the group. -/

namespace Sys2Proof.Laws

open Sys2Proof.Machine Sys2Proof.Safety

theorem has_iff (l : List Nat) (n : Nat) : has l n = true ↔ n ∈ l := by
  simp [has, List.any_eq_true]

theorem has_eq (l : List Nat) (n : Nat) : has l n = decide (n ∈ l) := by
  by_cases h : n ∈ l
  · simp [h, (has_iff l n).2 h]
  · simp only [h, decide_false]; exact Bool.eq_false_iff.2 fun e => h ((has_iff l n).1 e)

theorem outstanding_zero (s : State) (u : Nat) : (outstanding s u == 0) = !(s.results.any fun r => has r.uids u) := by
  have grow : ∀ (q : List Result) (l : List Nat),
      (q.foldl (fun l r => if has r.uids u && !has l r.at_ then r.at_ :: l else l) l).length == 0 ↔ l = [] ∧ (q.any fun r => has r.uids u) = false := by
    intro q
    induction q with
    | nil => intro l; simp
    | cons r q ih =>
      intro l
      rw [List.foldl_cons, ih, List.any_cons]
      by_cases h : has r.uids u
      · by_cases k : has l r.at_
        · have : l ≠ [] := by rintro rfl; simp [has] at k
          simp [h, k, this]
        · simp [h, k]
      · simp [h]
  have := grow s.results []
  unfold outstanding
  cases h : s.results.any fun r => has r.uids u <;> simp_all

theorem hasResult_eq (e : Eff) : e.hasResult = !decide (e.v = [] ∧ e.s = [] ∧ e.g = [] ∧ e.st = []) := by
  rcases e with ⟨v, s, g, st, pc⟩
  cases v <;> cases s <;> cases g <;> cases st <;> simp [Eff.hasResult]

theorem commit_eq (s : State) (i : Issue) (e : Eff) :
    commit s i.act e = { s with results := s.results ++ inFlight s i e, fresh := s.fresh + (inFlight s i e).length } := by
  unfold commit inFlight
  by_cases h : e.v = [] ∧ e.s = [] ∧ e.g = [] ∧ e.st = []
  · simp [hasResult_eq, h]
  · simp only [hasResult_eq, h, addResult, Eff.uids]
    simp

theorem latch_eq (s : State) (us : List Nat) (b : Nat) :
    latch s us b = { s with threads := s.threads.map fun t => if t.uid ∈ us then latched s b t else t } := by
  unfold latch latched
  by_cases h1 : b = 104
  · simp [h1, modThreads, has_eq]
  · by_cases h2 : b = 114
    · simp [h2, modThreads, has_eq]
    · simp [h1, h2]

theorem latched_uid (s : State) (b : Nat) (t : Thread) : (latched s b t).uid = t.uid := by
  unfold latched; split; rfl; split <;> rfl

/-- The end of an issue at which no thread stays, when the results of the word are in flight. -/
theorem finish_eq (s : State) (i : Issue) (e : Eff) (w : Nat → List Target) (s0 : State) (hr : s.results = s0.results ++ inFlight s0 i e)
    (hc : s.cycle = s0.cycle) (hs : s.strict = s0.strict) :
    finish s i [] e.pc w = { s with threads := s.threads.map fun t => if t.uid ∈ i.group then movedOn s0 i e w t else t } := by
  unfold finish
  have hg : (i.group.filter fun u => !has [] u) = i.group := List.filter_eq_self.2 fun _ _ => rfl
  simp only [hg]
  by_cases hb : i.sbit = true
  · simp only [hb, if_true]
    unfold unpark modThreads
    simp only [List.map_map]
    congr 1
    apply List.map_congr_left
    intro t _
    simp only [Function.comp, has_eq i.group, has_eq (List.filter _ _), List.mem_filter, outstanding_zero]
    by_cases hm : t.uid ∈ i.group
    · simp only [hm, decide_true, if_true, true_and]
      unfold movedOn
      simp only [hb, hr, hc, Bool.true_and]
      generalize ((s0.results ++ inFlight s0 i e).any fun r => has r.uids t.uid) = ho
      generalize (i.group.any (fun u => e.pc.any (·.1 == u)) && i.group.any fun u => !e.pc.any (·.1 == u)) = sp
      cases ho
      · cases e.pc.find? (·.1 == t.uid) <;> simp
      · cases e.pc.find? (·.1 == t.uid) <;> cases sp <;> simp
    · simp [hm]
  · simp only [Bool.not_eq_true] at hb
    unfold modThreads
    simp only [hb, Bool.false_eq_true, if_false]
    congr 1
    apply List.map_congr_left
    intro t _
    by_cases hm : t.uid ∈ i.group
    · have hsp : ((i.group.any (fun u => e.pc.any (·.1 == u)) && i.group.any fun u => !e.pc.any (·.1 == u)) || i.sbit &&
          !((s0.results ++ inFlight s0 i e).any fun r => has r.uids t.uid)) =
          (i.group.any (fun u => e.pc.any (·.1 == u)) && i.group.any fun u => !e.pc.any (·.1 == u)) := by simp [hb]
      unfold movedOn
      simp only [hsp]
      cases hp : e.pc.find? (·.1 == t.uid) <;> simp [has_eq, hm, hb, strictOn, hc, hs]
    · simp [has_eq, hm]

/-- The end of a word, with its results put in flight and its selector read. -/
theorem end_sel (s : State) (i : Issue) (e : Eff) (w : Nat → List Target) (lat : List Nat) (b : Nat) :
    finish (latch (commit s i.act e) lat b) i [] e.pc w = wordDone s i e w b lat := by
  rw [finish_eq _ i e w s (by rw [latch_eq, commit_eq]) (by rw [latch_eq, commit_eq]) (by rw [latch_eq, commit_eq])]
  rw [latch_eq, commit_eq]
  unfold wordDone
  simp only [List.map_map]
  congr 1
  apply List.map_congr_left
  intro t _
  by_cases hl : t.uid ∈ lat
  · have : latched { s with results := s.results ++ inFlight s i e, fresh := s.fresh + (inFlight s i e).length } b t = latched s b t := rfl
    simp [hl, this, latched_uid]
  · simp [hl]

/-- The end of a word that has no selector. -/
theorem end_plain (s : State) (i : Issue) (e : Eff) (w : Nat → List Target) :
    finish (commit s i.act e) i [] e.pc w = wordDone s i e w 0 [] := by
  rw [finish_eq _ i e w s (by rw [commit_eq]) (by rw [commit_eq]) (by rw [commit_eq])]
  rw [commit_eq]
  unfold wordDone
  simp

/-- Words that act in each thread, when each thread's turn comes to an effect. -/
theorem eachThread_turns (i : Issue) (guard : Bool) (names : Thread → Names) (body : State → Issue → Thread → State × Out)
    (f : State → Nat → State) (g : State → Nat → Eff) : ∀ (us : List Nat) (s : State) (acc : Acc4),
    Turns f (fun s u => Passes guard names s u ∧
      ((body s i (threadOf s u) = (f s u, .eff (g s u))) ∨
        ∃ x q, body s i (threadOf s u) = (x, .hold (g s u) q) ∧ f s u = modThread x u fun t => { t with wait := q })) s us →
      eachThread i guard names body s acc us = (us.foldl f s, { acc with e := turnEff f g s us acc.e })
  | [], _, _, _ => rfl
  | u :: r, s, acc, h => by
    obtain ⟨⟨hp, hb⟩, hr⟩ := h
    unfold Passes at hp
    simp only [eachThread, hp, List.foldl_cons, turnEff]
    rcases hb with hb | ⟨x, q, hb, hf⟩
    · simp only [hb, enter]
      rw [eachThread_turns i guard names body f g r _ _ hr]
    · simp only [hb, enter, ← hf]
      rw [eachThread_turns i guard names body f g r _ _ hr]

/-- Words that act in each thread: the state they leave when each thread's turn comes to an effect. -/
theorem perThread_turns (w : Word4) (names : Thread → Names) (body : State → Issue → Thread → State × Out) (s : State) (i : Issue)
    (f : State → Nat → State) (g : State → Nat → Eff) (hs : Starts s w.f w.last i) (hr : w.rsv = false)
    (hp : w.priv = true → i.job = supJob)
    (h : Turns f (fun s u => Passes w.f.g (readsOf w.sel names) s u ∧
      ((body s i (threadOf s u) = (f s u, .eff (g s u))) ∨
        ∃ x q, body s i (threadOf s u) = (x, .hold (g s u) q) ∧ f s u = modThread x u fun t => { t with wait := q })) (found s i) i.act) :
    perThread w names body s = wordDone (i.act.foldl f (found s i)) i (turnEff f g (found s i) i.act {}) (writes (found s i) i names)
      ((w.sel.map BitVec.toNat).getD 0) (match w.sel with | some _ => i.act | none => []) := by
  obtain ⟨hi, hm, hl⟩ := hs
  have hl' : (w.last && pending s i) = false := by cases hw : w.last <;> simp_all
  have hp' : (w.priv && !i.sup) = false := by
    cases hw : w.priv
    · rfl
    · simp [Issue.sup, hp hw]
  unfold perThread
  simp only [hi, hr, hp', hm, hl', Bool.or_self, Bool.false_eq_true, if_false]
  unfold found at h ⊢
  rw [show w.names names = readsOf w.sel names from rfl, eachThread_turns i w.f.g (readsOf w.sel names) body f g i.act _ {} h]
  have hf : (i.act.filter fun _ => true) = i.act := List.filter_eq_self.2 fun _ _ => rfl
  have hw : (fun u => if has i.act u then writtenBy (threadOf (interlock s i.core i.flock i.group) u)
      (names (threadOf (interlock s i.core i.flock i.group) u)) else []) = writes (interlock s i.core i.flock i.group) i names := by
    funext u; simp [writes, has_eq]
  simp only [hw]
  cases hsel : w.sel with
  | none => simp [takeTrap_nil, end_plain]
  | some b => simp [takeTrap_nil, hf, end_sel]

theorem turnEff_const (s : State) (g : State → Nat → Eff) : ∀ (us : List Nat) (e : Eff),
    turnEff (fun x _ => x) g s us e = us.foldl (fun e u => e.append (g s u)) e
  | [], _ => rfl
  | u :: r, e => by simp only [turnEff, List.foldl_cons]; exact turnEff_const s g r _

theorem foldl_const (s : State) : ∀ us : List Nat, us.foldl (fun (x : State) (_ : Nat) => x) s = s
  | [] => rfl
  | _ :: r => foldl_const s r

theorem turns_const (s : State) (P : State → Nat → Prop) : ∀ us : List Nat, (∀ u ∈ us, P s u) → Turns (fun x _ => x) P s us
  | [], _ => trivial
  | u :: r, h => ⟨h u (by simp), turns_const s P r fun v hv => h v (by simp [hv])⟩

/-- Words that act in each thread with register effects alone. -/
theorem perThread_regs (w : Word4) (names : Thread → Names) (eff : State → Issue → Thread → Eff) (s : State) (i : Issue)
    (hs : Starts s w.f w.last i) (hr : w.rsv = false) (hp : w.priv = true → i.job = supJob)
    (h : ∀ u ∈ i.act, Passes w.f.g (readsOf w.sel names) (found s i) u) :
    perThread w names (fun s i t => (s, .eff (eff s i t))) s =
      wordDone (found s i) i (i.act.foldl (fun e u => e.append (eff (found s i) i (threadOf (found s i) u))) {})
        (writes (found s i) i names) ((w.sel.map BitVec.toNat).getD 0) (match w.sel with | some _ => i.act | none => []) := by
  rw [perThread_turns w names _ s i (fun x _ => x) (fun s u => eff s i (threadOf s u)) hs hr hp
    (turns_const _ _ _ fun u hu => ⟨h u hu, Or.inl rfl⟩), foldl_const, turnEff_const]

/-- What the group's word meets: every active thread passes its checks. -/
theorem firstFail_none (s : State) (guard : Bool) (names : Thread → Names) : ∀ us : List Nat, (∀ u ∈ us, Passes guard names s u) →
    firstFail s guard names us = none
  | [], _ => rfl
  | u :: r, h => by
    have hu := h u (by simp)
    unfold Passes at hu
    simp [firstFail, hu, firstFail_none s guard names r fun v hv => h v (by simp [hv])]

/-- Words that act once for the group: the state they leave when the group's lead comes to an effect. -/
theorem oncePerGroup_done (w : Word4) (names : Thread → Names) (body : State → Issue → Thread → State × Out) (s : State) (i : Issue)
    (lead : Nat) (rest : List Nat) (s2 : State) (e : Eff) (hs : Starts s w.f w.last i) (hr : w.rsv = false)
    (hp : w.priv = true → i.job = supJob) (ha : i.act = lead :: rest) (h : ∀ u ∈ i.act, Passes w.f.g (readsOf w.sel names) (found s i) u)
    (hb : body (found s i) i (threadOf (found s i) lead) = (s2, .eff e)) :
    oncePerGroup w names body s = wordDone s2 i e (writes (found s i) i names) ((w.sel.map BitVec.toNat).getD 0)
      (match w.sel with | some _ => [lead] | none => []) := by
  obtain ⟨hi, hm, hl⟩ := hs
  have hl' : (w.last && pending s i) = false := by cases hw : w.last <;> simp_all
  have hp' : (w.priv && !i.sup) = false := by
    cases hw : w.priv
    · rfl
    · simp [Issue.sup, hp hw]
  have hff := firstFail_none (found s i) w.f.g (readsOf w.sel names) i.act h
  have hw : (fun u => if has i.act u then writtenBy (threadOf (found s i) u)
      (names (threadOf (found s i) u)) else []) = writes (found s i) i names := by
    funext u; simp [writes, has_eq]
  unfold oncePerGroup
  simp only [hi, hr, hp', hm, hl', Bool.or_self, Bool.false_eq_true, if_false, show w.names names = readsOf w.sel names from rfl]
  unfold found at hff hb hw ⊢
  rw [hw]
  rw [ha] at hff ⊢
  simp only [hff, hb]
  rw [← ha]
  cases hsel : w.sel with
  | none => simp [end_plain]
  | some b => simp [end_sel]

/-- What a word leaves unchanged when its threads have changed nothing but registers. -/
theorem wordDone_frame (s : State) (i : Issue) (e : Eff) (w : Nat → List Target) (sel : Nat) (lat : List Nat) :
    Frame s (wordDone s i e w sel lat) := by
  refine ⟨fun _ => rfl, fun _ _ => rfl, fun _ => rfl, rfl, ?_⟩
  simp only [wordDone, List.map_map]
  apply List.map_congr_left
  intro t _
  simp only [Function.comp]
  have hl : ∀ t : Thread, (latched s sel t).uid = t.uid ∧ (latched s sel t).regs = t.regs ∧ (latched s sel t).g = t.g ∧
      (latched s sel t).status = t.status ∧ (latched s sel t).wb = t.wb ∧ (latched s sel t).alloc = t.alloc ∧
      (latched s sel t).segG = t.segG ∧ (latched s sel t).segL = t.segL ∧ (latched s sel t).segC = t.segC ∧
      (latched s sel t).tnum = t.tnum ∧ (latched s sel t).flock = t.flock ∧ (latched s sel t).trapped = t.trapped := by
    intro t; unfold latched; split
    · simp
    · split <;> simp
  by_cases h1 : t.uid ∈ lat <;> by_cases h2 : t.uid ∈ i.group <;> simp [h1, h2, movedOn, hl]

/-- A word that acts in each thread with register effects alone completes, where it may start and `ok` holds. -/
theorem doneWhenIf_intro {pre : State → Issue → Prop} {instr : Instr} {f : Fields} {last : Bool} {names : Thread → Names} {sel : Option (BitVec 7)}
    {ok : State → Issue → Thread → Prop} {eff : State → Issue → Thread → Eff} (w : Word4) (body : State → Issue → Thread → State × Out)
    (hf : w.f = f) (hr : w.rsv = false) (hp : w.priv = false) (hl : w.last = last) (hs : w.sel = sel)
    (hx : ∀ s i, mkIssue s f = some i → pre s i → exec instr s = issued (perThread w names body s))
    (hb : ∀ s i t, ok s i t → body s i t = (s, .eff (eff s i t))) :
    DoneWhenIf pre instr f last names sel ok eff := by
  intro s i hst hpre hpa
  subst hf hl hs
  refine ⟨?_, wordDone_frame _ _ _ _ _ _⟩
  rw [hx s i hst.1 hpre, perThread_turns w names body s i (fun x _ => x) (fun s u => eff s i (threadOf s u)) hst hr (by simp [hp])
    (turns_const _ _ _ fun u hu => ⟨(hpa u hu).1, Or.inl (hb _ _ _ (hpa u hu).2)⟩), foldl_const, turnEff_const]
  unfold issued threadsEff
  cases w.sel <;> rfl

/-- A word that acts in each thread with register effects alone, where `ok` holds, completes. -/
theorem doneWhen_intro {instr : Instr} {f : Fields} {last : Bool} {names : Thread → Names} {sel : Option (BitVec 7)}
    {ok : State → Issue → Thread → Prop} {eff : State → Issue → Thread → Eff} (w : Word4) (body : State → Issue → Thread → State × Out)
    (hf : w.f = f) (hr : w.rsv = false) (hp : w.priv = false) (hl : w.last = last) (hs : w.sel = sel)
    (hx : ∀ s, exec instr s = issued (perThread w names body s)) (hb : ∀ s i t, ok s i t → body s i t = (s, .eff (eff s i t))) :
    DoneWhen instr f last names sel ok eff :=
  doneWhenIf_intro w body hf hr hp hl hs (fun s _ _ _ => hx s) hb

/-- Words that fail in each active thread of those named. -/
theorem eachThread_fails (i : Issue) (guard : Bool) (names : Thread → Names) (body : State → Issue → Thread → State × Out) (trap : Trap) (s : State) :
    ∀ (us : List Nat) (acc : Acc4), (∀ u ∈ us, Passes guard names s u ∧ body s i (threadOf s u) = (s, .trap trap)) →
      eachThread i guard names body s acc us = (s, { acc with fails := acc.fails ++ us.map fun u => (u, trap) })
  | [], acc, _ => by simp [eachThread]
  | u :: r, acc, h => by
    obtain ⟨hp, hb⟩ := h u (by simp)
    unfold Passes at hp
    simp only [eachThread, hp, hb, enter]
    rw [eachThread_fails i guard names body trap s r _ fun v hv => h v (by simp [hv])]
    simp

/-- The latch of a selector by no thread. -/
theorem latch_none (s : State) (b : Nat) : latch s [] b = s := by
  rw [latch_eq]; simp

/-- A word that fails in each active thread traps them. -/
theorem trapsWhen_intro {instr : Instr} {f : Fields} {names : Thread → Names} {sel : Option (BitVec 7)} {ok : State → Issue → Thread → Prop}
    {trap : Trap} (w : Word4) (body : State → Issue → Thread → State × Out) (hf : w.f = f) (hr : w.rsv = false) (hp : w.priv = false)
    (hl : w.last = false) (hs : w.sel = sel) (hx : ∀ s, exec instr s = issued (perThread w names body s))
    (hb : ∀ s i t, ok s i t → body s i t = (s, .trap trap)) : TrapsWhen instr f names sel ok trap := by
  intro s i hst hpa
  subst hf hs
  obtain ⟨hi, hm, -⟩ := hst
  have hw : (fun u => if has i.act u then writtenBy (threadOf (interlock s i.core i.flock i.group) u)
      (names (threadOf (interlock s i.core i.flock i.group) u)) else []) = writes (interlock s i.core i.flock i.group) i names := by
    funext u; simp [writes, has_eq]
  rw [hx]
  unfold perThread issued
  simp only [hi, hr, hp, hm, hl, Bool.false_and, Bool.or_self, Bool.false_eq_true, if_false]
  unfold found at hpa ⊢
  rw [show w.names names = readsOf w.sel names from rfl,
    eachThread_fails i w.f.g (readsOf w.sel names) body trap _ i.act {} fun u hu => ⟨(hpa u hu).1, hb _ _ _ (hpa u hu).2⟩]
  have hmap : (i.act.map fun u => (u, trap)).map (·.1) = i.act := by simp [List.map_map, Function.comp_def]
  have hfil : (i.act.filter fun u => !(i.act.map fun u => (u, trap)).any (·.1 == u)) = [] := by
    rw [List.filter_eq_nil_iff]; intro u hu; simp [List.any_map, Function.comp_def]; exact hu
  have hc : ∀ x : State, commit x i.act {} = x := fun _ => rfl
  simp only [hw, List.nil_append, hc, hmap, hfil]
  cases w.sel <;> simp [latch_none]

/-- A word that acts in each thread with register effects alone completes. -/
theorem doneEach_intro {instr : Instr} {f : Fields} {last : Bool} {names : Thread → Names} {sel : Option (BitVec 7)}
    {eff : State → Issue → Thread → Eff} (w : Word4) (hf : w.f = f) (hr : w.rsv = false) (hp : w.priv = false) (hl : w.last = last)
    (hs : w.sel = sel) (hx : ∀ s, exec instr s = issued (perThread w names (fun s i t => (s, .eff (eff s i t))) s)) :
    DoneEach instr f last names sel eff :=
  doneWhen_intro w _ hf hr hp hl hs hx fun _ _ _ _ => rfl

/-- A word that acts once for its group with register effects alone completes. -/
theorem doneOnce_intro {instr : Instr} {f : Fields} {names : Thread → Names} {sel : Option (BitVec 7)}
    {eff : State → Issue → Thread → Eff} (w : Word4) (hf : w.f = f) (hr : w.rsv = false) (hp : w.priv = false) (hl : w.last = false)
    (hs : w.sel = sel) (hx : ∀ s, exec instr s = issued (oncePerGroup w names (fun s i t => (s, .eff (eff s i t))) s)) :
    DoneOnce instr f names sel eff := by
  intro s i lead rest hst ha hpa
  subst hf hs
  refine ⟨?_, wordDone_frame _ _ _ _ _ _⟩
  rw [hx, oncePerGroup_done w names _ s i lead rest (found s i) (eff (found s i) i (threadOf (found s i) lead)) (hl ▸ hst) hr (by simp [hp]) ha hpa rfl]
  unfold issued
  cases w.sel <;> rfl

/-- What each turn keeps, the turns keep. -/
theorem turns_frame (f : State → Nat → State) (P : State → Nat → Prop) (frame : State → State → Prop) (hr : ∀ s, frame s s)
    (ht : ∀ a b c, frame a b → frame b c → frame a c) (hf : ∀ x u, P x u → frame x (f x u)) : ∀ (us : List Nat) (s : State),
    Turns f P s us → frame s (us.foldl f s)
  | [], s, _ => hr s
  | _ :: r, _, h => ht _ _ _ (hf _ _ h.1) (turns_frame f P frame hr ht hf r _ h.2)

theorem turns_mono (f : State → Nat → State) (P Q : State → Nat → Prop) (h : ∀ x u, P x u → Q x u) : ∀ (us : List Nat) (s : State),
    Turns f P s us → Turns f Q s us
  | [], _, _ => trivial
  | _ :: r, _, ht => ⟨h _ _ ht.1, turns_mono f P Q h r _ ht.2⟩

theorem wordDone_quiet (s : State) (i : Issue) (e : Eff) (w : Nat → List Target) (sel : Nat) (lat : List Nat) :
    Quiet s (wordDone s i e w sel lat) :=
  ⟨⟨fun _ => rfl, fun _ _ => rfl, fun _ => rfl⟩, (wordDone_frame s i e w sel lat).2.2.2.2, rfl, rfl⟩

theorem quiet_refl (s : State) : Quiet s s := ⟨⟨fun _ => rfl, fun _ _ => rfl, fun _ => rfl⟩, rfl, rfl, rfl⟩

theorem quiet_trans {a b c : State} (h : Quiet a b) (k : Quiet b c) : Quiet a c :=
  ⟨⟨fun x => (k.1.1 x).trans (h.1.1 x), fun x y => (k.1.2.1 x y).trans (h.1.2.1 x y), fun x => (k.1.2.2 x).trans (h.1.2.2 x)⟩,
    k.2.1.trans h.2.1, k.2.2.1.trans h.2.2.1, k.2.2.2.trans h.2.2.2⟩

/-- A word that acts in each thread completes, where it may start. -/
theorem doneTurnsIf_intro {pre : State → Issue → Prop} {instr : Instr} {f : Fields} {last priv : Bool} {names : State → Thread → Names}
    {sel : Option (BitVec 7)} {ok : State → Issue → Thread → Prop} {turn : State → Issue → Thread → State} {eff : State → Issue → Thread → Eff}
    {frame : State → State → Prop} (w : Word4) (body : State → Issue → Thread → State × Out) (hf : w.f = f) (hr : w.rsv = false)
    (hp : w.priv = true → priv = true) (hl : w.last = last) (hs : w.sel = sel)
    (hx : ∀ s i, mkIssue s f = some i → (priv = true → i.job = supJob) → pre s i → exec instr s = issued (perThread w (names s) body s))
    (hb : ∀ x i t, ok x i t → body x i t = (turn x i t, .eff (eff x i t)) ∨
      ∃ y q, body x i t = (y, .hold (eff x i t) q) ∧ turn x i t = modThread y t.uid fun t => { t with wait := q })
    (hre : ∀ s, frame s s) (htr : ∀ a b c, frame a b → frame b c → frame a c)
    (hfr : ∀ x i t, ok x i t → frame x (turn x i t))
    (hwd : ∀ s i e w' sel' lat, frame s (wordDone s i e w' sel' lat)) :
    DoneTurnsIf pre instr f last priv names sel ok turn eff frame := by
  intro s i hst hsup hpre htu
  subst hf hl hs
  refine ⟨_, ?_, ?_, rfl⟩
  · rw [hx s i hst.1 hsup hpre, perThread_turns w (names s) body s i (fun x u => turn x i (threadOf x u)) (fun x u => eff x i (threadOf x u)) hst hr (fun h => hsup (hp h))
      (turns_mono _ _ _ (fun x u h => ⟨h.2.1, by
        rcases hb x i _ h.2.2 with hb | ⟨y, q, hb, ht⟩
        · exact .inl hb
        · exact .inr ⟨y, q, hb, by rw [ht, h.1]⟩⟩) _ _ htu)]
    unfold issued
    cases w.sel <;> rfl
  · exact htr _ _ _ (turns_frame _ _ frame hre htr (fun x u h => hfr x i _ h.2.2) _ _ htu) (hwd _ _ _ _ _ _)

/-- A word that acts in each thread completes. -/
theorem doneTurns_intro {instr : Instr} {f : Fields} {last priv : Bool} {names : Thread → Names} {sel : Option (BitVec 7)}
    {ok : State → Issue → Thread → Prop} {turn : State → Issue → Thread → State} {eff : State → Issue → Thread → Eff}
    {frame : State → State → Prop} (w : Word4) (body : State → Issue → Thread → State × Out) (hf : w.f = f) (hr : w.rsv = false)
    (hp : w.priv = true → priv = true) (hl : w.last = last) (hs : w.sel = sel) (hx : ∀ s, exec instr s = issued (perThread w names body s))
    (hb : ∀ x i t, ok x i t → body x i t = (turn x i t, .eff (eff x i t)) ∨
      ∃ y q, body x i t = (y, .hold (eff x i t) q) ∧ turn x i t = modThread y t.uid fun t => { t with wait := q })
    (hre : ∀ s, frame s s) (htr : ∀ a b c, frame a b → frame b c → frame a c)
    (hfr : ∀ x i t, ok x i t → frame x (turn x i t))
    (hwd : ∀ s i e w' sel' lat, frame s (wordDone s i e w' sel' lat)) :
    DoneTurns instr f last priv names sel ok turn eff frame :=
  doneTurnsIf_intro w body hf hr hp hl hs (fun s _ _ _ _ => hx s) hb hre htr hfr hwd

/-- A word that acts once for its group completes, where it may start. -/
theorem doneGroupIf_intro {pre : State → Issue → Prop} {instr : Instr} {f : Fields} {last priv : Bool} {names : Thread → Names}
    {sel : Option (BitVec 7)} {ok : State → Issue → Thread → Prop} {turn : State → Issue → Thread → State} {eff : State → Issue → Thread → Eff}
    {frame : State → State → Prop} (w : Word4) (body : State → Issue → Thread → State × Out) (hf : w.f = f) (hr : w.rsv = false)
    (hp : w.priv = true → priv = true) (hl : w.last = last) (hs : w.sel = sel)
    (hx : ∀ s i, mkIssue s f = some i → (priv = true → i.job = supJob) → pre s i → exec instr s = issued (oncePerGroup w names body s))
    (hb : ∀ x i t, ok x i t → body x i t = (turn x i t, .eff (eff x i t)))
    (htr : ∀ a b c, frame a b → frame b c → frame a c) (hfr : ∀ x i t, ok x i t → frame x (turn x i t))
    (hwd : ∀ s i e w' sel' lat, frame s (wordDone s i e w' sel' lat)) :
    DoneGroupIf pre instr f last priv names sel ok turn eff frame := by
  intro s i lead rest hst hsup hpre ha hpa hok
  subst hf hl hs
  refine ⟨_, ?_, htr _ _ _ (hfr _ i _ hok) (hwd _ _ _ _ _ _), rfl⟩
  rw [hx s i hst.1 hsup hpre, oncePerGroup_done w names body s i lead rest _ _ hst hr (fun h => hsup (hp h)) ha hpa (hb _ _ _ hok)]
  unfold issued
  cases w.sel <;> rfl

/-- A word that acts once for its group completes. -/
theorem doneGroup_intro {instr : Instr} {f : Fields} {last priv : Bool} {names : Thread → Names} {sel : Option (BitVec 7)}
    {ok : State → Issue → Thread → Prop} {turn : State → Issue → Thread → State} {eff : State → Issue → Thread → Eff}
    {frame : State → State → Prop} (w : Word4) (body : State → Issue → Thread → State × Out) (hf : w.f = f) (hr : w.rsv = false)
    (hp : w.priv = true → priv = true) (hl : w.last = last) (hs : w.sel = sel) (hx : ∀ s, exec instr s = issued (oncePerGroup w names body s))
    (hb : ∀ x i t, ok x i t → body x i t = (turn x i t, .eff (eff x i t)))
    (htr : ∀ a b c, frame a b → frame b c → frame a c) (hfr : ∀ x i t, ok x i t → frame x (turn x i t))
    (hwd : ∀ s i e w' sel' lat, frame s (wordDone s i e w' sel' lat)) :
    DoneGroup instr f last priv names sel ok turn eff frame :=
  doneGroupIf_intro w body hf hr hp hl hs (fun s _ _ _ _ => hx s) hb htr hfr hwd

/-- A wait that is set commutes with the latch of a selector. -/
theorem latch_wait (s : State) (us lat : List Nat) (b : Nat) (q : Waiting) :
    latch (modThreads s us fun t => { t with wait := q }) lat b = modThreads (latch s lat b) us fun t => { t with wait := q } := by
  unfold latch
  split
  · simp only [modThreads, List.map_map]
    congr 1
    apply List.map_congr_left
    intro t _
    by_cases h1 : t.uid ∈ us <;> by_cases h2 : t.uid ∈ lat <;> simp [has_eq, h1, h2] <;> rfl
  · split
    · simp only [modThreads, List.map_map]
      congr 1
      apply List.map_congr_left
      intro t _
      by_cases h1 : t.uid ∈ us <;> by_cases h2 : t.uid ∈ lat <;> simp [has_eq, h1, h2] <;> rfl
    · rfl

/-- A word that acts once for its group and then waits: the state it leaves. -/
theorem oncePerGroup_hold (w : Word4) (names : Thread → Names) (body : State → Issue → Thread → State × Out) (s : State) (i : Issue)
    (lead : Nat) (rest : List Nat) (s2 : State) (q : Waiting) (hs : Starts s w.f w.last i) (hr : w.rsv = false)
    (hp : w.priv = true → i.job = supJob) (ha : i.act = lead :: rest) (h : ∀ u ∈ i.act, Passes w.f.g (readsOf w.sel names) (found s i) u)
    (hb : body (found s i) i (threadOf (found s i) lead) = (s2, .hold {} q)) :
    oncePerGroup w names body s = wordDone (modThreads s2 i.act fun t => { t with wait := q }) i {} (writes (found s i) i names)
      ((w.sel.map BitVec.toNat).getD 0) (match w.sel with | some _ => [lead] | none => []) := by
  obtain ⟨hi, hm, hl⟩ := hs
  have hl' : (w.last && pending s i) = false := by cases hw : w.last <;> simp_all
  have hp' : (w.priv && !i.sup) = false := by
    cases hw : w.priv
    · rfl
    · simp [Issue.sup, hp hw]
  have hff := firstFail_none (found s i) w.f.g (readsOf w.sel names) i.act h
  have hw : (fun u => if has i.act u then writtenBy (threadOf (found s i) u)
      (names (threadOf (found s i) u)) else []) = writes (found s i) i names := by
    funext u; simp [writes, has_eq]
  unfold oncePerGroup
  simp only [hi, hr, hp', hm, hl', Bool.or_self, Bool.false_eq_true, if_false, show w.names names = readsOf w.sel names from rfl]
  unfold found at hff hb hw ⊢
  rw [hw]
  rw [ha] at hff ⊢
  simp only [hff, hb]
  rw [← ha]
  have hc : ∀ x : State, commit x i.act {} = x := fun _ => rfl
  cases hsel : w.sel with
  | none =>
    simp only [hc]
    have := end_plain (modThreads s2 i.act fun t => { t with wait := q }) i {} (writes (interlock s i.core i.flock i.group) i names)
    simpa [hc] using this
  | some b =>
    simp only [hc]
    have := end_sel (modThreads s2 i.act fun t => { t with wait := q }) i {} (writes (interlock s i.core i.flock i.group) i names) [lead] b.toNat
    rw [hc, latch_wait] at this
    simpa using this

/-- A word that acts once for its group and then waits completes. -/
theorem doneGroup_hold {instr : Instr} {f : Fields} {last priv : Bool} {names : Thread → Names} {sel : Option (BitVec 7)}
    {ok : State → Issue → Thread → Prop} {turn : State → Issue → Thread → State} {frame : State → State → Prop} (w : Word4)
    (body : State → Issue → Thread → State × Out) (hf : w.f = f) (hr : w.rsv = false) (hp : w.priv = true → priv = true) (hl : w.last = last)
    (hs : w.sel = sel) (hx : ∀ s, exec instr s = issued (oncePerGroup w names body s))
    (hb : ∀ x i t, ok x i t → ∃ y q, body x i t = (y, .hold {} q) ∧ turn x i t = modThreads y i.act fun t => { t with wait := q })
    (htr : ∀ a b c, frame a b → frame b c → frame a c) (hfr : ∀ x i t, ok x i t → frame x (turn x i t))
    (hwd : ∀ s i e w' sel' lat, frame s (wordDone s i e w' sel' lat)) :
    DoneGroup instr f last priv names sel ok turn (fun _ _ _ => {}) frame := by
  intro s i lead rest hst hsup _ ha hpa hok
  subst hf hl hs
  obtain ⟨y, q, h1, h2⟩ := hb _ _ _ hok
  refine ⟨_, ?_, htr _ _ _ (hfr _ i _ hok) (hwd _ _ _ _ _ _), rfl⟩
  rw [hx, oncePerGroup_hold w names body s i lead rest y q hst hr (fun h => hsup (hp h)) ha hpa h1, h2]
  unfold issued
  cases w.sel <;> rfl

end Sys2Proof.Laws
end

