-- ==== Sys2Proof/Laws/Access.lean ====
section
/-! SUPPORT. What the shared operations of the memory words leave unchanged: translation, the store queue, loads, packets and counters' words. -/

namespace Sys2Proof.Laws

open Sys2Proof.Machine Sys2Proof.Safety

/-- Memory, local store, cells, threads, flocks and the registers of the management blocks are the same. -/
structure Same (s t : State) : Prop where
  /-- memory -/
  mem : t.mem = s.mem
  /-- local store -/
  locl : t.locl = s.locl
  /-- cells -/
  cells : t.cells = s.cells
  /-- threads -/
  threads : t.threads = s.threads
  /-- flocks -/
  flocks : t.flocks = s.flocks
  /-- registers -/
  mregs : t.mregs = s.mregs

/-- The same without local store. -/
structure SameBut (s t : State) : Prop where
  /-- memory -/
  mem : t.mem = s.mem
  /-- cells -/
  cells : t.cells = s.cells
  /-- threads -/
  threads : t.threads = s.threads
  /-- flocks -/
  flocks : t.flocks = s.flocks
  /-- registers -/
  mregs : t.mregs = s.mregs

theorem Same.refl (s : State) : Same s s := ⟨rfl, rfl, rfl, rfl, rfl, rfl⟩

theorem Same.trans {a b c : State} (h : Same a b) (k : Same b c) : Same a c :=
  ⟨k.1.trans h.1, k.2.trans h.2, k.3.trans h.3, k.4.trans h.4, k.5.trans h.5, k.6.trans h.6⟩

theorem SameBut.refl (s : State) : SameBut s s := ⟨rfl, rfl, rfl, rfl, rfl⟩

theorem Same.but {s t : State} (h : Same s t) : SameBut s t := ⟨h.1, h.3, h.4, h.5, h.6⟩

theorem SameBut.trans {a b c : State} (h : SameBut a b) (k : SameBut b c) : SameBut a c :=
  ⟨k.1.trans h.1, k.2.trans h.2, k.3.trans h.3, k.4.trans h.4, k.5.trans h.5⟩

/-- The same, but for local store and for the counts of errors that reads find in code words. -/
structure SameRead (s t : State) : Prop where
  /-- memory -/
  mem : t.mem = s.mem
  /-- cells -/
  cells : t.cells = s.cells
  /-- threads -/
  threads : t.threads = s.threads
  /-- flocks -/
  flocks : t.flocks = s.flocks
  /-- registers -/
  regs : ∀ d off, off % 2 ^ 27 ≠ 0x148 → getReg t d off = getReg s d off

theorem SameRead.refl (s : State) : SameRead s s := ⟨rfl, rfl, rfl, rfl, fun _ _ _ => rfl⟩

theorem SameRead.trans {a b c : State} (h : SameRead a b) (k : SameRead b c) : SameRead a c :=
  ⟨k.1.trans h.1, k.2.trans h.2, k.3.trans h.3, k.4.trans h.4, fun d o x => (k.5 d o x).trans (h.5 d o x)⟩

theorem SameBut.read {s t : State} (h : SameBut s t) : SameRead s t := ⟨h.1, h.2, h.3, h.4, fun _ _ _ => by rw [getReg, getReg, h.5]⟩

/-- What a counter's home holds depends on memory, the listed cells and registers other than the counts of errors. -/
theorem SameRead.cell {s t : State} (h : SameRead s t) (k : Nat) : cellGet t k = cellGet s k := by
  have h1 : inBacking t k = inBacking s k := by
    simp only [inBacking, localHandle, moduleId, h.regs _ _ (show (0 : Nat) % 2 ^ 27 ≠ 0x148 by decide)]
  have h2 : cellPlace t k = cellPlace s k := by
    simp only [cellPlace, h.regs _ _ (show (0x500 : Nat) % 2 ^ 27 ≠ 0x148 by decide), h.regs _ _ (show (0x508 : Nat) % 2 ^ 27 ≠ 0x148 by decide)]
  simp only [cellGet, h1, h2, memNat, memBytes, h.mem, h.cells]

theorem Same.quiet {s t : State} (h : Same s t) : Quiet s t := by
  refine ⟨⟨fun a => ?_, fun c o => ?_, h.but.read.cell⟩, ?_, h.flocks, h.mregs⟩
  · simp [memByte, h.mem]
  · simp [lsBytes, h.locl]
  · simp [KeepsThreads, h.threads]

/-- A thread's wait is not among what the threads keep. -/
theorem quiet_wait (s : State) (u : Nat) (q : Waiting) : Quiet s (modThread s u fun t => { t with wait := q }) := by
  refine ⟨⟨fun _ => rfl, fun _ _ => rfl, fun _ => rfl⟩, ?_, rfl, rfl⟩
  simp only [KeepsThreads, modThread, List.map_map]
  apply List.map_congr_left
  intro t _
  by_cases h : t.uid = u <;> simp [h]

theorem takeFree_same (s : State) : Same s (takeFree s).2 := ⟨rfl, rfl, rfl, rfl, rfl, rfl⟩

theorem fillTlb_same (s : State) (d job va : Nat) (w : Except (Nat × Nat) (Nat × Nat)) : Same s (fillTlb s d job va w) := by
  cases w <;> exact ⟨rfl, rfl, rfl, rfl, rfl, rfl⟩

theorem pickLeaf_same (s : State) (d job va : Nat) : Same s (pickLeaf s d job va).1 := by
  simp only [pickLeaf]
  repeat' split
  all_goals first | exact Same.refl s | exact takeFree_same s | exact fillTlb_same _ _ _ _ _ | exact (takeFree_same s).trans (fillTlb_same _ _ _ _ _)

theorem xlate_same (s : State) (d job va : Nat) (w f : Bool) : Same s (xlate s d job va w f).1 := by
  have h := pickLeaf_same s d job va
  simp only [xlate]
  repeat' split
  all_goals first | exact Same.refl s | (simp_all; done) | exact h | exact h.trans ⟨rfl, rfl, rfl, rfl, rfl, rfl⟩

theorem askPage_same (s : State) (p q g : Nat) (w : Bool) (e : Option Nat) : Same s (askPage s p q g w e).1 := by
  simp only [askPage]
  repeat' split
  all_goals exact ⟨rfl, rfl, rfl, rfl, rfl, rfl⟩

theorem globalAt_same (s : State) (t : Thread) (a n al : Nat) (w : Bool) : Same s (globalAt s t a n al w).1 := by
  have h := xlate_same s (dieOf t.core) t.job a w false
  simp only [globalAt]
  split
  · exact Same.refl s
  · split <;> simp_all
    exact h.trans (askPage_same _ _ _ _ _ _)

theorem pushStore_same (s : State) (t : Thread) (o : StoreOp) : Same s (pushStore s t o) := ⟨rfl, rfl, rfl, rfl, rfl, rfl⟩

theorem sendPacket_same (s : State) (p : Packet) : Same s (sendPacket s p) := ⟨rfl, rfl, rfl, rfl, rfl, rfl⟩

theorem addResult_same (s : State) (r : Result) : Same s (addResult s r) := ⟨rfl, rfl, rfl, rfl, rfl, rfl⟩

theorem sendCtr_same (s : State) (t : Thread) (h : Nat) (r : Option Nat) (o : CtrOp) : Same s (sendCtr s t h r o) :=
  ⟨rfl, rfl, rfl, rfl, rfl, rfl⟩

theorem registerConds_same (t : Thread) (sc : Nat) (dl : Option Nat) : ∀ (l : List Cond) (s : State) (c : Nat),
    Same s (registerConds t sc dl s c l)
  | [], s, _ => Same.refl s
  | _ :: r, s, c => (sendCtr_same s t _ _ _).trans (registerConds_same t sc dl r _ (c + 1))

theorem sendWc_same (s : State) (c u l : Nat) : Same s (sendWc s c u l) := by
  unfold sendWc
  split
  · exact Same.refl s
  · exact ⟨rfl, rfl, rfl, rfl, rfl, rfl⟩

theorem sendWcEach_same : ∀ (l : List WcByte) (s : State), Same s (sendWcEach s l)
  | [], s => Same.refl s
  | _ :: r, s => (sendWc_same s _ _ _).trans (sendWcEach_same r _)

theorem flushRun_same (s : State) (c k n : Nat) : Same s (flushRun s c k n) := sendWcEach_same _ s

theorem unkeep_same (s : State) (c k n : Nat) : Same s (unkeep s c k n) := ⟨rfl, rfl, rfl, rfl, rfl, rfl⟩

theorem mergeClean_same (s : State) (c k : Nat) (bs : List Byte) : Same s (mergeClean s c k bs) := ⟨rfl, rfl, rfl, rfl, rfl, rfl⟩

theorem mergeWc_same (s : State) (e : StoreEnt) (k : Nat) (bs : List Byte) : Same s (mergeWc s e k bs) := ⟨rfl, rfl, rfl, rfl, rfl, rfl⟩

theorem sendStore_same (s : State) (e : StoreEnt) (k : Nat) (b : Body) : Same s (sendStore s e k b) := ⟨rfl, rfl, rfl, rfl, rfl, rfl⟩

theorem lsWrite_same (s : State) (c o : Nat) (bs : List Byte) : SameBut s (lsWrite s c o bs) := ⟨rfl, rfl, rfl, rfl, rfl⟩

theorem fifo_same (s : State) (l : List StoreEnt) : Same s { s with fifo := l } := ⟨rfl, rfl, rfl, rfl, rfl, rfl⟩

theorem clean_same (s : State) (l : List CleanLine) : Same s { s with clean := l } := ⟨rfl, rfl, rfl, rfl, rfl, rfl⟩

/-- An entry that leaves a thread's store queue writes local store alone. -/
theorem enterCore_same (s : State) (e : StoreEnt) : SameBut s (enterCore s e) := by
  simp only [enterCore]
  have h0 := fifo_same s (s.fifo.filter fun x => x.seq ≠ e.seq)
  generalize ({ s with fifo := s.fifo.filter fun x => x.seq ≠ e.seq } : State) = y at h0 ⊢
  refine h0.but.trans ?_
  split
  · split
    · exact (sendStore_same _ _ _ _).but
    · exact (((mergeWc_same _ _ _ _).trans (mergeClean_same _ _ _ _)).trans (unkeep_same _ _ _ _)).but
  · exact ((((flushRun_same _ _ _ _).trans (sendStore_same _ _ _ _)).trans (mergeClean_same _ _ _ _)).trans (unkeep_same _ _ _ _)).but
  · exact lsWrite_same _ _ _ _
  · exact ((((flushRun_same _ _ _ _).trans (clean_same _ _)).trans (sendStore_same _ _ _ _)).trans (unkeep_same _ _ _ _)).but
  · exact lsWrite_same _ _ _ _
  · exact ((((flushRun_same _ _ _ _).trans (clean_same _ _)).trans (sendStore_same _ _ _ _)).trans (unkeep_same _ _ _ _)).but

theorem enterAll_same : ∀ (l : List StoreEnt) (s : State), SameBut s (enterAll s l)
  | [], s => SameBut.refl s
  | e :: r, s => (enterCore_same s e).trans (enterAll_same r _)

/-- Draining a thread's store queue writes local store alone. -/
theorem drainFifo_same (s : State) (u : Nat) : SameBut s (drainFifo s u) := enterAll_same _ s

theorem cachedOr_same (s : State) (k n : Nat) (c : List Byte) : Same s (cachedOr s k n c).1 := by
  simp only [cachedOr]
  repeat' split
  all_goals first | exact Same.refl s | exact takeFree_same s

theorem dropGlean_same (s : State) (d k : Nat) : Same s (dropGlean s d k) := ⟨rfl, rfl, rfl, rfl, rfl, rfl⟩

theorem dropLine_same (s : State) (c k : Nat) : Same s (dropLine s c k) := ⟨rfl, rfl, rfl, rfl, rfl, rfl⟩

theorem loadHit_same (s : State) (c u k n : Nat) (g : Option Nat) : Same s (loadHit s c u k n g).1 := by
  cases g with
  | some v =>
    simp only [loadHit]
    split
    · rename_i l _
      have h := cachedOr_same s k n ((l.drop (k % 128)).take n)
      rcases hc : cachedOr s k n ((l.drop (k % 128)).take n) with ⟨s1, _ | b⟩ <;> rw [hc] at h
      · exact h.trans (dropGlean_same _ _ _)
      · exact h
    · exact dropGlean_same _ _ _
  | none =>
    simp only [loadHit]
    split
    · rename_i l _
      have h := cachedOr_same s k n ((l.bytes.drop (k - l.pa)).take n)
      rcases hc : cachedOr s k n ((l.bytes.drop (k - l.pa)).take n) with ⟨s1, _ | b⟩ <;> rw [hc] at h
      · exact h.trans (dropLine_same _ _ _)
      · exact h
    · exact dropLine_same _ _ _

theorem issueLoad_same (s : State) (t : Thread) (pc : VAddr) (va k n : Nat) (g : Option Nat) (f : LoadFmt) :
    SameBut s (issueLoad s t pc va k n g f) := by
  have hd : SameBut s (if s.fifo.any (fun e => e.uid == t.uid && e.op.isRed && e.op.meets k n) then drainFifo s t.uid else s) := by
    split
    · exact drainFifo_same s _
    · exact SameBut.refl s
  simp only [issueLoad]
  generalize (if s.fifo.any (fun e => e.uid == t.uid && e.op.isRed && e.op.meets k n) then drainFifo s t.uid else s) = y at hd ⊢
  split
  · exact hd.trans (addResult_same _ _).but
  · have hl : Same y (if (mgmtOff k).isNone then loadHit y t.core t.uid k n g else (y, none)).1 := by
      split
      · exact loadHit_same _ _ _ _ _ _
      · exact Same.refl y
    generalize (if (mgmtOff k).isNone then loadHit y t.core t.uid k n g else (y, none)) = z at hl ⊢
    obtain ⟨z1, z2⟩ := z
    refine hd.trans (Same.but (hl.trans ?_))
    cases z2
    · exact (addResult_same _ _).trans (sendPacket_same _ _)
    · exact addResult_same _ _

/-- A register of another offset than the one that is set reads as before. -/
theorem setReg_other (s : State) (d off v e o : Nat) (h : o % 2 ^ 27 ≠ off) (ho : isModReg off = false) (hl : off < 2 ^ 27) :
    getReg (setReg s d off v) e o = getReg s e o := by
  simp only [getReg, setReg]
  rw [mapGet_mapSet_other]
  simp only [mkey, ho, Bool.false_eq_true, if_false]
  omega

/-- The check of a code word changes the errors that are left and the die's count of them alone. -/
theorem eccWord_same (s : State) (p : Place) : SameRead s (eccWord s p) ∧ (eccWord s p).locl = s.locl := by
  simp only [eccWord]
  split
  · split <;> exact ⟨⟨rfl, rfl, rfl, rfl, fun d o h => setReg_other _ _ _ _ d o h (by decide) (by decide)⟩, rfl⟩
  · exact ⟨SameRead.refl s, rfl⟩

/-- A read's check of its code words changes the errors that are left and the die's count of them alone. -/
theorem eccRead_same (s : State) (at_ : Place → Bool) : SameRead s (eccRead s at_) ∧ (eccRead s at_).locl = s.locl := by
  rw [eccRead]
  generalize s.flips.filter _ = l
  induction l generalizing s with
  | nil => exact ⟨SameRead.refl s, rfl⟩
  | cons q r ih => exact ⟨(eccWord_same s q.1).1.trans (ih _).1, (ih _).2.trans (eccWord_same s q.1).2⟩

/-- A load that meets no poison leaves memory, threads and registers but the count of errors as they are. -/
theorem loadOrTrap_same (s : State) (t : Thread) (pc : VAddr) (va k n : Nat) (g : Option Nat) (f : LoadFmt) :
    SameRead s (loadOrTrap s t pc va k n g f).1 := by
  simp only [loadOrTrap]
  split
  · exact (eccRead_same s fun p => nearL1 t.core k n p || (g.isSome && inGlean (dieOf t.core) k n p)).1
  · exact (eccRead_same s _).1.trans (issueLoad_same _ _ _ _ _ _ _ _).read

end Sys2Proof.Laws
end

