-- ==== Sys2Proof/Laws/Memory.lean ====
section
/-! SUPPORT. The laws of memory, local store and counter cells: reads after writes, and that every write keeps the canonical form. -/

namespace Sys2Proof.Laws

open Sys2Proof.Machine

/-- Writing memory keeps its canonical form. -/
theorem memWrite_wf (s : State) (a : Nat) (bs : List Byte) (h : Memory.wf s.mem = true) : Memory.wf (memWrite s a bs).mem = true :=
  mapWf_mapSetAll memDefault _ _ h

/-- Writing single bytes keeps the canonical form. -/
theorem memWriteEach_wf : ∀ (l : List (Nat × Byte)) (s : State), Memory.wf s.mem = true → Memory.wf (memWriteEach s l).mem = true
  | [], _, h => h
  | (a, b) :: r, s, h => memWriteEach_wf r (memWrite s a [b]) (memWrite_wf s a [b] h)

/-- A byte outside a write reads as before. -/
theorem memByte_memWrite_other (s : State) (k : Nat) (bs : List Byte) (a : Nat) (h : a < k ∨ k + bs.length ≤ a) :
    memByte (memWrite s k bs) a = memByte s a := mapGet_atKeys_other memDefault bs s.mem k a h

/-- A byte inside a write reads as written. -/
theorem memByte_memWrite_same (s : State) (k : Nat) (bs : List Byte) (i : Nat) (h : i < bs.length) (hm : Memory.wf s.mem = true) :
    memByte (memWrite s k bs) (k + i) = bs[i] := mapGet_atKeys_same memDefault bs s.mem k i h hm

/-- Writing local store keeps its canonical form. -/
theorem lsWrite_wf (s : State) (core off : Nat) (bs : List Byte) (h : mapWf 0#8 s.locl = true) : mapWf 0#8 (lsWrite s core off bs).locl = true :=
  mapWf_mapSetAll 0#8 _ _ h

/-- The value of a number's bytes is the number, modulo what they hold. -/
theorem leNat_natLe : ∀ (n v : Nat), leNat (natLe n v) = v % 2 ^ (8 * n)
  | 0, v => by simp [leNat, natLe, Nat.mod_one]
  | n + 1, v => by
    rw [natLe, leNat, leNat_natLe n (v / 256), BitVec.toNat_ofNat, Nat.mul_add, Nat.add_comm (8 * n) (8 * 1), Nat.pow_add, Nat.mod_mul]

/-- A number has as many bytes as it was asked for. -/
theorem length_natLe : ∀ (n v : Nat), (natLe n v).length = n
  | 0, _ => rfl
  | n + 1, v => by simp [natLe, length_natLe n]

/-- The element of a run of numbers. -/
theorem upFrom_get : ∀ (n a : Nat) (f : Nat → Byte) (bs : List Byte), bs.length = n → (∀ (i : Nat) (h : i < bs.length), f (a + i) = bs[i]) → (upFrom a n).map f = bs
  | 0, _, _, [], _, _ => rfl
  | n + 1, a, f, b :: r, hl, hf => by
    rw [upFrom, List.map_cons, upFrom_get n (a + 1) f r (by simpa using hl)
      (fun i h => by have := hf (i + 1) (by simp; omega); simpa [Nat.add_assoc, Nat.add_comm 1 i] using this)]
    exact congrArg (· :: r) (hf 0 (Nat.succ_pos _))

/-- The bytes of a write read as written. -/
theorem memBytes_memWrite_same (s : State) (a : Nat) (bs : List Byte) (h : Memory.wf s.mem = true) : memBytes (memWrite s a bs) a bs.length = bs :=
  upFrom_get bs.length a _ bs rfl fun i hi => memByte_memWrite_same s a bs i hi h

/-- Bytes outside a write read as before. -/
theorem memBytes_memWrite_other (s : State) (k : Nat) (bs : List Byte) : ∀ (n a : Nat), (a + n ≤ k ∨ k + bs.length ≤ a) →
    memBytes (memWrite s k bs) a n = memBytes s a n
  | 0, _, _ => rfl
  | n + 1, a, h => by
    have := memBytes_memWrite_other s k bs n (a + 1) (by omega)
    simp only [memBytes, mapRange, upFrom, List.map_cons] at this ⊢
    rw [this]
    exact congrArg (· :: _) (memByte_memWrite_other s k bs a (by omega))

/-- A value written to memory reads as written. -/
theorem memNat_memWriteNat_same (s : State) (a n v : Nat) (h : Memory.wf s.mem = true) : memNat (memWriteNat s a n v) a n = v % 2 ^ (8 * n) := by
  have := memBytes_memWrite_same s a (natLe n v) h
  rw [length_natLe] at this
  rw [memNat, memWriteNat, this, leNat_natLe]

/-- Setting a cell keeps the canonical form of the cells. -/
theorem cellSet_wf (s : State) (h v : Nat) (hc : mapWf 0#64 s.cells = true) : mapWf 0#64 (cellSet s h v).cells = true := by
  unfold cellSet
  split
  · exact hc
  · exact mapWf_mapSet 0#64 _ _ _ hc

/-- Setting a cell keeps the canonical form of memory. -/
theorem cellSet_mem_wf (s : State) (h v : Nat) (hm : Memory.wf s.mem = true) : Memory.wf (cellSet s h v).mem = true := by
  unfold cellSet
  split
  · exact memWrite_wf s _ _ hm
  · exact hm

/-- Where a cell lies does not depend on the cells' values. -/
theorem inBacking_cellSet (s : State) (h v k : Nat) : inBacking (cellSet s h v) k = inBacking s k ∧ cellPlace (cellSet s h v) k = cellPlace s k := by
  simp [inBacking, localHandle, moduleId, cellPlace, getReg]

/-- A cell that was set holds the value modulo 2^64. -/
theorem cellGet_cellSet_same (s : State) (h v : Nat) (hm : Memory.wf s.mem = true) (hc : mapWf 0#64 s.cells = true) :
    cellGet (cellSet s h v) h = v % 2 ^ 64 := by
  rw [cellGet, (inBacking_cellSet s h v h).1, (inBacking_cellSet s h v h).2]
  unfold cellSet
  split
  · exact memNat_memWriteNat_same s _ 8 v hm
  · simp [mapGet_mapSet_same 0#64 s.cells h (BitVec.ofNat 64 v) hc]

/-- Every other cell holds what it held, where the two do not overlap in the backing area. -/
theorem cellGet_cellSet_other (s : State) (h v k : Nat) (hk : k ≠ h)
    (hp : inBacking s h = true → inBacking s k = true → cellPlace s k + 8 ≤ cellPlace s h ∨ cellPlace s h + 8 ≤ cellPlace s k) :
    cellGet (cellSet s h v) k = cellGet s k := by
  rw [cellGet, (inBacking_cellSet s h v k).1, (inBacking_cellSet s h v k).2, cellGet]
  cases hb : inBacking s k <;> cases hh : inBacking s h <;> simp only [cellSet, hh, if_true, if_false, Bool.false_eq_true]
  · rw [mapGet_mapSet_other 0#64 s.cells h (BitVec.ofNat 64 v) k hk]
  · rfl
  · rfl
  · exact congrArg leNat (memBytes_memWrite_other s _ (natLe 8 v) 8 _ (by rw [length_natLe]; exact hp hh hb))

/-- A memory write keeps the canonical form of everything. -/
theorem memWrite_canonical (s : State) (a : Nat) (bs : List Byte) (h : Safety.Canonical s = true) : Safety.Canonical (memWrite s a bs) = true := by
  simp only [Safety.Canonical, Bool.and_eq_true] at h ⊢
  exact ⟨⟨memWrite_wf s a bs h.1.1, h.1.2⟩, h.2⟩

/-- A write of local store keeps the canonical form of everything. -/
theorem lsWrite_canonical (s : State) (c o : Nat) (bs : List Byte) (h : Safety.Canonical s = true) : Safety.Canonical (lsWrite s c o bs) = true := by
  simp only [Safety.Canonical, Bool.and_eq_true] at h ⊢
  exact ⟨⟨h.1.1, lsWrite_wf s c o bs h.1.2⟩, h.2⟩

/-- Setting a cell keeps the canonical form of everything. -/
theorem cellSet_canonical (s : State) (k v : Nat) (h : Safety.Canonical s = true) : Safety.Canonical (cellSet s k v) = true := by
  simp only [Safety.Canonical, Bool.and_eq_true] at h ⊢
  exact ⟨⟨cellSet_mem_wf s k v h.1.1, by simpa using h.1.2⟩, cellSet_wf s k v h.2⟩

/-- Writing single bytes keeps the canonical form of everything. -/
theorem memWriteEach_canonical : ∀ (l : List (Nat × Byte)) (s : State), Safety.Canonical s = true → Safety.Canonical (memWriteEach s l) = true
  | [], _, h => h
  | (a, b) :: r, s, h => memWriteEach_canonical r (memWrite s a [b]) (memWrite_canonical s a [b] h)

/-- The state after reset is canonical, its memory in particular. -/
theorem reset_canonical : Memory.wf State.reset.mem = true ∧ Safety.Canonical State.reset = true := ⟨rfl, rfl⟩

/-- Clearing a die's memory keeps the canonical form. -/
theorem zeroHbm_canonical (s : State) (d : Nat) (h : Safety.Canonical s = true) : Safety.Canonical (zeroHbm s d) = true := by
  simp only [Safety.Canonical, Bool.and_eq_true] at h ⊢
  exact ⟨⟨mapWf_filter memDefault _ _ h.1.1, h.1.2⟩, h.2⟩

/-- Clearing local store keeps the canonical form. -/
theorem clearLocal_canonical (s : State) (c lo : Nat) (h : Safety.Canonical s = true) : Safety.Canonical (clearLocal s c lo) = true := by
  simp only [Safety.Canonical, Bool.and_eq_true] at h ⊢
  exact ⟨⟨h.1.1, mapWf_filter 0#8 _ _ h.1.2⟩, h.2⟩

/-- Keeping the enabling fields of the capability registers changes no stored data. -/
theorem keepEns_data (old : State) : ∀ (l : List Nat) (s : State), (keepEns old s l).mem = s.mem ∧ (keepEns old s l).locl = s.locl ∧ (keepEns old s l).cells = s.cells
  | [], _ => ⟨rfl, rfl, rfl⟩
  | d :: r, s => by
    have one : ∀ (l : List Nat) (x : State), (keepEn old d x l).mem = x.mem ∧ (keepEn old d x l).locl = x.locl ∧ (keepEn old d x l).cells = x.cells := by
      intro l
      induction l with
      | nil => exact fun _ => ⟨rfl, rfl, rfl⟩
      | cons j l ih =>
        intro x
        obtain ⟨h1, h2, h3⟩ := ih (if j = d then x else setField x d (swingOff j) 23 16 (swingEn old d j))
        have k : ∀ y : State, y = x ∨ y = setField x d (swingOff j) 23 16 (swingEn old d j) → y.mem = x.mem ∧ y.locl = x.locl ∧ y.cells = x.cells := by
          rintro y (rfl | rfl) <;> exact ⟨rfl, rfl, rfl⟩
        obtain ⟨k1, k2, k3⟩ := k (if j = d then x else setField x d (swingOff j) 23 16 (swingEn old d j)) (by split <;> simp)
        exact ⟨h1.trans k1, h2.trans k2, h3.trans k3⟩
    obtain ⟨h1, h2, h3⟩ := keepEns_data old r (keepEn old d s (upFrom 0 12))
    obtain ⟨k1, k2, k3⟩ := one (upFrom 0 12) s
    exact ⟨h1.trans k1, h2.trans k2, h3.trans k3⟩

/-- A reset keeps the canonical form. -/
theorem resetTo_canonical (s : State) (cold : Bool) (ft : Nat) (h : Safety.Canonical s = true) : Safety.Canonical (resetTo s cold ft) = true := by
  simp only [Safety.Canonical, Bool.and_eq_true] at h ⊢
  simp only [resetTo, keepEns_data]
  refine ⟨⟨?_, rfl⟩, ?_⟩
  · split
    · exact mapWf_filter memDefault _ _ h.1.1
    · exact h.1.1
  · exact mapWf_filter 0#64 _ _ h.2

end Sys2Proof.Laws
end

