-- ==== Sys2Proof/Laws/PerInstr.lean ====
section
/-! SUPPORT. The family RoundTrip: for each constructor of Instr, that decoding the fields the encoder gives it (10 R208,
R209) gives the constructor back, with every operand, and that a literal follows exactly where the encoder writes one. -/

set_option Elab.async false

namespace Sys2Proof.Laws

/-- Decoding the fields of a well-formed instruction gives it back; a step that has no word has no fields. -/
def RoundTrip.Statement (i : Instr) : Prop :=
  i.wellFormed = true → ∀ f l, i.fields = some (f, l) →
    decodeFields f (l.getD 0#32) = .ok i ∧ f.hasLiteral = l.isSome

theorem litOk_getD {b : BitVec 7} {lit : Word} (h : litOk b lit = true) :
    (if b = 126#7 then some lit else none).getD 0#32 = lit := by
  by_cases hb : b = 126#7 <;> simp_all [litOk]

theorem lit_isSome (b : BitVec 7) (lit : Word) :
    (if b = 126#7 then some lit else none).isSome = (b == 126#7) := by
  by_cases hb : b = 126#7 <;> simp [hb]

/-- The statement from the encoder's answer. -/
theorem RoundTrip.of_fields {i : Instr} {f : Fields} {l : Option Word} (hf : i.fields = some (f, l))
    (h : i.wellFormed = true → decodeFields f (l.getD 0#32) = .ok i ∧ f.hasLiteral = l.isSome) :
    RoundTrip.Statement i := by
  intro hw f' l' e
  rw [hf] at e
  cases e
  exact h hw

/-- The same where the literal follows the selector B. -/
theorem RoundTrip.of_sel {i : Instr} {f : Fields} {b : BitVec 7} {lit : Word}
    (hf : i.fields = some (f, if b = 126#7 then some lit else none))
    (hl : i.wellFormed = true → litOk b lit = true) (hd : decodeFields f lit = .ok i)
    (hh : f.hasLiteral = (b == 126#7)) : RoundTrip.Statement i :=
  RoundTrip.of_fields hf fun hw => by rw [litOk_getD (hl hw), lit_isSome]; exact ⟨hd, hh⟩

/-- The same for a step that has no word. -/
theorem RoundTrip.of_none {i : Instr} (hf : i.fields = none) : RoundTrip.Statement i := by
  intro _ f l e
  rw [hf] at e
  cases e

theorem zext3 : ∀ z : BitVec 3, (0#4 ++ z).extractLsb' 3 4 = 0#4 ∧ (0#4 ++ z).extractLsb' 0 3 = z := by decide

theorem zext4 : ∀ z : BitVec 4, (0#3 ++ z).extractLsb' 4 3 = 0#3 ∧ (0#3 ++ z).extractLsb' 0 4 = z := by decide

theorem zext2 : ∀ z : BitVec 2, (0#5 ++ z).extractLsb' 2 5 = 0#5 ∧ (0#5 ++ z).extractLsb' 0 2 = z := by decide

theorem zextBool : ∀ z : Bool, (0#6 ++ BitVec.ofBool z).extractLsb' 1 6 = 0#6 ∧
    (0#6 ++ BitVec.ofBool z)[0] = z := by decide

theorem pair33 : ∀ w k : BitVec 3, (0#1 ++ w ++ k : BitVec 7).extractLsb' 6 1 = 0#1 ∧
    (0#1 ++ w ++ k : BitVec 7).extractLsb' 3 3 = w ∧ (0#1 ++ w ++ k : BitVec 7).extractLsb' 0 3 = k := by decide

theorem pair34 : ∀ (q : BitVec 3) (f : BitVec 4), (q ++ f : BitVec 7).extractLsb' 4 3 = q ∧
    (q ++ f : BitVec 7).extractLsb' 0 4 = f := by decide

theorem pair61 : ∀ (a : BitVec 6) (t : Bool), (a ++ BitVec.ofBool t : BitVec 7).extractLsb' 1 6 = a ∧
    (a ++ BitVec.ofBool t : BitVec 7)[0] = t := by decide

theorem split21 (o : BitVec 21) : (o.extractLsb' 14 7 ++ o.extractLsb' 7 7 ++ o.extractLsb' 0 7 : BitVec 21) = o := by
  ext j hj
  simp only [BitVec.getElem_append, BitVec.getElem_extractLsb']
  by_cases h7 : j < 7
  · simp [h7, BitVec.getLsbD_eq_getElem hj]
  · by_cases h14 : j < 14
    · simp [h7, show j - 7 < 7 by omega, show 7 + (j - 7) = j by omega, BitVec.getLsbD_eq_getElem hj]
    · simp [h7, show ¬ (j - 7 < 7) by omega, show 14 + (j - 7 - 7) = j by omega, BitVec.getLsbD_eq_getElem hj]

theorem RoundTrip.movB32Reg h d b : RoundTrip.Statement (.movB32Reg h d b) := RoundTrip.of_fields rfl fun _ => ⟨rfl, by simp [Fields.hasLiteral]⟩
theorem RoundTrip.movB32Sel h d b lit : RoundTrip.Statement (.movB32Sel h d b lit) :=
  RoundTrip.of_sel rfl (fun hw => by simp only [Instr.wellFormed, Bool.and_eq_true] at hw; simp [hw]) rfl (by simp [Fields.hasLiteral])
theorem RoundTrip.selB32Reg h d a b : RoundTrip.Statement (.selB32Reg h d a b) := RoundTrip.of_fields rfl fun _ => ⟨rfl, by simp [Fields.hasLiteral]⟩
theorem RoundTrip.selB32Sel h d a b lit : RoundTrip.Statement (.selB32Sel h d a b lit) :=
  RoundTrip.of_sel rfl (fun hw => by simp only [Instr.wellFormed, Bool.and_eq_true] at hw; simp [hw]) rfl (by simp [Fields.hasLiteral])
theorem RoundTrip.addI32Reg h d a b : RoundTrip.Statement (.addI32Reg h d a b) := RoundTrip.of_fields rfl fun _ => ⟨rfl, by simp [Fields.hasLiteral]⟩
theorem RoundTrip.addI32Sel h d a b lit : RoundTrip.Statement (.addI32Sel h d a b lit) :=
  RoundTrip.of_sel rfl (fun hw => by simp only [Instr.wellFormed, Bool.and_eq_true] at hw; simp [hw]) rfl (by simp [Fields.hasLiteral])
theorem RoundTrip.addN32Reg h d a b : RoundTrip.Statement (.addN32Reg h d a b) := RoundTrip.of_fields rfl fun _ => ⟨rfl, by simp [Fields.hasLiteral]⟩
theorem RoundTrip.addN32Sel h d a b lit : RoundTrip.Statement (.addN32Sel h d a b lit) :=
  RoundTrip.of_sel rfl (fun hw => by simp only [Instr.wellFormed, Bool.and_eq_true] at hw; simp [hw]) rfl (by simp [Fields.hasLiteral])
theorem RoundTrip.subI32Reg h d a b : RoundTrip.Statement (.subI32Reg h d a b) := RoundTrip.of_fields rfl fun _ => ⟨rfl, by simp [Fields.hasLiteral]⟩
theorem RoundTrip.subI32Sel h d a b lit : RoundTrip.Statement (.subI32Sel h d a b lit) :=
  RoundTrip.of_sel rfl (fun hw => by simp only [Instr.wellFormed, Bool.and_eq_true] at hw; simp [hw]) rfl (by simp [Fields.hasLiteral])
theorem RoundTrip.subN32Reg h d a b : RoundTrip.Statement (.subN32Reg h d a b) := RoundTrip.of_fields rfl fun _ => ⟨rfl, by simp [Fields.hasLiteral]⟩
theorem RoundTrip.subN32Sel h d a b lit : RoundTrip.Statement (.subN32Sel h d a b lit) :=
  RoundTrip.of_sel rfl (fun hw => by simp only [Instr.wellFormed, Bool.and_eq_true] at hw; simp [hw]) rfl (by simp [Fields.hasLiteral])
theorem RoundTrip.mulI32Reg h d a b : RoundTrip.Statement (.mulI32Reg h d a b) := RoundTrip.of_fields rfl fun _ => ⟨rfl, by simp [Fields.hasLiteral]⟩
theorem RoundTrip.mulI32Sel h d a b lit : RoundTrip.Statement (.mulI32Sel h d a b lit) :=
  RoundTrip.of_sel rfl (fun hw => by simp only [Instr.wellFormed, Bool.and_eq_true] at hw; simp [hw]) rfl (by simp [Fields.hasLiteral])
theorem RoundTrip.mulN32Reg h d a b : RoundTrip.Statement (.mulN32Reg h d a b) := RoundTrip.of_fields rfl fun _ => ⟨rfl, by simp [Fields.hasLiteral]⟩
theorem RoundTrip.mulN32Sel h d a b lit : RoundTrip.Statement (.mulN32Sel h d a b lit) :=
  RoundTrip.of_sel rfl (fun hw => by simp only [Instr.wellFormed, Bool.and_eq_true] at hw; simp [hw]) rfl (by simp [Fields.hasLiteral])
theorem RoundTrip.mulhiI32Reg h d a b : RoundTrip.Statement (.mulhiI32Reg h d a b) := RoundTrip.of_fields rfl fun _ => ⟨rfl, by simp [Fields.hasLiteral]⟩
theorem RoundTrip.mulhiI32Sel h d a b lit : RoundTrip.Statement (.mulhiI32Sel h d a b lit) :=
  RoundTrip.of_sel rfl (fun hw => by simp only [Instr.wellFormed, Bool.and_eq_true] at hw; simp [hw]) rfl (by simp [Fields.hasLiteral])
theorem RoundTrip.mulhiN32Reg h d a b : RoundTrip.Statement (.mulhiN32Reg h d a b) := RoundTrip.of_fields rfl fun _ => ⟨rfl, by simp [Fields.hasLiteral]⟩
theorem RoundTrip.mulhiN32Sel h d a b lit : RoundTrip.Statement (.mulhiN32Sel h d a b lit) :=
  RoundTrip.of_sel rfl (fun hw => by simp only [Instr.wellFormed, Bool.and_eq_true] at hw; simp [hw]) rfl (by simp [Fields.hasLiteral])
theorem RoundTrip.minI32Reg h d a b : RoundTrip.Statement (.minI32Reg h d a b) := RoundTrip.of_fields rfl fun _ => ⟨rfl, by simp [Fields.hasLiteral]⟩
theorem RoundTrip.minI32Sel h d a b lit : RoundTrip.Statement (.minI32Sel h d a b lit) :=
  RoundTrip.of_sel rfl (fun hw => by simp only [Instr.wellFormed, Bool.and_eq_true] at hw; simp [hw]) rfl (by simp [Fields.hasLiteral])
theorem RoundTrip.minN32Reg h d a b : RoundTrip.Statement (.minN32Reg h d a b) := RoundTrip.of_fields rfl fun _ => ⟨rfl, by simp [Fields.hasLiteral]⟩
theorem RoundTrip.minN32Sel h d a b lit : RoundTrip.Statement (.minN32Sel h d a b lit) :=
  RoundTrip.of_sel rfl (fun hw => by simp only [Instr.wellFormed, Bool.and_eq_true] at hw; simp [hw]) rfl (by simp [Fields.hasLiteral])
theorem RoundTrip.maxI32Reg h d a b : RoundTrip.Statement (.maxI32Reg h d a b) := RoundTrip.of_fields rfl fun _ => ⟨rfl, by simp [Fields.hasLiteral]⟩
theorem RoundTrip.maxI32Sel h d a b lit : RoundTrip.Statement (.maxI32Sel h d a b lit) :=
  RoundTrip.of_sel rfl (fun hw => by simp only [Instr.wellFormed, Bool.and_eq_true] at hw; simp [hw]) rfl (by simp [Fields.hasLiteral])
theorem RoundTrip.maxN32Reg h d a b : RoundTrip.Statement (.maxN32Reg h d a b) := RoundTrip.of_fields rfl fun _ => ⟨rfl, by simp [Fields.hasLiteral]⟩
theorem RoundTrip.maxN32Sel h d a b lit : RoundTrip.Statement (.maxN32Sel h d a b lit) :=
  RoundTrip.of_sel rfl (fun hw => by simp only [Instr.wellFormed, Bool.and_eq_true] at hw; simp [hw]) rfl (by simp [Fields.hasLiteral])
theorem RoundTrip.andB32Reg h d a b : RoundTrip.Statement (.andB32Reg h d a b) := RoundTrip.of_fields rfl fun _ => ⟨rfl, by simp [Fields.hasLiteral]⟩
theorem RoundTrip.andB32Sel h d a b lit : RoundTrip.Statement (.andB32Sel h d a b lit) :=
  RoundTrip.of_sel rfl (fun hw => by simp only [Instr.wellFormed, Bool.and_eq_true] at hw; simp [hw]) rfl (by simp [Fields.hasLiteral])
theorem RoundTrip.orB32Reg h d a b : RoundTrip.Statement (.orB32Reg h d a b) := RoundTrip.of_fields rfl fun _ => ⟨rfl, by simp [Fields.hasLiteral]⟩
theorem RoundTrip.orB32Sel h d a b lit : RoundTrip.Statement (.orB32Sel h d a b lit) :=
  RoundTrip.of_sel rfl (fun hw => by simp only [Instr.wellFormed, Bool.and_eq_true] at hw; simp [hw]) rfl (by simp [Fields.hasLiteral])
theorem RoundTrip.xorB32Reg h d a b : RoundTrip.Statement (.xorB32Reg h d a b) := RoundTrip.of_fields rfl fun _ => ⟨rfl, by simp [Fields.hasLiteral]⟩
theorem RoundTrip.xorB32Sel h d a b lit : RoundTrip.Statement (.xorB32Sel h d a b lit) :=
  RoundTrip.of_sel rfl (fun hw => by simp only [Instr.wellFormed, Bool.and_eq_true] at hw; simp [hw]) rfl (by simp [Fields.hasLiteral])
theorem RoundTrip.notB32Reg h d b : RoundTrip.Statement (.notB32Reg h d b) := RoundTrip.of_fields rfl fun _ => ⟨rfl, by simp [Fields.hasLiteral]⟩
theorem RoundTrip.notB32Sel h d b lit : RoundTrip.Statement (.notB32Sel h d b lit) :=
  RoundTrip.of_sel rfl (fun hw => by simp only [Instr.wellFormed, Bool.and_eq_true] at hw; simp [hw]) rfl (by simp [Fields.hasLiteral])
theorem RoundTrip.shlB32Reg h d a b : RoundTrip.Statement (.shlB32Reg h d a b) := RoundTrip.of_fields rfl fun _ => ⟨rfl, by simp [Fields.hasLiteral]⟩
theorem RoundTrip.shlB32Sel h d a b lit : RoundTrip.Statement (.shlB32Sel h d a b lit) :=
  RoundTrip.of_sel rfl (fun hw => by simp only [Instr.wellFormed, Bool.and_eq_true] at hw; simp [hw]) rfl (by simp [Fields.hasLiteral])
theorem RoundTrip.shrN32Reg h d a b : RoundTrip.Statement (.shrN32Reg h d a b) := RoundTrip.of_fields rfl fun _ => ⟨rfl, by simp [Fields.hasLiteral]⟩
theorem RoundTrip.shrN32Sel h d a b lit : RoundTrip.Statement (.shrN32Sel h d a b lit) :=
  RoundTrip.of_sel rfl (fun hw => by simp only [Instr.wellFormed, Bool.and_eq_true] at hw; simp [hw]) rfl (by simp [Fields.hasLiteral])
theorem RoundTrip.shrI32Reg h d a b : RoundTrip.Statement (.shrI32Reg h d a b) := RoundTrip.of_fields rfl fun _ => ⟨rfl, by simp [Fields.hasLiteral]⟩
theorem RoundTrip.shrI32Sel h d a b lit : RoundTrip.Statement (.shrI32Sel h d a b lit) :=
  RoundTrip.of_sel rfl (fun hw => by simp only [Instr.wellFormed, Bool.and_eq_true] at hw; simp [hw]) rfl (by simp [Fields.hasLiteral])
theorem RoundTrip.popcB32Reg h d b : RoundTrip.Statement (.popcB32Reg h d b) := RoundTrip.of_fields rfl fun _ => ⟨rfl, by simp [Fields.hasLiteral]⟩
theorem RoundTrip.popcB32Sel h d b lit : RoundTrip.Statement (.popcB32Sel h d b lit) :=
  RoundTrip.of_sel rfl (fun hw => by simp only [Instr.wellFormed, Bool.and_eq_true] at hw; simp [hw]) rfl (by simp [Fields.hasLiteral])
theorem RoundTrip.clzB32Reg h d b : RoundTrip.Statement (.clzB32Reg h d b) := RoundTrip.of_fields rfl fun _ => ⟨rfl, by simp [Fields.hasLiteral]⟩
theorem RoundTrip.clzB32Sel h d b lit : RoundTrip.Statement (.clzB32Sel h d b lit) :=
  RoundTrip.of_sel rfl (fun hw => by simp only [Instr.wellFormed, Bool.and_eq_true] at hw; simp [hw]) rfl (by simp [Fields.hasLiteral])
theorem RoundTrip.cmpI32Reg h c a b : RoundTrip.Statement (.cmpI32Reg h c a b) := RoundTrip.of_fields rfl fun _ => ⟨rfl, by simp [Fields.hasLiteral]⟩
theorem RoundTrip.cmpI32Sel h c a b lit : RoundTrip.Statement (.cmpI32Sel h c a b lit) :=
  RoundTrip.of_sel rfl (fun hw => by simp only [Instr.wellFormed, Bool.and_eq_true] at hw; simp [hw]) rfl (by simp [Fields.hasLiteral])
theorem RoundTrip.cmpN32Reg h c a b : RoundTrip.Statement (.cmpN32Reg h c a b) := RoundTrip.of_fields rfl fun _ => ⟨rfl, by simp [Fields.hasLiteral]⟩
theorem RoundTrip.cmpN32Sel h c a b lit : RoundTrip.Statement (.cmpN32Sel h c a b lit) :=
  RoundTrip.of_sel rfl (fun hw => by simp only [Instr.wellFormed, Bool.and_eq_true] at hw; simp [hw]) rfl (by simp [Fields.hasLiteral])
theorem RoundTrip.addI64Reg h d a b : RoundTrip.Statement (.addI64Reg h d a b) := RoundTrip.of_fields rfl fun _ => ⟨rfl, by simp [Fields.hasLiteral]⟩
theorem RoundTrip.addI64Sel h d a b lit : RoundTrip.Statement (.addI64Sel h d a b lit) :=
  RoundTrip.of_sel rfl (fun hw => by simp only [Instr.wellFormed, Bool.and_eq_true] at hw; simp [hw]) rfl (by simp [Fields.hasLiteral])
theorem RoundTrip.addN64Reg h d a b : RoundTrip.Statement (.addN64Reg h d a b) := RoundTrip.of_fields rfl fun _ => ⟨rfl, by simp [Fields.hasLiteral]⟩
theorem RoundTrip.addN64Sel h d a b lit : RoundTrip.Statement (.addN64Sel h d a b lit) :=
  RoundTrip.of_sel rfl (fun hw => by simp only [Instr.wellFormed, Bool.and_eq_true] at hw; simp [hw]) rfl (by simp [Fields.hasLiteral])
theorem RoundTrip.subI64Reg h d a b : RoundTrip.Statement (.subI64Reg h d a b) := RoundTrip.of_fields rfl fun _ => ⟨rfl, by simp [Fields.hasLiteral]⟩
theorem RoundTrip.subI64Sel h d a b lit : RoundTrip.Statement (.subI64Sel h d a b lit) :=
  RoundTrip.of_sel rfl (fun hw => by simp only [Instr.wellFormed, Bool.and_eq_true] at hw; simp [hw]) rfl (by simp [Fields.hasLiteral])
theorem RoundTrip.subN64Reg h d a b : RoundTrip.Statement (.subN64Reg h d a b) := RoundTrip.of_fields rfl fun _ => ⟨rfl, by simp [Fields.hasLiteral]⟩
theorem RoundTrip.subN64Sel h d a b lit : RoundTrip.Statement (.subN64Sel h d a b lit) :=
  RoundTrip.of_sel rfl (fun hw => by simp only [Instr.wellFormed, Bool.and_eq_true] at hw; simp [hw]) rfl (by simp [Fields.hasLiteral])
theorem RoundTrip.addF32Reg h d a b : RoundTrip.Statement (.addF32Reg h d a b) := RoundTrip.of_fields rfl fun _ => ⟨rfl, by simp [Fields.hasLiteral]⟩
theorem RoundTrip.addF32Sel h d a b lit : RoundTrip.Statement (.addF32Sel h d a b lit) :=
  RoundTrip.of_sel rfl (fun hw => by simp only [Instr.wellFormed, Bool.and_eq_true] at hw; simp [hw]) rfl (by simp [Fields.hasLiteral])
theorem RoundTrip.subF32Reg h d a b : RoundTrip.Statement (.subF32Reg h d a b) := RoundTrip.of_fields rfl fun _ => ⟨rfl, by simp [Fields.hasLiteral]⟩
theorem RoundTrip.subF32Sel h d a b lit : RoundTrip.Statement (.subF32Sel h d a b lit) :=
  RoundTrip.of_sel rfl (fun hw => by simp only [Instr.wellFormed, Bool.and_eq_true] at hw; simp [hw]) rfl (by simp [Fields.hasLiteral])
theorem RoundTrip.mulF32Reg h d a b : RoundTrip.Statement (.mulF32Reg h d a b) := RoundTrip.of_fields rfl fun _ => ⟨rfl, by simp [Fields.hasLiteral]⟩
theorem RoundTrip.mulF32Sel h d a b lit : RoundTrip.Statement (.mulF32Sel h d a b lit) :=
  RoundTrip.of_sel rfl (fun hw => by simp only [Instr.wellFormed, Bool.and_eq_true] at hw; simp [hw]) rfl (by simp [Fields.hasLiteral])
theorem RoundTrip.fmaF32Reg h d a b : RoundTrip.Statement (.fmaF32Reg h d a b) := RoundTrip.of_fields rfl fun _ => ⟨rfl, by simp [Fields.hasLiteral]⟩
theorem RoundTrip.fmaF32Sel h d a b lit : RoundTrip.Statement (.fmaF32Sel h d a b lit) :=
  RoundTrip.of_sel rfl (fun hw => by simp only [Instr.wellFormed, Bool.and_eq_true] at hw; simp [hw]) rfl (by simp [Fields.hasLiteral])
theorem RoundTrip.minF32Reg h d a b : RoundTrip.Statement (.minF32Reg h d a b) := RoundTrip.of_fields rfl fun _ => ⟨rfl, by simp [Fields.hasLiteral]⟩
theorem RoundTrip.minF32Sel h d a b lit : RoundTrip.Statement (.minF32Sel h d a b lit) :=
  RoundTrip.of_sel rfl (fun hw => by simp only [Instr.wellFormed, Bool.and_eq_true] at hw; simp [hw]) rfl (by simp [Fields.hasLiteral])
theorem RoundTrip.maxF32Reg h d a b : RoundTrip.Statement (.maxF32Reg h d a b) := RoundTrip.of_fields rfl fun _ => ⟨rfl, by simp [Fields.hasLiteral]⟩
theorem RoundTrip.maxF32Sel h d a b lit : RoundTrip.Statement (.maxF32Sel h d a b lit) :=
  RoundTrip.of_sel rfl (fun hw => by simp only [Instr.wellFormed, Bool.and_eq_true] at hw; simp [hw]) rfl (by simp [Fields.hasLiteral])
theorem RoundTrip.cmpF32Reg h c a b : RoundTrip.Statement (.cmpF32Reg h c a b) := RoundTrip.of_fields rfl fun _ => ⟨rfl, by simp [Fields.hasLiteral]⟩
theorem RoundTrip.cmpF32Sel h c a b lit : RoundTrip.Statement (.cmpF32Sel h c a b lit) :=
  RoundTrip.of_sel rfl (fun hw => by simp only [Instr.wellFormed, Bool.and_eq_true] at hw; simp [hw]) rfl (by simp [Fields.hasLiteral])
theorem RoundTrip.sfnF32Reg h d f b : RoundTrip.Statement (.sfnF32Reg h d f b) := RoundTrip.of_fields rfl fun _ => ⟨rfl, by simp [Fields.hasLiteral]⟩
theorem RoundTrip.sfnF32Sel h d f b lit : RoundTrip.Statement (.sfnF32Sel h d f b lit) :=
  RoundTrip.of_sel rfl (fun hw => by simp only [Instr.wellFormed, Bool.and_eq_true] at hw; simp [hw]) rfl (by simp [Fields.hasLiteral])
theorem RoundTrip.addBf16x2Reg h d a b : RoundTrip.Statement (.addBf16x2Reg h d a b) := RoundTrip.of_fields rfl fun _ => ⟨rfl, by simp [Fields.hasLiteral]⟩
theorem RoundTrip.addBf16x2Sel h d a b lit : RoundTrip.Statement (.addBf16x2Sel h d a b lit) :=
  RoundTrip.of_sel rfl (fun hw => by simp only [Instr.wellFormed, Bool.and_eq_true] at hw; simp [hw]) rfl (by simp [Fields.hasLiteral])
theorem RoundTrip.mulBf16x2Reg h d a b : RoundTrip.Statement (.mulBf16x2Reg h d a b) := RoundTrip.of_fields rfl fun _ => ⟨rfl, by simp [Fields.hasLiteral]⟩
theorem RoundTrip.mulBf16x2Sel h d a b lit : RoundTrip.Statement (.mulBf16x2Sel h d a b lit) :=
  RoundTrip.of_sel rfl (fun hw => by simp only [Instr.wellFormed, Bool.and_eq_true] at hw; simp [hw]) rfl (by simp [Fields.hasLiteral])
theorem RoundTrip.fmaBf16x2Reg h d a b : RoundTrip.Statement (.fmaBf16x2Reg h d a b) := RoundTrip.of_fields rfl fun _ => ⟨rfl, by simp [Fields.hasLiteral]⟩
theorem RoundTrip.fmaBf16x2Sel h d a b lit : RoundTrip.Statement (.fmaBf16x2Sel h d a b lit) :=
  RoundTrip.of_sel rfl (fun hw => by simp only [Instr.wellFormed, Bool.and_eq_true] at hw; simp [hw]) rfl (by simp [Fields.hasLiteral])
theorem RoundTrip.addF16x2Reg h d a b : RoundTrip.Statement (.addF16x2Reg h d a b) := RoundTrip.of_fields rfl fun _ => ⟨rfl, by simp [Fields.hasLiteral]⟩
theorem RoundTrip.addF16x2Sel h d a b lit : RoundTrip.Statement (.addF16x2Sel h d a b lit) :=
  RoundTrip.of_sel rfl (fun hw => by simp only [Instr.wellFormed, Bool.and_eq_true] at hw; simp [hw]) rfl (by simp [Fields.hasLiteral])
theorem RoundTrip.mulF16x2Reg h d a b : RoundTrip.Statement (.mulF16x2Reg h d a b) := RoundTrip.of_fields rfl fun _ => ⟨rfl, by simp [Fields.hasLiteral]⟩
theorem RoundTrip.mulF16x2Sel h d a b lit : RoundTrip.Statement (.mulF16x2Sel h d a b lit) :=
  RoundTrip.of_sel rfl (fun hw => by simp only [Instr.wellFormed, Bool.and_eq_true] at hw; simp [hw]) rfl (by simp [Fields.hasLiteral])
theorem RoundTrip.fmaF16x2Reg h d a b : RoundTrip.Statement (.fmaF16x2Reg h d a b) := RoundTrip.of_fields rfl fun _ => ⟨rfl, by simp [Fields.hasLiteral]⟩
theorem RoundTrip.fmaF16x2Sel h d a b lit : RoundTrip.Statement (.fmaF16x2Sel h d a b lit) :=
  RoundTrip.of_sel rfl (fun hw => by simp only [Instr.wellFormed, Bool.and_eq_true] at hw; simp [hw]) rfl (by simp [Fields.hasLiteral])
theorem RoundTrip.cvtReg h d f b : RoundTrip.Statement (.cvtReg h d f b) := RoundTrip.of_fields rfl fun _ => ⟨rfl, by simp [Fields.hasLiteral]⟩
theorem RoundTrip.cvtSel h d f b lit : RoundTrip.Statement (.cvtSel h d f b lit) :=
  RoundTrip.of_sel rfl (fun hw => by simp only [Instr.wellFormed, Bool.and_eq_true] at hw; simp [hw]) rfl (by simp [Fields.hasLiteral])
theorem RoundTrip.cvtqE2m1Reg h d a b : RoundTrip.Statement (.cvtqE2m1Reg h d a b) := RoundTrip.of_fields rfl fun _ => ⟨rfl, by simp [Fields.hasLiteral]⟩
theorem RoundTrip.cvtqE2m1Sel h d a b lit : RoundTrip.Statement (.cvtqE2m1Sel h d a b lit) :=
  RoundTrip.of_sel rfl (fun hw => by simp only [Instr.wellFormed, Bool.and_eq_true] at hw; simp [hw]) rfl (by simp [Fields.hasLiteral])
theorem RoundTrip.permB32Reg h d a b : RoundTrip.Statement (.permB32Reg h d a b) := RoundTrip.of_fields rfl fun _ => ⟨rfl, by simp [Fields.hasLiteral]⟩
theorem RoundTrip.permB32Sel h d a b lit : RoundTrip.Statement (.permB32Sel h d a b lit) :=
  RoundTrip.of_sel rfl (fun hw => by simp only [Instr.wellFormed, Bool.and_eq_true] at hw; simp [hw]) rfl (by simp [Fields.hasLiteral])
theorem RoundTrip.gsetReg h c a b : RoundTrip.Statement (.gsetReg h c a b) := RoundTrip.of_fields rfl fun _ => ⟨rfl, by simp [Fields.hasLiteral]⟩
theorem RoundTrip.gsetSel h c a b lit : RoundTrip.Statement (.gsetSel h c a b lit) :=
  RoundTrip.of_sel rfl (fun hw => by simp only [Instr.wellFormed, Bool.and_eq_true] at hw; simp [hw]) rfl (by simp [Fields.hasLiteral])
theorem RoundTrip.tagsetReg h d a b : RoundTrip.Statement (.tagsetReg h d a b) := RoundTrip.of_fields rfl fun _ => ⟨rfl, by simp [Fields.hasLiteral]⟩
theorem RoundTrip.tagsetSel h d a b lit : RoundTrip.Statement (.tagsetSel h d a b lit) :=
  RoundTrip.of_sel rfl (fun hw => by simp only [Instr.wellFormed, Bool.and_eq_true] at hw; simp [hw]) rfl (by simp [Fields.hasLiteral])
theorem RoundTrip.xlrReg h d a b : RoundTrip.Statement (.xlrReg h d a b) := RoundTrip.of_fields rfl fun _ => ⟨rfl, by simp [Fields.hasLiteral]⟩
theorem RoundTrip.xlrSel h d a b lit : RoundTrip.Statement (.xlrSel h d a b lit) :=
  RoundTrip.of_sel rfl (fun hw => by simp only [Instr.wellFormed, Bool.and_eq_true] at hw; simp [hw]) rfl (by simp [Fields.hasLiteral])
theorem RoundTrip.rngkReg h d a b : RoundTrip.Statement (.rngkReg h d a b) := RoundTrip.of_fields rfl fun _ => ⟨rfl, by simp [Fields.hasLiteral]⟩
theorem RoundTrip.rngkSel h d a b lit : RoundTrip.Statement (.rngkSel h d a b lit) :=
  RoundTrip.of_sel rfl (fun hw => by simp only [Instr.wellFormed, Bool.and_eq_true] at hw; simp [hw]) rfl (by simp [Fields.hasLiteral])
theorem RoundTrip.smovB32 h d b lit : RoundTrip.Statement (.smovB32 h d b lit) :=
  RoundTrip.of_sel rfl (fun hw => by simp only [Instr.wellFormed, Bool.and_eq_true] at hw; simp [hw]) rfl (by simp [Fields.hasLiteral])
theorem RoundTrip.saddI32 h d a b lit : RoundTrip.Statement (.saddI32 h d a b lit) :=
  RoundTrip.of_sel rfl (fun hw => by simp only [Instr.wellFormed, Bool.and_eq_true] at hw; simp [hw]) rfl (by simp [Fields.hasLiteral])
theorem RoundTrip.saddN32 h d a b lit : RoundTrip.Statement (.saddN32 h d a b lit) :=
  RoundTrip.of_sel rfl (fun hw => by simp only [Instr.wellFormed, Bool.and_eq_true] at hw; simp [hw]) rfl (by simp [Fields.hasLiteral])
theorem RoundTrip.ssubI32 h d a b lit : RoundTrip.Statement (.ssubI32 h d a b lit) :=
  RoundTrip.of_sel rfl (fun hw => by simp only [Instr.wellFormed, Bool.and_eq_true] at hw; simp [hw]) rfl (by simp [Fields.hasLiteral])
theorem RoundTrip.ssubN32 h d a b lit : RoundTrip.Statement (.ssubN32 h d a b lit) :=
  RoundTrip.of_sel rfl (fun hw => by simp only [Instr.wellFormed, Bool.and_eq_true] at hw; simp [hw]) rfl (by simp [Fields.hasLiteral])
theorem RoundTrip.smulI32 h d a b lit : RoundTrip.Statement (.smulI32 h d a b lit) :=
  RoundTrip.of_sel rfl (fun hw => by simp only [Instr.wellFormed, Bool.and_eq_true] at hw; simp [hw]) rfl (by simp [Fields.hasLiteral])
theorem RoundTrip.smulN32 h d a b lit : RoundTrip.Statement (.smulN32 h d a b lit) :=
  RoundTrip.of_sel rfl (fun hw => by simp only [Instr.wellFormed, Bool.and_eq_true] at hw; simp [hw]) rfl (by simp [Fields.hasLiteral])
theorem RoundTrip.smulhiI32 h d a b lit : RoundTrip.Statement (.smulhiI32 h d a b lit) :=
  RoundTrip.of_sel rfl (fun hw => by simp only [Instr.wellFormed, Bool.and_eq_true] at hw; simp [hw]) rfl (by simp [Fields.hasLiteral])
theorem RoundTrip.smulhiN32 h d a b lit : RoundTrip.Statement (.smulhiN32 h d a b lit) :=
  RoundTrip.of_sel rfl (fun hw => by simp only [Instr.wellFormed, Bool.and_eq_true] at hw; simp [hw]) rfl (by simp [Fields.hasLiteral])
theorem RoundTrip.sminI32 h d a b lit : RoundTrip.Statement (.sminI32 h d a b lit) :=
  RoundTrip.of_sel rfl (fun hw => by simp only [Instr.wellFormed, Bool.and_eq_true] at hw; simp [hw]) rfl (by simp [Fields.hasLiteral])
theorem RoundTrip.sminN32 h d a b lit : RoundTrip.Statement (.sminN32 h d a b lit) :=
  RoundTrip.of_sel rfl (fun hw => by simp only [Instr.wellFormed, Bool.and_eq_true] at hw; simp [hw]) rfl (by simp [Fields.hasLiteral])
theorem RoundTrip.smaxI32 h d a b lit : RoundTrip.Statement (.smaxI32 h d a b lit) :=
  RoundTrip.of_sel rfl (fun hw => by simp only [Instr.wellFormed, Bool.and_eq_true] at hw; simp [hw]) rfl (by simp [Fields.hasLiteral])
theorem RoundTrip.smaxN32 h d a b lit : RoundTrip.Statement (.smaxN32 h d a b lit) :=
  RoundTrip.of_sel rfl (fun hw => by simp only [Instr.wellFormed, Bool.and_eq_true] at hw; simp [hw]) rfl (by simp [Fields.hasLiteral])
theorem RoundTrip.sandB32 h d a b lit : RoundTrip.Statement (.sandB32 h d a b lit) :=
  RoundTrip.of_sel rfl (fun hw => by simp only [Instr.wellFormed, Bool.and_eq_true] at hw; simp [hw]) rfl (by simp [Fields.hasLiteral])
theorem RoundTrip.sorB32 h d a b lit : RoundTrip.Statement (.sorB32 h d a b lit) :=
  RoundTrip.of_sel rfl (fun hw => by simp only [Instr.wellFormed, Bool.and_eq_true] at hw; simp [hw]) rfl (by simp [Fields.hasLiteral])
theorem RoundTrip.sxorB32 h d a b lit : RoundTrip.Statement (.sxorB32 h d a b lit) :=
  RoundTrip.of_sel rfl (fun hw => by simp only [Instr.wellFormed, Bool.and_eq_true] at hw; simp [hw]) rfl (by simp [Fields.hasLiteral])
theorem RoundTrip.snotB32 h d b lit : RoundTrip.Statement (.snotB32 h d b lit) :=
  RoundTrip.of_sel rfl (fun hw => by simp only [Instr.wellFormed, Bool.and_eq_true] at hw; simp [hw]) rfl (by simp [Fields.hasLiteral])
theorem RoundTrip.sshlB32 h d a b lit : RoundTrip.Statement (.sshlB32 h d a b lit) :=
  RoundTrip.of_sel rfl (fun hw => by simp only [Instr.wellFormed, Bool.and_eq_true] at hw; simp [hw]) rfl (by simp [Fields.hasLiteral])
theorem RoundTrip.sshrN32 h d a b lit : RoundTrip.Statement (.sshrN32 h d a b lit) :=
  RoundTrip.of_sel rfl (fun hw => by simp only [Instr.wellFormed, Bool.and_eq_true] at hw; simp [hw]) rfl (by simp [Fields.hasLiteral])
theorem RoundTrip.sshrI32 h d a b lit : RoundTrip.Statement (.sshrI32 h d a b lit) :=
  RoundTrip.of_sel rfl (fun hw => by simp only [Instr.wellFormed, Bool.and_eq_true] at hw; simp [hw]) rfl (by simp [Fields.hasLiteral])
theorem RoundTrip.spopcB32 h d b lit : RoundTrip.Statement (.spopcB32 h d b lit) :=
  RoundTrip.of_sel rfl (fun hw => by simp only [Instr.wellFormed, Bool.and_eq_true] at hw; simp [hw]) rfl (by simp [Fields.hasLiteral])
theorem RoundTrip.sclzB32 h d b lit : RoundTrip.Statement (.sclzB32 h d b lit) :=
  RoundTrip.of_sel rfl (fun hw => by simp only [Instr.wellFormed, Bool.and_eq_true] at hw; simp [hw]) rfl (by simp [Fields.hasLiteral])
theorem RoundTrip.scmpI32 h c a b lit : RoundTrip.Statement (.scmpI32 h c a b lit) :=
  RoundTrip.of_sel rfl (fun hw => by simp only [Instr.wellFormed, Bool.and_eq_true] at hw; simp [hw]) rfl (by simp [Fields.hasLiteral])
theorem RoundTrip.scmpN32 h c a b lit : RoundTrip.Statement (.scmpN32 h c a b lit) :=
  RoundTrip.of_sel rfl (fun hw => by simp only [Instr.wellFormed, Bool.and_eq_true] at hw; simp [hw]) rfl (by simp [Fields.hasLiteral])
theorem RoundTrip.saddI64 h d a b lit : RoundTrip.Statement (.saddI64 h d a b lit) :=
  RoundTrip.of_sel rfl (fun hw => by simp only [Instr.wellFormed, Bool.and_eq_true] at hw; simp [hw]) rfl (by simp [Fields.hasLiteral])
theorem RoundTrip.saddN64 h d a b lit : RoundTrip.Statement (.saddN64 h d a b lit) :=
  RoundTrip.of_sel rfl (fun hw => by simp only [Instr.wellFormed, Bool.and_eq_true] at hw; simp [hw]) rfl (by simp [Fields.hasLiteral])
theorem RoundTrip.ssubI64 h d a b lit : RoundTrip.Statement (.ssubI64 h d a b lit) :=
  RoundTrip.of_sel rfl (fun hw => by simp only [Instr.wellFormed, Bool.and_eq_true] at hw; simp [hw]) rfl (by simp [Fields.hasLiteral])
theorem RoundTrip.ssubN64 h d a b lit : RoundTrip.Statement (.ssubN64 h d a b lit) :=
  RoundTrip.of_sel rfl (fun hw => by simp only [Instr.wellFormed, Bool.and_eq_true] at hw; simp [hw]) rfl (by simp [Fields.hasLiteral])
theorem RoundTrip.saddF32 h d a b lit : RoundTrip.Statement (.saddF32 h d a b lit) :=
  RoundTrip.of_sel rfl (fun hw => by simp only [Instr.wellFormed, Bool.and_eq_true] at hw; simp [hw]) rfl (by simp [Fields.hasLiteral])
theorem RoundTrip.ssubF32 h d a b lit : RoundTrip.Statement (.ssubF32 h d a b lit) :=
  RoundTrip.of_sel rfl (fun hw => by simp only [Instr.wellFormed, Bool.and_eq_true] at hw; simp [hw]) rfl (by simp [Fields.hasLiteral])
theorem RoundTrip.smulF32 h d a b lit : RoundTrip.Statement (.smulF32 h d a b lit) :=
  RoundTrip.of_sel rfl (fun hw => by simp only [Instr.wellFormed, Bool.and_eq_true] at hw; simp [hw]) rfl (by simp [Fields.hasLiteral])
theorem RoundTrip.sfmaF32 h d a b lit : RoundTrip.Statement (.sfmaF32 h d a b lit) :=
  RoundTrip.of_sel rfl (fun hw => by simp only [Instr.wellFormed, Bool.and_eq_true] at hw; simp [hw]) rfl (by simp [Fields.hasLiteral])
theorem RoundTrip.sminF32 h d a b lit : RoundTrip.Statement (.sminF32 h d a b lit) :=
  RoundTrip.of_sel rfl (fun hw => by simp only [Instr.wellFormed, Bool.and_eq_true] at hw; simp [hw]) rfl (by simp [Fields.hasLiteral])
theorem RoundTrip.smaxF32 h d a b lit : RoundTrip.Statement (.smaxF32 h d a b lit) :=
  RoundTrip.of_sel rfl (fun hw => by simp only [Instr.wellFormed, Bool.and_eq_true] at hw; simp [hw]) rfl (by simp [Fields.hasLiteral])
theorem RoundTrip.scmpF32 h c a b lit : RoundTrip.Statement (.scmpF32 h c a b lit) :=
  RoundTrip.of_sel rfl (fun hw => by simp only [Instr.wellFormed, Bool.and_eq_true] at hw; simp [hw]) rfl (by simp [Fields.hasLiteral])
theorem RoundTrip.ssfnF32 h d f b lit : RoundTrip.Statement (.ssfnF32 h d f b lit) :=
  RoundTrip.of_sel rfl (fun hw => by simp only [Instr.wellFormed, Bool.and_eq_true] at hw; simp [hw]) rfl (by simp [Fields.hasLiteral])
theorem RoundTrip.saddBf16x2 h d a b lit : RoundTrip.Statement (.saddBf16x2 h d a b lit) :=
  RoundTrip.of_sel rfl (fun hw => by simp only [Instr.wellFormed, Bool.and_eq_true] at hw; simp [hw]) rfl (by simp [Fields.hasLiteral])
theorem RoundTrip.smulBf16x2 h d a b lit : RoundTrip.Statement (.smulBf16x2 h d a b lit) :=
  RoundTrip.of_sel rfl (fun hw => by simp only [Instr.wellFormed, Bool.and_eq_true] at hw; simp [hw]) rfl (by simp [Fields.hasLiteral])
theorem RoundTrip.sfmaBf16x2 h d a b lit : RoundTrip.Statement (.sfmaBf16x2 h d a b lit) :=
  RoundTrip.of_sel rfl (fun hw => by simp only [Instr.wellFormed, Bool.and_eq_true] at hw; simp [hw]) rfl (by simp [Fields.hasLiteral])
theorem RoundTrip.saddF16x2 h d a b lit : RoundTrip.Statement (.saddF16x2 h d a b lit) :=
  RoundTrip.of_sel rfl (fun hw => by simp only [Instr.wellFormed, Bool.and_eq_true] at hw; simp [hw]) rfl (by simp [Fields.hasLiteral])
theorem RoundTrip.smulF16x2 h d a b lit : RoundTrip.Statement (.smulF16x2 h d a b lit) :=
  RoundTrip.of_sel rfl (fun hw => by simp only [Instr.wellFormed, Bool.and_eq_true] at hw; simp [hw]) rfl (by simp [Fields.hasLiteral])
theorem RoundTrip.sfmaF16x2 h d a b lit : RoundTrip.Statement (.sfmaF16x2 h d a b lit) :=
  RoundTrip.of_sel rfl (fun hw => by simp only [Instr.wellFormed, Bool.and_eq_true] at hw; simp [hw]) rfl (by simp [Fields.hasLiteral])
theorem RoundTrip.scvt h d f b lit : RoundTrip.Statement (.scvt h d f b lit) :=
  RoundTrip.of_sel rfl (fun hw => by simp only [Instr.wellFormed, Bool.and_eq_true] at hw; simp [hw]) rfl (by simp [Fields.hasLiteral])
theorem RoundTrip.spermB32 h d a b lit : RoundTrip.Statement (.spermB32 h d a b lit) :=
  RoundTrip.of_sel rfl (fun hw => by simp only [Instr.wellFormed, Bool.and_eq_true] at hw; simp [hw]) rfl (by simp [Fields.hasLiteral])
theorem RoundTrip.svoteB32 h d : RoundTrip.Statement (.svoteB32 h d) := RoundTrip.of_fields rfl fun _ => ⟨rfl, by simp [Fields.hasLiteral]⟩
theorem RoundTrip.slaneB32 h d a b lit : RoundTrip.Statement (.slaneB32 h d a b lit) :=
  RoundTrip.of_sel rfl (fun hw => by simp only [Instr.wellFormed, Bool.and_eq_true] at hw; simp [hw]) rfl (by simp [Fields.hasLiteral])
theorem RoundTrip.ld h d a m : RoundTrip.Statement (.ld h d a m) := RoundTrip.of_fields rfl fun _ => ⟨rfl, by simp [Fields.hasLiteral]⟩
theorem RoundTrip.ldLit h d a m lit : RoundTrip.Statement (.ldLit h d a m lit) := RoundTrip.of_fields rfl fun _ => ⟨rfl, by simp [Fields.hasLiteral]⟩
theorem RoundTrip.st h d a z : RoundTrip.Statement (.st h d a z) :=
  RoundTrip.of_fields rfl fun _ => ⟨by simp [decodeFields, decodeMemory, ifUnused, zext3 z], by simp [Fields.hasLiteral]⟩
theorem RoundTrip.stLit h d a z lit : RoundTrip.Statement (.stLit h d a z lit) :=
  RoundTrip.of_fields rfl fun _ => ⟨by simp [decodeFields, decodeMemory, ifUnused, zext3 z], by simp [Fields.hasLiteral]⟩
theorem RoundTrip.ldl h d a m : RoundTrip.Statement (.ldl h d a m) := RoundTrip.of_fields rfl fun _ => ⟨rfl, by simp [Fields.hasLiteral]⟩
theorem RoundTrip.ldlLit h d a m lit : RoundTrip.Statement (.ldlLit h d a m lit) := RoundTrip.of_fields rfl fun _ => ⟨rfl, by simp [Fields.hasLiteral]⟩
theorem RoundTrip.stl h d a z : RoundTrip.Statement (.stl h d a z) :=
  RoundTrip.of_fields rfl fun _ => ⟨by simp [decodeFields, decodeMemory, ifUnused, zext3 z], by simp [Fields.hasLiteral]⟩
theorem RoundTrip.stlLit h d a z lit : RoundTrip.Statement (.stlLit h d a z lit) :=
  RoundTrip.of_fields rfl fun _ => ⟨by simp [decodeFields, decodeMemory, ifUnused, zext3 z], by simp [Fields.hasLiteral]⟩
theorem RoundTrip.pref h a l : RoundTrip.Statement (.pref h a l) :=
  RoundTrip.of_fields rfl fun _ => ⟨by simp [decodeFields, decodeMemory, ifUnused, zextBool l], by simp [Fields.hasLiteral]⟩
theorem RoundTrip.prefLit h a l lit : RoundTrip.Statement (.prefLit h a l lit) :=
  RoundTrip.of_fields rfl fun _ => ⟨by simp [decodeFields, decodeMemory, ifUnused, zextBool l], by simp [Fields.hasLiteral]⟩
theorem RoundTrip.red h d a f : RoundTrip.Statement (.red h d a f) := RoundTrip.of_fields rfl fun _ => ⟨rfl, by simp [Fields.hasLiteral]⟩
theorem RoundTrip.redLit h d a f lit : RoundTrip.Statement (.redLit h d a f lit) := RoundTrip.of_fields rfl fun _ => ⟨rfl, by simp [Fields.hasLiteral]⟩
theorem RoundTrip.redLs h d a f : RoundTrip.Statement (.redLs h d a f) := RoundTrip.of_fields rfl fun _ => ⟨rfl, by simp [Fields.hasLiteral]⟩
theorem RoundTrip.redLsLit h d a f lit : RoundTrip.Statement (.redLsLit h d a f lit) := RoundTrip.of_fields rfl fun _ => ⟨rfl, by simp [Fields.hasLiteral]⟩
theorem RoundTrip.redDet h d a b : RoundTrip.Statement (.redDet h d a b) := RoundTrip.of_fields rfl fun _ => ⟨rfl, by simp [Fields.hasLiteral]⟩
theorem RoundTrip.redDetLit h d a b lit : RoundTrip.Statement (.redDetLit h d a b lit) := RoundTrip.of_fields rfl fun _ => ⟨rfl, by simp [Fields.hasLiteral]⟩
theorem RoundTrip.fence h c : RoundTrip.Statement (.fence h c) :=
  RoundTrip.of_fields rfl fun _ => ⟨by simp [decodeFields, decodeMemory, ifUnused, zext3 c], by simp [Fields.hasLiteral]⟩
theorem RoundTrip.cadd h d a c : RoundTrip.Statement (.cadd h d a c) :=
  RoundTrip.of_fields rfl fun _ => ⟨by simp [decodeFields, decodeMemory, ifUnused, zext3 c], by simp [Fields.hasLiteral]⟩
theorem RoundTrip.caddLit h a c lit : RoundTrip.Statement (.caddLit h a c lit) :=
  RoundTrip.of_fields rfl fun _ => ⟨by simp [decodeFields, decodeMemory, ifUnused, zext3 c], by simp [Fields.hasLiteral]⟩
theorem RoundTrip.caddr h d a c : RoundTrip.Statement (.caddr h d a c) :=
  RoundTrip.of_fields rfl fun _ => ⟨by simp [decodeFields, decodeMemory, ifUnused, zext3 c], by simp [Fields.hasLiteral]⟩
theorem RoundTrip.caddrLit h d a c lit : RoundTrip.Statement (.caddrLit h d a c lit) :=
  RoundTrip.of_fields rfl fun _ => ⟨by simp [decodeFields, decodeMemory, ifUnused, zext3 c], by simp [Fields.hasLiteral]⟩
theorem RoundTrip.cread h d a c : RoundTrip.Statement (.cread h d a c) :=
  RoundTrip.of_fields rfl fun _ => ⟨by simp [decodeFields, decodeMemory, ifUnused, zext3 c], by simp [Fields.hasLiteral]⟩
theorem RoundTrip.cwt h d a c : RoundTrip.Statement (.cwt h d a c) :=
  RoundTrip.of_fields rfl fun _ => ⟨by simp [decodeFields, decodeMemory, ifUnused, zext3 c], by simp [Fields.hasLiteral]⟩
theorem RoundTrip.cwait h d a c : RoundTrip.Statement (.cwait h d a c) :=
  RoundTrip.of_fields rfl fun _ => ⟨by simp [decodeFields, decodeMemory, ifUnused, zext3 c], by simp [Fields.hasLiteral]⟩
theorem RoundTrip.copy h d a b : RoundTrip.Statement (.copy h d a b) := RoundTrip.of_fields rfl fun _ => ⟨rfl, by simp [Fields.hasLiteral]⟩
theorem RoundTrip.copyLit h d a lit : RoundTrip.Statement (.copyLit h d a lit) := RoundTrip.of_fields rfl fun _ => ⟨rfl, by simp [Fields.hasLiteral]⟩
theorem RoundTrip.copyx h d a b : RoundTrip.Statement (.copyx h d a b) := RoundTrip.of_fields rfl fun _ => ⟨rfl, by simp [Fields.hasLiteral]⟩
theorem RoundTrip.copyxLit h d a lit : RoundTrip.Statement (.copyxLit h d a lit) := RoundTrip.of_fields rfl fun _ => ⟨rfl, by simp [Fields.hasLiteral]⟩
theorem RoundTrip.tdecl h d a : RoundTrip.Statement (.tdecl h d a) := RoundTrip.of_fields rfl fun _ => ⟨rfl, by simp [Fields.hasLiteral]⟩
theorem RoundTrip.sweep h d a b : RoundTrip.Statement (.sweep h d a b) := RoundTrip.of_fields rfl fun _ => ⟨rfl, by simp [Fields.hasLiteral]⟩
theorem RoundTrip.sweepLit h d a lit : RoundTrip.Statement (.sweepLit h d a lit) := RoundTrip.of_fields rfl fun _ => ⟨rfl, by simp [Fields.hasLiteral]⟩
theorem RoundTrip.eyield h a : RoundTrip.Statement (.eyield h a) := RoundTrip.of_fields rfl fun _ => ⟨rfl, by simp [Fields.hasLiteral]⟩
theorem RoundTrip.ectxld h d a w k : RoundTrip.Statement (.ectxld h d a w k) :=
  RoundTrip.of_fields rfl fun _ => ⟨by simp [decodeFields, decodeMemory, ifUnused, pair33 w k], by simp [Fields.hasLiteral]⟩
theorem RoundTrip.ectxldLit h d a w k lit : RoundTrip.Statement (.ectxldLit h d a w k lit) :=
  RoundTrip.of_fields rfl fun _ => ⟨by simp [decodeFields, decodeMemory, ifUnused, pair33 w k], by simp [Fields.hasLiteral]⟩
theorem RoundTrip.ectxst h d a w k : RoundTrip.Statement (.ectxst h d a w k) :=
  RoundTrip.of_fields rfl fun _ => ⟨by simp [decodeFields, decodeMemory, ifUnused, pair33 w k], by simp [Fields.hasLiteral]⟩
theorem RoundTrip.ectxstLit h d a w k lit : RoundTrip.Statement (.ectxstLit h d a w k lit) :=
  RoundTrip.of_fields rfl fun _ => ⟨by simp [decodeFields, decodeMemory, ifUnused, pair33 w k], by simp [Fields.hasLiteral]⟩
theorem RoundTrip.tfree h a : RoundTrip.Statement (.tfree h a) := RoundTrip.of_fields rfl fun _ => ⟨rfl, by simp [Fields.hasLiteral]⟩
theorem RoundTrip.mma h d a q f : RoundTrip.Statement (.mma h d a q f) :=
  RoundTrip.of_fields rfl fun _ => ⟨by simp [decodeFields, decodeMemory, pair34 q f], by simp [Fields.hasLiteral]⟩
theorem RoundTrip.mld h d a t : RoundTrip.Statement (.mld h d a t) :=
  RoundTrip.of_fields rfl fun _ => ⟨by simp [decodeFields, decodeMemory, ifUnused, zext4 t], by simp [Fields.hasLiteral]⟩
theorem RoundTrip.mldLit h d a t lit : RoundTrip.Statement (.mldLit h d a t lit) :=
  RoundTrip.of_fields rfl fun _ => ⟨by simp [decodeFields, decodeMemory, ifUnused, zext4 t], by simp [Fields.hasLiteral]⟩
theorem RoundTrip.mst h d a b : RoundTrip.Statement (.mst h d a b) := RoundTrip.of_fields rfl fun _ => ⟨rfl, by simp [Fields.hasLiteral]⟩
theorem RoundTrip.mstLit h d a b lit : RoundTrip.Statement (.mstLit h d a b lit) := RoundTrip.of_fields rfl fun _ => ⟨rfl, by simp [Fields.hasLiteral]⟩
theorem RoundTrip.mzero h d t : RoundTrip.Statement (.mzero h d t) :=
  RoundTrip.of_fields rfl fun _ => ⟨by simp [decodeFields, decodeMemory, ifUnused, zext4 t], by simp [Fields.hasLiteral]⟩
theorem RoundTrip.trace h d a b : RoundTrip.Statement (.trace h d a b) := RoundTrip.of_fields rfl fun _ => ⟨rfl, by simp [Fields.hasLiteral]⟩
theorem RoundTrip.traceLit h d a lit : RoundTrip.Statement (.traceLit h d a lit) := RoundTrip.of_fields rfl fun _ => ⟨rfl, by simp [Fields.hasLiteral]⟩
theorem RoundTrip.beam h d a b : RoundTrip.Statement (.beam h d a b) := RoundTrip.of_fields rfl fun _ => ⟨rfl, by simp [Fields.hasLiteral]⟩
theorem RoundTrip.beamLit h d a lit : RoundTrip.Statement (.beamLit h d a lit) := RoundTrip.of_fields rfl fun _ => ⟨rfl, by simp [Fields.hasLiteral]⟩
theorem RoundTrip.hitget h d a p : RoundTrip.Statement (.hitget h d a p) :=
  RoundTrip.of_fields rfl fun _ => ⟨by simp [decodeFields, decodeMemory, ifUnused, zext2 p], by simp [Fields.hasLiteral]⟩
theorem RoundTrip.tex h d a b : RoundTrip.Statement (.tex h d a b) := RoundTrip.of_fields rfl fun _ => ⟨rfl, by simp [Fields.hasLiteral]⟩
theorem RoundTrip.put h d a b : RoundTrip.Statement (.put h d a b) := RoundTrip.of_fields rfl fun _ => ⟨rfl, by simp [Fields.hasLiteral]⟩
theorem RoundTrip.putLit h d a lit : RoundTrip.Statement (.putLit h d a lit) := RoundTrip.of_fields rfl fun _ => ⟨rfl, by simp [Fields.hasLiteral]⟩
theorem RoundTrip.get h d a b : RoundTrip.Statement (.get h d a b) := RoundTrip.of_fields rfl fun _ => ⟨rfl, by simp [Fields.hasLiteral]⟩
theorem RoundTrip.getLit h d a lit : RoundTrip.Statement (.getLit h d a lit) := RoundTrip.of_fields rfl fun _ => ⟨rfl, by simp [Fields.hasLiteral]⟩
theorem RoundTrip.send h d a b : RoundTrip.Statement (.send h d a b) := RoundTrip.of_fields rfl fun _ => ⟨rfl, by simp [Fields.hasLiteral]⟩
theorem RoundTrip.sendLit h d a lit : RoundTrip.Statement (.sendLit h d a lit) := RoundTrip.of_fields rfl fun _ => ⟨rfl, by simp [Fields.hasLiteral]⟩
theorem RoundTrip.rwsend h d a t b : RoundTrip.Statement (.rwsend h d a t b) :=
  RoundTrip.of_fields rfl fun _ => ⟨by simp [decodeFields, decodeMemory, pair61 a t], by simp [Fields.hasLiteral]⟩
theorem RoundTrip.rwsendLit h d a t lit : RoundTrip.Statement (.rwsendLit h d a t lit) :=
  RoundTrip.of_fields rfl fun _ => ⟨by simp [decodeFields, decodeMemory, ifUnused, pair61 a t], by simp [Fields.hasLiteral]⟩
theorem RoundTrip.post h d a : RoundTrip.Statement (.post h d a) := RoundTrip.of_fields rfl fun _ => ⟨rfl, by simp [Fields.hasLiteral]⟩
theorem RoundTrip.cgraph h d a b : RoundTrip.Statement (.cgraph h d a b) := RoundTrip.of_fields rfl fun _ => ⟨rfl, by simp [Fields.hasLiteral]⟩
theorem RoundTrip.cgraphLit h d a lit : RoundTrip.Statement (.cgraphLit h d a lit) := RoundTrip.of_fields rfl fun _ => ⟨rfl, by simp [Fields.hasLiteral]⟩
theorem RoundTrip.coll h d a b : RoundTrip.Statement (.coll h d a b) := RoundTrip.of_fields rfl fun _ => ⟨rfl, by simp [Fields.hasLiteral]⟩
theorem RoundTrip.collLit h d a lit : RoundTrip.Statement (.collLit h d a lit) := RoundTrip.of_fields rfl fun _ => ⟨rfl, by simp [Fields.hasLiteral]⟩
theorem RoundTrip.comp h d a b : RoundTrip.Statement (.comp h d a b) := RoundTrip.of_fields rfl fun _ => ⟨rfl, by simp [Fields.hasLiteral]⟩
theorem RoundTrip.compLit h d a lit : RoundTrip.Statement (.compLit h d a lit) := RoundTrip.of_fields rfl fun _ => ⟨rfl, by simp [Fields.hasLiteral]⟩
theorem RoundTrip.br h o : RoundTrip.Statement (.br h o) :=
  RoundTrip.of_fields rfl fun _ => ⟨by show Except.ok (Instr.br h _) = _; rw [split21 o], by simp [Fields.hasLiteral]⟩
theorem RoundTrip.brn h o : RoundTrip.Statement (.brn h o) :=
  RoundTrip.of_fields rfl fun _ => ⟨by show Except.ok (Instr.brn h _) = _; rw [split21 o], by simp [Fields.hasLiteral]⟩
theorem RoundTrip.call h o : RoundTrip.Statement (.call h o) :=
  RoundTrip.of_fields rfl fun _ => ⟨by show Except.ok (Instr.call h _) = _; rw [split21 o], by simp [Fields.hasLiteral]⟩
theorem RoundTrip.jr h a : RoundTrip.Statement (.jr h a) := RoundTrip.of_fields rfl fun _ => ⟨rfl, by simp [Fields.hasLiteral]⟩
theorem RoundTrip.spawn h d a b lit : RoundTrip.Statement (.spawn h d a b lit) :=
  RoundTrip.of_sel rfl (fun hw => by simp only [Instr.wellFormed, Bool.and_eq_true] at hw; simp [hw]) rfl (by simp [Fields.hasLiteral])
theorem RoundTrip.exit h : RoundTrip.Statement (.exit h) := RoundTrip.of_fields rfl fun _ => ⟨rfl, by simp [Fields.hasLiteral]⟩
theorem RoundTrip.join h a : RoundTrip.Statement (.join h a) := RoundTrip.of_fields rfl fun _ => ⟨rfl, by simp [Fields.hasLiteral]⟩
theorem RoundTrip.joink h a : RoundTrip.Statement (.joink h a) := RoundTrip.of_fields rfl fun _ => ⟨rfl, by simp [Fields.hasLiteral]⟩
theorem RoundTrip.leave h : RoundTrip.Statement (.leave h) := RoundTrip.of_fields rfl fun _ => ⟨rfl, by simp [Fields.hasLiteral]⟩
theorem RoundTrip.winb h c b lit : RoundTrip.Statement (.winb h c b lit) :=
  RoundTrip.of_sel rfl (fun hw => by simp only [Instr.wellFormed, Bool.and_eq_true] at hw; simp [hw]) rfl (by simp [Fields.hasLiteral])
theorem RoundTrip.yield h : RoundTrip.Statement (.yield h) := RoundTrip.of_fields rfl fun _ => ⟨rfl, by simp [Fields.hasLiteral]⟩
theorem RoundTrip.brk h : RoundTrip.Statement (.brk h) := RoundTrip.of_fields rfl fun _ => ⟨rfl, by simp [Fields.hasLiteral]⟩
theorem RoundTrip.cvacc h : RoundTrip.Statement (.cvacc h) := RoundTrip.of_fields rfl fun _ => ⟨rfl, by simp [Fields.hasLiteral]⟩
theorem RoundTrip.cvrej h : RoundTrip.Statement (.cvrej h) := RoundTrip.of_fields rfl fun _ => ⟨rfl, by simp [Fields.hasLiteral]⟩
theorem RoundTrip.nop h : RoundTrip.Statement (.nop h) := RoundTrip.of_fields rfl fun _ => ⟨rfl, by simp [Fields.hasLiteral]⟩
theorem RoundTrip.statrd h d : RoundTrip.Statement (.statrd h d) := RoundTrip.of_fields rfl fun _ => ⟨rfl, by simp [Fields.hasLiteral]⟩
theorem RoundTrip.statclr h b lit : RoundTrip.Statement (.statclr h b lit) :=
  RoundTrip.of_sel rfl (fun hw => by simp only [Instr.wellFormed, Bool.and_eq_true] at hw; simp [hw]) rfl (by simp [Fields.hasLiteral])
theorem RoundTrip.csrr h d b lit : RoundTrip.Statement (.csrr h d b lit) :=
  RoundTrip.of_sel rfl (fun hw => by simp only [Instr.wellFormed, Bool.and_eq_true] at hw; simp [hw]) rfl (by simp [Fields.hasLiteral])
theorem RoundTrip.haltw h : RoundTrip.Statement (.haltw h) := RoundTrip.of_fields rfl fun _ => ⟨rfl, by simp [Fields.hasLiteral]⟩
theorem RoundTrip.segset h k a : RoundTrip.Statement (.segset h k a) := RoundTrip.of_fields rfl fun _ => ⟨rfl, by simp [Fields.hasLiteral]⟩
theorem RoundTrip.csrw h a b lit : RoundTrip.Statement (.csrw h a b lit) :=
  RoundTrip.of_sel rfl (fun hw => by simp only [Instr.wellFormed, Bool.and_eq_true] at hw; simp [hw]) rfl (by simp [Fields.hasLiteral])
theorem RoundTrip.carve h d b lit : RoundTrip.Statement (.carve h d b lit) :=
  RoundTrip.of_sel rfl (fun hw => by simp only [Instr.wellFormed, Bool.and_eq_true] at hw; simp [hw]) rfl (by simp [Fields.hasLiteral])
theorem RoundTrip.cinit h d a : RoundTrip.Statement (.cinit h d a) := RoundTrip.of_fields rfl fun _ => ⟨rfl, by simp [Fields.hasLiteral]⟩
theorem RoundTrip.ctxsave h d a b lit : RoundTrip.Statement (.ctxsave h d a b lit) :=
  RoundTrip.of_sel rfl (fun hw => by simp only [Instr.wellFormed, Bool.and_eq_true] at hw; simp [hw]) rfl (by simp [Fields.hasLiteral])
theorem RoundTrip.ctxload h d a b lit : RoundTrip.Statement (.ctxload h d a b lit) :=
  RoundTrip.of_sel rfl (fun hw => by simp only [Instr.wellFormed, Bool.and_eq_true] at hw; simp [hw]) rfl (by simp [Fields.hasLiteral])
theorem RoundTrip.revoke h d a b lit : RoundTrip.Statement (.revoke h d a b lit) :=
  RoundTrip.of_sel rfl (fun hw => by simp only [Instr.wellFormed, Bool.and_eq_true] at hw; simp [hw]) rfl (by simp [Fields.hasLiteral])
theorem RoundTrip.step h d a b lit : RoundTrip.Statement (.step h d a b lit) :=
  RoundTrip.of_sel rfl (fun hw => by simp only [Instr.wellFormed, Bool.and_eq_true] at hw; simp [hw]) rfl (by simp [Fields.hasLiteral])
theorem RoundTrip.resultWriteback x0 : RoundTrip.Statement (.resultWriteback x0) := RoundTrip.of_none rfl
theorem RoundTrip.prioAge x0 : RoundTrip.Statement (.prioAge x0) := RoundTrip.of_none rfl
theorem RoundTrip.binTimerExpiry x0 : RoundTrip.Statement (.binTimerExpiry x0) := RoundTrip.of_none rfl
theorem RoundTrip.binLaunch x0 : RoundTrip.Statement (.binLaunch x0) := RoundTrip.of_none rfl
theorem RoundTrip.spawnDeferredPlacement x0 : RoundTrip.Statement (.spawnDeferredPlacement x0) := RoundTrip.of_none rfl
theorem RoundTrip.flockAdmit x0 : RoundTrip.Statement (.flockAdmit x0) := RoundTrip.of_none rfl
theorem RoundTrip.rotationPoint x0 : RoundTrip.Statement (.rotationPoint x0) := RoundTrip.of_none rfl
theorem RoundTrip.sweepDeferredEviction x0 : RoundTrip.Statement (.sweepDeferredEviction x0) := RoundTrip.of_none rfl
theorem RoundTrip.launchQueueEnable x0 x1 x2 x3 : RoundTrip.Statement (.launchQueueEnable x0 x1 x2 x3) := RoundTrip.of_none rfl
theorem RoundTrip.launchQueueDisable x0 x1 x2 x3 : RoundTrip.Statement (.launchQueueDisable x0 x1 x2 x3) := RoundTrip.of_none rfl
theorem RoundTrip.launchRecordTake x0 x1 : RoundTrip.Statement (.launchRecordTake x0 x1) := RoundTrip.of_none rfl
theorem RoundTrip.launchRecordPlace x0 x1 : RoundTrip.Statement (.launchRecordPlace x0 x1) := RoundTrip.of_none rfl
theorem RoundTrip.counterAdd x0 : RoundTrip.Statement (.counterAdd x0) := RoundTrip.of_none rfl
theorem RoundTrip.counterAddReturn x0 : RoundTrip.Statement (.counterAddReturn x0) := RoundTrip.of_none rfl
theorem RoundTrip.counterRead x0 : RoundTrip.Statement (.counterRead x0) := RoundTrip.of_none rfl
theorem RoundTrip.counterRegisterWait x0 : RoundTrip.Statement (.counterRegisterWait x0) := RoundTrip.of_none rfl
theorem RoundTrip.counterWithdrawWait x0 : RoundTrip.Statement (.counterWithdrawWait x0) := RoundTrip.of_none rfl
theorem RoundTrip.counterSet x0 : RoundTrip.Statement (.counterSet x0) := RoundTrip.of_none rfl
theorem RoundTrip.counterWake x0 : RoundTrip.Statement (.counterWake x0) := RoundTrip.of_none rfl
theorem RoundTrip.counterResponse x0 : RoundTrip.Statement (.counterResponse x0) := RoundTrip.of_none rfl
theorem RoundTrip.cwaitDeadline x0 : RoundTrip.Statement (.cwaitDeadline x0) := RoundTrip.of_none rfl
theorem RoundTrip.apertureAdd x0 x1 x2 : RoundTrip.Statement (.apertureAdd x0 x1 x2) := RoundTrip.of_none rfl
theorem RoundTrip.apertureFadd x0 x1 x2 : RoundTrip.Statement (.apertureFadd x0 x1 x2) := RoundTrip.of_none rfl
theorem RoundTrip.apertureValueRead x0 x1 : RoundTrip.Statement (.apertureValueRead x0 x1) := RoundTrip.of_none rfl
theorem RoundTrip.apertureArm x0 x1 x2 : RoundTrip.Statement (.apertureArm x0 x1 x2) := RoundTrip.of_none rfl
theorem RoundTrip.apertureFired x0 : RoundTrip.Statement (.apertureFired x0) := RoundTrip.of_none rfl
theorem RoundTrip.writeApply x0 : RoundTrip.Statement (.writeApply x0) := RoundTrip.of_none rfl
theorem RoundTrip.readRequest x0 : RoundTrip.Statement (.readRequest x0) := RoundTrip.of_none rfl
theorem RoundTrip.readResponse x0 : RoundTrip.Statement (.readResponse x0) := RoundTrip.of_none rfl
theorem RoundTrip.reductionApply x0 : RoundTrip.Statement (.reductionApply x0) := RoundTrip.of_none rfl
theorem RoundTrip.redDetContribution x0 : RoundTrip.Statement (.redDetContribution x0) := RoundTrip.of_none rfl
theorem RoundTrip.acknowledgement x0 : RoundTrip.Statement (.acknowledgement x0) := RoundTrip.of_none rfl
theorem RoundTrip.wcDrain x0 : RoundTrip.Statement (.wcDrain x0) := RoundTrip.of_none rfl
theorem RoundTrip.tlbiGo x0 x1 x2 : RoundTrip.Statement (.tlbiGo x0 x1 x2) := RoundTrip.of_none rfl
theorem RoundTrip.tlbiComplete x0 : RoundTrip.Statement (.tlbiComplete x0) := RoundTrip.of_none rfl
theorem RoundTrip.atsTranslationCompletion x0 x1 x2 x3 x4 x5 : RoundTrip.Statement (.atsTranslationCompletion x0 x1 x2 x3 x4 x5) := RoundTrip.of_none rfl
theorem RoundTrip.atsInvalidationRequest x0 x1 x2 x3 : RoundTrip.Statement (.atsInvalidationRequest x0 x1 x2 x3) := RoundTrip.of_none rfl
theorem RoundTrip.invalidationCompletion x0 x1 : RoundTrip.Statement (.invalidationCompletion x0 x1) := RoundTrip.of_none rfl
theorem RoundTrip.pageRequestResponse x0 x1 x2 : RoundTrip.Statement (.pageRequestResponse x0 x1 x2) := RoundTrip.of_none rfl
theorem RoundTrip.pageRequestTimeout x0 x1 : RoundTrip.Statement (.pageRequestTimeout x0 x1) := RoundTrip.of_none rfl
theorem RoundTrip.carveGrowComplete x0 : RoundTrip.Statement (.carveGrowComplete x0) := RoundTrip.of_none rfl
theorem RoundTrip.fenceComplete x0 : RoundTrip.Statement (.fenceComplete x0) := RoundTrip.of_none rfl
theorem RoundTrip.sweepStart x0 : RoundTrip.Statement (.sweepStart x0) := RoundTrip.of_none rfl
theorem RoundTrip.sweepGroupWriteback x0 : RoundTrip.Statement (.sweepGroupWriteback x0) := RoundTrip.of_none rfl
theorem RoundTrip.elementWake x0 : RoundTrip.Statement (.elementWake x0) := RoundTrip.of_none rfl
theorem RoundTrip.tfreeComplete x0 : RoundTrip.Statement (.tfreeComplete x0) := RoundTrip.of_none rfl
theorem RoundTrip.copyComplete x0 : RoundTrip.Statement (.copyComplete x0) := RoundTrip.of_none rfl
theorem RoundTrip.mmaComplete x0 : RoundTrip.Statement (.mmaComplete x0) := RoundTrip.of_none rfl
theorem RoundTrip.mstChunkAdd x0 : RoundTrip.Statement (.mstChunkAdd x0) := RoundTrip.of_none rfl
theorem RoundTrip.rayComplete x0 : RoundTrip.Statement (.rayComplete x0) := RoundTrip.of_none rfl
theorem RoundTrip.beamStart x0 : RoundTrip.Statement (.beamStart x0) := RoundTrip.of_none rfl
theorem RoundTrip.coverageResolve x0 : RoundTrip.Statement (.coverageResolve x0) := RoundTrip.of_none rfl
theorem RoundTrip.putArrival x0 : RoundTrip.Statement (.putArrival x0) := RoundTrip.of_none rfl
theorem RoundTrip.getArrival x0 : RoundTrip.Statement (.getArrival x0) := RoundTrip.of_none rfl
theorem RoundTrip.sendArrival x0 : RoundTrip.Statement (.sendArrival x0) := RoundTrip.of_none rfl
theorem RoundTrip.nackReceive x0 : RoundTrip.Statement (.nackReceive x0) := RoundTrip.of_none rfl
theorem RoundTrip.networkOpComplete x0 : RoundTrip.Statement (.networkOpComplete x0) := RoundTrip.of_none rfl
theorem RoundTrip.rwsendChannelAssign x0 x1 : RoundTrip.Statement (.rwsendChannelAssign x0 x1) := RoundTrip.of_none rfl
theorem RoundTrip.remoteWorkRecordReceive x0 : RoundTrip.Statement (.remoteWorkRecordReceive x0) := RoundTrip.of_none rfl
theorem RoundTrip.arrivalAddition x0 : RoundTrip.Statement (.arrivalAddition x0) := RoundTrip.of_none rfl
theorem RoundTrip.revokeComplete x0 x1 : RoundTrip.Statement (.revokeComplete x0 x1) := RoundTrip.of_none rfl
theorem RoundTrip.armedRequestFire x0 : RoundTrip.Statement (.armedRequestFire x0) := RoundTrip.of_none rfl
theorem RoundTrip.cgraphBind x0 : RoundTrip.Statement (.cgraphBind x0) := RoundTrip.of_none rfl
theorem RoundTrip.replayStart x0 : RoundTrip.Statement (.replayStart x0) := RoundTrip.of_none rfl
theorem RoundTrip.notBeforeExpiry x0 x1 : RoundTrip.Statement (.notBeforeExpiry x0 x1) := RoundTrip.of_none rfl
theorem RoundTrip.graphNodeStart x0 x1 : RoundTrip.Statement (.graphNodeStart x0 x1) := RoundTrip.of_none rfl
theorem RoundTrip.collectiveChunkReceive x0 : RoundTrip.Statement (.collectiveChunkReceive x0) := RoundTrip.of_none rfl
theorem RoundTrip.graphNodeComplete x0 x1 : RoundTrip.Statement (.graphNodeComplete x0 x1) := RoundTrip.of_none rfl
theorem RoundTrip.compComplete x0 : RoundTrip.Statement (.compComplete x0) := RoundTrip.of_none rfl
theorem RoundTrip.inswDiscovery x0 x1 x2 : RoundTrip.Statement (.inswDiscovery x0 x1 x2) := RoundTrip.of_none rfl
theorem RoundTrip.inswRefusal x0 x1 : RoundTrip.Statement (.inswRefusal x0 x1) := RoundTrip.of_none rfl
theorem RoundTrip.linkSwingDirWrite x0 x1 x2 x3 : RoundTrip.Statement (.linkSwingDirWrite x0 x1 x2 x3) := RoundTrip.of_none rfl
theorem RoundTrip.swingTurnComplete x0 x1 x2 : RoundTrip.Statement (.swingTurnComplete x0 x1 x2) := RoundTrip.of_none rfl
theorem RoundTrip.flitReceive x0 x1 x2 : RoundTrip.Statement (.flitReceive x0 x1 x2) := RoundTrip.of_none rfl
theorem RoundTrip.retryRequest x0 x1 x2 : RoundTrip.Statement (.retryRequest x0 x1 x2) := RoundTrip.of_none rfl
theorem RoundTrip.laneDiagnosis x0 x1 x2 x3 x4 : RoundTrip.Statement (.laneDiagnosis x0 x1 x2 x3 x4) := RoundTrip.of_none rfl
theorem RoundTrip.managementPacket x0 : RoundTrip.Statement (.managementPacket x0) := RoundTrip.of_none rfl
theorem RoundTrip.ptpMessage x0 x1 x2 : RoundTrip.Statement (.ptpMessage x0 x1 x2) := RoundTrip.of_none rfl
theorem RoundTrip.ptpLockLost x0 x1 : RoundTrip.Statement (.ptpLockLost x0 x1) := RoundTrip.of_none rfl
theorem RoundTrip.peerLost x0 x1 x2 : RoundTrip.Statement (.peerLost x0 x1 x2) := RoundTrip.of_none rfl
theorem RoundTrip.portPeerClrGo x0 x1 x2 : RoundTrip.Statement (.portPeerClrGo x0 x1 x2) := RoundTrip.of_none rfl
theorem RoundTrip.haltCmdHalt x0 x1 x2 : RoundTrip.Statement (.haltCmdHalt x0 x1 x2) := RoundTrip.of_none rfl
theorem RoundTrip.haltCmdThawArm x0 x1 x2 : RoundTrip.Statement (.haltCmdThawArm x0 x1 x2) := RoundTrip.of_none rfl
theorem RoundTrip.haltCmdGo x0 x1 x2 : RoundTrip.Statement (.haltCmdGo x0 x1 x2) := RoundTrip.of_none rfl
theorem RoundTrip.haltCmdStep x0 x1 x2 x3 x4 x5 x6 : RoundTrip.Statement (.haltCmdStep x0 x1 x2 x3 x4 x5 x6) := RoundTrip.of_none rfl
theorem RoundTrip.haltTokenHalt x0 : RoundTrip.Statement (.haltTokenHalt x0) := RoundTrip.of_none rfl
theorem RoundTrip.haltTokenThawArm x0 : RoundTrip.Statement (.haltTokenThawArm x0) := RoundTrip.of_none rfl
theorem RoundTrip.haltTokenGo x0 : RoundTrip.Statement (.haltTokenGo x0) := RoundTrip.of_none rfl
theorem RoundTrip.haltDrained x0 x1 : RoundTrip.Statement (.haltDrained x0 x1) := RoundTrip.of_none rfl
theorem RoundTrip.haltDrainTimeout x0 x1 : RoundTrip.Statement (.haltDrainTimeout x0 x1) := RoundTrip.of_none rfl
theorem RoundTrip.haltGoAtT x0 x1 : RoundTrip.Statement (.haltGoAtT x0 x1) := RoundTrip.of_none rfl
theorem RoundTrip.stepComplete x0 x1 : RoundTrip.Statement (.stepComplete x0 x1) := RoundTrip.of_none rfl
theorem RoundTrip.warmReset x0 x1 x2 : RoundTrip.Statement (.warmReset x0 x1 x2) := RoundTrip.of_none rfl
theorem RoundTrip.coldReset x0 x1 x2 x3 : RoundTrip.Statement (.coldReset x0 x1 x2 x3) := RoundTrip.of_none rfl
theorem RoundTrip.powerUp x0 : RoundTrip.Statement (.powerUp x0) := RoundTrip.of_none rfl
theorem RoundTrip.powerOff : RoundTrip.Statement (.powerOff) := RoundTrip.of_none rfl
theorem RoundTrip.imageLoadGo x0 x1 x2 : RoundTrip.Statement (.imageLoadGo x0 x1 x2) := RoundTrip.of_none rfl
theorem RoundTrip.imageCheckComplete : RoundTrip.Statement (.imageCheckComplete) := RoundTrip.of_none rfl
theorem RoundTrip.getVersion x0 : RoundTrip.Statement (.getVersion x0) := RoundTrip.of_none rfl
theorem RoundTrip.getCapabilities x0 : RoundTrip.Statement (.getCapabilities x0) := RoundTrip.of_none rfl
theorem RoundTrip.negotiateAlgorithms x0 : RoundTrip.Statement (.negotiateAlgorithms x0) := RoundTrip.of_none rfl
theorem RoundTrip.getDigests x0 : RoundTrip.Statement (.getDigests x0) := RoundTrip.of_none rfl
theorem RoundTrip.getCertificate x0 : RoundTrip.Statement (.getCertificate x0) := RoundTrip.of_none rfl
theorem RoundTrip.challenge x0 x1 : RoundTrip.Statement (.challenge x0 x1) := RoundTrip.of_none rfl
theorem RoundTrip.getMeasurements x0 : RoundTrip.Statement (.getMeasurements x0) := RoundTrip.of_none rfl
theorem RoundTrip.modIdWrite x0 x1 x2 : RoundTrip.Statement (.modIdWrite x0 x1 x2) := RoundTrip.of_none rfl
theorem RoundTrip.jobKillGo x0 x1 x2 : RoundTrip.Statement (.jobKillGo x0 x1 x2) := RoundTrip.of_none rfl
theorem RoundTrip.jobKillComplete x0 : RoundTrip.Statement (.jobKillComplete x0) := RoundTrip.of_none rfl
theorem RoundTrip.unitOffGo x0 x1 x2 : RoundTrip.Statement (.unitOffGo x0 x1 x2) := RoundTrip.of_none rfl
theorem RoundTrip.eccScrub x0 : RoundTrip.Statement (.eccScrub x0) := RoundTrip.of_none rfl
theorem RoundTrip.hostBar4Read x0 x1 x2 : RoundTrip.Statement (.hostBar4Read x0 x1 x2) := RoundTrip.of_none rfl
theorem RoundTrip.hostBar4Write x0 x1 x2 x3 : RoundTrip.Statement (.hostBar4Write x0 x1 x2 x3) := RoundTrip.of_none rfl
theorem RoundTrip.hostCompletionTimeout x0 x1 x2 : RoundTrip.Statement (.hostCompletionTimeout x0 x1 x2) := RoundTrip.of_none rfl
theorem RoundTrip.hostPortLinkDown x0 : RoundTrip.Statement (.hostPortLinkDown x0) := RoundTrip.of_none rfl
theorem RoundTrip.portCeStatusRead x0 x1 : RoundTrip.Statement (.portCeStatusRead x0 x1) := RoundTrip.of_none rfl
theorem RoundTrip.dieFltLostRead x0 x1 : RoundTrip.Statement (.dieFltLostRead x0 x1) := RoundTrip.of_none rfl
theorem RoundTrip.dieEccRead x0 x1 : RoundTrip.Statement (.dieEccRead x0 x1) := RoundTrip.of_none rfl
theorem RoundTrip.dieLinkErrRead x0 x1 x2 : RoundTrip.Statement (.dieLinkErrRead x0 x1 x2) := RoundTrip.of_none rfl
theorem RoundTrip.portNackRxRead x0 x1 : RoundTrip.Statement (.portNackRxRead x0 x1) := RoundTrip.of_none rfl
theorem RoundTrip.portCeFallbkRead x0 x1 : RoundTrip.Statement (.portCeFallbkRead x0 x1) := RoundTrip.of_none rfl
theorem RoundTrip.portInswRefusedRead x0 x1 : RoundTrip.Statement (.portInswRefusedRead x0 x1) := RoundTrip.of_none rfl
theorem RoundTrip.dieHaltStateRead x0 x1 x2 : RoundTrip.Statement (.dieHaltStateRead x0 x1 x2) := RoundTrip.of_none rfl
theorem RoundTrip.registerWrite x0 x1 x2 x3 : RoundTrip.Statement (.registerWrite x0 x1 x2 x3) := RoundTrip.of_none rfl
theorem RoundTrip.unassignedOpcode x0 : RoundTrip.Statement (.unassignedOpcode x0) := RoundTrip.of_none rfl
theorem RoundTrip.instructionFetchFault : RoundTrip.Statement (.instructionFetchFault) := RoundTrip.of_none rfl
theorem RoundTrip.softError x0 x1 : RoundTrip.Statement (.softError x0 x1) := RoundTrip.of_none rfl
theorem RoundTrip.msiXUnmask x0 x1 : RoundTrip.Statement (.msiXUnmask x0 x1) := RoundTrip.of_none rfl
theorem RoundTrip.transportRetransmission x0 : RoundTrip.Statement (.transportRetransmission x0) := RoundTrip.of_none rfl
theorem RoundTrip.hostReservedOffsetAccess x0 x1 x2 : RoundTrip.Statement (.hostReservedOffsetAccess x0 x1 x2) := RoundTrip.of_none rfl

end Sys2Proof.Laws
end

