-- ==== Sys2Proof/Tests/Slice0.lean ====
section
/-! SUPPORT. Tests: the checks of WellFormed refuse an ill-formed term each; words written out from the manual's encodings decode to their
instructions; worked examples of the manual; and, for every statement with hypotheses, witnesses: theorems that apply each of its clauses to one
concrete state, so that its hypotheses are met together there. -/

set_option Elab.async false

namespace Sys2Proof.Tests

open Sys2Proof.Machine Sys2Proof.Safety Sys2Proof.Claims

/-- No switch bit, no guard. -/
def h0 : Hdr := ⟨false, false⟩

/-! ## Small states -/

/-- Registers from (number, value, tag). -/
def regsOf (l : List (Nat × Nat × Nat)) : List (Nat × Reg) :=
  mapSetAll rawZero [] (l.map fun p => (p.1, ⟨BitVec.ofNat 32 p.2.1, BitVec.ofNat 4 p.2.2⟩))

/-- Eight tiles, tagged F32. -/
def eightTiles : List Tile := List.replicate 8 ⟨3#4, [], 0⟩

/-- A thread in lane 3 and slot 2 of core 0, with wide segments. -/
def oneThread (job : Nat) (regs : List (Nat × Nat × Nat)) : Thread :=
  { Thread.blank with
    uid := 1, core := 0, flock := 0, lane := 3, slot := 2, job := job, alloc := 160, pc := 0x1000#57, g := true, segG := ⟨0, 2 ^ 45⟩, segL := ⟨0, 65536⟩
    segC := ⟨0, 2 ^ 37⟩, regs := regsOf regs }

/-- Its flock. -/
def oneFlock (job : Nat) : Flock := { Flock.blank with core := 0, idx := 0, job := job, resident := true, prio := 1, tiles := eightTiles }

/-- One thread of a job, in its flock, with these registers, and 64-bit words in local store at these offsets. -/
def demo (job : Nat) (regs : List (Nat × Nat × Nat)) (words : List (Nat × Nat)) : State :=
  words.foldl (fun s p => lsWrite s 0 p.1 (natLe 8 p.2))
    { State.reset with power := .run, threads := [oneThread job regs], flocks := [oneFlock job], fresh := 100 }

/-- Its issue of a word. -/
def issueOf (s : State) (f : Fields) : Issue := (mkIssue s f).getD ⟨0, 0, 0, [], [], 0#57, 0#32, 0, false⟩

/-- A word can start in thread `u` alone, at the level it needs, and its checks pass there. -/
def basics (s : State) (f : Fields) (last priv : Bool) (names : Thread → Names) (u : Nat) : Bool :=
  let i := issueOf s f
  mkIssue s f == some i && i.act == [u] && !tooMany s i && !(last && pending s i) && (!priv || i.job == supJob) &&
    (threadOf (found s i) u).uid == u && [false, true].all fun g => let n := names (threadOf (found s i) u)
      (checkThread (found s i) (threadOf (found s i) u) f.g { n with gr := n.gr || g }).isNone

theorem basics_starts {s : State} {f : Fields} {last priv : Bool} {names : Thread → Names} {u : Nat} (h : basics s f last priv names u = true) :
    Starts s f last (issueOf s f) ∧ (issueOf s f).act = [u] ∧ (priv = true → (issueOf s f).job = supJob) ∧
      (threadOf (found s (issueOf s f)) u).uid = u ∧ ∀ sel, Passes f.g (readsOf sel names) (found s (issueOf s f)) u := by
  simp only [basics, Bool.and_eq_true, beq_iff_eq, Bool.not_eq_true', Bool.and_eq_false_iff, Bool.or_eq_true, Option.isNone_iff_eq_none, List.all_cons,
    List.all_nil, Bool.or_false, Bool.or_true, and_true] at h
  obtain ⟨⟨⟨⟨⟨⟨h1, h2⟩, h3⟩, h4⟩, h5⟩, h6⟩, h7, h8⟩ := h
  refine ⟨⟨h1, h3, fun hl => ?_⟩, h2, fun hp => ?_, h6, fun sel => ?_⟩
  · rcases h4 with h | h
    · rw [hl] at h; cases h
    · exact h
  · rcases h5 with h | h
    · rw [hp] at h; cases h
    · exact h
  · unfold Passes readsOf
    split
    · exact h8
    · exact h7

/-- The instruction answers a next state there. -/
def Completes (i : Instr) (s : State) : Prop := ∃ t, exec i s = .next t

/-- A clause about words that act in each thread, applied to one state: every hypothesis is met there. -/
theorem useTurns {pre : State → Issue → Prop} {instr : Instr} {f : Fields} {last priv : Bool} {names : State → Thread → Names}
    {sel : Option (BitVec 7)} {ok : State → Issue → Thread → Prop} {turn : State → Issue → Thread → State} {eff : State → Issue → Thread → Eff}
    {frame : State → State → Prop} (c : DoneTurnsIf pre instr f last priv names sel ok turn eff frame) (s : State)
    (hb : basics s f last priv (names s) 1 = true) (hp : pre s (issueOf s f))
    (ho : ok (found s (issueOf s f)) (issueOf s f) (threadOf (found s (issueOf s f)) 1)) :
    Completes instr s := by
  obtain ⟨h1, h2, h3, h4, h5⟩ := basics_starts hb
  obtain ⟨t, h, -, -⟩ := c s (issueOf s f) h1 h3 hp (by rw [h2]; exact ⟨⟨h4, h5 _, ho⟩, trivial⟩)
  exact ⟨t, h⟩

/-- A clause about words that act once for their group, applied to one state. -/
theorem useGroup {pre : State → Issue → Prop} {instr : Instr} {f : Fields} {last priv : Bool} {names : Thread → Names}
    {sel : Option (BitVec 7)} {ok : State → Issue → Thread → Prop} {turn : State → Issue → Thread → State} {eff : State → Issue → Thread → Eff}
    {frame : State → State → Prop} (c : DoneGroupIf pre instr f last priv names sel ok turn eff frame) (s : State)
    (hb : basics s f last priv names 1 = true) (hp : pre s (issueOf s f))
    (ho : ok (found s (issueOf s f)) (issueOf s f) (threadOf (found s (issueOf s f)) 1)) :
    Completes instr s := by
  obtain ⟨h1, h2, h3, h4, h5⟩ := basics_starts hb
  obtain ⟨t, h, -, -⟩ := c s (issueOf s f) 1 [] h1 h3 hp h2 (by rw [h2]; intro u hu; rw [List.mem_singleton.mp hu]; exact h5 _) ho
  exact ⟨t, h⟩

/-- A clause about words with register effects in each thread, applied to one state. -/
theorem useWhenIf {pre : State → Issue → Prop} {instr : Instr} {f : Fields} {last : Bool} {names : Thread → Names} {sel : Option (BitVec 7)}
    {ok : State → Issue → Thread → Prop} {eff : State → Issue → Thread → Eff} (c : DoneWhenIf pre instr f last names sel ok eff) (s : State)
    (hb : basics s f last false names 1 = true) (hp : pre s (issueOf s f)) (ho : ok (found s (issueOf s f)) (issueOf s f) (threadOf (found s (issueOf s f)) 1)) :
    Completes instr s := by
  obtain ⟨h1, h2, -, h4, h5⟩ := basics_starts hb
  have k := c s (issueOf s f) h1 hp (by rw [h2]; intro u hu; rw [List.mem_singleton.mp hu]; exact ⟨h5 _, ho⟩)
  exact ⟨_, k.1⟩

/-- The same where the word asks nothing more to start. -/
theorem useWhen {instr : Instr} {f : Fields} {last : Bool} {names : Thread → Names} {sel : Option (BitVec 7)} {ok : State → Issue → Thread → Prop}
    {eff : State → Issue → Thread → Eff} (c : DoneWhen instr f last names sel ok eff) (s : State) (hb : basics s f last false names 1 = true)
    (ho : ok (found s (issueOf s f)) (issueOf s f) (threadOf (found s (issueOf s f)) 1)) : Completes instr s := useWhenIf c s hb trivial ho

/-- A clause about words that trap in each thread, applied to one state. -/
theorem useTrap {instr : Instr} {f : Fields} {names : Thread → Names} {sel : Option (BitVec 7)} {ok : State → Issue → Thread → Prop} {trap : Trap}
    (c : TrapsWhen instr f names sel ok trap) (s : State) (hb : basics s f false false names 1 = true)
    (ho : ok (found s (issueOf s f)) (issueOf s f) (threadOf (found s (issueOf s f)) 1)) : Completes instr s := by
  obtain ⟨h1, h2, -, h4, h5⟩ := basics_starts hb
  exact ⟨_, c s (issueOf s f) h1 (by rw [h2]; intro u hu; rw [List.mem_singleton.mp hu]; exact ⟨h5 _, ho⟩)⟩

/-- A clause about words with register effects once for the group, applied to one state. -/
theorem useOnce {instr : Instr} {f : Fields} {names : Thread → Names} {sel : Option (BitVec 7)} {eff : State → Issue → Thread → Eff}
    (c : DoneOnce instr f names sel eff) (s : State) (hb : basics s f false false names 1 = true) :
    Completes instr s := by
  obtain ⟨h1, h2, -, h4, h5⟩ := basics_starts hb
  have k := c s (issueOf s f) 1 [] h1 h2 (by rw [h2]; intro u hu; rw [List.mem_singleton.mp hu]; exact h5 _)
  exact ⟨_, k.1⟩

/-- The access is granted. -/
theorem granted_of {x : State} {t : Thread} {a n al : Nat} {w : Bool}
    (h : (match (globalAt x t a n al w).2 with | .at _ _ => true | .out _ => false) = true) : ∃ y k g, Granted x t a n al w y k g := by
  unfold Granted
  rcases hg : globalAt x t a n al w with ⟨y, k | o⟩
  · exact ⟨y, _, _, rfl⟩
  · rw [hg] at h; cases h

/-- The access is granted, and its load does not trap. -/
theorem granted_load {x : State} {t : Thread} {a n al : Nat} {pc : VAddr} {fmt : LoadFmt}
    (h : (match globalAt x t a n al false with | (y, .at k g) => (loadOrTrap y t pc a k n g fmt).2.isNone | (_, .out _) => false) = true) :
    ∃ y k g, Granted x t a n al false y k g ∧ (loadOrTrap y t pc a k n g fmt).2 = none := by
  unfold Granted
  rcases hg : globalAt x t a n al false with ⟨y, k | o⟩
  · rw [hg] at h; exact ⟨y, _, _, rfl, Option.isNone_iff_eq_none.mp h⟩
  · rw [hg] at h; cases h

/-- The state with its thread changed. -/
def withThread (s : State) (f : Thread → Thread) : State := { s with threads := s.threads.map f }

/-- The state with bytes of memory written, each a 64-bit word. -/
def withMem (s : State) (l : List (Nat × Nat)) : State := l.foldl (fun s p => memWrite s p.1 (natLe 8 p.2)) s

/-- The state with registers of die 0. -/
def withRegs (s : State) (l : List (Nat × Nat)) : State := l.foldl (fun s p => setReg s 0 p.1 p.2) s

/-- No routine thread of a sweep. -/
theorem plain_ne {r : Role} (h : r = .plain) : ∀ sl e, r ≠ .sweep sl e := by
  intro sl e k
  rw [h] at k
  cases k

/-- A supervisor thread whose v8:v9 hold 0x2000, v10:v11 the handle of the last cell of its core, v12 a request's offset in local store, v13 1. -/
def sup (words : List (Nat × Nat)) : State := demo supJob [(8, 0x2000, 0), (10, 4095, 0), (12, 0x100, 0), (13, 1, 0), (14, 0x40, 3)] words


/-! ## Witnesses: instruction words

Each theorem takes a statement and applies its clauses to one concrete state: every hypothesis of the clause is met there. -/

/-- v0 to v31 hold numbers and are tagged RAW, but for v3, v4 and v5, tagged F32, BF16x2 and F16x2. -/
def numbers : List (Nat × Nat × Nat) := [(0, 5, 0), (1, 0xFFFFFFFF, 0), (2, 7, 0), (3, 0x3F800000, 3), (4, 0x3F803F80, 4), (5, 0x3C003C00, 5)]

/-- The B operands that the witnesses use: a register, the first and last s register, immediates, special sources, the literal and zero. -/
def someB : List BOp := [.reg 127#7, .sel 0#7 0#32, .sel 63#7 0#32, .sel 64#7 0#32, .sel 95#7 0#32, .sel 96#7 0#32, .sel 119#7 0#32, .sel 126#7 9#32, .sel 127#7 0#32]

theorem witness_IntegerVectorWords (c : Obligations.IntegerVectorWords) : ∀ row ∈ intRows, ∀ b ∈ someB, Completes (row.vec h0 127#7 0#7 b) (demo 5 numbers []) := by
  intro row hr b hb
  have k : ∀ row ∈ intRows, ∀ b ∈ someB, okB b = true ∧ basics (demo 5 numbers []) (vecWord h0 row.p 127#7 (if row.unary then 0#7 else 0#7) b) false false
      (names32 row.unary (if row.int then some integerTags else none) 127#7 0#7 b) 1 = true := by decide +kernel
  exact useWhen (c row hr h0 127#7 0#7 b (k row hr b hb).1) _ (k row hr b hb).2 trivial
theorem witness_IntegerScalarWords (c : Obligations.IntegerScalarWords) : ∀ row ∈ intRows, Completes (row.sca h0 63#7 63#7 63#7 0#32) (demo 5 numbers []) := by
  intro row hr
  have k : ∀ row ∈ intRows, basics (demo 5 numbers []) (scaWord h0 row.p 63#7 (if row.unary then 0#7 else 63#7) 63#7) false false
      (names32s row.unary false 63#7 63#7 63#7) 1 = true := by decide +kernel
  exact useOnce (c row hr h0 63#7 63#7 63#7 0#32 (by decide) (by decide) rfl) _ (k row hr)
theorem witness_WideWords (c : Obligations.WideWords) : ∀ row ∈ wideRows, Completes (row.vec h0 126#7 126#7 (.reg 126#7)) (demo 5 numbers []) ∧
    Completes (row.vec h0 126#7 0#7 (.sel 62#7 0#32)) (demo 5 numbers []) ∧ Completes (row.sca h0 62#7 0#7 126#7 1#32) (demo 5 numbers []) := by
  intro row hr
  have k : ∀ row ∈ wideRows, basics (demo 5 numbers []) (vecWord h0 row.p 126#7 126#7 (.reg 126#7)) false false (names64 126#7 126#7 (.reg 126#7)) 1 = true ∧
      basics (demo 5 numbers []) (vecWord h0 row.p 126#7 0#7 (.sel 62#7 0#32)) false false (names64 126#7 0#7 (.sel 62#7 0#32)) 1 = true ∧
      basics (demo 5 numbers []) (scaWord h0 row.p 62#7 0#7 126#7) false false (names64s 62#7 0#7 126#7) 1 = true := by decide +kernel
  exact ⟨useWhen ((c row hr).1 h0 _ _ _ rfl) _ (k row hr).1 trivial, useWhen ((c row hr).1 h0 _ _ _ rfl) _ (k row hr).2.1 trivial,
    useOnce ((c row hr).2 h0 _ _ _ _ (by decide) (by decide) rfl) _ (k row hr).2.2⟩
theorem witness_FloatVectorWords (c : Obligations.FloatVectorWords) : ∀ row ∈ floatRows, ∀ b ∈ [BOp.reg (BitVec.ofNat 7 row.tag), .sel 63#7 0#32, .sel 95#7 0#32],
    Completes (row.vec h0 (BitVec.ofNat 7 row.tag) (BitVec.ofNat 7 row.tag) b) (demo 5 numbers []) := by
  intro row hr b hb
  have k : ∀ row ∈ floatRows, ∀ b ∈ [BOp.reg (BitVec.ofNat 7 row.tag), .sel 63#7 0#32, .sel 95#7 0#32], okB b = true ∧
      basics (demo 5 numbers []) (vecWord h0 row.p (BitVec.ofNat 7 row.tag) (BitVec.ofNat 7 row.tag) b) false false
        (namesF row.third row.tag (BitVec.ofNat 7 row.tag) (BitVec.ofNat 7 row.tag) b) 1 = true := by decide +kernel
  exact useWhen (c row hr h0 _ _ b (k row hr b hb).1) _ (k row hr b hb).2 trivial
theorem witness_FloatScalarWords (c : Obligations.FloatScalarWords) : ∀ row ∈ floatRows, Completes (row.sca h0 63#7 0#7 127#7 0#32) (demo 5 numbers []) := by
  intro row hr
  have k : ∀ row ∈ floatRows, basics (demo 5 numbers []) (scaWord h0 row.p 63#7 0#7 127#7) false false (names32s false row.third 63#7 0#7 127#7) 1 = true := by
    decide +kernel
  exact useOnce (c row hr h0 _ _ _ _ (by decide) (by decide) rfl) _ (k row hr)
theorem witness_SpecialFunctionWords (c : Obligations.SpecialFunctionWords) : (∀ f ∈ [0#7, 6#7], Completes (.sfnF32Reg h0 127#7 f 3#7) (demo 5 numbers [])) ∧
    Completes (.sfnF32Sel h0 0#7 6#7 95#7 0#32) (demo 5 numbers []) ∧ Completes (.ssfnF32 h0 63#7 6#7 0#7 0#32) (demo 5 numbers []) := by
  have k : ∀ f ∈ [0#7, 6#7], f.toNat ≤ 6 ∧ basics (demo 5 numbers []) (vecWord h0 37 127#7 f (.reg 3#7)) false false (names32 true (some [3]) 127#7 0#7 (.reg 3#7)) 1 = true := by
    decide +kernel
  exact ⟨fun f hf => useWhen (c.1 h0 _ f (.reg 3#7) rfl (k f hf).1) _ (k f hf).2 trivial,
    useWhen (c.1 h0 0#7 6#7 (.sel 95#7 0#32) rfl (by decide)) _ (by decide +kernel) trivial, useOnce (c.2 h0 63#7 6#7 0#7 0#32 (by decide) (by decide) rfl) _ (by decide +kernel)⟩
theorem witness_MoveWords (c : Obligations.MoveWords) :
    Completes (.movB32Reg h0 127#7 0#7) (demo 5 numbers []) ∧ Completes (.movB32Sel h0 127#7 119#7 0#32) (demo 5 numbers []) ∧
    Completes (.selB32Reg h0 0#7 127#7 3#7) (demo 5 numbers []) ∧ Completes (.permB32Sel h0 0#7 127#7 126#7 5#32) (demo 5 numbers []) ∧
    Completes (.smovB32 h0 63#7 127#7 0#32) (demo 5 numbers []) ∧ Completes (.spermB32 h0 63#7 0#7 0#7 0#32) (demo 5 numbers []) :=
  ⟨useWhen (c.1 h0 127#7 (.reg 0#7) rfl) _ (by decide +kernel) trivial, useWhen (c.1 h0 127#7 (.sel 119#7 0#32) rfl) _ (by decide +kernel) trivial,
    useWhen (c.2.1 h0 0#7 127#7 (.reg 3#7) rfl) _ (by decide +kernel) trivial, useWhen (c.2.2.1 h0 0#7 127#7 (.sel 126#7 5#32) rfl) _ (by decide +kernel) trivial,
    useOnce (c.2.2.2.1 h0 63#7 127#7 0#32 (by decide) rfl) _ (by decide +kernel),
    useOnce (c.2.2.2.2 h0 63#7 0#7 0#7 0#32 (by decide) (by decide) rfl) _ (by decide +kernel)⟩
theorem witness_CompareWords (c : Obligations.CompareWords) : ∀ row ∈ cmpRows,
    Completes (row.vec h0 5#7 (if row.acc = [3] then 3#7 else 0#7) (.reg (if row.acc = [3] then 3#7 else 1#7))) (demo 5 numbers []) ∧
      Completes (row.sca h0 0#7 63#7 64#7 0#32) (demo 5 numbers []) := by
  intro row hr
  have k : ∀ row ∈ cmpRows, basics (demo 5 numbers []) (vecWord h0 row.p 5#7 (if row.acc = [3] then 3#7 else 0#7) (.reg (if row.acc = [3] then 3#7 else 1#7))) false false
      (fun _ => { vr := ((if row.acc = [3] then 3#7 else 0#7 : BitVec 7).toNat, 1) :: (BOp.reg (if row.acc = [3] then 3#7 else 1#7)).runs 1,
                  sr := (BOp.reg (if row.acc = [3] then 3#7 else 1#7)).sregs false, gw := true,
                  tags := typed 1 (if row.acc = [3] then 3#7 else 0#7 : BitVec 7).toNat 1 row.acc ++ typedB (.reg (if row.acc = [3] then 3#7 else 1#7)) 1 row.acc }) 1 = true ∧
      basics (demo 5 numbers []) (scaWord h0 row.p 0#7 63#7 64#7) false false (fun _ => { sr := 63 :: selS 64 false, gw := true }) 1 = true := by decide +kernel
  exact ⟨useWhen ((c row hr).1 h0 5#7 _ (.reg _) rfl (by decide)) _ (k row hr).1 trivial,
    useOnce ((c row hr).2 h0 0#7 63#7 64#7 0#32 (by decide) (by decide) rfl) _ (k row hr).2⟩
theorem witness_GuardTagLaneWords (c : Obligations.GuardTagLaneWords) :
    Completes (.gsetReg h0 0#7 0#7 1#7) (demo 5 numbers []) ∧ Completes (.gsetSel h0 3#7 0#7 119#7 0#32) (demo 5 numbers []) ∧
    Completes (.tagsetSel h0 127#7 127#7 91#7 0#32) (demo 5 numbers []) ∧ Completes (.tagsetReg h0 127#7 127#7 127#7) (demo 5 numbers []) ∧
    Completes (.tagsetSel h0 127#7 127#7 92#7 0#32) (demo 5 numbers []) ∧ Completes (.tagsetReg h0 127#7 127#7 1#7) (demo 5 numbers []) ∧
    Completes (.xlrReg h0 127#7 127#7 2#7) (demo 5 numbers []) ∧ Completes (.xlrSel h0 127#7 127#7 83#7 0#32) (demo 5 numbers []) ∧
    Completes (.rngkReg h0 127#7 126#7 0#7) (demo 5 numbers []) ∧ Completes (.rngkSel h0 127#7 0#7 126#7 5#32) (demo 5 numbers []) :=
  ⟨useWhen (c.1 h0 0#7 0#7 (.reg 1#7) rfl (by decide)) _ (by decide +kernel) trivial, useWhen (c.1 h0 3#7 0#7 (.sel 119#7 0#32) rfl (by decide)) _ (by decide +kernel) trivial,
    useWhen (c.2.1 h0 127#7 127#7 (.sel 91#7 0#32) rfl) _ (by decide +kernel) (by decide +kernel),
    useWhen (c.2.1 h0 127#7 127#7 (.reg 127#7) rfl) _ (by decide +kernel) (by decide +kernel),
    useTrap (c.2.2.1 h0 127#7 127#7 (.sel 92#7 0#32) rfl) _ (by decide +kernel) (by decide +kernel),
    useTrap (c.2.2.1 h0 127#7 127#7 (.reg 1#7) rfl) _ (by decide +kernel) (by decide +kernel),
    useWhen (c.2.2.2.1 h0 127#7 127#7 (.reg 2#7) rfl) _ (by decide +kernel) trivial, useWhen (c.2.2.2.1 h0 127#7 127#7 (.sel 83#7 0#32) rfl) _ (by decide +kernel) trivial,
    useWhen (c.2.2.2.2 h0 127#7 126#7 (.reg 0#7) rfl) _ (by decide +kernel) trivial, useWhen (c.2.2.2.2 h0 127#7 0#7 (.sel 126#7 5#32) rfl) _ (by decide +kernel) trivial⟩
theorem witness_VoteLaneWords (c : Obligations.VoteLaneWords) :
    Completes (.svoteB32 h0 63#7) (demo 5 numbers []) ∧ Completes (.slaneB32 h0 0#7 127#7 83#7 0#32) (demo 5 numbers []) :=
  ⟨useOnce (c.1 h0 63#7 (by decide)) _ (by decide +kernel), useOnce (c.2 h0 0#7 127#7 83#7 0#32 (by decide) rfl) _ (by decide +kernel)⟩

theorem witness_ConvertWords (c : Obligations.ConvertWords) :
    (∀ m ∈ [1#7, 2#7, 4#7, 5#7, 8#7, 9#7, 10#7], Completes (.cvtReg h0 127#7 m 3#7) (demo 5 numbers [])) ∧ Completes (.cvtSel h0 0#7 3#7 64#7 0#32) (demo 5 numbers []) ∧
    (∀ m ∈ [1#7, 4#7, 10#7], Completes (.scvt h0 63#7 m 63#7 0#32) (demo 5 numbers [])) ∧
    Completes (.cvtqE2m1Reg h0 120#7 96#7 0#7) (demo 5 ((upFrom 96 32).map fun k => (k, 0x3F800000, 3)) []) := by
  have k : ∀ m ∈ [1#7, 2#7, 4#7, 5#7, 8#7, 9#7, 10#7], (1 ≤ cvtDf m ∧ cvtDf m ≤ 10) ∧
      basics (demo 5 numbers []) (vecWord h0 44 127#7 m (.reg 3#7)) false false (cvtNames 127#7 m (.reg 3#7)) 1 = true ∧
      ∀ u ∈ (issueOf (demo 5 numbers []) (vecWord h0 44 127#7 m (.reg 3#7))).group,
        ¬(cvtKind (cvtSf (threadOf (demo 5 numbers []) u) m (.reg 3#7)) (cvtDf m) = 2 ∧
          elemCount (cvtSf (threadOf (demo 5 numbers []) u) m (.reg 3#7)) / elemCount (cvtDf m) ≤ cvtMq m) := by
    decide +kernel
  have l : ∀ m ∈ [1#7, 4#7, 10#7], (1 ≤ cvtDf m ∧ cvtDf m ≤ 10) ∧ basics (demo 5 numbers []) (scaWord h0 44 63#7 m 63#7) false false
      (fun _ =>
        { sr := selS 63 false ++ (if elemCount (cvtSource none (cvtDf m)) < elemCount (cvtDf m) then [63] else []) ++
            (if cvtStochastic (cvtSource none (cvtDf m)) m then [(63#7 ^^^ 1#7 : BitVec 7).toNat] else [])
          sw := [63]
          limits := [(cvtKind (cvtSource none (cvtDf m)) (cvtDf m) == 0, 1)] }) 1 = true := by decide +kernel
  exact ⟨fun m hm => useWhenIf (c.1 h0 127#7 m (.reg 3#7) rfl (k m hm).1.1 (k m hm).1.2) _ (k m hm).2.1 (k m hm).2.2 trivial,
    useWhenIf (c.1 h0 0#7 3#7 (.sel 64#7 0#32) rfl (by decide) (by decide)) _ (by decide +kernel) (by decide +kernel) trivial,
    fun m hm => useOnce (c.2.1 h0 63#7 m 63#7 0#32 (by decide) (l m hm).1.1 (l m hm).1.2 rfl) _ (l m hm).2,
    useWhen (c.2.2 h0 120#7 96#7 (.reg 0#7) rfl) _ (by decide +kernel) (by decide +kernel)⟩
theorem witness_BranchWords (c : Obligations.BranchWords) :
    Completes (.br h0 0x100000#21) (demo 5 numbers []) ∧ Completes (.brn h0 0xFFFFF#21) (demo 5 numbers []) ∧ Completes (.call h0 0#21) (demo 5 numbers []) ∧
    Completes (.jr h0 126#7) (demo 5 numbers []) :=
  ⟨useWhen (c.1 h0 _) _ (by decide +kernel) trivial, useWhen (c.2.1 h0 _) _ (by decide +kernel) trivial, useWhen (c.2.2.1 h0 _) _ (by decide +kernel) trivial,
    useWhen (c.2.2.2 h0 126#7) _ (by decide +kernel) (by decide +kernel)⟩
theorem witness_ThreadStateWords (c : Obligations.ThreadStateWords) :
    Completes (.nop h0) (demo 5 numbers []) ∧ Completes (.yield h0) (demo 5 numbers []) ∧ Completes (.winb h0 0#7 126#7 32#32) (demo 5 numbers []) ∧
    Completes (.winb h0 1#7 80#7 0#32) (demo 5 numbers []) ∧ Completes (.statrd h0 127#7) (demo 5 numbers []) ∧ Completes (.statclr h0 119#7 0#32) (demo 5 numbers []) :=
  ⟨useWhen (c.1 h0) _ (by decide +kernel) trivial, useTurns (c.2.1 h0) _ (by decide +kernel) trivial trivial,
    useTurns (c.2.2.1 h0 0#7 126#7 32#32 (by decide) rfl) _ (by decide +kernel) trivial (by decide +kernel),
    useTurns (c.2.2.1 h0 1#7 80#7 0#32 (by decide) rfl) _ (by decide +kernel) trivial (by decide +kernel),
    useWhen (c.2.2.2.1 h0 127#7) _ (by decide +kernel) trivial, useTurns (c.2.2.2.2 h0 119#7 0#32 rfl) _ (by decide +kernel) trivial trivial⟩
theorem witness_ThreadEndWords (c : Obligations.ThreadEndWords) :
    Completes (.exit h0) (demo 5 numbers []) ∧ Completes (.exit h0) (withThread (demo 5 []  []) fun t => { t with role := .sweep 7 31 }) ∧
    Completes (.cvacc h0) (withThread (demo 5 [] []) fun t => { t with role := .cover 0 4 }) ∧
    Completes (.cvrej h0) (withThread (demo 5 [] []) fun t => { t with role := .cover 0 4 }) :=
  ⟨useTurns (c.1 h0) _ (by decide +kernel) trivial (by decide +kernel), useTurns (c.2.1 h0 7) _ (by decide +kernel) trivial ⟨31, by decide +kernel⟩,
    useTurns (c.2.2.1 h0 0 4) _ (by decide +kernel) trivial (by decide +kernel), useTurns (c.2.2.2.1 h0 0 4) _ (by decide +kernel) trivial (by decide +kernel)⟩
/-- Two flocks of a job: the thread's, and one with a key and no member. -/
def twoFlocks : State :=
  let s := demo 5 [(2, 1, 0), (6, 9, 0)] []
  { s with flocks := s.flocks ++ [{ oneFlock 5 with idx := 1, key := some 9#32 }], keys := [(0, 5, 9#32, 1)] }
theorem witness_FlockMoveWords (c : Obligations.FlockMoveWords) :
    Completes (.join h0 0#7) twoFlocks ∧ Completes (.join h0 2#7) twoFlocks ∧ Completes (.joink h0 6#7) twoFlocks ∧ Completes (.joink h0 0#7) twoFlocks ∧
    Completes (.leave h0) twoFlocks ∧ Completes (.leave h0) (withThread twoFlocks fun t => { t with role := .sweep 0 0 }) :=
  ⟨useTurns (c.1 h0 0#7) _ (by decide +kernel) trivial ⟨plain_ne (by decide +kernel), flockOf twoFlocks 0 0, by decide +kernel, by decide +kernel, by decide +kernel⟩,
    useTurns (c.1 h0 2#7) _ (by decide +kernel) trivial ⟨plain_ne (by decide +kernel), flockOf twoFlocks 0 1, by decide +kernel, by decide +kernel, by decide +kernel⟩,
    useTurns (c.2.1 h0 6#7) _ (by decide +kernel) trivial (plain_ne (by decide +kernel)), useTurns (c.2.1 h0 0#7) _ (by decide +kernel) trivial (plain_ne (by decide +kernel)),
    useTurns (c.2.2.1 h0) _ (by decide +kernel) trivial (plain_ne (by decide +kernel)),
    useTurns (c.2.2.2.1 h0 0#7 0 _ (List.mem_cons_of_mem _ (List.mem_cons_of_mem _ (List.mem_singleton.mpr rfl)))) _ (by decide +kernel) trivial ⟨0, by decide +kernel⟩⟩
/-- A job with HALT_EN in its descriptor and halt slot 15 of die 0. -/
def haltable : State := withRegs (withMem (demo 5 [] []) [(64 * 5, 2 ^ 20)]) [(0x900 + 64 * 15, 5 + 2 ^ 16)]
theorem witness_BreakWords (c : Obligations.BreakWords) :
    Completes (.brk h0) haltable ∧ Completes (.haltw h0) haltable ∧ Completes (.haltw h0) (demo 5 [] []) :=
  ⟨useGroup (c.1 h0 0 15 (by decide)) _ (by decide +kernel) trivial (by decide +kernel), useGroup (c.1 h0 1 15 (by decide)) _ (by decide +kernel) trivial (by decide +kernel),
    useGroup (c.2 h0) _ (by decide +kernel) trivial (by decide +kernel)⟩

theorem witness_LoadWords (c : Obligations.LoadWords) :
    (∀ m ∈ [0#7, 8#7, 1#7, 2#7, 90#7, 3#7, 4#7, 92#7], Completes (.ld h0 124#7 8#7 m) (sup []) ∧ Completes (.ldl h0 124#7 8#7 m) (sup [])) ∧
    Completes (.ldLit h0 127#7 8#7 2#7 0xFFFFFFFC#32) (sup []) ∧ Completes (.ldlLit h0 127#7 8#7 2#7 0x7FFC#32) (sup []) := by
  have k : ∀ m ∈ [0#7, 8#7, 1#7, 2#7, 90#7, 3#7, 4#7, 92#7], ((m.toNat % 8 ≤ 1 ∧ m.toNat < 16) ∨ (2 ≤ m.toNat % 8 ∧ m.toNat % 8 ≤ 4 ∧ m.toNat / 8 ≤ 11)) ∧
      basics (sup []) (memWord h0 0 none 124#7 8#7 m) false false (loadNamesOf true 124#7 8#7 (m.toNat % 8)) 1 = true ∧
      (let i := issueOf (sup []) (memWord h0 0 none 124#7 8#7 m); let x := found (sup []) i; let t := threadOf x 1; let a := gAddr t (8#7 : BitVec 7).toNat (offLit none)
       (match globalAt x t a (2 ^ (m.toNat % 8)) (2 ^ (m.toNat % 8)) false with
        | (y, .at k g) => (loadOrTrap y t i.pc a k (2 ^ (m.toNat % 8)) g (loadFmt t 124#7 m)).2.isNone | (_, .out _) => false) = true) ∧
      basics (sup []) (memWord h0 4 none 124#7 8#7 m) false false (loadNamesOf false 124#7 8#7 (m.toNat % 8)) 1 = true ∧
      (let x := found (sup []) (issueOf (sup []) (memWord h0 4 none 124#7 8#7 m)); let t := threadOf x 1
       localPre x t (lAddr t (8#7 : BitVec 7).toNat (offLit none)) (2 ^ (m.toNat % 8)) (2 ^ (m.toNat % 8)) = none ∧ redLsPending x t.uid (lAddr t (8#7 : BitVec 7).toNat (offLit none)) (2 ^ (m.toNat % 8)) = false ∧
        localBad (readsLocal x t (lAddr t (8#7 : BitVec 7).toNat (offLit none)) (2 ^ (m.toNat % 8))) t (lAddr t (8#7 : BitVec 7).toNat (offLit none)) (2 ^ (m.toNat % 8)) = false) := by
    decide +kernel
  exact ⟨fun m hm => ⟨useTurns (c.1 h0 124#7 8#7 m none (k m hm).1) _ (k m hm).2.1 trivial (granted_load (k m hm).2.2.1),
      useTurns (c.2.1 h0 124#7 8#7 m none (k m hm).1) _ (k m hm).2.2.2.1 trivial (k m hm).2.2.2.2⟩,
    useTurns (c.1 h0 127#7 8#7 2#7 (some 0xFFFFFFFC#32) (by unfold modOk; decide)) _ (by decide +kernel) trivial (granted_load (by decide +kernel)),
    useTurns (c.2.1 h0 127#7 8#7 2#7 (some 0x7FFC#32) (by unfold modOk; decide)) _ (by decide +kernel) trivial (by decide +kernel)⟩
theorem witness_StoreWords (c : Obligations.StoreWords) :
    Completes (.st h0 124#7 8#7 4#3) (sup []) ∧ Completes (.stLit h0 127#7 8#7 0#3 0xFFFFFFFF#32) (sup []) ∧ Completes (.stl h0 124#7 8#7 4#3) (sup []) ∧
    Completes (.stlLit h0 127#7 8#7 0#3 5#32) (sup []) ∧ Completes (.red h0 12#7 8#7 0#7) (sup []) ∧ Completes (.redLit h0 14#7 8#7 18#7 4#32) (sup []) ∧
    Completes (.redLs h0 12#7 8#7 17#7) (sup []) ∧ Completes (.redLsLit h0 12#7 8#7 11#7 8#32) (sup []) ∧ Completes (.redDet h0 14#7 8#7 13#7) (sup []) ∧
    Completes (.redDetLit h0 14#7 8#7 13#7 0x40#32) (sup []) :=
  ⟨useTurns (c.1 h0 124#7 8#7 4#3 none (by decide)) _ (by decide +kernel) trivial (granted_of (by decide +kernel)),
    useTurns (c.1 h0 127#7 8#7 0#3 (some 0xFFFFFFFF#32) (by decide)) _ (by decide +kernel) trivial (granted_of (by decide +kernel)),
    useTurns (c.2.1 h0 124#7 8#7 4#3 none (by decide)) _ (by decide +kernel) trivial (by decide +kernel),
    useTurns (c.2.1 h0 127#7 8#7 0#3 (some 5#32) (by decide)) _ (by decide +kernel) trivial (by decide +kernel),
    useTurns (c.2.2.1 h0 12#7 8#7 0#7 none (by decide)) _ (by decide +kernel) trivial (granted_of (by decide +kernel)),
    useTurns (c.2.2.1 h0 14#7 8#7 18#7 (some 4#32) (by decide)) _ (by decide +kernel) trivial (granted_of (by decide +kernel)),
    useTurns (c.2.2.2.1 h0 12#7 8#7 17#7 none (by decide)) _ (by decide +kernel) trivial (by decide +kernel),
    useTurns (c.2.2.2.1 h0 12#7 8#7 11#7 (some 8#32) (by decide)) _ (by decide +kernel) trivial (by decide +kernel),
    useTurns (c.2.2.2.2 h0 14#7 8#7 13#7 none) _ (by decide +kernel) trivial ⟨by decide +kernel, granted_of (by decide +kernel)⟩,
    useTurns (c.2.2.2.2 h0 14#7 8#7 13#7 (some 0x40#32)) _ (by decide +kernel) trivial ⟨by decide +kernel, granted_of (by decide +kernel)⟩⟩
theorem witness_PrefetchAndFenceWords (c : Obligations.PrefetchAndFenceWords) :
    Completes (.pref h0 127#7 true) (sup []) ∧ Completes (.prefLit h0 0#7 false 0xFFFFFFFF#32) (sup []) ∧ Completes (.fence h0 0#3) (sup []) ∧ Completes (.fence h0 6#3) (sup []) :=
  ⟨useTurns (c.1 h0 127#7 true none) _ (by decide +kernel) trivial trivial, useTurns (c.1 h0 0#7 false (some 0xFFFFFFFF#32)) _ (by decide +kernel) trivial trivial,
    useTurns (c.2 h0 0#3 (by decide)) _ (by decide +kernel) trivial trivial, useTurns (c.2 h0 6#3 (by decide)) _ (by decide +kernel) trivial trivial⟩
/-- A block of `cwait` at 0x100 of local store: ALL, `n` conditions on the core's cells, and a TIMEOUT. -/
def block (n timeout : Nat) : List (Nat × Nat) := [(0x100, n + 8), (0x108, timeout), (0x110, 4095), (0x118, 1), (0x120, 7), (0x128, 2)]
theorem witness_CounterWords (c : Obligations.CounterWords) :
    Completes (.cadd h0 12#7 10#7 0#3) (sup []) ∧ Completes (.caddLit h0 10#7 6#3 1#32) (sup []) ∧ Completes (.caddr h0 126#7 10#7 6#3) (sup []) ∧
    Completes (.caddrLit h0 126#7 10#7 0#3 5#32) (sup []) ∧ Completes (.cread h0 126#7 10#7 6#3) (sup []) ∧ Completes (.cwt h0 126#7 10#7 6#3) (sup []) ∧
    Completes (.cinit h0 126#7 10#7) (sup []) ∧ Completes (.cwait h0 127#7 12#7 6#3) (sup (block 4 0)) ∧ Completes (.cwait h0 127#7 12#7 0#3) (sup (block 1 (2 ^ 64 - 1))) :=
  ⟨useTurns (c.1.1 h0 12#7 10#7 0#3 none (by decide)) _ (by decide +kernel) trivial (by unfold usable; decide +kernel),
    useTurns (c.1.1 h0 0#7 10#7 6#3 (some 1#32) (by decide)) _ (by decide +kernel) trivial (by unfold usable; decide +kernel),
    useTurns (c.1.2.1 h0 126#7 10#7 6#3 none (by decide)) _ (by decide +kernel) trivial (by unfold usable; decide +kernel),
    useTurns (c.1.2.1 h0 126#7 10#7 0#3 (some 5#32) (by decide)) _ (by decide +kernel) trivial (by unfold usable; decide +kernel),
    useTurns (c.1.2.2.1 h0 126#7 10#7 6#3 (by decide)) _ (by decide +kernel) trivial (by unfold usable; decide +kernel),
    useTurns (c.1.2.2.2.1 h0 126#7 10#7 6#3 (by decide)) _ (by decide +kernel) trivial (by unfold usable; decide +kernel),
    useTurns (c.1.2.2.2.2 h0 126#7 10#7) _ (by decide +kernel) trivial (by decide +kernel),
    useTurns (c.2 h0 127#7 12#7 6#3 (by decide)) _ (by decide +kernel) trivial (by unfold usable; decide +kernel),
    useTurns (c.2 h0 127#7 12#7 0#3 (by decide)) _ (by decide +kernel) trivial (by unfold usable; decide +kernel)⟩

/-- A load whose bytes all stand in the thread's own stores. -/
theorem witness_LoadForward (c : Obligations.LoadWords) : ∃ x y, issueLoad x (threadOf x 1) 0x1000#57 0x2000 0x2000 4 none (.regs 1 0 [2#4]) = y ∧ y.results.length = 1 := by
  refine ⟨pushStore (sup []) (threadOf (sup []) 1) (.glob 0x2000 [1#8, 2#8, 3#8, 4#8]), _, c.2.2.2.2 _ _ _ 0x2000 0x2000 4 none _ (by decide +kernel) (by decide +kernel), by decide +kernel⟩
/-- Without errors in the code words a load does not trap. -/
theorem witness_LoadSound (c : Obligations.LoadWords) :
    (loadOrTrap (sup []) (threadOf (sup []) 1) 0x1000#57 0x2000 0x2000 4 none (.regs 1 0 [2#4])).2 = none ∧ localBad (sup []) (threadOf (sup []) 1) 0x100 4 = false :=
  ⟨by rw [c.2.2.1 (sup []) _ _ _ _ _ _ _ rfl rfl], (c.2.2.2.1 (sup []) _ 0x100 4 rfl).2 rfl⟩

theorem witness_ControlRegisterWords (c : Obligations.ControlRegisterWords) :
    Completes (.csrr h0 126#7 80#7 0#32) (demo 5 [] []) ∧ Completes (.csrr h0 126#7 93#7 0#32) (demo 5 [] []) ∧ Completes (.csrr h0 126#7 126#7 0x10#32) (demo 5 [] []) ∧
    Completes (.csrr h0 126#7 126#7 0x13#32) (demo 5 [] []) ∧ Completes (.csrr h0 126#7 126#7 0x20#32) (sup []) ∧ Completes (.csrr h0 126#7 126#7 0x10000000#32) (sup []) ∧
    Completes (.csrr h0 126#7 126#7 0x10000020#32) (withRegs (sup []) [(0xE10, 0)]) ∧ Completes (.csrw h0 10#7 126#7 0x20#32) (sup []) ∧
    Completes (.csrw h0 126#7 126#7 0x11#32) (sup []) ∧ Completes (.csrw h0 126#7 126#7 0x10000000#32) (sup []) ∧ Completes (.csrw h0 126#7 93#7 0#32) (sup []) ∧
    Completes (.csrw h0 126#7 126#7 0x13#32) (sup []) :=
  ⟨useTurns (c.1.1 h0 126#7 80#7 0#32 rfl) _ (by decide +kernel) (by unfold supNumber; decide +kernel) (by unfold jobNumber; decide +kernel),
    useTurns (c.1.1 h0 126#7 93#7 0#32 rfl) _ (by decide +kernel) (by unfold supNumber; decide +kernel) (by unfold jobNumber; decide +kernel),
    useTurns (c.1.1 h0 126#7 126#7 0x10#32 rfl) _ (by decide +kernel) (by unfold supNumber; decide +kernel) (by unfold jobNumber; decide +kernel),
    useTurns (c.1.1 h0 126#7 126#7 0x13#32 rfl) _ (by decide +kernel) (by unfold supNumber; decide +kernel) (by unfold jobNumber; decide +kernel),
    useTurns (c.1.2.1 h0 126#7 126#7 0x20#32 rfl) _ (by decide +kernel) trivial (by decide +kernel),
    useTurns (c.1.2.2.1 h0 126#7 126#7 0x10000000#32 rfl) _ (by decide +kernel) trivial (by decide +kernel),
    useTurns (c.1.2.2.2 h0 126#7 126#7 0x10000020#32 rfl) _ (by decide +kernel) trivial (by decide +kernel),
    useGroup (c.2.1 h0 10#7 126#7 0x20#32 rfl) _ (by decide +kernel) trivial (by decide +kernel),
    useGroup (c.2.1 h0 126#7 126#7 0x11#32 rfl) _ (by decide +kernel) trivial (by decide +kernel),
    useGroup (c.2.2.1 h0 126#7 126#7 0x10000000#32 rfl) _ (by decide +kernel) trivial (by decide +kernel),
    useGroup (c.2.2.2 h0 126#7 93#7 0#32 rfl) _ (by decide +kernel) trivial (by decide +kernel),
    useGroup (c.2.2.2 h0 126#7 126#7 0x13#32 rfl) _ (by decide +kernel) trivial (by decide +kernel)⟩
theorem witness_RegionWords (c : Obligations.RegionWords) :
    (∀ k ∈ [0#7, 1#7, 2#7], Completes (.segset h0 k 124#7) (demo supJob [(124, 0, 0), (125, if k = 0#7 then 8192 else 0, 0), (126, if k = 1#7 then 0 else 0, 0), (127, if k = 2#7 then 32 else 0, 0)] [])) ∧
    Completes (.carve h0 127#7 126#7 4#32) (sup []) ∧ Completes (.carve h0 127#7 126#7 15#32) (sup []) ∧ Completes (.carve h0 127#7 126#7 5#32) (sup []) ∧
    Completes (.carve h0 127#7 126#7 1#32) (sup []) := by
  have k : ∀ k ∈ [0#7, 1#7, 2#7],
      let s := demo supJob [(124, 0, 0), (125, if k = 0#7 then 8192 else 0, 0), (126, if k = 1#7 then 0 else 0, 0), (127, if k = 2#7 then 32 else 0, 0)] []
      k.toNat ≤ 2 ∧ basics s (ctlWord h0 64 k 124#7 0#7) false true
        (fun _ => { vr := [(124, 4)], tags := typed 1 124 4 integerTags, limits := [((124#7 : BitVec 7).toNat % 4 ≠ 0, 1)] }) 1 = true ∧
      (let t := threadOf (found s (issueOf s (ctlWord h0 64 k 124#7 0#7))) 1
       (k = 0#7 ∧ (pairV t 124#7).toNat + vPair t 126 ≤ 2 ^ 45) ∨ (k = 1#7 ∧ (pairV t 124#7).toNat % 16 = 0 ∧ vPair t 126 % 16 = 0 ∧ (pairV t 124#7).toNat + vPair t 126 ≤ 2 ^ 32) ∨
        (k = 2#7 ∧ (pairV t 124#7).toNat + vPair t 126 ≤ 2 ^ 37)) := by decide +kernel
  exact ⟨fun n hn => useTurns (c.1 h0 n 124#7 (k n hn).1) _ (k n hn).2.1 trivial (k n hn).2.2, useGroup (c.2 h0 127#7 126#7 4#32 rfl).1 _ (by decide +kernel) trivial (by decide +kernel),
    useGroup (c.2 h0 127#7 126#7 15#32 rfl).2.1 _ (by decide +kernel) trivial (by decide +kernel), useGroup (c.2 h0 127#7 126#7 5#32 rfl).2.2.1 _ (by decide +kernel) trivial (by decide +kernel),
    useGroup (c.2 h0 127#7 126#7 1#32 rfl).2.2.2 _ (by decide +kernel) trivial (by decide +kernel)⟩

/-- Beside a supervisor thread whose v20 names it: a thread of job 5 in the last lane and slot, halted in halt slot 0; and what a valid block of either begins with. -/
def contextState : State :=
  let s := withRegs (withMem (demo supJob [(8, 0x2000, 0), (20, 31 * 128 + 63 * 4096, 0)] []) [(0x2008, 4 * 2 ^ 11), (0x4008, 1)]) [(0x900, 5 + 2 ^ 16), (0x910, 2)]
  { s with
    threads := s.threads ++ [{ oneThread 5 [] with uid := 2, flock := 1, lane := 31, slot := 63 }]
    flocks := s.flocks ++ [{ oneFlock 5 with idx := 1, tiles := [⟨0#4, [], 0⟩] }] }
theorem none_saved {o : Option Flock} (h : (o.all fun f => f.saved == none) = true) : ∀ f, o = some f → f.saved = none := by
  intro f k
  rw [k] at h
  simpa using h
/-- The pieces of a block, where they are granted. -/
def piecesOf (r : State × Except Out (List (Nat × Nat))) : List (Nat × Nat) :=
  match r.2 with
  | .ok l => l
  | .error _ => []
theorem ok_of {r : State × Except Out (List (Nat × Nat))} (h : (match r.2 with | .ok _ => true | .error _ => false) = true) : r = (r.1, .ok (piecesOf r)) := by
  obtain ⟨s, e | l⟩ := r
  · cases h
  · rfl
theorem witness_ContextWords (c : Obligations.ContextWords) :
    Completes (.ctxsave h0 20#7 8#7 127#7 0#32) contextState ∧ Completes (.ctxsave h0 20#7 8#7 81#7 0#32) contextState ∧
    Completes (.ctxload h0 20#7 8#7 127#7 0#32) contextState ∧
    Completes (.ctxload h0 20#7 8#7 81#7 0#32) (withThread contextState fun t => if t.uid = 1 then { t with regs := mapSet rawZero t.regs 8 ⟨0x4000#32, 0#4⟩ } else t) :=
  ⟨useTurns (c.1 h0 20#7 8#7 127#7 0#32 rfl) _ (by decide +kernel) trivial
      ⟨threadOf contextState 2, 0, _, _, by unfold Named; decide +kernel, by decide +kernel, ok_of (by decide +kernel)⟩,
    useTurns (c.1 h0 20#7 8#7 81#7 0#32 rfl) _ (by decide +kernel) trivial
      ⟨threadOf contextState 2, 0, _, _, by unfold Named; decide +kernel, by decide +kernel, ok_of (by decide +kernel)⟩,
    useTurns (c.2.1 h0 20#7 8#7 127#7 0#32 rfl) _ (by decide +kernel) trivial
      ⟨threadOf contextState 2, 0, _, _, by unfold Named; decide +kernel, ⟨by decide +kernel, ok_of (by decide +kernel)⟩, by decide +kernel, by decide +kernel, none_saved (by decide +kernel)⟩,
    useTurns (c.2.1 h0 20#7 8#7 81#7 0#32 rfl) _ (by decide +kernel) trivial
      ⟨threadOf contextState 2, 0, _, _, by unfold Named; decide +kernel, ⟨by decide +kernel, ok_of (by decide +kernel)⟩, by decide +kernel, by decide +kernel, none_saved (by decide +kernel)⟩⟩
theorem witness_StepAndRevokeWords (c : Obligations.StepAndRevokeWords) :
    Completes (.step h0 127#7 0#7 79#7 0#32) (withRegs (sup []) [(0x900 + 64 * 15, 5 + 2 ^ 16), (0x910 + 64 * 15, 2 + 2 ^ 18)]) ∧
    Completes (.step h0 127#7 0#7 64#7 0#32) (withRegs (sup []) [(0x900, 5 + 2 ^ 16), (0x910, 3)]) ∧
    Completes (.revoke h0 10#7 1#7 127#7 0#32) (withRegs (withThread (sup []) fun t => { t with regs := mapSet rawZero t.regs 1 ⟨1023#32, 0#4⟩ }) [(regionOff 1023 + 8, 2 ^ 58)]) ∧
    Completes (.revoke h0 10#7 0#7 127#7 0#32) (sup []) :=
  ⟨useGroup (c.1 h0 _ _ _ _ (by decide)).1 _ (by decide +kernel) trivial (by decide +kernel), useGroup (c.1 h0 _ _ _ _ (by decide)).2 _ (by decide +kernel) trivial (by decide +kernel),
    useTurns (c.2 h0 _ _ _ _ rfl).1 _ (by decide +kernel) trivial (by unfold usable; decide +kernel),
    useTurns (c.2 h0 _ _ _ _ rfl).2 _ (by decide +kernel) trivial (by unfold usable; decide +kernel)⟩

/-- The header of an entry at 0x2000: REGS 5, TILES 8, BINTIME 1000. -/
def withEntry (s : State) : State := withMem s [(0x1FF0, 1000 + (5 + 8 * 64) * 2 ^ 32)]
/-- 128 threads that hold every register of the core. -/
def fullCore : State :=
  let s := withEntry (sup [])
  { s with
    threads := s.threads ++ (upFrom 0 128).map fun k => { oneThread 5 [] with uid := 1000 + k, flock := 1, lane := k / 4, slot := 8 + k % 4, alloc := 1024, rbase := k % 4 * 1024, parked := true }
    flocks := s.flocks ++ [{ oneFlock 5 with idx := 1 }] }
/-- A spawn waits for a slot of the core. -/
def behindSpawn : State := { withEntry (sup []) with placing := [⟨0, [9], [⟨31, 0, 0, oneThread 5 []⟩], 4, false⟩] }
/-- What a `spawn` of v120 with its entry in v8 names. -/
def spawnNames : Thread → Names := fun _ =>
  { vr := [(120, 8), (8, 2)], sr := selS 126 false, tags := typed 1 8 2 integerTags, limits := [((120 : Nat) < (120#7 : BitVec 7).toNat, 0), ((8#7 : BitVec 7).toNat % 2 == 1, 1)] }
/-- What its children come to in the one thread. -/
def kidsAt (s : State) : State × Acc4 × List (Nat × Kid) :=
  kidsOf (issueOf s (ctlWord h0 4 120#7 8#7 126#7)) false spawnNames 120 8 126 7#32 (found s (issueOf s (ctlWord h0 4 120#7 8#7 126#7))) {} []
    (issueOf s (ctlWord h0 4 120#7 8#7 126#7)).act
theorem kids_split (s : State) (h : (kidsAt s).2.1 = {}) : kidsAt s = ((kidsAt s).1, {}, (kidsAt s).2.2) := by rw [← h]
theorem witness_SpawnWord (c : Obligations.SpawnWord) :
    Completes (.spawn h0 120#7 8#7 126#7 7#32) (withEntry (sup [])) ∧ Completes (.spawn h0 120#7 8#7 126#7 7#32) fullCore ∧
    Completes (.spawn h0 120#7 8#7 126#7 7#32) behindSpawn :=
  ⟨⟨_, ((c.1 h0 120#7 8#7 126#7 7#32 (withEntry (sup [])) (issueOf (withEntry (sup [])) (ctlWord h0 4 120#7 8#7 126#7)) (kidsAt (withEntry (sup []))).1 _ (kidsAt (withEntry (sup []))).2.2 _ rfl
      (by decide +kernel) (kids_split (withEntry (sup [])) (by decide +kernel))).2 (by decide +kernel) rfl).1 (by decide +kernel)⟩,
    ⟨_, ((c.1 h0 120#7 8#7 126#7 7#32 fullCore (issueOf fullCore (ctlWord h0 4 120#7 8#7 126#7)) (kidsAt fullCore).1 _ (kidsAt fullCore).2.2 _ rfl
      (by decide +kernel) (kids_split fullCore (by decide +kernel))).2 (by decide +kernel) rfl).2 (by decide +kernel)⟩,
    ⟨_, (c.1 h0 120#7 8#7 126#7 7#32 behindSpawn (issueOf behindSpawn (ctlWord h0 4 120#7 8#7 126#7)) (kidsAt behindSpawn).1 (kidsAt behindSpawn).1 (kidsAt behindSpawn).2.2 [] rfl
      (by decide +kernel) (kids_split behindSpawn (by decide +kernel))).1 (by decide +kernel) (by decide +kernel)⟩⟩
/-- The child of a thread, and a child that joins an open bin. -/
theorem witness_SpawnPlace (c : Obligations.SpawnWord) :
    (∃ k, (kidOf (withEntry (sup [])) (threadOf (sup []) 1) 120 8 7).2 = .ok k ∧ k.th.alloc = 160) ∧
    (∃ x : State, (placeKid x 0 ⟨3, 0, 0, { oneThread 5 [] with pc := 0x2000#57 }⟩).2 = true) := by
  refine ⟨?_, { demo 5 [] [] with bins := [⟨50, 0, 5, 0x2000#57, 0, 9, 0, 160, 0, 0, false⟩] }, ?_⟩
  · exact ⟨_, by rw [c.2.1 (withEntry (sup [])) (withEntry (sup [])) (withEntry (sup [])) (threadOf (sup []) 1) 120 8 7 0x1FF0 none (natLe 8 (1000 + (5 + 8 * 64) * 2 ^ 32) ++ natLe 8 0)
      (by decide +kernel) (by unfold Granted; decide +kernel) (by decide +kernel) (by decide +kernel) (by decide) (by decide +kernel) (Nat.le_refl _) (by decide +kernel)], by decide +kernel⟩
  · rw [c.2.2 _ 0 _ ⟨50, 0, 5, 0x2000#57, 0, 9, 0, 160, 0, 0, false⟩ 3 0 160 (by decide +kernel) (by decide +kernel) (by decide +kernel)]

/-- A request of four words in local store at 0x100. -/
def request (w0 w1 w2 w3 : Nat) : List (Nat × Nat) := [(0x100, w0), (0x108, w1), (0x110, w2), (0x118, w3)]

theorem witness_CopyWords (c : Obligations.CopyWords) :
    Completes (.copy h0 12#7 10#7 13#7) (sup (request (0x200 + 2 ^ 57 + 2 ^ 58) 0x400 0 0)) ∧ Completes (.copyLit h0 12#7 10#7 128#32) (sup (request 0x2000 0x4000 (64 + 64 * 2 ^ 32) 64)) ∧
    Completes (.copyx h0 12#7 10#7 126#7) (sup (request (0x200 + 2 ^ 57 + 2 ^ 58) 0x400 0 64)) ∧ Completes (.copyxLit h0 12#7 10#7 64#32) (sup (request (0x2000 + 2 ^ 58) 0x400 0 64)) :=
  ⟨useTurns (c h0 12#7 10#7 13#7 none false) _ (by decide +kernel) (by decide +kernel) (by unfold Readable usable; decide +kernel),
    useTurns (c h0 12#7 10#7 13#7 (some 128#32) false) _ (by decide +kernel) (by decide +kernel) (by unfold Readable usable; decide +kernel),
    useTurns (c h0 12#7 10#7 126#7 none true) _ (by decide +kernel) (by decide +kernel) (by unfold Readable usable; decide +kernel),
    useTurns (c h0 12#7 10#7 126#7 (some 64#32) true) _ (by decide +kernel) (by decide +kernel) (by unfold Readable usable; decide +kernel)⟩

/-- A tensor of 33 elements of 16 bytes with one extra word, in slot 1 of core 0. -/
def oneTensor (job slot : Nat) : Tensor :=
  { core := 0, slot := slot, job := job, bind := 50, recAt := 0x1000, base := 0x4000, esize := 2, xctx := 1, routine := 0x8000, regs := 5, fallow := 0x6000, etag := 3#4, count := 33
    prio := 1, ctrbase := 0#64, sweeps := 0#32, cursor := 0, active := false, tstart := 0#64, binder := none, asked := false }
/-- A sound tensor record in local store at 0x100, its fields those of that tensor. -/
def tensorRecord : List (Nat × Nat) :=
  [(0x100, 0x4000 + 2 * 2 ^ 57 + 2 ^ 59), (0x108, 0x8000 + 5 * 2 ^ 57), (0x110, 0x6000 + 3 * 2 ^ 57), (0x118, 33 + 2 ^ 22), (0x120, 0), (0x128, 0), (0x130, 0), (0x138, 0)]
/-- A supervisor thread, with tensors bound on its core. -/
def bound (slots : List Nat) (words : List (Nat × Nat)) : State := { sup words with tensors := slots.map (oneTensor supJob) }
theorem witness_TensorWords (c : Obligations.TensorWords) :
    Completes (.tdecl h0 127#7 12#7) (bound [0, 1, 2, 3, 4, 5, 6] tensorRecord) ∧ Completes (.tdecl h0 127#7 12#7) (bound (upFrom 0 8) tensorRecord) ∧
    Completes (.sweep h0 13#7 10#7 13#7) (bound [1] []) ∧ Completes (.sweepLit h0 13#7 10#7 5#32) (bound [1] []) ∧
    Completes (.eyield h0 0#7) (withThread (sup []) fun t => { t with role := .sweep 7 32 }) ∧ Completes (.tfree h0 13#7) (sup []) ∧ Completes (.tfree h0 13#7) (bound [1] []) :=
  ⟨useTurns (c.1 h0 127#7 12#7) _ (by decide +kernel) trivial ⟨by decide +kernel, by decide +kernel, by decide +kernel, by decide +kernel, 7, by decide +kernel, by decide +kernel, by decide +kernel, by decide +kernel⟩,
    useTurns (c.2.1 h0 127#7 12#7) _ (by decide +kernel) trivial (by decide +kernel),
    useTurns (c.2.2.1 h0 13#7 10#7 13#7 none) _ (by decide +kernel) trivial ⟨oneTensor supJob 1, by unfold usable; decide +kernel⟩,
    useTurns (c.2.2.1 h0 13#7 10#7 0#7 (some 5#32)) _ (by decide +kernel) trivial ⟨oneTensor supJob 1, by unfold usable; decide +kernel⟩,
    useTurns (c.2.2.2.1 h0 0#7 7) _ (by decide +kernel) trivial ⟨32, by decide +kernel⟩, useGroup (c.2.2.2.2.1 h0 13#7) _ (by decide +kernel) trivial (by decide +kernel),
    useGroup (c.2.2.2.2.2 h0 13#7) _ (by decide +kernel) trivial ⟨oneTensor supJob 1, by decide +kernel⟩⟩
theorem witness_ElementWords (c : Obligations.ElementWords) :
    (Completes (.ectxld h0 124#7 13#7 0#3 1#3) (bound [1] []) ∧ Completes (.ectxldLit h0 126#7 13#7 1#3 1#3 31#32) (bound [1] []) ∧
      Completes (.ectxld h0 126#7 13#7 2#3 1#3) (bound [1] []) ∧ Completes (.ectxld h0 127#7 13#7 5#3 1#3) (bound [1] [])) ∧
    (Completes (.ectxst h0 124#7 13#7 0#3 1#3) (bound [1] []) ∧ Completes (.ectxstLit h0 126#7 13#7 2#3 1#3 31#32) (bound [1] []) ∧
      Completes (.ectxst h0 127#7 13#7 5#3 1#3) (bound [1] []) ∧ Completes (.ectxst h0 13#7 13#7 5#3 1#3) (bound [1] [])) := by
  have ok : ∀ (x : State) (t : Thread) (d : BitVec 7) (e : Nat) (w k : BitVec 3) (write : Bool), tensorAt x t.core k.toNat = some (oneTensor supJob 1) → t.job = supJob →
      (d.toNat % ((elementSize (oneTensor supJob 1) w + 3) / 4) = 0 ∧ e < 33 ∧ w.toNat ≤ 5 ∧ (2 ≤ w.toNat → w.toNat ≤ 4 → w.toNat - 2 < 1)) →
      (match (globalAt x t (elementAt (oneTensor supJob 1) e w) (elementSize (oneTensor supJob 1) w) (elementSize (oneTensor supJob 1) w) write).2 with
        | .at _ _ => true | .out _ => false) = true →
      ∃ tn y q g, ElementOk x t d e w k tn ∧ Granted x t (elementAt tn e w) (elementSize tn w) (elementSize tn w) write y q g := by
    intro x t d e w k write h1 h2 h3 h4
    obtain ⟨y, q, g, h⟩ := granted_of h4
    exact ⟨_, y, q, g, ⟨h1, h2.symm, h3.1, h3.2.1, h3.2.2.1, h3.2.2.2⟩, h⟩
  have ld : ∀ (x : State) (t : Thread) (d : BitVec 7) (e : Nat) (w k : BitVec 3) (pc : VAddr), tensorAt x t.core k.toNat = some (oneTensor supJob 1) → t.job = supJob →
      (d.toNat % ((elementSize (oneTensor supJob 1) w + 3) / 4) = 0 ∧ e < 33 ∧ w.toNat ≤ 5 ∧ (2 ≤ w.toNat → w.toNat ≤ 4 → w.toNat - 2 < 1)) →
      (match globalAt x t (elementAt (oneTensor supJob 1) e w) (elementSize (oneTensor supJob 1) w) (elementSize (oneTensor supJob 1) w) false with
        | (y, .at q g) => (loadOrTrap y t pc (elementAt (oneTensor supJob 1) e w) q (elementSize (oneTensor supJob 1) w) g (elementFmt t d e w (oneTensor supJob 1))).2.isNone
        | (_, .out _) => false) = true →
      ∃ tn y q g, ElementOk x t d e w k tn ∧ Granted x t (elementAt tn e w) (elementSize tn w) (elementSize tn w) false y q g ∧
        (loadOrTrap y t pc (elementAt tn e w) q (elementSize tn w) g (elementFmt t d e w tn)).2 = none := by
    intro x t d e w k pc h1 h2 h3 h4
    obtain ⟨y, q, g, h, hl⟩ := granted_load h4
    exact ⟨_, y, q, g, ⟨h1, h2.symm, h3.1, h3.2.1, h3.2.2.1, h3.2.2.2⟩, h, hl⟩
  exact ⟨⟨useTurns (c.1 h0 124#7 13#7 0#3 1#3 none) _ (by decide +kernel) trivial (ld _ _ _ _ _ _ _ (by decide +kernel) (by decide +kernel) (by decide +kernel) (by decide +kernel)),
      useTurns (c.1 h0 126#7 13#7 1#3 1#3 (some 31#32)) _ (by decide +kernel) trivial (ld _ _ _ _ _ _ _ (by decide +kernel) (by decide +kernel) (by decide +kernel) (by decide +kernel)),
      useTurns (c.1 h0 126#7 13#7 2#3 1#3 none) _ (by decide +kernel) trivial (ld _ _ _ _ _ _ _ (by decide +kernel) (by decide +kernel) (by decide +kernel) (by decide +kernel)),
      useTurns (c.1 h0 127#7 13#7 5#3 1#3 none) _ (by decide +kernel) trivial (ld _ _ _ _ _ _ _ (by decide +kernel) (by decide +kernel) (by decide +kernel) (by decide +kernel))⟩,
    useTurns (c.2 h0 124#7 13#7 0#3 1#3 none) _ (by decide +kernel) trivial (ok _ _ _ _ _ _ _ (by decide +kernel) (by decide +kernel) (by decide +kernel) (by decide +kernel)),
    useTurns (c.2 h0 126#7 13#7 2#3 1#3 (some 31#32)) _ (by decide +kernel) trivial (ok _ _ _ _ _ _ _ (by decide +kernel) (by decide +kernel) (by decide +kernel) (by decide +kernel)),
    useTurns (c.2 h0 127#7 13#7 5#3 1#3 none) _ (by decide +kernel) trivial (ok _ _ _ _ _ _ _ (by decide +kernel) (by decide +kernel) (by decide +kernel) (by decide +kernel)),
    useTurns (c.2 h0 13#7 13#7 5#3 1#3 none) _ (by decide +kernel) trivial (ok _ _ _ _ _ _ _ (by decide +kernel) (by decide +kernel) (by decide +kernel) (by decide +kernel))⟩
/-- The rows of the active lanes are granted. -/
theorem rows_of {r : State × Except Out (List (Nat × List (Nat × Nat × Option Nat)))} (h : (match r.2 with | .ok _ => true | .error _ => false) = true) :
    ∃ y l, r = (y, .ok l) := by
  obtain ⟨s, e | l⟩ := r
  · cases h
  · exact ⟨s, l, rfl⟩
/-- They are granted, and something holds of what they come to. -/
theorem rows_load {r : State × Except Out (List (Nat × List (Nat × Nat × Option Nat)))} {p : State → List (Nat × List (Nat × Nat × Option Nat)) → Prop} [∀ y l, Decidable (p y l)]
    (h : (match r with | (y, .ok l) => decide (p y l) | (_, .error _) => false) = true) : ∃ y l, r = (y, .ok l) ∧ p y l := by
  obtain ⟨s, e | l⟩ := r
  · cases h
  · exact ⟨s, l, rfl, of_decide_eq_true h⟩
theorem witness_MatrixWords (c : Obligations.MatrixWords) :
    Completes (.mma h0 7#7 8#7 7#3 0#4) (sup []) ∧ Completes (.mma h0 0#7 8#7 0#3 7#4) (sup []) ∧ Completes (.mld h0 0#7 8#7 11#4) (sup []) ∧
    Completes (.mldLit h0 7#7 8#7 0#4 0x80#32) (sup []) ∧ Completes (.mst h0 7#7 8#7 1#7) (sup []) ∧ Completes (.mstLit h0 0#7 8#7 10#7 0xFFFFFF80#32) (sup []) ∧
    Completes (.mzero h0 7#7 3#4) (sup []) ∧ Completes (.mzero h0 0#7 1#4) (sup []) :=
  ⟨useGroup (c.1 h0 7#7 8#7 7#3 0#4 (by decide) (by decide)) _ (by decide +kernel) (by decide +kernel) (by decide +kernel),
    useGroup (c.1 h0 0#7 8#7 0#3 7#4 (by decide) (by decide)) _ (by decide +kernel) (by decide +kernel) (by decide +kernel),
    useGroup (c.2.1 h0 0#7 8#7 11#4 none (by decide) (by decide)) _ (by decide +kernel) trivial (rows_load (by decide +kernel)),
    useGroup (c.2.1 h0 7#7 8#7 0#4 (some 0x80#32) (by decide) (by decide)) _ (by decide +kernel) trivial (rows_load (by decide +kernel)),
    useGroup (c.2.2.1 h0 7#7 8#7 1#7 none (by decide) (by decide)) _ (by decide +kernel) trivial ⟨fun h => absurd rfl h, rows_of (by decide +kernel)⟩,
    useGroup (c.2.2.1 h0 0#7 8#7 10#7 (some 0xFFFFFF80#32) (by decide) (by decide)) _ (by decide +kernel) trivial ⟨fun _ => by unfold usable; decide +kernel, rows_of (by decide +kernel)⟩,
    useGroup (c.2.2.2.1 h0 7#7 3#4 (by decide) (by decide)) _ (by decide +kernel) trivial trivial,
    useGroup (c.2.2.2.1 h0 0#7 1#4 (by decide) (by decide)) _ (by decide +kernel) trivial trivial⟩
theorem witness_TileRetag (c : Obligations.MatrixWords) : ((⟨3#4, [], 7⟩ : Tile).retag 7 1#4).tag = 1#4 := (c.2.2.2.2 ⟨3#4, [], 7⟩ 7 1#4 (by decide)).1
/-- Texture coordinates in v40 and v41, a level in v42; the rectangle of a beam in v50 and v51 after its view in v48, and an empty one in v54, v55. -/
def renderer : State :=
  withMem (demo supJob [(8, 0x2000, 0), (10, 4095, 0), (13, 1, 0), (40, 0x3F000000, 3), (41, 0x3F000000, 3), (48, 0x2000, 0), (50, 0x1FFF1FFF, 0), (51, 0x1FFF1FFF, 0),
    (52, 0x2000, 0), (54, 1, 0)] []) [(0x2000, 0x8000), (0x2008, 7 + 7 * 2 ^ 16 + 2 * 2 ^ 36)]
theorem reads_of {r : State × Except Out (List Byte)} {g : State → List Byte → State × Except Out (List (List Byte))} {p : List Byte → Prop} [DecidablePred p]
    (h : (match r with | (y, .ok db) => decide (p db) && (match (g y db).2 with | .ok _ => true | .error _ => false) | (_, .error _) => false) = true) :
    ∃ y db z bs, r = (y, .ok db) ∧ p db ∧ g y db = (z, .ok bs) := by
  obtain ⟨y, e | db⟩ := r
  · cases h
  · simp only [Bool.and_eq_true, decide_eq_true_eq] at h
    rcases hg : g y db with ⟨z, e | bs⟩
    · rw [hg] at h; cases h.2
    · exact ⟨y, db, z, bs, rfl, h.1, hg⟩
theorem witness_TraversalAndTextureWords (c : Obligations.TraversalAndTextureWords) :
    Completes (.trace h0 8#7 10#7 13#7) renderer ∧ Completes (.traceLit h0 8#7 10#7 9#32) renderer ∧ Completes (.beam h0 48#7 10#7 13#7) renderer ∧
    Completes (.beamLit h0 52#7 10#7 9#32) renderer ∧ Completes (.hitget h0 120#7 8#7 0#2) renderer ∧ Completes (.hitget h0 0#7 8#7 2#2) renderer ∧ Completes (.tex h0 124#7 8#7 40#7) renderer := by
  refine ⟨useTurns (c.1.1 h0 8#7 10#7 13#7 none) _ (by decide +kernel) trivial (by unfold usable; decide +kernel),
    useTurns (c.1.1 h0 8#7 10#7 13#7 (some 9#32)) _ (by decide +kernel) trivial (by unfold usable; decide +kernel),
    useTurns (c.1.2.1 h0 48#7 10#7 13#7 none).1 _ (by decide +kernel) trivial (by unfold usable; decide +kernel),
    useTurns (c.1.2.1 h0 52#7 10#7 13#7 (some 9#32)).2 _ (by decide +kernel) trivial (by unfold usable; decide +kernel),
    useTurns (c.1.2.2 h0 120#7 8#7 0#2) _ (by decide +kernel) trivial ⟨by decide +kernel, by decide +kernel, granted_load (by decide +kernel)⟩,
    useTurns (c.1.2.2 h0 0#7 8#7 2#2) _ (by decide +kernel) trivial ⟨by decide +kernel, by decide +kernel, granted_load (by decide +kernel)⟩,
    useTurns (c.2 h0 124#7 8#7 40#7) _ (by decide +kernel) trivial ?_⟩
  exact reads_of (p := fun db => textureBad (textureOf db) = none) (by decide +kernel)

/-- A supervisor thread with a request, and connection 4,095 and channels 0 and 1,023 of its job. -/
def connected (words : List (Nat × Nat)) : State :=
  withRegs (sup words) [(connOff 4095, 2 ^ 48 + supJob * 2 ^ 32), (chanOff 0, 2 ^ 48 + supJob * 2 ^ 32), (chanOff 1023, 2 ^ 48 + supJob * 2 ^ 32), (0x508, 64)]
/-- A put accepted by die 0. -/
def somePut (k : PortKind) : PortOp :=
  { id := 9, die := 0, kind := k, core := 0, job := supJob, pc := 0#57, req := [0x3000#64, 0#64, BitVec.ofNat 64 (64 + 4095 * 2 ^ 32), 0#64], base := [], handle := 4095#64, amount := 1, armed := none
    started := false, uid := 1, chan := 0, void := false, written := false }
theorem eng_ok {α : Type} {r : State × EngRes α} (h : (match r.2 with | .ok _ => true | _ => false) = true) : ∃ y a, r = (y, .ok a) := by
  obtain ⟨s, e | l⟩ := r
  · exact ⟨s, _, rfl⟩
  · cases h
  · cases h
/-- The engine does not wait for what it asked. -/
theorem not_wait {α : Type} {r : State × EngRes α} (h : (match r.2 with | .wait => false | _ => true) = true) : r.2 ≠ .wait := by
  intro k
  rw [k] at h
  cases h
theorem witness_NetworkWords (c : Obligations.NetworkWords) :
    Completes (.put h0 12#7 10#7 13#7) (connected (request 0x3000 (1023 * 2 ^ 40) (64 + 4095 * 2 ^ 32) 0)) ∧
    Completes (.getLit h0 12#7 10#7 7#32) (connected (request 0x3000 0 (4095 * 2 ^ 32) 0)) ∧ Completes (.send h0 12#7 10#7 13#7) (connected (request 0x3000 0 (64 + 4095 * 2 ^ 32) 0)) ∧
    Completes (.rwsend h0 12#7 5#6 false 13#7) (connected (request 0x3000 0 (1023 * 2 ^ 32) 0)) ∧ Completes (.rwsendLit h0 12#7 5#6 true 7#32) (connected (request 0x3000 0 0 0)) ∧
    QuietRead (connected []) (startNet (connected []) (somePut .send)) ∧ Quiet (connected []) (startNet (connected []) (somePut .get)) := by
  refine ⟨useTurns (c.1 .put h0 12#7 10#7 13#7 none (by decide)) _ (by decide +kernel) trivial (by unfold Readable usable; decide +kernel),
    useTurns (c.1 .get h0 12#7 10#7 13#7 (some 7#32) (by decide)) _ (by decide +kernel) trivial (by unfold Readable usable; decide +kernel),
    useTurns (c.1 .send h0 12#7 10#7 13#7 none (by decide)) _ (by decide +kernel) trivial (by unfold Readable usable; decide +kernel),
    useTurns (c.2.1 h0 12#7 5#6 false 13#7 none) _ (by decide +kernel) trivial
      ⟨by unfold Readable; decide +kernel, by decide +kernel, by decide +kernel, by unfold usable; decide +kernel, by decide +kernel, not_wait (by decide +kernel), by decide +kernel⟩,
    useTurns (c.2.1 h0 12#7 5#6 true 13#7 (some 7#32)) _ (by decide +kernel) trivial
      ⟨by unfold Readable; decide +kernel, by decide +kernel, by decide +kernel, by unfold usable; decide +kernel, by decide +kernel, not_wait (by decide +kernel), by decide +kernel⟩, ?_,
    (c.2.2.2 (connected []) (somePut .get) (by decide +kernel) (by decide +kernel) rfl).2⟩
  obtain ⟨y, bs, h⟩ := eng_ok (r := engRead (connected []) 0 supJob 9 (somePut .send).laddr (somePut .send).len) (by decide +kernel)
  exact (c.2.2.1 (connected []) y (somePut .send) bs (by decide +kernel) (by decide +kernel) h).1 (by decide)
/-- An armed request for an addition, in local store at 0x100. -/
def armedRequest : List (Nat × Nat) := [(0x100, 4095), (0x108, 3), (0x110, 4), (0x118, 0), (0x120, 0), (0x128, 0), (0x130, 4095), (0x138, 4095)]
/-- Every entry of the port armed. -/
def allArmed : State := { sup armedRequest with armed := (upFrom 0 1024).map fun k => ⟨0, k, 1, 0, supJob, 0#57, 0⟩ }
theorem none_free (x : State) {d : Nat} (hd : d = 0) (h : x.armed = allArmed.armed) : freeArmed x d = none := by
  subst hd
  simp only [freeArmed, h, allArmed, List.find?_eq_none, List.any_map, Bool.not_eq_true, Bool.not_eq_false']
  intro i hi
  exact List.any_eq_true.mpr ⟨i, hi, by simp⟩
theorem witness_ArmWord (c : Obligations.ArmWord) :
    Completes (.post h0 127#7 12#7) (sup armedRequest) ∧
    Completes (.post h0 127#7 12#7) allArmed :=
  ⟨useTurns (c h0 127#7 12#7).2 _ (by decide +kernel) trivial (by unfold Readable; decide +kernel),
    useTurns (c h0 127#7 12#7).1 allArmed (by decide +kernel) trivial ⟨by unfold Readable; decide +kernel, none_free _ (by decide +kernel) rfl⟩⟩
theorem witness_CollectiveWords (c : Obligations.CollectiveWords) :
    Completes (.cgraph h0 12#7 10#7 13#7) (connected (request 0x3000 512 (4 * 2 ^ 61 + 63) 0)) ∧ Completes (.cgraphLit h0 12#7 10#7 1#32) (connected (request 0x3000 1 (4 * 2 ^ 61) 0)) ∧
    Completes (.coll h0 12#7 10#7 13#7) (connected (request (0x200 + 7 * 2 ^ 32) 0 0 0)) ∧ Completes (.collLit h0 12#7 10#7 1#32) (connected (request 0x200 0 0 0)) ∧
    Completes (.comp h0 12#7 10#7 13#7) (connected (request 0x3000 0x5FF0 (0x1010 + 3 * 2 ^ 32 + 3 * 2 ^ 34) 0)) ∧ Completes (.compLit h0 12#7 10#7 1#32) (connected (request 0x3000 0x5000 0 0)) :=
  ⟨useTurns (c.1 h0 12#7 10#7 13#7 none) _ (by decide +kernel) trivial (by unfold Readable usable; decide +kernel),
    useTurns (c.1 h0 12#7 10#7 13#7 (some 1#32)) _ (by decide +kernel) trivial (by unfold Readable usable; decide +kernel),
    useTurns (c.2.1 h0 12#7 10#7 13#7 none) _ (by decide +kernel) trivial (by unfold Readable usable; decide +kernel),
    useTurns (c.2.1 h0 12#7 10#7 13#7 (some 1#32)) _ (by decide +kernel) trivial (by unfold Readable usable; decide +kernel),
    useTurns (c.2.2 h0 12#7 10#7 13#7 none) _ (by decide +kernel) trivial (by unfold Readable usable; decide +kernel),
    useTurns (c.2.2 h0 12#7 10#7 13#7 (some 1#32)) _ (by decide +kernel) trivial (by unfold Readable usable; decide +kernel)⟩

/-! ## Steps of other agents: results, schedule, launcher -/

/-- A result that has returned, for thread 1. -/
def someResult : Result :=
  { id := 7, uids := [1], ready := true, v := [], s := [], g := [], st := [], buf := [], fmt := none, poisoned := false, pc := 0#57, at_ := 0, addr := 0, counter := false, left := none }
/-- Its thread waits for that result alone, parked. -/
def awaiting (r : Result) : State :=
  { withThread (demo 5 [(127, 9, 2)] []) (fun t => { t with parked := true, wait := .results }) with results := [r] }
theorem awaiting_returned {r : Result} (h : r.id = 7) (k : returned (awaiting r) r = true) : Returned (awaiting r) 7 r := by
  have e : (awaiting r).results = [r] := rfl
  simp [Returned, e, h, k]
theorem witness_ResultWriteback (c : Obligations.ResultWriteback) :
    Completes (.resultWriteback 7) (awaiting someResult) ∧ Completes (.resultWriteback 7) (awaiting { someResult with v := [⟨1, 127, ⟨5#32, 2#4⟩⟩] }) ∧
    Completes (.resultWriteback 7) (awaiting { someResult with s := [⟨0, 0, 31, 5#32⟩] }) ∧
    Completes (.resultWriteback 7) (awaiting { someResult with g := [(1, false)], st := [(1, 0x8000#16)] }) ∧
    Completes (.resultWriteback 7) (awaiting { someResult with buf := [some 1#8, some 2#8, some 3#8, some 4#8], fmt := some (.regs 1 127 [3#4]) }) :=
  ⟨(c.1 _ 7 _ (awaiting_returned rfl rfl)).imp fun _ h => h.1, ⟨_, c.2.1 _ 7 1 127 ⟨5#32, 2#4⟩ _ (awaiting_returned rfl rfl) rfl rfl rfl rfl rfl rfl⟩,
    ⟨_, c.2.2.1 _ 7 0 0 31 5#32 _ (awaiting_returned rfl rfl) rfl rfl rfl rfl rfl rfl⟩,
    ⟨_, c.2.2.2.1 _ 7 1 false 0x8000#16 _ (awaiting_returned rfl rfl) rfl rfl rfl rfl rfl rfl⟩,
    (c.2.2.2.2 _ 7 1 127 [3#4] _ _ (awaiting_returned rfl rfl) rfl rfl rfl rfl rfl rfl (by rfl) (by decide +kernel)).imp fun _ h => h.choose_spec.1⟩

/-- A due bin of core 0 that asks for the tiles that are left. -/
def someBin : Bin := { id := 3, core := 0, job := 5, entry := 0x1000#57, sgl := 0, deadline := 10, since := 0, alloc := 32, tiles := 56, prio := 2, due := true }
/-- A spawn of thread 1 that waits for its child. -/
def somePlacing : Placing := { core := 0, group := [1], kids := [⟨31, 0, 0, { oneThread 5 [] with uid := 2, lane := 31 }⟩], len := 32, sbit := false }
/-- The flock waits for its admission. -/
def waiting1 : State := { demo 5 [] [] with flocks := [{ oneFlock 5 with resident := false }], waitset := [(0, 0)] }
/-- Two flocks wait. -/
def waiting2 : State := { waiting1 with flocks := [{ oneFlock 5 with resident := false }, { oneFlock 5 with idx := 1, resident := false }], waitset := [(0, 0), (0, 1)] }
/-- A resident flock whose residency is over, and one that waits and does not fit. -/
def rotates (since : Nat) : State :=
  { demo 5 [] [] with
    ftime := [(0, 300000)], flocks := [{ oneFlock 5 with since := since }, { oneFlock 5 with idx := 1, resident := false, tiles := List.replicate 64 Tile.zero }], waitset := [(0, 1)] }
/-- A deferred victim. -/
def deferred : State := { demo 5 [] [] with flocks := [{ oneFlock 5 with evicting := true }] }
theorem saved_of {r : State × Except Nat Nat} (h : (match r.2 with | .ok _ => true | .error _ => false) = true) : ∃ y o, r = (y, .ok o) := by
  obtain ⟨s, e | o⟩ := r
  · cases h
  · exact ⟨s, o, rfl⟩
/-- A supervisor's flock with no member left, and a save area of 1 MiB at 2^20. -/
def saving : State :=
  { withRegs (withMem (demo supJob [] []) [(2 ^ 22 + 64 * 65535 + 32, 2 ^ 20), (2 ^ 22 + 64 * 65535 + 40, 2 ^ 20)]) [(0x300, 2 ^ 22)] with threads := [], flocks := [{ oneFlock supJob with tiles := [] }] }
theorem witness_ScheduleEvents (c : Obligations.ScheduleEvents) :
    (Completes (.prioAge 1) { demo 5 [] [] with cycle := 4096 } ∧ Completes (.binTimerExpiry 3) { demo 5 [] [] with bins := [{ someBin with due := false }], ftime := [(0, 10)] } ∧
      Completes (.binLaunch 3) { demo 5 [] [] with bins := [someBin] } ∧ Completes (.spawnDeferredPlacement 1) { demo 5 [] [] with placing := [somePlacing] } ∧
      Completes (.flockAdmit 0) waiting1 ∧ Completes (.flockAdmit 0) waiting2 ∧ Completes (.flockAdmit 0) (rotates 0) ∧ Completes (.flockAdmit 0) (demo 5 [] []) ∧
      Completes (.rotationPoint 0) { withRegs (demo 5 [] []) [(0x28, 1)] with ftime := [(0, 100000)] } ∧ Completes (.sweepDeferredEviction 0) deferred) ∧
    nextPlacing { demo 5 [] [] with placing := [somePlacing] } 0 = some somePlacing ∧ (placeAgain { demo 5 [] [] with placing := [somePlacing] } somePlacing).placing.length = 0 ∧
    rotate (rotates 0) 0 300000 = rotateOver (rotates 0) 0 (victims (rotates 0) 0 300000) ∧ rotateOver waiting1 0 [] = admitFront waiting1 0 ∧
    rotateOver (rotates 0) 0 [oneFlock 5] = rotateOver (evict (rotates 0) (oneFlock 5)) 0 [] := by
  obtain ⟨c1, c2, c3, c4, c5, c6, c7, c8, c9, c10, c11, c12, c13, -, -, -, c17⟩ := c
  refine ⟨⟨⟨_, c1 _ 1 _ (by rfl) (by decide +kernel) (by decide +kernel)⟩, ⟨_, c2 _ 3 _ (by rfl) (by decide +kernel) (by decide +kernel)⟩,
      ⟨_, c3 _ 3 someBin (by rfl) (by decide +kernel) rfl (by decide +kernel)⟩,
      ⟨_, c4 _ somePlacing 1 [] rfl (by rfl) (by rfl)⟩,
      ⟨_, c7 waiting1 0 { oneFlock 5 with resident := false } ⟨by rfl, by rfl, rfl, rfl, by decide +kernel, by rfl⟩ (.inl (by decide +kernel))⟩,
      ⟨_, c8 waiting2 0 { oneFlock 5 with resident := false } { oneFlock 5 with idx := 1, resident := false } ⟨by rfl, by rfl, rfl, rfl, by decide +kernel, by rfl⟩
        ⟨by rfl, by rfl, rfl, rfl, by decide +kernel, by rfl⟩ (.inl (by decide +kernel))⟩,
      ⟨_, (c9 (rotates 0) 0 (.inr ⟨{ oneFlock 5 with idx := 1, resident := false, tiles := List.replicate 64 Tile.zero }, by rfl, by rfl, rfl, by decide +kernel⟩)).1⟩, ⟨_, (c9 (demo 5 [] []) 0 (.inl (by decide +kernel))).1⟩,
      ⟨_, (c10 _ 0 rfl (by decide +kernel) (by decide +kernel) (by decide +kernel)).1⟩, ⟨_, (c17 deferred 0 _ (by rfl)).1⟩⟩,
    c5 _ somePlacing rfl ⟨_, List.mem_singleton.mpr rfl, by decide +kernel⟩, ?_, (c11 (rotates 0) 0 300000 (0, 1) (by decide +kernel) rfl).1, c12 waiting1 0 [] (by decide +kernel),
    (c13 (rotates 0) 0 (oneFlock 5) [] (by decide +kernel)).1⟩
  rw [(c6 { demo 5 [] [] with placing := [somePlacing] } _ somePlacing [] (by rfl)).2 rfl rfl]
  decide +kernel
/-- An eviction now, one that waits for a result, one that succeeds, and one whose save area cannot hold the flock. -/
theorem witness_Evictions (c : Obligations.ScheduleEvents) :
    evict (rotates 0) (oneFlock 5) = evictNow (rotates 0) (oneFlock 5) ∧ (evict (awaiting { someResult with ready := false }) (oneFlock 5)).flocks.length = 1 ∧
    (evictNow (rotates 0) (oneFlock 5)).detected.length = 1 ∧ (evictNow saving (oneFlock 5)).waitset = [(0, 0)] := by
  obtain ⟨-, -, -, -, -, -, -, -, -, -, -, -, -, c14, c15, c16, -⟩ := c
  refine ⟨(c14 (rotates 0) (oneFlock 5)).1 (by decide +kernel) (by decide +kernel), ?_, ?_, ?_⟩
  · rw [(c14 (awaiting { someResult with ready := false }) (oneFlock 5)).2 (.inr ⟨{ someResult with ready := false }, by decide +kernel, by decide +kernel⟩)]
    rfl
  · rw [c16 (rotates 0) (oneFlock 5) (by decide +kernel) (by decide +kernel) (by decide +kernel)]
    decide +kernel
  · obtain ⟨y, o, h⟩ := saved_of (r := saveFlock saving (flockOf saving 0 0)) (by decide +kernel)
    have hy : y = (saveFlock saving (flockOf saving 0 0)).1 := by rw [h]
    have w : (saveFlock saving (flockOf saving 0 0)).1.waitset = [] ∧
        ∀ r ∈ (saveFlock saving (flockOf saving 0 0)).1.rays, ∀ t ∈ membersOf (saveFlock saving (flockOf saving 0 0)).1 0 0, r.uid ≠ t.uid := by decide +kernel
    rw [c15 saving y (oneFlock 5) o (by decide +kernel) h (by decide +kernel) (by decide +kernel) (by rw [hy]; exact w.2)]
    show y.waitset ++ [(0, 0)] = [(0, 0)]
    rw [hy, w.1]
    rfl
/-- A rotation point where nothing waits. -/
theorem witness_RotationIdle (c : Obligations.ScheduleEvents) : ∃ t, exec (.rotationPoint 127) { State.reset with power := .run, ftime := [(0, 10 ^ 5)], mregs := [(0x20, 1#64), (0x30, BitVec.ofNat 64 (2 ^ 63))] } = .next t ∧ t.threads = [] := by
  obtain ⟨-, -, -, -, -, -, -, -, -, c10, -⟩ := c
  exact ⟨_, (c10 _ 127 rfl (by decide +kernel) (by decide +kernel) (by decide +kernel)).2 (by decide +kernel) (by decide +kernel), by decide +kernel⟩

/-- A launch queue of die 0 in the middle of its ring. -/
def someLq : LaunchQ := { die := 0, q := 7, t0 := some 0#64, h0 := some 0#64, k := 3, record := none, wid := none, mask := 0, placed := false, held := false, cause := 0 }
/-- The bytes that an engine has read. -/
def readBytes (r : State × EngRes (List Byte)) : List Byte :=
  match r.2 with
  | .ok l => l
  | _ => []
theorem read_is {r : State × EngRes (List Byte)} (h : (match r.2 with | .ok _ => true | _ => false) = true) : r = (r.1, .ok (readBytes r)) := by
  obtain ⟨s, e | l⟩ := r
  · rfl
  · cases h
  · cases h
/-- Queue 7 of the supervisor job, its ring of 2^16 records at 0x2000 with 4 dependencies in record 3, or with none; its tail counter shows record 3. -/
def queue7 (deps : Nat) : State :=
  let s := withRegs (sup []) [(0x28, 2 ^ 63 + 1), (0x4E0, 0x2000), (0x4E8, supJob + 16 * 2 ^ 16), (0x4F0, 4095), (0x4F8, 4094)]
  { withMem (cellSet s 4095 4) [(0x20C0, deps * 2 ^ 59), (0x20C8, 1 + 32 * 2 ^ 32), (0x20D0, 2 ^ 63), (0x20F8, 0x8000)] with lqs := [someLq] }
/-- The record of that queue. -/
def record7 (deps : Nat) : List Byte := natLe 8 (deps * 2 ^ 59) ++ natLe 8 (32 + 32 * 2 ^ 32 + 8 * 2 ^ 38) ++ natLe 8 (2 ^ 63) ++ natLe 8 0 ++ natLe 8 0 ++ natLe 8 0 ++ natLe 8 0 ++ natLe 8 0
theorem witness_LauncherEvents (c : Obligations.LauncherEvents) :
    Completes (.launchQueueEnable 2 0 7 0x10FFFF#64) (sup []) ∧ (enableQueue (sup []) 0 7).lqs.length = 1 ∧ Completes (.launchQueueDisable 2 0 7 0#64) (withRegs (sup []) [(0x4E8, 2 ^ 32)]) ∧
    (disableQueue { withRegs (sup []) [(0x4E8, 2 ^ 32)] with lqs := [someLq] } 0 7).lqs = [] ∧ Completes (.launchRecordTake 0 7) (queue7 0) ∧ Completes (.launchRecordTake 0 7) (queue7 4) ∧
    Completes (.launchRecordPlace 0 7) { queue7 0 with lqs := [{ someLq with record := some (record7 0, []) }] } ∧
    (placeRecord (queue7 0) 0 supJob (record7 0)).fresh = 132 ∧ cellGet (endRecord (queue7 0) someLq) 4094 = 1 := by
  refine ⟨⟨_, c.1 _ 2 0 7 0x10FFFF#64 (by decide +kernel) (by decide +kernel) (by decide +kernel)⟩,
    by rw [c.2.1 (sup []) 0 7 (by decide +kernel) (by decide +kernel) (by decide +kernel) (by decide +kernel)]; decide +kernel,
    ⟨_, (c.2.2.1 _ 2 0 7 0#64 (by decide +kernel) (by decide +kernel) (by decide +kernel)).1⟩,
    by rw [(c.2.2.1 { withRegs (sup []) [(0x4E8, 2 ^ 32)] with lqs := [someLq] } 2 0 7 0#64 (by decide +kernel) (by decide +kernel) (by decide +kernel)).2 someLq (by rfl) rfl]; decide +kernel,
    ⟨_, (c.2.2.2.1 (queue7 0) _ 0 7 someLq 0#64 _ (by rfl) rfl rfl rfl rfl (by decide +kernel) (by decide +kernel) (by decide +kernel) (by decide +kernel) (by decide +kernel)
      (read_is (by decide +kernel)) (by decide +kernel)).1 (by decide +kernel)⟩,
    ⟨_, (c.2.2.2.1 (queue7 4) _ 0 7 someLq 0#64 _ (by rfl) rfl rfl rfl rfl (by decide +kernel) (by decide +kernel) (by decide +kernel) (by decide +kernel) (by decide +kernel)
      (read_is (by decide +kernel)) (by decide +kernel)).2 _ _ (by decide +kernel) (read_is (by decide +kernel))⟩,
    ⟨_, c.2.2.2.2.1 _ 0 7 _ (record7 0) [] (by rfl) rfl rfl rfl (by decide +kernel) (by decide +kernel) (by decide +kernel) (.inr (by decide +kernel))⟩, ?_, ?_⟩
  · rw [c.2.2.2.2.2.1 (queue7 0) 0 supJob 32 63 (record7 0) [] (by decide +kernel) (by decide) (by decide) (by decide +kernel) (by decide +kernel)]; decide +kernel
  · have h := (c.2.2.2.2.2.2 (queue7 0) someLq (by decide +kernel) (by decide +kernel) (by rfl) (by decide +kernel) (by rfl) (by decide +kernel) (by decide +kernel)).2.2.2.1
    exact (h (.inl (by decide +kernel))).trans (by decide +kernel)

/-! ## Steps of other agents: counters and memory -/

/-- A packet of thread 1 with number 50, for unit `d`. -/
def aPacket (d : Nat) (b : Body) : Packet := { Packet.blank with id := 50, dst := d, uid := some 1, job := 5, body := b }
/-- It is the only packet. -/
def withPacket (s : State) (d : Nat) (b : Body) : State := { s with packets := [aPacket d b] }
/-- A waiter of the last cell of core 0. -/
def aWaiter (kind : Nat) (thresh : DWord) : Waiter :=
  { thresh := thresh, deadline := none, handle := 4095#64, kind := kind, cond := 0, job := 5, module := 0, unit := 0, lane := 3, slot := 2, tag := 0, uid := 1, scope := 1, spilled := false }
/-- The last cell of core 0 holds all ones, and has a waiter that 1 more than that does not meet. -/
def counting : State := { cellSet (demo 5 [] []) 4095 (2 ^ 64 - 1) with waiters := [aWaiter 0 0x8000000000000000#64] }
theorem arrives {s : State} {d : Nat} {b : Body} (h : deliverable (withPacket s d b) (aPacket d b) = true) :
    Arrives (withPacket s d b) 50 (aPacket d b) b := ⟨rfl, h, rfl⟩
theorem arrivesHome {s : State} {d : Nat} {h : DWord} {op : CtrOp} (k : deliverable (withPacket s d (.ctr h op)) (aPacket d (.ctr h op)) = true)
    (l : peerRefused (withPacket s d (.ctr h op)) (aPacket d (.ctr h op)) = false) : ArrivesHome (withPacket s d (.ctr h op)) 50 (aPacket d (.ctr h op)) h op := ⟨arrives k, l⟩
/-- A packet of module 5's die 0, which adds to a core-level counter. -/
def fromOutside (op : CtrOp) : State := { sup [] with packets := [{ aPacket 0 (.ctr 4095#64 op) with src := homeSrc 5 0, uid := none }] }
theorem witness_CounterHomeEvents (c : Obligations.CounterHomeEvents) :
    Completes (.counterAdd 50) (withPacket counting 0 (.ctr 4095#64 (.add 1))) ∧ Completes (.counterAddReturn 50) (withPacket counting 0 (.ctr 4095#64 (.addRet (2 ^ 63) 7))) ∧
    Completes (.counterRead 50) (withPacket counting 0 (.ctr 4095#64 (.read 7))) ∧ Completes (.counterSet 50) (withPacket counting 0 (.ctr 4095#64 (.set 0#64))) ∧
    Completes (.counterRegisterWait 50) (withPacket counting 0 (.ctr 4095#64 (.wait (aWaiter 1 (BitVec.allOnes 64))))) ∧
    Completes (.counterRegisterWait 50) (withPacket counting 0 (.ctr 4095#64 (.wait (aWaiter 1 0#64)))) ∧
    Completes (.counterRegisterWait 50) (withPacket { counting with waiters := List.replicate 512 (aWaiter 0 0#64) } 0 (.ctr 4095#64 (.wait (aWaiter 1 0#64)))) ∧
    Completes (.counterWithdrawWait 50) (withPacket counting 0 (.ctr 4095#64 (.withdraw 0 1))) ∧ Completes (.counterAdd 50) (fromOutside (.add 1)) := by
  refine ⟨(c.1 (withPacket counting 0 (.ctr 4095#64 (.add 1))) 50 1 _ _ (arrivesHome ?_ ?_) ?_ ⟨?_, ?_⟩).imp fun _ h => h.1,
    (c.2.1 (withPacket counting 0 (.ctr 4095#64 (.addRet (2 ^ 63) 7))) 50 (2 ^ 63) 7 _ _ (arrivesHome ?_ ?_) ?_ ⟨?_, ?_⟩).imp fun _ h => h.1,
    (c.2.2.1 (withPacket counting 0 (.ctr 4095#64 (.read 7))) 50 7 _ _ (arrivesHome ?_ ?_) ?_).imp fun _ h => h.1,
    (c.2.2.2.2.1 (withPacket counting 0 (.ctr 4095#64 (.set 0#64))) 50 _ _ 0#64 (arrivesHome ?_ ?_) ⟨?_, ?_⟩).imp fun _ h => h.1,
    ((c.2.2.2.2.2.1 (withPacket counting 0 (.ctr 4095#64 (.wait (aWaiter 1 (BitVec.allOnes 64))))) 50 _ _ (aWaiter 1 (BitVec.allOnes 64)) (arrivesHome ?_ ?_) (by decide) ?_).1
      (by unfold Tested; decide +kernel)).imp fun _ h => h.1,
    ⟨_, (c.2.2.2.2.2.1 (withPacket counting 0 (.ctr 4095#64 (.wait (aWaiter 1 0#64)))) 50 _ _ (aWaiter 1 0#64) (arrivesHome ?_ ?_) (by decide) ?_).2.1
      (by unfold Tested; decide +kernel) (.inr (by decide +kernel))⟩,
    ((c.2.2.2.2.2.1 (withPacket { counting with waiters := List.replicate 512 (aWaiter 0 0#64) } 0 (.ctr 4095#64 (.wait (aWaiter 1 0#64)))) 50 _ _ (aWaiter 1 0#64) (arrivesHome ?_ ?_)
      (by decide) ?_).2.2 (by unfold Tested; decide +kernel) ?_ ?_ ?_).imp fun _ h => h.1,
    (c.2.2.2.2.2.2 (withPacket counting 0 (.ctr 4095#64 (.withdraw 0 1))) 50 0 1 _ _ (arrivesHome ?_ ?_)).imp fun _ h => h.1,
    ⟨_, c.2.2.2.1 (fromOutside (.add 1)) 50 _ 4095#64 (.add 1) ⟨rfl, ?_, rfl⟩ ?_ ?_ (.inl (by decide))⟩⟩ <;> decide +kernel

/-- Thread 1 waits. -/
def waits (w : Waiting) : State := withThread (demo 5 [(127, 9, 2)] []) fun t => { t with wait := w }
/-- A launch queue and a replay whose waits are registered. -/
def asking : State :=
  { demo 5 [] [] with lqs := [{ someLq with wid := some 1 }], replays := [{ die := 0, slot := 0, op := 0, r := 0, t0 := 0#64, untimed := true, nodes := [.done, .asked] }] }
/-- The last wake of an all-of `cwait` of four conditions arrives. -/
def lastWake : State := withPacket (waits (.cwait 1 false true none 127 127 (List.replicate 4 ⟨4095#64, 1#64⟩) 7)) 10000 (.wake { aWaiter 1 1#64 with cond := 3 })
theorem witness_CounterCoreEvents (c : Obligations.CounterCoreEvents) :
    Completes (.counterResponse 50) (withPacket (awaiting { someResult with ready := false }) 10000 (.ctrResp 7 5#64 false)) ∧
    Completes (.counterWake 50) (withPacket (waits (.cwt 3 ⟨4095#64, 1#64⟩)) 10000 (.wake (aWaiter 0 1#64))) ∧
    Completes (.counterWake 50) lastWake ∧
    Completes (.counterWake 50) (withPacket asking 10000 (.wake { aWaiter 2 1#64 with cond := 3 })) ∧
    Completes (.counterWake 50) (withPacket asking 10000 (.wake { aWaiter 4 1#64 with tag := 1 })) ∧
    Completes (.cwaitDeadline 1) { waits (.cwait 1 false true (some 10) 127 127 [⟨4095#64, 1#64⟩] 0) with ftime := [(0, 10)] } := by
  refine ⟨⟨_, c.1 (withPacket (awaiting { someResult with ready := false }) 10000 (.ctrResp 7 5#64 false)) 50 7 5#64 _ _ (arrives (by decide +kernel)) (by decide) (by rfl)⟩,
    ⟨_, c.2.1 (withPacket (waits (.cwt 3 ⟨4095#64, 1#64⟩)) 10000 (.wake (aWaiter 0 1#64))) 50 3 _ ⟨4095#64, 1#64⟩ _ _ (arrives (by decide +kernel)) rfl (by rfl) (by decide +kernel) (by rfl) rfl⟩, ?_,
    ⟨_, c.2.2.2.1 _ 50 { aWaiter 2 1#64 with cond := 3 } _ (arrives (by decide +kernel)) rfl (by decide +kernel)⟩,
    ⟨_, c.2.2.2.2.1 _ 50 { aWaiter 4 1#64 with tag := 1 } _ _ (arrives (by decide +kernel)) rfl (by decide +kernel) (by rfl) (by decide) (by rfl)⟩, ?_⟩
  · obtain ⟨y, -, h, -⟩ := c.2.2.1 lastWake 50 1 127 127 7 true none (List.replicate 4 ⟨4095#64, 1#64⟩) _ (aPacket 10000 (.wake { aWaiter 1 1#64 with cond := 3 }))
      (threadOf (waits (.cwait 1 false true none 127 127 (List.replicate 4 ⟨4095#64, 1#64⟩) 7)) 1) (arrives (by decide +kernel)) rfl (by rfl) (by decide +kernel) (by rfl) nofun (by decide +kernel)
      (by rfl) (by decide)
      (by intro q hq; have h : othersThan lastWake 50 = [] := by decide +kernel
          rw [h] at hq; cases hq) (by decide +kernel)
    exact ⟨y, h⟩
  · obtain ⟨y, -, h, -⟩ := c.2.2.2.2.2.2 { waits (.cwait 1 false true (some 10) 127 127 [⟨4095#64, 1#64⟩] 0) with ftime := [(0, 10)] } 1 10 127 127 0 true [⟨4095#64, 1#64⟩]
      (threadOf (waits (.cwait 1 false true (some 10) 127 127 [⟨4095#64, 1#64⟩] 0)) 1) (by rfl) (by decide +kernel) (by rfl) (by decide +kernel) (by decide +kernel) (by decide +kernel)
    exact ⟨y, h⟩
/-- Job 5 is halted in halt slot 15 of die 0. -/
def heldJob (s : State) : State := withRegs s [(0xCC0, 5 + 2 ^ 16 + 2 ^ 17), (0xCD0, 2)]
theorem witness_HeldDeadline (c : Obligations.CounterCoreEvents) : Completes (.cwaitDeadline 1) (heldJob (waits (.cwait 1 false true (some 10) 127 127 [⟨4095#64, 1#64⟩] 0))) :=
  ⟨_, c.2.2.2.2.2.1 _ 1 10 127 127 0 true [⟨4095#64, 1#64⟩] (threadOf (waits (.cwait 1 false true (some 10) 127 127 [⟨4095#64, 1#64⟩] 0)) 1) (by rfl) (by decide +kernel) (by rfl)⟩

/-- Window 255 of port 1 names the last cell of core 0, or a malformed handle. -/
def window (h : DWord) : State := { counting with windows := [⟨1, 255, h, 0#64, false⟩] }
/-- A level 4 counter of die 11 of the last module. -/
def outside : DWord := BitVec.ofNat 64 (4 * 2 ^ 61 + 8191 * 2 ^ 48 + 11 * 2 ^ 44 + 5)
/-- What comes back of a host's addition there, or of its read. -/
def backFor (k : Nat) : State := withPacket (window outside) 10000 (.ctrResp (2 ^ 64 + k) 5#64 false)
theorem witness_ApertureEvents (c : Obligations.ApertureEvents) :
    Completes (.apertureAdd 1 255 0xFFFFFFFF#64) (window 4095#64) ∧ Completes (.apertureFadd 1 255 1#64) (window 4095#64) ∧ Completes (.apertureValueRead 1 255) (window 4095#64) ∧
    Completes (.apertureValueRead 1 255) (window (BitVec.allOnes 64)) ∧
    Completes (.apertureAdd 1 255 0xFFFFFFFF#64) (window outside) ∧ Completes (.apertureFadd 1 255 1#64) (window outside) ∧ Completes (.apertureValueRead 1 255) (window outside) ∧
    Completes (.counterResponse 50) (backFor 511) ∧ Completes (.counterResponse 50) (backFor 1023) ∧
    hostRead 1 2 (64 * 255 + 0x38) (window 4095#64) = { window 4095#64 with hostOut := .readData 1 0#64 :: (window 4095#64).hostOut } ∧
    Completes (.apertureArm 1 255 5#64) (window 4095#64) ∧ Completes (.apertureFired 50) (withPacket (window 4095#64) 10000 (.wake { aWaiter 6 1#64 with lane := 1, tag := 255 })) := by
  obtain ⟨c1, c2, c3, c4, c5, c6, c7⟩ := c
  refine ⟨((c1 (window 4095#64) 1 255 0xFFFFFFFF#64 ?_ ?_ ?_ ?_ ?_ ?_ ⟨?_, ?_⟩).1).imp fun _ h => h.1, ((c1 (window 4095#64) 1 255 1#64 ?_ ?_ ?_ ?_ ?_ ?_ ⟨?_, ?_⟩).2).imp fun _ h => h.1,
    ⟨_, (c2 (window 4095#64) 1 255 ?_).1 ?_ ?_ ?_⟩, ⟨_, (c2 (window (BitVec.allOnes 64)) 1 255 ?_).2 ?_⟩,
    have ⟨_, h⟩ := ((c3 (window outside) 1 255 0xFFFFFFFF#64 ?_ ?_).1 ?_ ?_ ?_).1; ⟨_, h.1⟩, have ⟨_, h⟩ := ((c3 (window outside) 1 255 1#64 ?_ ?_).1 ?_ ?_ ?_).2; ⟨_, h.1⟩,
    have ⟨_, h⟩ := (c3 (window outside) 1 255 1#64 ?_ ?_).2 ?_; ⟨_, h.1⟩,
    ((c4 (backFor 511) 50 1 255 5#64 _ ?_ ?_).1 (arrives ?_)).imp fun _ h => h.1, ⟨_, (c4 (backFor 1023) 50 1 255 5#64 _ ?_ ?_).2 (arrives ?_)⟩,
    c5 (window 4095#64) 1 255 0x38 0 ?_ ?_ ?_ ?_, have ⟨_, _, h⟩ := c6 (window 4095#64) 1 255 5#64 ?_ ?_; ⟨_, h.1⟩,
    (c7 (withPacket (window 4095#64) 10000 (.wake { aWaiter 6 1#64 with lane := 1, tag := 255 })) 50 _ { aWaiter 6 1#64 with lane := 1, tag := 255 } (arrives ?_) rfl).imp fun _ h => h.1⟩ <;>
    decide +kernel

/-- The target record of deterministic reductions at 0x3000: OP 1, 2^20 contributions, into a buffer at 0x10000. -/
def reducing : State := withMem (sup []) [(0x3000, 0), (0x3008, 20 + 32), (0x3010, 0), (0x3018, 0x10000)]
/-- A write whose byte is poisoned arrives. -/
def spoiling : State := { sup [] with packets := [{ aPacket 136 (.write [(0x2000, 1#8)] none) with bad := [0x2000] }] }
/-- A byte that the engine operation 20 has asked for has come. -/
def asked : State :=
  { sup [] with engLines := [{ rid := 7, op := 20, pa := 2 ^ 44, n := 1, bytes := none, fail := none }], packets := [{ aPacket 400 (.readResp 7 [5#8] none none false) with eng := some 20, uid := none }] }
theorem witness_MemoryHomeEvents (c : Obligations.MemoryHomeEvents) :
    Completes (.writeApply 50) (withPacket (sup []) 136 (.write [(0x2000, 1#8), (0x2001, 0#8)] none)) ∧
    Completes (.writeApply 50) spoiling ∧ Completes (.writeApply 50) (withPacket (sup []) 136 (.write [(2 ^ 43, 1#8)] none)) ∧
    Completes (.readRequest 50) (withPacket (sup [(0x2000, 5)]) 136 (.read 0x2000 16 7 true none)) ∧
    Completes (.readResponse 50) (withPacket (awaiting { someResult with ready := false }) 10000 (.readResp 7 [1#8] none none false)) ∧ Completes (.readResponse 50) asked ∧
    (∀ fn, fn < 16 → Completes (.reductionApply 50) (withPacket (sup []) 136 (.red fn 0x2000 5#64))) ∧
    Completes (.redDetContribution 50) (withPacket reducing 136 (.redDet 0x3000 0x3000 0 1 1#32 4#4 supJob)) ∧
    (∃ place, detTake reducing 0 0x3000 0 (2 ^ 20 - 1) 1#32 4#4 supJob = memWriteNat reducing place 8 (2 ^ 32 + 1)) ∧ Completes (.acknowledgement 50) (withPacket (sup []) 10000 .ack) := by
  have hr : ∀ fn < 16, deliverable (withPacket (sup []) 136 (.red fn 0x2000 5#64)) (aPacket 136 (.red fn 0x2000 5#64)) = true ∧
      memPoisoned (withPacket (sup []) 136 (.red fn 0x2000 5#64)) 0x2000 (redSize fn) = false ∧ reachable (withPacket (sup []) 136 (.red fn 0x2000 5#64)) 0x2000 = true ∧
      Memory.wf (withPacket (sup []) 136 (.red fn 0x2000 5#64)).mem = true := by decide +kernel
  obtain ⟨c1, c2, c3, c4, c5, c6, c7, c8, c9⟩ := c
  refine ⟨((c1 (withPacket (sup []) 136 (.write [(0x2000, 1#8), (0x2001, 0#8)] none)) 50 0x2000 _ 1#8 [(0x2001, 0#8)] none (arrives ?_) ?_ ?_ ?_).1 rfl).imp fun _ h => h.1,
    have ⟨_, h⟩ := (c1 spoiling 50 0x2000 { aPacket 136 (.write [(0x2000, 1#8)] none) with bad := [0x2000] } 1#8 [] none ⟨rfl, ?_, rfl⟩ ?_ ?_ ?_).2 0x2000 [] rfl; ⟨_, h.2.2.2⟩,
    ⟨_, c2 (withPacket (sup []) 136 (.write [(2 ^ 43, 1#8)] none)) 50 (2 ^ 43) _ 1#8 [] none (arrives ?_) ?_⟩,
    (c3 (withPacket (sup [(0x2000, 5)]) 136 (.read 0x2000 16 7 true none)) 50 0x2000 16 7 true none _ (arrives ?_) ?_ ?_ ?_).imp fun _ h => h.choose_spec.choose_spec.1,
    ⟨_, c4 (withPacket (awaiting { someResult with ready := false }) 10000 (.readResp 7 [1#8] none none false)) 50 7 [1#8] _ _ (arrives ?_) rfl ?_ (by rfl)⟩,
    ⟨_, c5 asked 50 7 20 [5#8] false { aPacket 400 (.readResp 7 [5#8] none none false) with eng := some 20, uid := none } ⟨rfl, ?_, rfl⟩ rfl⟩,
    fun fn h => (c6 _ 50 fn 0x2000 5#64 _ (arrives (hr fn h).1) (hr fn h).2.2.1 (hr fn h).2.1 (hr fn h).2.2.2).imp fun _ h => h.1,
    ⟨_, c7 (withPacket reducing 136 (.redDet 0x3000 0x3000 0 1 1#32 4#4 supJob)) 50 0x3000 0x3000 0 1 1#32 4#4 supJob _ (arrives ?_) ?_⟩,
    ⟨_, c8 reducing 0 0x3000 0 (2 ^ 20 - 1) (0x10000 + 8 * (2 ^ 20 - 1)) 1#32 4#4 supJob ?_ ?_ ?_ ?_ ?_ ?_ ?_ ?_ ?_ ?_⟩,
    ⟨_, c9 (withPacket (sup []) 10000 .ack) 50 _ (arrives ?_)⟩⟩ <;> decide +kernel

/-- A store to the end of local store, the oldest of thread 1. -/
def storing : State := { sup [] with fifo := [⟨3, 1, 0, supJob, 0, 0#57, .locl (2 ^ 32 - 4) [1#8, 2#8, 3#8, 4#8]⟩], wc := [⟨0, 0x2000, 5#8, 1, supJob, 1, (1, 0#57), (0x2000, 1)⟩] }
theorem witness_StoreDrainEvents (c : Obligations.StoreDrainEvents) :
    Completes (.wcDrain (0 + 4096 * (1 + 2))) storing ∧ Completes (.wcDrain (0 + 4096)) storing ∧ Completes (.wcDrain 4095) storing ∧
    Completes (.fenceComplete 1) (waits (.fence 1 5)) ∧ Completes (.fenceComplete 1) (waits (.fence 5 5)) ∧ Completes (.fenceComplete 1) (waits (.before 5)) :=
  ⟨(c.1 storing 0 1 (2 ^ 32 - 4) [1#8, 2#8, 3#8, 4#8] _ (by decide) (by rfl) rfl (by decide +kernel) (by decide +kernel) (by decide)).imp fun _ h => h.1,
    (c.2.1 storing 0 (by decide)).imp fun _ h => h.1, ⟨_, c.2.2.1 storing 4095 (by decide)⟩,
    ⟨_, (c.2.2.2.1 (waits (.fence 1 5)) 1 1 5 _ (by rfl) rfl (by decide +kernel) (by decide +kernel) (by decide +kernel)).1 (by decide)⟩,
    ⟨_, (c.2.2.2.1 (waits (.fence 5 5)) 1 5 5 _ (by rfl) rfl (by decide +kernel) (by decide +kernel) (by decide +kernel)).2 (by decide)⟩,
    ⟨_, c.2.2.2.2 (waits (.before 5)) 1 5 _ (by rfl) rfl (by decide +kernel) (by decide +kernel)⟩⟩

/-! ## Steps of other agents: translation, sweeps, engines -/

/-- An invalidation of job 5 by die 0, which adds to the last cell of core 0 when it is over. -/
def anInvalidation : Tlbi := { die := 0, job := 5, all := false, va := 0x5000, log2 := 1, handle := 4095#64, before := 60 }
/-- A page of port 1 that a thread waits for, asked for of the host or not. -/
def aPage (asked retried write : Bool) : PageReq :=
  { id := 9, port := 1, pasid := 5, page := 7, write := write, asked := asked, retried := retried, queued := false, deadline := 10, engs := [], real := true, pref := [], cells := [], behind := [] }
/-- Thread 1 waits for it, at the time of its deadline. -/
def paging (r : PageReq) : State := { waits (.page 9) with pageReqs := [r], ftime := [(0, 10), (6, 10)] }
/-- The shadow write of cell 0 of die 0 waits for its page. -/
def shadowing : State := paging { aPage false false true with port := 0, pasid := noPasid, page := 0, cells := [5 * 2 ^ 61] }
/-- 512 page requests of the port are under way. -/
def crowded : State := { paging (aPage false false true) with pageReqs := aPage false false true :: List.replicate 512 { aPage true false true with id := 8 } }
/-- The response to a page request comes when its time has passed. -/
def overdue : State := { paging (aPage true false true) with ftime := [(0, 11), (6, 11)] }
theorem witness_TranslationEvents (c : Obligations.TranslationEvents) :
    Completes (.tlbiGo 2 0 1#64) { sup [] with tlb := [⟨0, 0, 0, 0#64, 0⟩] } ∧ Completes (.tlbiGo 2 0 1#64) (withRegs (sup []) [(0x20, 0xFFF)]) ∧
    Completes (.managementPacket 50) (withPacket { counting with tlbis := [anInvalidation], tlb := [⟨0, 5, 5, 0#64, 0⟩] } 298 (.tlbi 5 false 0x5000 1)) ∧
    Completes (.managementPacket 50) (withPacket counting 298 (.capChange 1 127 0)) ∧ Completes (.tlbiComplete 0) { counting with tlbis := [anInvalidation] } ∧
    Completes (.atsTranslationCompletion 1 9 0 true true 99) (paging (aPage false true true)) ∧ Completes (.atsTranslationCompletion 1 9 0 true false 99) (paging (aPage false false true)) ∧
    Completes (.atsTranslationCompletion 1 9 0 false false 99) (paging (aPage false false false)) ∧ Completes (.atsInvalidationRequest 1 5 0x7000 1) (paging (aPage true false true)) ∧
    Completes (.invalidationCompletion 1 3) { counting with atsInvs := [⟨3, 1, 60⟩] } ∧ Completes (.pageRequestResponse 1 9 0) (paging (aPage true false true)) ∧
    Completes (.pageRequestTimeout 1 9) (paging (aPage true false true)) ∧ Completes (.atsTranslationCompletion 0 9 0 true true 99) shadowing ∧
    Completes (.atsTranslationCompletion 1 9 0 false true 99) crowded ∧ allAsked (paging (aPage true false true)) 1 5 7 1 = true ∧ Completes (.pageRequestResponse 1 9 0) overdue := by
  obtain ⟨c1, c2, c3, c4, c5, c6, c7, c8, c9, c10, c11, c12, c13⟩ := c
  exact ⟨(c1 _ 2 0 1#64 (by decide +kernel) (by decide)).imp fun _ h => h.1, (c1 _ 2 0 1#64 (by decide +kernel) (by decide)).imp fun _ h => h.1,
    (c2 _ 50 5 0x5000 1 false _ anInvalidation (arrives (by decide +kernel)) (by rfl) (by decide +kernel)).imp fun _ h => h.1,
    ⟨_, c3 _ 50 1 127 0 _ (arrives (by decide +kernel))⟩, (c4 _ 0 anInvalidation (by rfl) (by unfold SoundHere SoundCells; decide +kernel) (by decide +kernel)).imp fun _ h => h.1,
    (c5 _ 1 9 99 true _ (by rfl) (.inl rfl) rfl (by unfold NoneQueued; decide +kernel)).imp fun _ h => h.1,
    ⟨_, (c7 (paging (aPage false false true)) 1 9 99 true false _ (by rfl) rfl rfl (.inr ⟨rfl, rfl⟩)).1 (by decide +kernel)⟩,
    ⟨_, (c7 (paging (aPage false false false)) 1 9 99 false false _ (by rfl) rfl rfl (.inl rfl)).1 (by decide +kernel)⟩, ⟨_, c8 _ 1 5 0x7000 1 (by decide) (by decide +kernel)⟩,
    ⟨_, c10 _ 1 3 _ (by rfl) (by decide +kernel)⟩, ⟨_, c11 _ 1 9 _ (by rfl) (by decide +kernel) (by unfold NoneQueued; decide +kernel)⟩,
    (c13 _ 1 9 _ (by rfl) (by decide +kernel)).imp fun _ h => h.1,
    (c6 shadowing 0 9 99 (5 * 2 ^ 61) _ (by rfl) rfl rfl (by decide +kernel) (by decide +kernel) (by decide +kernel) rfl (by decide +kernel) (by decide +kernel)).imp fun _ h => h.1,
    ⟨_, (c7 crowded 1 9 99 false true _ (by rfl) rfl rfl (.inl rfl)).2 (by decide +kernel)⟩, (c9 _ 1 5 7).2 (by decide +kernel), ⟨_, c12 overdue 1 9 0 _ (by rfl) (by decide +kernel)⟩⟩

theorem pair_is {α β : Type} {p : α × β} {b : β} (h : p.2 = b) : p = (p.1, b) := by
  cases h
  rfl
/-- What an engine's access answers, where it answers. -/
def gotten {α : Type} (d : α) (r : State × EngRes α) : α :=
  match r.2 with
  | .ok a => a
  | _ => d
theorem gotten_is {α : Type} {d : α} {r : State × EngRes α} (h : (match r.2 with | .ok _ => true | _ => false) = true) : r = (r.1, .ok (gotten d r)) := by
  obtain ⟨s, e | l⟩ := r
  · rfl
  · cases h
  · cases h
theorem done_is {r : State × EngRes Unit} (h : (match r.2 with | .ok _ => true | _ => false) = true) : r = (r.1, .ok ()) := by
  obtain ⟨s, e | l⟩ := r
  · rfl
  · cases h
  · cases h
/-- The address and the code with which an engine's access fails. -/
def failOf {α : Type} (r : State × EngRes α) : Nat × Nat :=
  match r.2 with
  | .fail v c => (v, c)
  | _ => (0, 0)
theorem failed_is {α : Type} {r : State × EngRes α} (h : (match r.2 with | .fail _ _ => true | _ => false) = true) : r = (r.1, .fail (failOf r).1 (failOf r).2) := by
  obtain ⟨s, e | l⟩ := r
  · cases h
  · rfl
  · cases h
/-- A sweep of slot 1, in its last group, with one element's visit open where it is so. -/
def aSweep (started : Bool) (vs : Option (List Visit)) : SweepOp :=
  { id := 20, core := 0, slot := 1, uid := 1, job := supJob, segG := ⟨0, 2 ^ 45⟩, segL := ⟨0, 65536⟩, segC := ⟨0, 2 ^ 37⟩, launch := none, pc := 0x1000#57, handle := 4095#64, amount := 1
    started := started, num := 1, flock := 0, open_ := vs }
/-- A core with that sweep of a tensor whose cursor is at its last group. -/
def sweeping (started : Bool) (vs : Option (List Visit)) : State :=
  { sup [] with tensors := [{ oneTensor supJob 1 with cursor := 1, active := started }], sweeps := [aSweep started vs] }
/-- Its tensor. -/
def swept (s : State) : Tensor := (tensorAt s 0 1).getD (oneTensor 0 0)
/-- Where an engine's translation leads, where it leads to a place. -/
def keyOf (r : State × Eng) : Nat × Option Nat :=
  match r.2 with
  | .at k g => (k, g)
  | _ => (0, none)
theorem at_is {r : State × Eng} (h : (match r.2 with | .at _ _ => true | _ => false) = true) : r = (r.1, .at (keyOf r).1 (keyOf r).2) := by
  obtain ⟨s, k | _ | _⟩ := r
  · rfl
  · cases h
  · cases h
theorem ends_is {r : State × List Placed × EngRes Unit} (h : (match r.2.2 with | .ok _ => true | _ => false) = true) : r = (r.1, r.2.1, .ok ()) := by
  obtain ⟨s, p, e | l⟩ := r
  · rfl
  · cases h
  · cases h
/-- Element 32's visit: it yields this word, or nothing. -/
def aVisit (y : Option Word) : Visit := ⟨0, 2, 32, some y, [(4, ⟨7#32, 2#4⟩)]⟩
/-- Its flock has no group open, and the sweep's core finds the places of its fallow word. -/
def closing (y : Option Word) : State := sweeping true (some [aVisit y])
/-- The places of a group's fallow word. -/
def fallowPlaces (y : Option Word) : State × EngRes (List (Nat × Nat)) :=
  engPlaces (closing y) 0 supJob 20 (pagePieces 2 ((swept (closing y)).fallow + 16 * (swept (closing y)).cursor) 4) []
/-- The places of its visits. -/
def visitPlaces (y : Option Word) : State × List Placed × EngRes Unit :=
  placesOf (aSweep true (some [aVisit y])) (fallowPlaces y).1 [endOf (fallowPlaces y).1 (aSweep true (some [aVisit y])) (swept (closing y)) (aVisit y)] []
theorem witness_SweepEvents (c : Obligations.SweepEvents) :
    Completes (.carveGrowComplete 0) (waits (.carve 15 127 5)) ∧ Completes (.tfreeComplete 1) (waits (.tfree 7 true)) ∧
    Completes (.tfreeComplete 1) { waits (.tfree 50 false) with tensors := [oneTensor 5 7] } ∧ Completes (.sweepStart 0) (sweeping false none) ∧
    Completes (.sweepStart 0) (sweeping true none) ∧ lsNat (writeTensorRecord (sup []) (oneTensor supJob 7)) 0 0x1028 4 = 0 ∧
    (∃ t, openGroup (sweeping true none) (aSweep true none) (swept (sweeping true none)) = t ∧ t.sweeps.length = 1) ∧
    Completes (.sweepGroupWriteback 0) (closing none) := by
  obtain ⟨c1, c2, c3, c4, c5, c6, -⟩ := c
  refine ⟨(c1 (waits (.carve 15 127 5)) 0 15 127 5 (threadOf (waits (.carve 15 127 5)) 1) ?_ ?_ ?_ ?_ ?_ ?_).imp fun _ h => h.1,
    ⟨_, (c2 (waits (.tfree 7 true)) 1 7 true (threadOf (waits (.tfree 7 true)) 1) (by rfl) (by rfl) ?_).2 ?_⟩,
    ⟨_, ((c2 { waits (.tfree 50 false) with tensors := [oneTensor 5 7] } 1 50 false (threadOf (waits (.tfree 50 false)) 1) (by rfl) (by rfl) ?_).1 (oneTensor 5 7) ?_ ?_).1⟩,
    ⟨_, ((c3 (sweeping false none) 0 (aSweep false none) (swept (sweeping false none)) ⟨?_, ?_, ?_⟩ ?_ ?_).1 ?_ ?_ ?_).1⟩,
    ⟨_, (c3 (sweeping true none) 0 (aSweep true none) (swept (sweeping true none)) ⟨?_, ?_, ?_⟩ ?_ ?_).2 ?_ ?_ ?_⟩,
    (c4 (sup []) (oneTensor supJob 7) ?_ ?_ ?_).1, ?grp,
    ⟨_, c6 (closing none) 0 (aSweep true (some [aVisit none])) (swept (closing none)) _ ⟨?_, ?_, ?_⟩ rfl ?_⟩⟩
  case grp =>
    have h := c5 (sweeping true none) _ _ _ _ (aSweep true none) (swept (sweeping true none)) _ _ _ _ (by decide +kernel) (gotten_is (d := []) (by decide +kernel)) (gotten_is (d := []) (by decide +kernel))
      (gotten_is (d := []) (by decide +kernel)) rfl
    exact ⟨_, h, by decide +kernel⟩
  all_goals decide +kernel
theorem witness_SweepGroups (c : Obligations.SweepEvents) :
    (∃ t, closeGroup (closing (some 0#32)) (aSweep true (some [aVisit (some 0#32)])) (swept (closing (some 0#32))) [aVisit (some 0#32)] = t ∧ t.sweeps.length = 1) ∧
    endOf (closing none) (aSweep true none) (swept (closing none)) (aVisit none) = .invalid 32 6 0 ∧
    endOf (closing none) (aSweep true none) (swept (closing none)) (aVisit (some 0x5000#32)) = .invalid 32 5 0 ∧
    endOf (closing none) { aSweep true none with segC := ⟨0, 0⟩ } (swept (closing none)) (aVisit (some 0x1000#32)) = .invalid 32 5 ((swept (closing none)).handleOf 0) ∧
    (∃ e, endOf (closing none) (aSweep true none) (swept (closing none)) (aVisit (some 0x1FFF#32)) = e) ∧ bit (sleepBits [(.invalid 63 6 0, [])]) 31 = true ∧
    (∃ q, (putEnded (aSweep true none) (swept (closing none)) (closing none) [(.write 32 [] false none, [(0x4080, [(0x4080, 1)], [7#8])])]).packets = [q]) ∧
    (∃ t, endGroup (sweeping true (some [])) (aSweep true (some [])) { oneTensor supJob 1 with cursor := 0, active := true } = t) ∧
    (∃ t, endGroup (sweeping true (some [])) (aSweep true (some [])) (swept (sweeping true none)) = t) ∧
    (∃ t, finishSweep (sweeping true none) (aSweep true none) (swept (sweeping true none)) = t) ∧
    Completes (.elementWake 50) (withPacket (sweeping true none) 0 (.wake { aWaiter 5 0#64 with uid := 50, tag := 1, lane := 0, job := supJob })) := by
  obtain ⟨-, -, -, -, -, -, c7, c8, c9, c10, c11, c12, c13⟩ := c
  refine ⟨?cls, (c8 (closing none) (aSweep true none) (swept (closing none)) (aVisit none) 0#32).1 rfl, (c8 _ _ _ _ 0x5000#32).2.1 rfl (by decide),
    (c8 _ { aSweep true none with segC := ⟨0, 0⟩ } _ _ 0x1000#32).2.2.1 rfl (by decide) (by decide +kernel),
    ⟨_, (c8 (closing none) (aSweep true none) (swept (closing none)) (aVisit (some 0x1FFF#32)) 0x1FFF#32).2.2.2 rfl (by decide) (by decide +kernel)⟩,
    (c9 _ 31 (by decide)).2 ⟨_, List.mem_singleton.mpr rfl, .inl ⟨63, 6, 0, rfl, rfl⟩⟩, ?put,
    ⟨_, (c11 (sweeping true (some [])) (aSweep true (some [])) { oneTensor supJob 1 with cursor := 0, active := true }).2.1 (by decide +kernel) (by decide +kernel) (by decide +kernel)⟩,
    ⟨_, (c11 (sweeping true (some [])) (aSweep true (some [])) (swept (sweeping true none))).2.2.2 (by decide +kernel) (by decide +kernel) (by decide +kernel) (by decide +kernel)⟩,
    (c12 (sweeping true none) (aSweep true none) (swept (sweeping true none)) (by decide +kernel)).elim fun _ h => ⟨_, h.1⟩,
    (c13 (withPacket (sweeping true none) 0 (.wake { aWaiter 5 0#64 with uid := 50, tag := 1, lane := 0, job := supJob })) _ 50 _ _ (aPacket 0 _)
      { aWaiter 5 0#64 with uid := 50, tag := 1, lane := 0, job := supJob } (swept (sweeping true none)) (arrives ?_) rfl ?_ ?_ (at_is ?_) ?_).imp fun _ h => h.1⟩
  case cls =>
    have h : fallowPlaces (some 0#32) = ((fallowPlaces (some 0#32)).1, .ok (gotten [] (fallowPlaces (some 0#32)))) := gotten_is (by decide +kernel)
    rw [show gotten [] (fallowPlaces (some 0#32)) = [(0x6010, 4)] by decide +kernel] at h
    have k := c7 (closing (some 0#32)) (fallowPlaces (some 0#32)).1 (visitPlaces (some 0#32)).1 (aSweep true (some [aVisit (some 0#32)])) (swept (closing (some 0#32))) [aVisit (some 0#32)] 0x6010 4 []
      (visitPlaces (some 0#32)).2.1 (by decide) h (ends_is (by decide +kernel))
    exact ⟨_, k, by decide +kernel⟩
  case put =>
    obtain ⟨q, h, -⟩ := c10 (closing none) (aSweep true none) (swept (closing none)) 0x4080 0x4080 1 [7#8] 32 [] false none rfl (by decide) (by decide)
    exact ⟨q, h⟩
  all_goals decide +kernel

/-- A copy of 64 bytes of memory, accepted from thread 1. -/
def aCopy : CopyOp :=
  { id := 20, core := 0, uid := 1, job := supJob, pc := 0x1000#57, expand := false, req := 0, saddr := 0x2000, daddr := 0x4000, sls := false, dls := false, sstride := 0, dstride := 0
    rowlen := 0, esz := 0, len := 64, handle := 4095#64, done := [], src := [], dst := [], pend := [], stop := none }
/-- It is at work. -/
def copying (o : CopyOp) : State := { sup [] with copies := [o] }
/-- A sparse copy of one row of 8 bytes, its bitmap at 0x2000. -/
def sparse : CopyOp := { aCopy with expand := true, rowlen := 8, len := 8 }
theorem rows_is {r : State × CopyWalk} (h : (r.2.fails.isEmpty && !r.2.waits) = true) : r = (r.1, ⟨r.2.rows, [], false⟩) := by
  obtain ⟨s, l, _ | _, _ | _⟩ := r
  · rfl
  all_goals cases h
/-- A multiplication of the last tile by zero bytes, of one row. -/
def anMma : MmaOp :=
  { id := 20, core := 0, flock := 0, tile := 7, fmt := 6, rows := [(3, 1, 0x2000)], baddr := 0x4000, ldb := 64, asoff := 0, aside := 0, bsoff := 0, bside := 0, job := supJob, pc := 0x1000#57 }
/-- The same in a floating-point format. -/
def floatMma : MmaOp := { anMma with fmt := 0 }
/-- Runs that the matrix unit has fetched. -/
def fetched (r : State × Fetch (List (List Byte))) : List (List Byte) :=
  match r.2 with
  | .ok a => a
  | _ => []
theorem fetched_is {r : State × Fetch (List (List Byte))} (h : (match r.2 with | .ok _ => true | _ => false) = true) : r = (r.1, .ok (fetched r)) := by
  obtain ⟨s, a | _ | _⟩ := r
  · rfl
  · cases h
  · cases h
/-- What it fetches. -/
def mmaInput (r : State × Fetch MmaIn) : MmaIn :=
  match r.2 with
  | .ok a => a
  | _ => ⟨[], [], [], [], [], []⟩
theorem fetch_is {r : State × Fetch MmaIn} (h : (match r.2 with | .ok _ => true | _ => false) = true) : r = (r.1, .ok (mmaInput r)) := by
  obtain ⟨s, a | _ | _⟩ := r
  · rfl
  · cases h
  · cases h
theorem mma_is {r : Except MmaFail (List (Nat × List Nat) × Flags)} (h : (match r with | .ok _ => true | .error _ => false) = true) : ∃ a b, r = .ok (a, b) := by
  obtain _ | ⟨a, b⟩ := r
  · cases h
  · exact ⟨a, b, rfl⟩
/-- A ray whose stack is empty. -/
def aRay : RayState :=
  { o := [0#32, 0#32, 0#32], d := [0#32, 0#32, 0#32], tmin := 0#32, tmax := 0#32, oo := [], od := [], instOn := false, curInst := 0#32, best := none, stack := [], rem := [], remOvf := false
    shard := 0, smap := 0, spill := 0, cap := 0, spilln := 0, unit := false, cullb := false, anyhit := false, skipm := false }
/-- A traversal unit at work on it, or about to read it. -/
def aTrace (st : Option RayState) : RayOp :=
  { id := 20, core := 0, uid := 1, job := supJob, pc := 0x1000#57, block := 0x2000, segG := ⟨0, 2 ^ 45⟩, handle := 4095#64, amount := 1, st := st, fin := none, written := false }
theorem ended_is {r : State × RayState × Option RayOut} (h : (match r.2.2 with | some (.ended _ _) => true | _ => false) = true) :
    ∃ s1 r2 r1 x, r = (s1, r2, some (.ended r1 x)) := by
  obtain ⟨s, r2, _ | o⟩ := r
  · cases h
  · cases o
    case ended r1 x => exact ⟨s, r2, r1, x, rfl⟩
    all_goals cases h
/-- A view of 1 by 1 pixel. -/
def aView : List Byte := List.replicate 0x50 0#8 ++ natLe 8 (1 + 2 ^ 16) ++ List.replicate 0x28 0#8
/-- A candidate of its only sample, answered. -/
def aCand : Cand := { id := 1, x := 0, y := 0, k := 0, addr := 0, hit := ⟨0#32, 0#32, 0#32, 5#32, 0#32, 0, false, 0, 0⟩, answer := some true, placed := true }
/-- A beam of Harrow 7. -/
def aBeam (v : Option (List Byte)) (cands : List Cand) : BeamOp :=
  { id := 20, harrow := 7, core := 0, uid := 1, job := supJob, pc := 0x1000#57, segG := ⟨0, 2 ^ 45⟩, segL := ⟨0, 65536⟩, segC := ⟨0, 2 ^ 37⟩, prio := 1, launch := none, view := 0x2000, tx0 := 0
    ty0 := 0, tx1 := 0, ty1 := 0, handle := 4095#64, amount := 1, viewBytes := v, cur := (0, 0), next := (0, 1), hz := 0#32, work := [], cands := cands }
/-- Its sample is not yet hit. -/
def beaming (v : Option (List Byte)) (cands : List Cand) : State := { sup [(0x2050, 1)] with mem := (withMem (sup []) [(0x2050, 1 + 2 ^ 16), (0, 0x7F800000)]).mem, beams := [aBeam v cands] }
/-- What the beam goes on with. -/
def onwards (r : State × BeamOut) : BeamOp :=
  match r.2 with
  | .go b => b
  | _ => aBeam none []
theorem onwards_is {r : State × BeamOut} (h : (match r.2 with | .go _ => true | _ => false) = true) : r = (r.1, .go (onwards r)) := by
  obtain ⟨s, b | _ | _⟩ := r
  · rfl
  · cases h
  · cases h
/-- A chunk whose rows are all applied. -/
def chunked : State := { counting with chunks := [⟨20, 0, [1], 4095#64, 5, 0#57, 1⟩] }
theorem witness_EngineEvents (c : Obligations.EngineEvents) :
    Completes (.copyComplete 20) (copying aCopy) ∧ Completes (.copyComplete 20) (copying { aCopy with done := [0] }) ∧ Completes (.copyComplete 20) (copying { aCopy with saddr := 2 ^ 56 }) ∧
    Completes (.mmaComplete 0) { sup [] with mmas := [anMma] } ∧ Completes (.mstChunkAdd 20) chunked ∧ Completes (.rayComplete 20) { sup [] with rays := [aTrace none] } ∧
    Completes (.rayComplete 20) { sup [] with rays := [aTrace (some aRay)] } ∧ Completes (.rayComplete 20) { sup [] with rays := [{ aTrace (some aRay) with fin := some (2, none) }] } ∧
    Completes (.beamStart 7) (beaming none []) ∧ (∃ s1 v n b, runBeam (beaming none []) (aBeam none []) = beamWalk v n s1 b) ∧
    Completes (.coverageResolve 7) (beaming (some aView) [aCand]) := by
  obtain ⟨-, c2, -, -, -, -, -, -, -, c10, -, -, -, -, c15, c16, -, -, -, -, -, -, -, -, c25, c26⟩ := c
  refine ⟨⟨_, (c2 (copying aCopy) _ 20 aCopy _ (by rfl) (by decide +kernel) (by decide +kernel) rfl).2.1 (by decide +kernel) (by decide +kernel) (rows_is (by decide +kernel))⟩,
    ⟨_, (c2 (copying { aCopy with done := [0] }) State.reset 20 { aCopy with done := [0] } [] (by rfl) (by decide +kernel) (by decide +kernel) rfl).1 (by decide +kernel) rfl (by decide +kernel)⟩,
    ⟨_, (c2 (copying { aCopy with saddr := 2 ^ 56 }) _ 20 { aCopy with saddr := 2 ^ 56 } [] (by rfl) (by decide +kernel) (by decide +kernel) rfl).2.2
      (2 ^ 56, (copyWalk (copying { aCopy with saddr := 2 ^ 56 }) { aCopy with saddr := 2 ^ 56 }).2.fails.headD (0, 0) |>.2) (by decide +kernel) (by decide +kernel) (Prod.ext rfl (by decide +kernel))⟩, ?_,
    (c15 chunked 20 ⟨20, 0, [1], 4095#64, 5, 0#57, 1⟩ (by rfl) (by decide +kernel) (by decide +kernel) (by decide +kernel) ?_ (by unfold SoundHere SoundCells; decide +kernel)
      (by decide +kernel)).imp fun _ h => h.1,
    ⟨_, (c16 _ 20 (aTrace none) (by rfl) (by decide +kernel) (by decide +kernel) (by decide +kernel)).1 rfl⟩,
    ⟨_, (c16 _ 20 (aTrace (some aRay)) (by rfl) (by decide +kernel) (by decide +kernel) (by decide +kernel)).2.1 aRay rfl rfl⟩,
    ⟨_, (c16 _ 20 { aTrace (some aRay) with fin := some (2, none) } (by rfl) (by decide +kernel) (by decide +kernel) (by decide +kernel)).2.2 aRay 2 none rfl rfl⟩,
    ⟨_, (c25 _ 7 (aBeam none []) (by rfl) (by decide +kernel) (by decide +kernel)).1⟩, ?_, ?_⟩
  · obtain ⟨a, b, h⟩ := mma_is (r := mmaRows (mmaFetch { sup [] with mmas := [anMma] } anMma).1 anMma (mmaInput (mmaFetch { sup [] with mmas := [anMma] } anMma))) (by decide +kernel)
    exact ⟨_, c10 { sup [] with mmas := [anMma] } _ 0 anMma _ a b (by rfl) (by decide +kernel) (by decide +kernel) (by decide +kernel) (fetch_is (by decide +kernel)) h⟩
  · intro u hu t ht
    rw [List.mem_singleton.mp hu] at ht
    have k : t = threadOf chunked 1 := by rw [threadOf, ht]; rfl
    rw [k]
    decide +kernel
  · exact ⟨_, _, _, _, (c25 (beaming none []) 7 (aBeam none []) (by decide +kernel) (by decide +kernel) (by decide +kernel)).2 _ _ rfl (by decide +kernel)
      (gotten_is (d := []) (by decide +kernel)) (by decide +kernel)⟩
  · exact ⟨_, c26 (beaming (some aView) [aCand]) _ _ 7 (aBeam (some aView) [aCand]) _ aView _ (by rfl) rfl (by decide) (by decide) (by decide +kernel)
      (gotten_is (d := []) (by decide +kernel)) (onwards_is (by decide +kernel))⟩
theorem witness_CopyRows (c : Obligations.EngineEvents) :
    cellGet (engineAdd counting 0 0 5 0x1000 4095 1) 4095 = 0 ∧ (∃ q, (engineAdd (sup []) 0 0 supJob 0x1000 outside.toNat 1).packets = [q]) ∧
    (endCopy (copying { aCopy with stop := some (0x2000, 4) }) 20).copies = [] ∧
    lsBytes (landPend (copying { aCopy with pend := atKeys (lkey 0 (2 ^ 32 - 2)) [5#8, 6#8] }) 20 fun _ => true) 0 (2 ^ 32 - 2) 2 = [5#8, 6#8] ∧
    (setRows (copying { aCopy with dls := true }) { aCopy with dls := true } [⟨0, [(0x100, 2)], [(0x2000, 2)], [5#8, 6#8]⟩]).copies.length = 1 ∧
    (∃ q, (setRows (copying aCopy) aCopy [⟨0, [(0x407E, 2)], [(0x2000, 2)], [5#8, 6#8]⟩]).packets = [q]) ∧
    (∃ s n w, walkRow (copying aCopy) aCopy 64 0 0x2000 ⟨[], [], false⟩ = (s, w, some n) ∧ rowsOf aCopy 64 (copying aCopy) 1 0 0x2000 ⟨[], [], false⟩ = rowsOf aCopy 64 s 0 1 n w) ∧
    (∃ s n w, walkRow (copying sparse) sparse 8 0 0x2000 ⟨[], [], false⟩ = (s, w, some n)) ∧
    ((expandRow 0 [5#8] [false, false, true]).drop 2).take 1 = [5#8] := by
  obtain ⟨c1, -, c3, c4, c5, c6, c7, c8, c9, -⟩ := c
  have h6 := c6 (copying aCopy) _ _ aCopy 64 0 0x2000 ⟨[], [], false⟩ _ _ _ (by decide +kernel) rfl (gotten_is (d := ([], [])) (by decide +kernel)) (gotten_is (d := []) (by decide +kernel))
  refine ⟨?_, ?_, ?_, (c4 (copying { aCopy with pend := atKeys (lkey 0 (2 ^ 32 - 2)) [5#8, 6#8] }) 20 _ 0 (2 ^ 32 - 2) [5#8, 6#8] (by rfl) rfl (by decide +kernel) (by decide)).1, ?_, ?_,
    ⟨_, _, _, h6, c9 _ _ _ _ 0 _ _ _ _ _ (by decide +kernel) h6⟩,
    ⟨_, _, _, c7 (copying sparse) _ _ _ sparse 8 0 0x2000 ⟨[], [], false⟩ _ _ _ _ _ (by decide +kernel) rfl (gotten_is (d := ([], [])) (by decide +kernel))
      (gotten_is (d := ([], [])) (by decide +kernel)) (gotten_is (d := []) (by decide +kernel))⟩, c8 0 2 [5#8] [false, false, true] rfl (by decide)⟩
  · have h := ((c1 counting 0 0 5 0x1000 4095 1 (by decide)).1 (by unfold SoundHere SoundCells; decide +kernel) (by decide +kernel)).2.2.1
    exact (h (.inl (by decide +kernel))).trans (by decide +kernel)
  · obtain ⟨q, h, -⟩ := (c1 (sup []) 0 0 supJob 0x1000 outside.toNat 1 (by decide)).2 (by decide +kernel) (.inl (by decide +kernel))
    rw [h]
    exact ⟨q, rfl⟩
  · rw [c3 (copying { aCopy with stop := some (0x2000, 4) }) 20 _ (0x2000, 4) (by rfl) rfl rfl (by decide +kernel)]
    decide +kernel
  · rw [(c5 (copying { aCopy with dls := true }) { aCopy with dls := true } 0 0x100 2 [(0x2000, 2)] [5#8, 6#8] rfl rfl rfl (.inl (by decide))).1 rfl]
    rfl
  · obtain ⟨q, h, -⟩ := (c5 (copying aCopy) aCopy 0 0x407E 2 [(0x2000, 2)] [5#8, 6#8] rfl rfl rfl (.inr (by decide))).2 rfl (by decide) (by decide)
    rw [h]
    exact ⟨q, rfl⟩
theorem witness_Products (c : Obligations.EngineEvents) :
    (∃ s x, mmaFetch (sup []) floatMma = (s, .ok x)) ∧ (∃ r b, fetchEach 0 supJob 20 64 (failA 7) (sup []) [(3, 0x2000)] [] = r ∧ r = fetchEach 0 supJob 20 64 (failA 7) (engRead (sup []) 0 supJob 20 0x2000 64).1 [] b) ∧
    (∃ r, mmaRows (sup []) anMma ⟨[List.replicate 64 1#8], [], [], [], [], []⟩ = .ok r) ∧
    (∃ r, mmaRows (sup []) floatMma ⟨[List.replicate 64 1#8], List.replicate (mfmt 0).k (List.replicate 64 1#8), [], [], [], []⟩ = .ok r) := by
  obtain ⟨-, -, -, -, -, -, -, -, -, -, c11, c12, c13, c14, -⟩ := c
  exact ⟨⟨_, _, c11 (sup []) _ _ floatMma _ _ (.inl (.inl rfl)) (fetched_is (by decide +kernel)) (fetched_is (by decide +kernel))⟩,
    ⟨_, _, rfl, c12 0 supJob 20 64 3 0x2000 (failA 7) (sup []) _ [] [] _ (gotten_is (d := []) (by decide +kernel))⟩,
    (c13 (sup []) anMma ⟨[List.replicate 64 1#8], [], [], [], [], []⟩ (.inl rfl) rfl).elim fun _ h => h.elim fun _ h => ⟨_, h.1⟩,
    (c14 (sup []) floatMma ⟨[List.replicate 64 1#8], List.replicate (mfmt 0).k (List.replicate 64 1#8), [], [], [], []⟩ (.inl rfl) rfl (by decide)).elim fun _ h => h.elim fun _ h => ⟨_, h.1⟩⟩
/-- An entry of kind `k` on top of its stack. -/
def topped (k addr : Nat) : RayState := { aRay with stack := [⟨addr, false, 0#32, k, 0⟩], tmax := 0x3F800000#32 }
theorem witness_RaySteps (c : Obligations.EngineEvents) :
    (∃ s r, startRay (sup []) (aTrace none) 1 = goOn s (aTrace none) r 1) ∧ (∃ s1 r1 x, goOn (sup []) (aTrace (some aRay)) aRay 1 = finishRay s1 (aTrace (some aRay)) r1 x none) ∧
    (goOn (sup []) (aTrace (some aRay)) aRay 0).rays = [] ∧
    (∃ s, raySteps (rayCtx (aTrace (some aRay))) 1 (sup []) { topped 1 128 with tmax := 0xBF800000#32 } = s) ∧
    rayStep (sup []) (rayCtx (aTrace (some aRay))) (topped 1 64) = (sup [], .bad { topped 1 64 with stack := [] } 2 64) ∧
    rayStep (sup []) (rayCtx (aTrace (some aRay))) (topped 1 128) = visitNode (sup []) (rayCtx (aTrace (some aRay))) { topped 1 128 with stack := [] } ⟨128, false, 0#32, 1, 0⟩ ∧
    rayStep (sup []) (rayCtx (aTrace (some aRay))) (topped 4 128) = visitLeaf (sup []) (rayCtx (aTrace (some aRay))) { topped 4 128 with stack := [] } 4 false 128 0 1 ∧
    rayStep (sup []) (rayCtx (aTrace (some aRay))) (topped 5 128) = visitInstance (sup []) (rayCtx (aTrace (some aRay))) { topped 5 128 with stack := [] } ⟨128, false, 0#32, 5, 0⟩ ∧
    rayStep (sup []) (rayCtx (aTrace (some aRay))) { topped 1 128 with tmax := 0xBF800000#32 } = (sup [], .more { aRay with tmax := 0xBF800000#32 }) ∧
    (∃ s e r, rayPop (sup []) (rayCtx (aTrace (some aRay))) { aRay with spill := 0x2000, spilln := 1 } = (s, .ok (some (e, r)))) ∧
    (∃ s2 : State, finishRay (sup []) (aTrace (some aRay)) aRay 2 none = { s2 with rays := s2.rays.map fun q => if q.id = 20 then { q with written := true } else q }) ∧
    endRay (sup []) (aTrace (some aRay)) aRay none = engineAdd (dropRay (sup []) (aTrace (some aRay))) 0 0 supJob 0x1000 4095 1 := by
  obtain ⟨-, -, -, -, -, -, -, -, -, -, -, -, -, -, -, -, c17, c18, c19, c20, c21, c22, c23, c24, -⟩ := c
  have k := c21 (sup []) (rayCtx (aTrace (some aRay)))
  refine ⟨⟨_, _, c17 (sup []) _ (aTrace none) _ 1 (by decide +kernel) (by decide +kernel) (gotten_is (d := []) (by decide +kernel)) (by decide +kernel) (by decide +kernel)⟩, ?_, ?_, ⟨_, (c20 _ 0 _ _ _ _).2.1 ((k { topped 1 128 with tmax := 0xBF800000#32 } _ [] rfl).1 (by decide +kernel))⟩,
    (k (topped 1 64) _ [] rfl).2.1 (by decide +kernel) (by decide), (k (topped 1 128) _ [] rfl).2.2.1 (by decide +kernel) (by decide) rfl,
    (k (topped 4 128) _ [] rfl).2.2.2.1 (by decide +kernel) (by decide) (by decide) (by decide), (k (topped 5 128) _ [] rfl).2.2.2.2 (by decide +kernel) (by decide) rfl,
    (k { topped 1 128 with tmax := 0xBF800000#32 } _ [] rfl).1 (by decide +kernel), ?_, ?_, (c24 (sup []) (aTrace (some aRay)) aRay none).2 (by decide +kernel)⟩
  · obtain ⟨s1, r2, r1, x, h⟩ := ended_is (r := raySteps (rayCtx (aTrace (some aRay))) 1 (sup []) aRay) (by decide +kernel)
    exact ⟨_, _, _, c18 _ _ _ _ _ _ _ _ (by decide +kernel) h⟩
  · rw [c19 (sup []) (sup []) (aTrace (some aRay)) aRay aRay 0 (by decide +kernel) rfl]
    rfl
  · exact ⟨_, _, _, (c22 (sup []) _ (rayCtx (aTrace (some aRay))) { aRay with spill := 0x2000, spilln := 1 } _ rfl).2 (by decide) (gotten_is (d := []) (by decide +kernel))⟩
  · exact ⟨_, c23 (sup []) _ _ (aTrace (some aRay)) aRay 2 _ rfl (done_is (by decide +kernel)) (done_is (by decide +kernel))⟩

/-! ## Steps of other agents: the network port and the collective engine -/

/-- A message from module 3 arrives at die 0, for operation 9. -/
def aMsg (b : NetBody) : NetMsg := { NetMsg.blank with id := 60, smod := 3, op := 9, body := b }
/-- It is the only one; connection 4,095 with a ring of 65,535 slots of 64 bytes, and region 511 of 4 KiB for reading and writing, are of the supervisor job. -/
def comes (b : NetBody) (ops : List PortOp) : State :=
  { withRegs (connected []) [(connOff 4095 + 8, 0x8000), (connOff 4095 + 16, 65535), (connOff 4095 + 24, 4095), (regionOff 511, 0x10000),
      (regionOff 511 + 8, 4096 + supJob * 2 ^ 40 + 7 * 2 ^ 56)] with fabric := [aMsg b], portOps := ops }
/-- The region lies at another address. -/
def comesAt (base : Nat) (b : NetBody) (ops : List PortOp) : State := withRegs (comes b ops) [(regionOff 511, base)]
/-- The place of its last byte, or of the ring's last slot, is poisoned. -/
def comesOn (a : Nat) (b : NetBody) : State := { comes b [] with poison := [.hbm a] }
/-- The message has been accepted, and its bytes have set out. -/
def gone (b : NetBody) : State := { comes b [] with fabric := [{ aMsg b with got := true, written := true }] }
/-- Two bytes for the end of the region. -/
def putMsg (off : Nat) (bs : List Byte) : NetBody := .put 4095 supJob 511 off bs
/-- Two bytes of the end of the region are wanted. -/
def getMsg (off : Nat) : NetBody := .getReq 4095 supJob 511 off 2
/-- Bytes for the ring's last slot. -/
def sendMsg' (n : Nat) : NetBody := .send 4095 supJob 65534 (List.replicate n 1#8)
/-- It is the message that arrives. -/
theorem comes_is {s : State} {b : NetBody} (h : netArriving s 60 = some (aMsg b)) : Comes s 60 (aMsg b) b := ⟨h, rfl⟩
/-- The same once it has been accepted and its bytes have set out. -/
theorem gone_is {s : State} {b : NetBody} (h : netArriving s 60 = some { aMsg b with got := true, written := true }) :
    Comes s 60 { aMsg b with got := true, written := true } b := ⟨h, rfl⟩
/-- An operation under way. -/
def underWay (k : PortKind) : PortOp := { somePut k with started := true }
theorem witness_NetworkEvents (c : Obligations.NetworkEvents) :
    Completes (.putArrival 60) (comes (putMsg 4094 [1#8, 2#8]) []) ∧ Completes (.putArrival 60) (comes (putMsg 4096 []) []) ∧ Completes (.putArrival 60) (comes (putMsg 4095 [1#8, 2#8]) []) ∧
    Completes (.putArrival 60) (gone (putMsg 4094 [1#8, 2#8])) ∧ Completes (.putArrival 60) (comesOn 0x10FFF (putMsg 4094 [1#8, 2#8])) ∧
    Completes (.putArrival 60) (comesAt (2 ^ 56) (putMsg 4094 [1#8, 2#8]) []) ∧
    Completes (.getArrival 60) (comes (getMsg 4094) []) ∧ Completes (.getArrival 60) (comes (getMsg 4095) []) ∧ Completes (.getArrival 60) (comesAt (2 ^ 56) (getMsg 4094) []) ∧
    Completes (.sendArrival 60) (comes (sendMsg' 64) []) ∧ Completes (.sendArrival 60) (comes (sendMsg' 65) []) ∧ Completes (.sendArrival 60) (gone (sendMsg' 64)) ∧
    Completes (.sendArrival 60) (comesOn (0x8000 + 64 * 65534) (sendMsg' 64)) := by
  obtain ⟨-, -, c3, c4, c5, -⟩ := c
  have p1 := (c3 (comes (putMsg 4094 [1#8, 2#8]) []) 60 4095 supJob 511 4094 [1#8, 2#8] _ (comes_is (by decide +kernel))).2 (.inr (by decide +kernel))
  have p2 := (c3 (comes (putMsg 4096 []) []) 60 4095 supJob 511 4096 [] _ (comes_is (by decide +kernel))).2 (.inr (by decide +kernel))
  have p3 := (c3 (gone (putMsg 4094 [1#8, 2#8])) 60 4095 supJob 511 4094 [1#8, 2#8] _ (gone_is (by decide +kernel))).2 (.inl rfl)
  have p4 := (c3 (comesOn 0x10FFF (putMsg 4094 [1#8, 2#8])) 60 4095 supJob 511 4094 [1#8, 2#8] _ (comes_is (by decide +kernel))).2 (.inr (by decide +kernel))
  have p5 := (c3 (comesAt (2 ^ 56) (putMsg 4094 [1#8, 2#8]) []) 60 4095 supJob 511 4094 [1#8, 2#8] _ (comes_is (by decide +kernel))).2 (.inr (by decide +kernel))
  have g1 := (c4 (comes (getMsg 4094) []) 60 4095 supJob 511 4094 2 _ (comes_is (by decide +kernel))).2 (.inr (by decide +kernel))
  have g2 := (c4 (comesAt (2 ^ 56) (getMsg 4094) []) 60 4095 supJob 511 4094 2 _ (comes_is (by decide +kernel))).2 (.inr (by decide +kernel))
  have s1 := (c5 (comes (sendMsg' 64) []) 60 4095 supJob 65534 (List.replicate 64 1#8) _ (comes_is (by decide +kernel))).2 (.inr (by decide +kernel))
  have s2 := (c5 (gone (sendMsg' 64)) 60 4095 supJob 65534 (List.replicate 64 1#8) _ (gone_is (by decide +kernel))).2 (.inl rfl)
  have s3 := (c5 (comesOn (0x8000 + 64 * 65534) (sendMsg' 64)) 60 4095 supJob 65534 (List.replicate 64 1#8) _ (comes_is (by decide +kernel))).2 (.inr (by decide +kernel))
  refine ⟨⟨_, (p1.1 _ _ rfl ⟨gotten_is (d := []) (by decide +kernel), by decide +kernel⟩).1 (by decide +kernel)⟩,
    ⟨_, (p2.1 _ _ rfl ⟨gotten_is (d := []) (by decide +kernel), by decide +kernel⟩).2 (by decide +kernel)⟩,
    ⟨_, (c3 (comes (putMsg 4095 [1#8, 2#8]) []) 60 4095 supJob 511 4095 [1#8, 2#8] _ (comes_is (by decide +kernel))).1 1 rfl (by decide +kernel)⟩,
    ⟨_, p3.2.1 rfl (by decide +kernel)⟩, ⟨_, p4.2.2.1 _ _ rfl (gotten_is (d := []) (by decide +kernel)) (by decide +kernel)⟩, ?_,
    ⟨_, g1.1 _ _ (gotten_is (d := []) (by decide +kernel))⟩,
    ⟨_, (c4 (comes (getMsg 4095) []) 60 4095 supJob 511 4095 2 _ (comes_is (by decide +kernel))).1 1 rfl (by decide +kernel)⟩, ?_,
    ⟨_, (s1.1 _ _ rfl ⟨gotten_is (d := []) (by decide +kernel), by decide +kernel⟩).1 (by decide +kernel)⟩,
    ⟨_, (c5 (comes (sendMsg' 65) []) 60 4095 supJob 65534 (List.replicate 65 1#8) _ (comes_is (by decide +kernel))).1 4 rfl (by decide +kernel)⟩,
    ⟨_, s2.2.1 rfl (by decide +kernel)⟩, ⟨_, s3.2.2 _ _ rfl (gotten_is (d := []) (by decide +kernel)) (by decide +kernel)⟩⟩
  · exact ⟨_, p5.2.2.2 _ _ _ rfl (failed_is (by decide +kernel))⟩
  · exact ⟨_, g2.2.2 _ _ _ (failed_is (by decide +kernel))⟩
theorem witness_PortAnswers (c : Obligations.NetworkEvents) :
    Completes (.networkOpComplete 60) (comes .done [underWay .put]) ∧ Completes (.networkOpComplete 60) (comes (.getData [1#8]) [underWay .get]) ∧
    Completes (.networkOpComplete 60) (comes (.getData []) [underWay .get]) ∧ Completes (.networkOpComplete 60) (comes (.getData [1#8]) [{ underWay .get with written := true }]) ∧
    Completes (.networkOpComplete 60) (comes (.getData [1#8]) [{ underWay .get with req := [BitVec.ofNat 64 (2 ^ 56), 0#64, 0#64, 0#64] }]) ∧
    Completes (.nackReceive 60) (comes (.nack 7) [underWay .put]) ∧ Completes (.nackReceive 60) (comes (.nack 6) [underWay (.rwsend true)]) ∧
    Completes (.nackReceive 60) (comes (.nack 6) [{ underWay (.rwsend true) with void := true }]) ∧ (completeOp (sup []) (somePut .put)).portOps = [] ∧
    (∃ t, freeSlotOf (sup []) 0 1023 supJob = t) ∧ (failOp (sup []) (somePut .put) 8 5 0 7 4095).portOps = [] := by
  obtain ⟨-, -, -, -, -, c6, c7, c8, c9, c10, c11⟩ := c
  have d1 := c7 (comes (.getData [1#8]) [underWay .get]) 60 [1#8] _ (underWay .get) (comes_is (by decide +kernel)) (by decide +kernel)
  have d2 := c7 (comes (.getData []) [underWay .get]) 60 [] _ (underWay .get) (comes_is (by decide +kernel)) (by decide +kernel)
  have d3 := c7 (comes (.getData [1#8]) [{ underWay .get with written := true }]) 60 [1#8] _ { underWay .get with written := true } (comes_is (by decide +kernel)) (by decide +kernel)
  have d4 := c7 (comes (.getData [1#8]) [{ underWay .get with req := [BitVec.ofNat 64 (2 ^ 56), 0#64, 0#64, 0#64] }]) 60 [1#8] _
    { underWay .get with req := [BitVec.ofNat 64 (2 ^ 56), 0#64, 0#64, 0#64] } (comes_is (by decide +kernel)) (by decide +kernel)
  have n1 := c8 (comes (.nack 7) [underWay .put]) 60 7 _ (underWay .put) (comes_is (by decide +kernel)) (by decide +kernel)
  have n2 := c8 (comes (.nack 6) [underWay (.rwsend true)]) 60 6 _ (underWay (.rwsend true)) (comes_is (by decide +kernel)) (by decide +kernel)
  have n3 := c8 (comes (.nack 6) [{ underWay (.rwsend true) with void := true }]) 60 6 _ { underWay (.rwsend true) with void := true } (comes_is (by decide +kernel)) (by decide +kernel)
  refine ⟨⟨_, c6 (comes .done [underWay .put]) 60 _ (underWay .put) (comes_is (by decide +kernel)) (by decide +kernel) rfl⟩, ⟨_, (d1.1 _ rfl (done_is (by decide +kernel))).1 (by decide +kernel)⟩,
    ⟨_, (d2.1 _ rfl (done_is (by decide +kernel))).2 (by decide +kernel)⟩, ⟨_, d3.2.1 rfl (by decide +kernel)⟩, ⟨_, d4.2.2 _ _ _ rfl (failed_is (by decide +kernel))⟩, ⟨_, n1.1 rfl⟩,
    ⟨_, n2.2.1 rfl rfl⟩, ⟨_, n3.2.2 rfl rfl⟩, (c9 (sup []) (somePut .put) (by unfold SoundHere SoundCells; decide +kernel) (by decide +kernel)).1.trans rfl, ⟨_, rfl⟩, ?_⟩
  rw [c11 (sup []) (somePut .put) 8 5 0 7 4095 rfl]
  rfl
/-- Bytes that an engine of die 1 has asked die 0 for have come. -/
def linesCome : State := { sup [] with engLines := [{ rid := 7, op := 20, pa := 0x207E, n := 2, bytes := some [5#8, 6#8], fail := none }] }
theorem witness_PortLines (c : Obligations.NetworkEvents) :
    (∃ q, (engWrite (sup []) 0 supJob 20 0x207F [5#8]).1.packets = [q]) ∧ (∃ r, engRead (sup []) 0 supJob 20 0x207E 2 = r) ∧
    (∃ q, (engRead (sup []) 1 supJob 20 0x207E 2).1.packets = [q]) ∧ (engRead linesCome 1 supJob 20 0x207E 2).2 = .ok [5#8, 6#8] ∧
    cellGet (freeSlotOf (withRegs (sup []) [(0x508, 2048)]) 0 1023 supJob) (freedHandle (withRegs (sup []) [(0x508, 2048)]) 0 1023) = 1 := by
  obtain ⟨c1, c2, -, -, -, -, -, -, -, c10, -⟩ := c
  refine ⟨?_, ⟨_, (c2 (sup []) _ 0 supJob 20 0x207E 0x207E 2 _ (by decide) (by decide) rfl (at_is (by decide +kernel)) (by decide +kernel)).1 (by decide +kernel)⟩, ?_, ?_, ?_⟩
  · obtain ⟨-, q, h, -⟩ := c1 (sup []) _ 0 supJob 20 0x207F 0x207F _ [5#8] (by decide) (by decide) rfl (at_is (by decide +kernel))
    rw [h]
    exact ⟨q, rfl⟩
  · obtain ⟨q, l, h, -⟩ := (c2 (sup []) _ 1 supJob 20 0x207E 0x207E 2 _ (by decide) (by decide) rfl (at_is (by decide +kernel)) (by decide +kernel)).2.1 (by decide) (by decide +kernel) (by decide +kernel)
    rw [h]
    exact ⟨q, rfl⟩
  · rw [(c2 linesCome _ 1 supJob 20 0x207E 0x207E 2 _ (by decide) (by decide) rfl (at_is (by decide +kernel)) (by decide +kernel)).2.2 { rid := 7, op := 20, pa := 0x207E, n := 2, bytes := some [5#8, 6#8], fail := none }
      [5#8, 6#8] (by decide) (by decide +kernel) rfl rfl]
  · have h := (c10 (withRegs (sup []) [(0x508, 2048)]) 0 1023 supJob (by decide) (by unfold SoundHere SoundCells; decide +kernel)).2.2.2.2.2.1
    exact (h (.inr (by unfold Unspilled; decide +kernel))).trans (by decide +kernel)

/-- Its record waits for channel 1,023 of 2 slots, of which 1 has been freed. -/
def anRw : PortOp :=
  { somePut (.rwsend true) with req := [0x3000#64, 0#64, BitVec.ofNat 64 (1023 * 2 ^ 32), 0#64, 1#64, 0#64] }
/-- A record of 128 bytes at 0x3000 for entry 4,095 of queue 31. -/
def remote : State :=
  { withMem (withRegs (connected []) [(0x508, 1024), (chanOff 1023, 2 ^ 48 + supJob * 2 ^ 32 + 2 * 2 ^ 23), (queueOff 31, 0x40000), (queueOff 31 + 8, 65535 + supJob * 2 ^ 16 + 2 ^ 32),
      (queueOff 31 + 16, 0), (regionOff 511 + 8, supJob * 2 ^ 40 + 15 * 2 ^ 56)]) [(0x3000, 31 * 2 ^ 17 + 2 ^ 24), (0x3008, 65534 * 2 ^ 26)] with
    portOps := [anRw], revokes := [⟨0, 511, 4095#64, 2, supJob, 0#57, 0, 1, 0⟩], arrivals := [⟨70, 0, (3, 0, 1023), 65535, 4095#64, supJob⟩], arrivalNext := [⟨0, (3, 0, 1023), 65535⟩] }
/-- The operation whose record lies where no page does. -/
def lostRw : PortOp := { anRw with req := [BitVec.ofNat 64 (2 ^ 56), 0#64, BitVec.ofNat 64 (1023 * 2 ^ 32), 0#64, 1#64, 0#64] }
/-- It waits for its channel. -/
def unread : State := { remote with portOps := [lostRw] }
/-- The record as it is sent, for a slot. -/
def recordFor (slot : Nat) : List Byte := natLe 8 (31 * 2 ^ 17 + 2 ^ 24) ++ natLe 8 (slot * 2 ^ 26) ++ List.replicate 112 0#8
/-- The entry of an armed request of thread 1. -/
def anArmed : Armed := { die := 0, idx := 1023, uid := 1, core := 0, job := supJob, pc := 0#57, seq := 0 }
/-- An armed request in entry 1,023 of die 0, its counter met: OP 4, or a put. -/
def armedHere (op : Nat) : State :=
  { withRegs (connected []) [(armedOff 1023, 4095), (armedOff 1023 + 16, op + 4095 * 16 + 2 ^ 32), (armedOff 1023 + 24, 0x3000), (armedOff 1023 + 40, 64 + 2 ^ 32), (armedOff 1023 + 48, 4095),
      (armedOff 1023 + 56, 4095)] with armed := [anArmed] }
/-- Its counter's wake arrives. -/
def firing : State := withPacket (armedHere 4) 10127 (.wake { aWaiter 3 0#64 with tag := 1023 })
/-- A record for that slot, or for a slot that there is not, or of another job, comes to it. -/
def recMsg (slot job : Nat) : NetBody := .rw 1023 65535 job (recordFor slot) false
/-- It arrives. -/
def recComes (slot job : Nat) : State := { remote with fabric := [aMsg (recMsg slot job)] }
theorem witness_RemoteWorkEvents (c : Obligations.RemoteWorkEvents) :
    Completes (.rwsendChannelAssign 0 1023) remote ∧ Completes (.rwsendChannelAssign 0 1023) unread ∧ Completes (.remoteWorkRecordReceive 60) (recComes 65534 supJob) ∧
    Completes (.remoteWorkRecordReceive 60) { remote with fabric := [{ aMsg (recMsg 65534 supJob) with got := true, written := true }] } ∧
    Completes (.remoteWorkRecordReceive 60) (recComes 65535 supJob) ∧ Completes (.remoteWorkRecordReceive 60) (recComes 65534 5) ∧
    Completes (.remoteWorkRecordReceive 60) { recComes 65534 supJob with poison := [.hbm (0x40000 + 128 * 65534)] } ∧
    Completes (.arrivalAddition 70) remote ∧ Completes (.revokeComplete 0 511) remote := by
  obtain ⟨c1, c2, c3, c4, -⟩ := c
  have r0 := c2 (recComes 65534 supJob) 60 1023 65535 supJob (recordFor 65534) false (aMsg (recMsg 65534 supJob)) ⟨by decide +kernel, rfl⟩
  have r1 := c2 { remote with fabric := [{ aMsg (recMsg 65534 supJob) with got := true, written := true }] } 60 1023 65535 supJob (recordFor 65534) false
    { aMsg (recMsg 65534 supJob) with got := true, written := true } ⟨by decide +kernel, rfl⟩
  have r2 := c2 (recComes 65535 supJob) 60 1023 65535 supJob (recordFor 65535) false (aMsg (recMsg 65535 supJob)) ⟨by decide +kernel, rfl⟩
  have r3 := c2 (recComes 65534 5) 60 1023 65535 5 (recordFor 65534) false (aMsg (recMsg 65534 5)) ⟨by decide +kernel, rfl⟩
  have r4 := c2 { recComes 65534 supJob with poison := [.hbm (0x40000 + 128 * 65534)] } 60 1023 65535 supJob (recordFor 65534) false (aMsg (recMsg 65534 supJob)) ⟨by decide +kernel, rfl⟩
  refine ⟨?_, ?_, ⟨_, (r0.2.1 _ _ rfl (by decide +kernel) ⟨gotten_is (d := []) (by decide +kernel), by decide +kernel⟩).1 (by decide +kernel)⟩, ⟨_, r1.1 rfl (by decide +kernel)⟩,
    ⟨_, (r2.2.2.1 2 rfl (by decide +kernel)).1 (by decide +kernel)⟩, ⟨_, (r3.2.2.1 1 rfl (by decide +kernel)).2 _ _ (by decide +kernel) (by decide) (done_is (by decide +kernel))⟩,
    ⟨_, r4.2.2.2 _ _ _ _ rfl (by decide +kernel) (gotten_is (d := []) (by decide +kernel)) (by decide +kernel) (by decide) (done_is (by decide +kernel))⟩,
    (c3 remote 70 _ (by rfl) (by decide +kernel) (by decide +kernel) (by unfold SoundHere SoundCells; decide +kernel) (by decide +kernel)).imp fun _ h => h.1,
    (c4 remote 0 511 _ (by rfl) (by decide +kernel) (by decide +kernel)).imp fun _ h => h.1⟩
  · obtain ⟨t, _, h, -⟩ := (c1 remote _ 0 1023 1023 false anRw (by decide +kernel) (by decide +kernel) (.inr (by decide +kernel)) (by decide +kernel) (.inr (by decide +kernel)) (by decide +kernel)).1 _
      (gotten_is (d := []) (by decide +kernel))
    exact ⟨t, h⟩
  · obtain ⟨t, _, h, -⟩ := (c1 unread _ 0 1023 1023 false lostRw (by decide +kernel) (by decide +kernel) (.inr (by decide +kernel)) (by decide +kernel) (.inr (by decide +kernel)) (by decide +kernel)).2 _ _
      (failed_is (by decide +kernel))
    exact ⟨_, h⟩
/-- Its counter's wake arrives while the port holds 256 operations. -/
def fullPort : State := { withPacket (armedHere 0) 10127 (.wake { aWaiter 3 0#64 with tag := 1023 }) with portOps := List.replicate 256 (underWay .put) }
/-- Its connection is another job's. -/
def otherConn : State := withRegs (armedHere 0) [(connOff 4095, 2 ^ 48 + 5 * 2 ^ 32)]
theorem witness_ArmedRequests (c : Obligations.RemoteWorkEvents) :
    Completes (.armedRequestFire 50) firing ∧ Completes (.armedRequestFire 50) fullPort ∧ (fireArmed (armedHere 0) anArmed).2 = true ∧
    (fireArmed otherConn anArmed).2 = true ∧ (fireArmed (armedHere 5) anArmed).2 = true := by
  obtain ⟨-, -, -, -, c5, c6⟩ := c
  refine ⟨?_, ⟨_, (c5 fullPort _ 50 (aPacket 10127 _) { aWaiter 3 0#64 with tag := 1023 } anArmed ⟨by decide +kernel, by decide +kernel, rfl⟩ rfl (by decide +kernel) (by decide +kernel) (by decide +kernel)).2
      (pair_is (by decide +kernel))⟩,
    congrArg Prod.snd (((c6 (armedHere 0) anArmed (by decide) (by decide +kernel) (by decide +kernel)).2.1 (by decide +kernel) (.inr (by decide +kernel))).1 (by decide +kernel)),
    congrArg Prod.snd (((c6 otherConn anArmed (by decide) (by decide +kernel) (by decide +kernel)).2.1 (by decide +kernel) (.inr (by decide +kernel))).2 (by decide +kernel)),
    congrArg Prod.snd ((c6 (armedHere 5) anArmed (by decide) (by decide +kernel) (by decide +kernel)).2.2 _ _ (by decide +kernel) (by decide +kernel) (by decide +kernel) (by decide +kernel)
      (gotten_is (d := []) (by decide +kernel)))⟩
  obtain ⟨t, h, -⟩ := (c6 firing anArmed (by decide) (by decide +kernel) (by decide +kernel)).1 (by decide +kernel) (.inr (by decide +kernel))
  exact ⟨_, (c5 firing _ 50 _ { aWaiter 3 0#64 with tag := 1023 } anArmed (arrives (by decide +kernel)) rfl (by decide +kernel) (by decide +kernel) (by rfl)).1 h⟩

/-- An operation of the collective engine on graph slot 7. -/
def aColl : PortOp := { somePut .coll with req := [BitVec.ofNat 64 (7 * 2 ^ 32), 0#64, 0#64, 0#64], base := [0x20000#64, 0x21000#64] }
/-- A `cgraph` of one node there. -/
def aBind : PortOp := { somePut .cgraph with req := [0x3000#64, BitVec.ofNat 64 (1 + 7 * 2 ^ 10), BitVec.ofNat 64 (4 * 2 ^ 61), 0#64] }
/-- The node to be bound has an OP that is none. -/
def badBind : State := { withMem (connected []) [(0x3000, 5)] with portOps := [aBind] }
/-- A `comp` of 8 bytes. -/
def aComp : PortOp := { somePut .comp with req := [0x3000#64, 0x3008#64, 8#64, 0#64] }
/-- Graph slot 7. -/
def aSlot : GraphSlot := { die := 0, slot := 7, n := 1, gcb := BitVec.ofNat 64 (4 * 2 ^ 61), slotw := 0, job := supJob, r := 4, bound := true }
/-- Its replay with one node. -/
def aReplay (n : NodeState) : Replay := { die := 0, slot := 7, op := 9, r := 4, t0 := 0#64, untimed := false, nodes := [n] }
/-- The engine with that replay; its node has this first word. -/
def replaying (w : Nat) (n : NodeState) : State :=
  { withRegs (connected []) [(nodeOff 7 0, w), (nodeOff 7 0 + 24, 65535 * 2 ^ 32)] with portOps := [{ aColl with started := true }], graphs := [aSlot], replays := [aReplay n] }
/-- A chunk of 4 bytes for extent 1, as its bytes or coded. -/
def aChunk (coded : Bool) : Chunk :=
  { conn := 4095, job := supJob, slot := 7, node := 0, db := 1, off := 4092, len := 4, fmt := 0, mode := 0, front := false, combine := false, coded := coded, insw := true, tree := none
    data := if coded then natLe 4 (1 + 2 ^ 28) ++ List.replicate 128 7#8 else [1#8, 2#8, 3#8, 4#8], last := true, sig := none }
/-- What a chunk's bytes decode to. -/
def decoded (r : Except Nat (List Byte)) : List Byte :=
  match r with
  | .ok b => b
  | .error _ => []
theorem decoded_is {r : Except Nat (List Byte)} (h : (match r with | .ok _ => true | .error _ => false) = true) : r = .ok (decoded r) := by
  obtain e | b := r
  · cases h
  · rfl
/-- The replay's operation. -/
def collOn : PortOp := { aColl with started := true }
/-- Its node has other words beside. -/
def replayingAt (l : List (Nat × Nat)) (n : NodeState) : State := { replaying 4 n with mregs := (withRegs (replaying 4 n) l).mregs }
theorem node_is (s : State) {n : NodeState} (h : replayOn s 0 = some (aReplay n)) (k : findOp s 9 = some collOn) (g : graphOf s 0 7 = some aSlot) : Node s 0 (aReplay n) collOn aSlot := ⟨h, k, g⟩
theorem witness_Replays (c : Obligations.CollectiveEvents) :
    Completes (.cgraphBind 9) { connected [] with portOps := [aBind] } ∧ Completes (.cgraphBind 9) badBind ∧
    getReg (putNodes 0 7 (connected []) 0 [5#64]) 0 (0x50000 + 32 * 512 * 7) = 5 ∧ Completes (.replayStart 0) { connected [] with portOps := [aColl], graphs := [aSlot] } ∧
    Completes (.replayStart 0) { connected [] with portOps := [aColl] } ∧ Completes (.graphNodeStart 0 0) (replaying 4 .ready) ∧
    Completes (.graphNodeStart 0 0) (replayingAt [(nodeOff 7 0 + 24, 2 ^ 16 + 65535 * 2 ^ 32)] .waiting) ∧ Completes (.graphNodeStart 0 0) (replaying 4 .begun) ∧
    Completes (.notBeforeExpiry 0 0) (replaying 4 .ready) ∧ Completes (.graphNodeComplete 0 0) (replaying 4 .running) ∧
    Completes (.graphNodeComplete 0 0) { replaying 4 .running with engFails := [{ op := nodeOp (aReplay .running) 0, page := none, va := 0, code := 7 }] } ∧
    (endReplay (replaying 4 .done) 0 collOn).replays = [] ∧ endReplay (replaying 4 .ready) 0 collOn = replaying 4 .ready ∧
    (failNode (replaying 4 .running) (aReplay .running) collOn 0).detected.length = 1 := by
  obtain ⟨c1, c2, c3, c4, -, -, -, -, -, -, -, -, -, -, -, -, c17, c18, c19, -⟩ := c
  have hn : ∀ w v, Node (replaying w v) 0 (aReplay v) collOn aSlot := fun _ _ => ⟨rfl, rfl, rfl⟩
  have n1 := c4 (replaying 4 .ready) 0 0 _ _ _ (hn _ _) (by decide +kernel)
  refine ⟨⟨_, (c1 { connected [] with portOps := [aBind] } _ 9 aBind _ (by decide +kernel) (by decide +kernel) (by decide +kernel) (gotten_is (d := []) (by decide +kernel))).1 (by decide +kernel)⟩,
    ⟨_, (c1 badBind _ 9 aBind _ (by decide +kernel) (by decide +kernel) (by decide +kernel) (gotten_is (d := []) (by decide +kernel))).2 0 (by decide +kernel)⟩,
    (c2 (connected []) 0 7 0 [5#64] (by unfold Rising; decide +kernel) (by decide) (by decide) (by decide)).trans rfl,
    ((c3 { connected [] with portOps := [aColl], graphs := [aSlot] } 0 aColl (by decide +kernel) (by decide +kernel) (by decide +kernel) (by decide +kernel)).1 aSlot (by decide +kernel) rfl rfl).imp fun _ h => h.1,
    ⟨_, (c3 { connected [] with portOps := [aColl] } 0 aColl (by decide +kernel) (by decide +kernel) (by decide +kernel) (by decide +kernel)).2 (by intro x h; cases h)⟩,
    ⟨_, n1.1 (.inl rfl)⟩, ?_, ⟨_, (c4 (replaying 4 .begun) 0 0 _ _ _ (hn _ _) (by decide +kernel)).2.2.1 rfl⟩, ⟨_, (n1.2.2.2 (by decide +kernel)).trans (n1.1 (.inl rfl))⟩,
    ⟨_, (c17 (replaying 4 .running) 0 0 _ _ _ (hn _ _) (by decide +kernel) (by decide +kernel) (by decide +kernel)).1 (by decide +kernel) (by decide +kernel)⟩,
    ⟨_, (c17 { replaying 4 .running with engFails := [{ op := nodeOp (aReplay .running) 0, page := none, va := 0, code := 7 }] } 0 0 (aReplay .running) collOn aSlot (node_is _ rfl rfl rfl)
      (by decide +kernel) (by decide +kernel) (by decide +kernel)).2 (.inr (by decide +kernel))⟩, ?_,
    (c18 (replaying 4 .ready) 0 (aReplay .ready) collOn rfl).2 ⟨.ready, by decide, by decide⟩, ?_⟩
  · obtain ⟨_, _, h, -⟩ := (c4 (replayingAt [(nodeOff 7 0 + 24, 2 ^ 16 + 65535 * 2 ^ 32)] .waiting) 0 0 (aReplay .waiting) collOn aSlot (node_is _ rfl rfl rfl) (by decide +kernel)).2.1 rfl
      (by decide +kernel) (by decide +kernel)
    exact ⟨_, h⟩
  · rw [(c18 (replaying 4 .done) 0 (aReplay .done) collOn rfl).1 (by decide)]
    decide +kernel
  · rw [c19 (replaying 4 .running) (aReplay .running) collOn 0 rfl]
    rfl
/-- Its node's time is 5. -/
def timedNode (now : Nat) : State := { replayingAt [(nodeOff 7 0 + 8, 5 * 2 ^ 40)] .ready with ftime := [(0, now)] }
/-- Its node sends, combines or copies 8 bytes of extent 0 to extent 1, by its OP. -/
def working (op : Nat) : State := replaying (op + 4095 * 2 ^ 12 + 2 ^ 28 + 8 * 2 ^ 32) .ready
theorem witness_Nodes (c : Obligations.CollectiveEvents) :
    (∃ t, runNode (replaying 4 .ready) (aReplay .ready) collOn aSlot 0 = t) ∧ runNode (timedNode 4) (aReplay .ready) collOn aSlot 0 = timedNode 4 ∧
    (∃ t, runNode (timedNode 5) (aReplay .ready) collOn aSlot 0 = t) ∧ (∃ t, runNode (timedNode 6) (aReplay .ready) collOn aSlot 0 = t) ∧
    (∃ t, runNode (replaying 4 .ready) { aReplay .ready with untimed := true } collOn aSlot 0 = t) ∧ getField (recordLate (connected []) (aReplay .ready) 4095 7) 0 0x810 27 16 = 4095 ∧
    nodeWork (replaying 4 .ready) (aReplay .ready) collOn aSlot 0 = nodeSet (replaying 4 .ready) (aReplay .ready) 0 .running ∧
    nodeWork (replaying 0 .ready) (aReplay .ready) collOn aSlot 0 = failNode (replaying 0 .ready) (aReplay .ready) collOn 0 ∧
    (∃ t ms, nodeWork (working 0) (aReplay .ready) collOn aSlot 0 = t ∧ t.fabric = ms) ∧ (∃ t, nodeWork (working 3) (aReplay .ready) collOn aSlot 0 = t) ∧
    (∃ t, nodeWork (working 2) (aReplay .ready) collOn aSlot 0 = t) ∧ (chunksOf (aChunk false) false 1 0 [1#8]).flatMap (·.data) = [1#8] ∧
    chunksOf (aChunk true) true 1 0 (List.replicate 4 1#8) = [{ aChunk true with off := 0, len := 4, coded := true, data := encodeChunk 0 (List.replicate 4 1#8), last := true }] := by
  obtain ⟨-, -, -, -, c5, c6, c7, c8, c9, -⟩ := c
  have k4 := c5 (timedNode 4) (aReplay .ready) collOn aSlot 0
  have k5 := c5 (timedNode 5) (aReplay .ready) collOn aSlot 0
  have k6 := c5 (timedNode 6) (aReplay .ready) collOn aSlot 0
  exact ⟨⟨_, ((c5 (replaying 4 .ready) (aReplay .ready) collOn aSlot 0).2.2 0 (by decide +kernel)).2.1 (by decide +kernel) (by decide +kernel)⟩,
    (k4.2.2 5 (by decide +kernel)).1 (by decide +kernel), ⟨_, (k5.2.2 5 (by decide +kernel)).2.1 (by decide +kernel) (by decide +kernel)⟩,
    ⟨_, (k6.2.2 5 (by decide +kernel)).2.2 (by decide +kernel)⟩,
    ⟨_, (c5 (replaying 4 .ready) { aReplay .ready with untimed := true } collOn aSlot 0).2.1 (by decide +kernel)⟩,
    (c6 (connected []) (aReplay .ready) 4095 7 (by unfold Rising; decide +kernel)).2.1,
    (c7 (replaying 4 .ready) State.reset (aReplay .ready) collOn aSlot 0 []).1 (by decide +kernel),
    (c7 (replaying 0 .ready) State.reset (aReplay .ready) collOn aSlot 0 []).2.1 (by decide +kernel) (.inl (by decide +kernel)),
    (((c7 (working 0) _ (aReplay .ready) collOn aSlot 0 _).2.2 (gotten_is (d := []) (by decide +kernel))).1 (by decide +kernel) (by decide +kernel) (by decide +kernel)).elim
      fun t h => h.elim fun _ k => ⟨t, _, k.1, rfl⟩,
    ⟨_, ((c7 (working 3) _ (aReplay .ready) collOn aSlot 0 _).2.2 (gotten_is (d := []) (by decide +kernel))).2.1 _ (by decide +kernel) (done_is (by decide +kernel))⟩,
    ⟨_, ((c7 (working 2) _ (aReplay .ready) collOn aSlot 0 _).2.2 (gotten_is (d := []) (by decide +kernel))).2.2 _ (by decide +kernel) (done_is (by decide +kernel))⟩,
    (c8 (aChunk false) [1#8] 0).1, c9 (aChunk true) 0 (List.replicate 4 1#8) (by decide) (by decide) (by decide) (by decide)⟩
/-- The sibling of node (0, 0) of the destination's tree is held. -/
def sibling : State := { connected [] with trees := [⟨0, 0x20000, supJob, 0, 1, some [1#8, 2#8, 3#8, 4#8]⟩] }
/-- What the collective engine reads there, its place found. -/
def readThere (s : State) : State × EngRes (List Byte) := engRead (engPlaces s 0 supJob 20 (pagePieces 2 0x20000 4) []).1 0 supJob 20 0x20000 4
/-- 32 bytes whose first word and sixth word are these. -/
def keyed (a b : Nat) : List Byte := natLe 4 a ++ List.replicate 16 0#8 ++ natLe 4 b ++ List.replicate 8 0#8
theorem witness_Combines (c : Obligations.CollectiveEvents) :
    (∃ t, combineAt (connected []) 0 supJob 20 0x20000 0 0 false none [1#8, 2#8, 3#8, 4#8] = (t, .ok ())) ∧
    (∃ t, combineAt (connected []) 0 supJob 20 0x20000 0 0 false (some (0, 0)) [1#8, 2#8, 3#8, 4#8] = (t, .ok ())) ∧
    (Config.freeBit (combineBytes (readThere sibling).1 0 0 false [1#8, 2#8, 3#8, 4#8] [1#8, 2#8, 3#8, 4#8]).1.free = false →
      ∃ t, combineAt sibling 0 supJob 20 0x20000 0 0 false (some (0, 0)) [1#8, 2#8, 3#8, 4#8] = (t, .ok ())) ∧
    (combineBytes (sup []) 0 0 false (natLe 4 0x3F800000) (natLe 4 0x3F800000)).2 = natLe 4 0x40000000 ∧
    (combineBytes (sup []) 2 1 false (keyed 0 0) (keyed 0x3F800000 0)).2 = keyed 0 0 ∧ (combineBytes (sup []) 2 1 false (keyed 0x7FC00000 0) (keyed 0 0)).2 = keyed 0 0 ∧
    (combineBytes (sup []) 2 1 false (keyed 0 8190) (keyed 0 8191)).2 = keyed 0 8190 ∧ (combineBytes (sup []) 2 1 false (keyed 0 8191) (keyed 0 8190)).2 = keyed 0 8190 ∧
    (∃ b, (combineBytes (sup []) 3 2 true (List.replicate 16 0#8) (List.replicate 16 0#8)).2 = b) := by
  obtain ⟨-, -, -, -, -, -, -, -, -, c10, c11, c12, c13, -⟩ := c
  have h := fun s3 => c10 (connected []) (engPlaces (connected []) 0 supJob 20 (pagePieces 2 0x20000 4) []).1 (readThere (connected [])).1 s3
  have g := c10 sibling (engPlaces sibling 0 supJob 20 (pagePieces 2 0x20000 4) []).1 (readThere sibling).1
  refine ⟨⟨_, (h _ 0 supJob 20 0x20000 0 0 false _ [1#8, 2#8, 3#8, 4#8] _ _ (gotten_is (d := []) (by decide +kernel)) (by decide +kernel) (gotten_is (d := []) (by decide +kernel))).1 rfl⟩, ?_,
    fun e => ⟨_, (g _ 0 supJob 20 0x20000 0 0 false _ [1#8, 2#8, 3#8, 4#8] _ _ (gotten_is (d := []) (by decide +kernel)) (by decide +kernel) (gotten_is (d := []) (by decide +kernel))).2.2 0 0
      [1#8, 2#8, 3#8, 4#8] (by decide +kernel) rfl e⟩, ?_, (c12 (sup []) false (keyed 0 0) (keyed 0x3F800000 0) rfl rfl).1 (.inl (by decide +kernel)),
    (c12 (sup []) false (keyed 0x7FC00000 0) (keyed 0 0) rfl rfl).2.1 (.inr (by decide +kernel)),
    (c12 (sup []) false (keyed 0 8190) (keyed 0 8191) rfl rfl).2.2.1 (.inl (by decide +kernel)) (by decide +kernel),
    (c12 (sup []) false (keyed 0 8191) (keyed 0 8190) rfl rfl).2.2.2 (.inl (by decide +kernel)) (by decide +kernel), ⟨_, (c13 (sup []) _ _ rfl rfl).1 true⟩⟩
  · have k := h State.reset 0 supJob 20 0x20000 0 0 false _ [1#8, 2#8, 3#8, 4#8] _ [] (gotten_is (d := []) (by decide +kernel)) (by decide +kernel) (gotten_is (d := []) (by decide +kernel))
    cases e : Config.freeBit (readThere (connected [])).1.free
    · exact ⟨_, (k.2.1 0 0 (by decide +kernel)).1 e⟩
    · exact ⟨_, ((h _ 0 supJob 20 0x20000 0 0 false _ [1#8, 2#8, 3#8, 4#8] _ _ (gotten_is (d := []) (by decide +kernel)) (by decide +kernel) (gotten_is (d := []) (by decide +kernel))).2.1 0 0
        (by decide +kernel)).2 e rfl⟩
  · rw [(c11 (sup []) false (natLe 4 0x3F800000) (natLe 4 0x3F800000) 1 rfl rfl).1]
    decide +kernel
/-- A coded chunk without its header. -/
def noChunk : Chunk := { aChunk true with data := [] }
theorem witness_Chunks (c : Obligations.CollectiveEvents) :
    Completes (.collectiveChunkReceive 60) (comes (.chunk (aChunk false)) [collOn]) ∧ Completes (.collectiveChunkReceive 60) (comes (.chunk (aChunk true)) [collOn]) ∧
    Completes (.collectiveChunkReceive 60) (comes (.chunk { aChunk false with conn := 4094 }) [collOn]) ∧ Completes (.collectiveChunkReceive 60) (comes (.chunk noChunk) [collOn]) ∧
    Completes (.collectiveChunkReceive 60) (gone (.chunk (aChunk false))) ∧ (∃ t, finishChunk (sup []) (aMsg (.chunk (aChunk false))) (aChunk false) = t) ∧
    (∃ t, finishChunk (sup []) (aMsg (.chunk (aChunk false))) { aChunk false with sig := some 4095#64 } = t) ∧
    Completes (.compComplete 9) { connected [] with portOps := [aComp] } ∧ Completes (.compComplete 9) { connected [] with portOps := [{ aComp with written := true }] } ∧
    Completes (.inswDiscovery 11 true true) (sup []) ∧ Completes (.inswRefusal 0 0) { sup [] with fabric := [{ aMsg (.chunk (aChunk false)) with smod := 0 }] } := by
  obtain ⟨-, -, -, -, -, -, -, -, -, -, -, -, -, c14, c15, c16, -, -, -, c20, c21, c22⟩ := c
  refine ⟨⟨_, (((c14 (comes (.chunk (aChunk false)) [collOn]) 60 (aMsg (.chunk (aChunk false))) (aChunk false) ⟨by decide +kernel, rfl⟩ rfl).2 (.inr ⟨by decide +kernel, by decide +kernel⟩)).1 _ _
      (.inl ⟨rfl, rfl⟩) (done_is (by decide +kernel))).1 (by decide +kernel)⟩,
    ⟨_, (((c14 (comes (.chunk (aChunk true)) [collOn]) 60 (aMsg (.chunk (aChunk true))) (aChunk true) ⟨by decide +kernel, rfl⟩ rfl).2 (.inr ⟨by decide +kernel, by decide +kernel⟩)).1 _ _
      (.inr ⟨rfl, decoded_is (by decide +kernel)⟩) (done_is (by decide +kernel))).1 (by decide +kernel)⟩,
    ⟨_, (c14 (comes (.chunk { aChunk false with conn := 4094 }) [collOn]) 60 (aMsg (.chunk { aChunk false with conn := 4094 })) { aChunk false with conn := 4094 } ⟨by decide +kernel, rfl⟩ rfl).1 rfl
      (.inl (by decide +kernel))⟩,
    ⟨_, ((c14 (comes (.chunk noChunk) [collOn]) 60 (aMsg (.chunk noChunk)) noChunk ⟨by decide +kernel, rfl⟩ rfl).2 (.inr ⟨by decide +kernel, by decide +kernel⟩)).2 4 rfl (by rfl)⟩,
    ⟨_, c15 (gone (.chunk (aChunk false))) 60 _ (aChunk false) (gone_is (by decide +kernel)) rfl (by decide +kernel)⟩, ⟨_, (c16 _ _ (aChunk false)).1 (.inl rfl)⟩,
    ⟨_, (c16 _ (aMsg (.chunk (aChunk false))) { aChunk false with sig := some 4095#64 }).2 _ rfl rfl (by decide +kernel)⟩,
    ⟨_, ((c20 { connected [] with portOps := [aComp] } _ _ _ _ 9 aComp _ _ _ (by decide +kernel) (by decide +kernel)).1 rfl (gotten_is (d := []) (by decide +kernel)) (gotten_is (d := []) (by decide +kernel)) rfl
      (by decide +kernel) (done_is (by decide +kernel))).1 (by decide +kernel)⟩,
    ⟨_, (c20 { connected [] with portOps := [{ aComp with written := true }] } State.reset State.reset State.reset State.reset 9 { aComp with written := true } [] [] [] (by decide +kernel) (by decide +kernel)).2 rfl
      (by decide +kernel)⟩,
    ⟨_, c21 _ 11 true true⟩, (c22 _ 0 0 (by decide +kernel)).imp fun _ h => h.1⟩

/-! ## Steps of other agents: links, the halt wave -/

/-- Every die enabled; the end of a link at die 0. -/
def linked (l : LinkEnd) : State := { withRegs (sup []) [(0x20, 0xFFF)] with links := [l] }
/-- A flit of zeros as number 0, with `k` added to its checksum. -/
def aFlit (k : Nat) : BitVec 512 := BitVec.ofNat 512 (2 ^ 496 * (0xD6DA + k))
/-- A flit with its first bit set and this checksum: 0x888 is that of number 0, and 0x3BB9 that of number 1. -/
def flit1 (c : Nat) : BitVec 512 := BitVec.ofNat 512 (1 + 2 ^ 496 * c)
/-- The checksum of 62 bytes of which none but the first differs from 0 (R173), before the flit's number. -/
theorem crc_62 : (natLe 62 0).foldl crcByte 0xFFFF = 0xC9DB ∧ (natLe 62 1).foldl crcByte 0xFFFF = 0xB207 := by
  have h : ∀ x, x < 2 → natLe 62 x = natLe 8 x ++ (natLe 8 0 ++ (natLe 8 0 ++ (natLe 8 0 ++ (natLe 8 0 ++ (natLe 8 0 ++ (natLe 8 0 ++ natLe 6 0)))))) := by decide
  simp only [h 0 (by decide), h 1 (by decide), List.foldl_append,
    show (natLe 8 0).foldl crcByte 0xFFFF = 0x313E by decide +kernel, show (natLe 8 0).foldl crcByte 0x313E = 0x6A0A by decide +kernel,
    show (natLe 8 0).foldl crcByte 0x6A0A = 0xEF8A by decide +kernel, show (natLe 8 0).foldl crcByte 0xEF8A = 0xF14C by decide +kernel,
    show (natLe 8 0).foldl crcByte 0xF14C = 0x85D9 by decide +kernel, show (natLe 8 0).foldl crcByte 0x85D9 = 0xDF9D by decide +kernel,
    show (natLe 8 0).foldl crcByte 0xDF9D = 0x99AF by decide +kernel, show (natLe 6 0).foldl crcByte 0x99AF = 0xC9DB by decide +kernel,
    show (natLe 8 1).foldl crcByte 0xFFFF = 0x76ED by decide +kernel, show (natLe 8 0).foldl crcByte 0x76ED = 0xC22E by decide +kernel,
    show (natLe 8 0).foldl crcByte 0xC22E = 0xD889 by decide +kernel, show (natLe 8 0).foldl crcByte 0xD889 = 0xA80A by decide +kernel,
    show (natLe 8 0).foldl crcByte 0xA80A = 0x6B7D by decide +kernel, show (natLe 8 0).foldl crcByte 0x6B7D = 0x357C by decide +kernel,
    show (natLe 8 0).foldl crcByte 0x357C = 0xD868 by decide +kernel, show (natLe 6 0).foldl crcByte 0xD868 = 0xB207 by decide +kernel, and_self]
/-- Whether such a flit checks under a number. -/
theorem flit_ok {f : BitVec 512} {x v c : Nat} (h : (flitBytes f).take 62 = natLe 62 x) (k : (natLe 62 x).foldl crcByte 0xFFFF = v) (m : leNat ((flitBytes f).drop 62) = c) :
    flitOk f = fun n => c == (natLe 2 (n % 65536)).foldl crcByte v := by
  funext n
  rw [flitOk, flitCrc, List.foldl_append, h, k, m]
theorem flits_ok : (flitOk (aFlit 0) 0 = true ∧ flitOk (flit1 0x888) 0 = true) ∧ (flitOk (flit1 0x3BB9) 0 = false ∧ flitAhead (flit1 0x3BB9) 0 = true) ∧
    flitOk (aFlit 1) 0 = false ∧ flitAhead (aFlit 1) 0 = false := by
  simp only [flitAhead, flit_ok (f := aFlit 0) (by decide +kernel) crc_62.1 (by decide +kernel : _ = 0xD6DA), flit_ok (f := aFlit 1) (by decide +kernel) crc_62.1 (by decide +kernel : _ = 0xD6DB),
    flit_ok (f := flit1 0x888) (by decide +kernel) crc_62.2 (by decide +kernel : _ = 0x888), flit_ok (f := flit1 0x3BB9) (by decide +kernel) crc_62.2 (by decide +kernel : _ = 0x3BB9)]
  decide +kernel
/-- The end of a link at die 0, and its peer, which has sent one flit. -/
def linked2 : State := { linked (LinkEnd.trained 0 11) with links := [LinkEnd.trained 0 11, { LinkEnd.trained 11 0 with tx := 1 }] }
/-- A flit of this first word and of NACK 65,535. -/
def aNack (w : Nat) : BitVec 512 := BitVec.ofNat 512 (w + 2 ^ 125 + 2 ^ 128 * 65535)
/-- Its first flit has come. -/
def parted (w : Nat) : State := linked { LinkEnd.trained 0 11 with tx := 0x20000, kept := [flit1 0x888], partFlits := [aNack w] }
theorem witness_LinkEvents (c : Obligations.LinkEvents) :
    Completes (.linkSwingDirWrite 2 0 11 0x0F#64) (linked (LinkEnd.trained 0 11)) ∧ getField (swingWrite (linked (LinkEnd.trained 0 11)) 0 11 0x0F) 11 0x700 7 0 = 240 ∧
    (∃ t, turnOf (swingWrite (linked (LinkEnd.trained 0 11)) 0 11 (255 - dirOf (linked (LinkEnd.trained 0 11)) 0 11)) 0 11 0 = some t) ∧ swingWrite (sup []) 0 12 0x0F = sup [] ∧
    Completes (.swingTurnComplete 11 0 7) (linked { LinkEnd.trained 0 11 with turning := [(7, 0)] }) ∧
    bit (getReg (setBusy (linked (LinkEnd.trained 0 11)) 0 11 7 true) 11 0x700) 15 = true ∧
    (∃ z, loseGroup (linked (LinkEnd.trained 0 11)) 0 11 true 7 = z) ∧ (∃ z, loseGroup (linked (LinkEnd.trained 0 11)) 0 11 false 0 = z) ∧
    loseGroup (linked (LinkEnd.trained 0 11)) 0 11 true 8 = linked (LinkEnd.trained 0 11) ∧ ifDown false (linked (LinkEnd.trained 0 11)) 0 11 = linked (LinkEnd.trained 0 11) ∧
    Completes (.flitReceive 0 11 (aFlit 0)) (linked (LinkEnd.trained 0 11)) ∧ Completes (.flitReceive 0 11 (flit1 0x888)) (linked (LinkEnd.trained 0 11)) ∧ Completes (.flitReceive 0 11 (flit1 0x888)) linked2 ∧
    Completes (.flitReceive 0 11 (flit1 0x3BB9)) (linked (LinkEnd.trained 0 11)) ∧ Completes (.flitReceive 0 11 (aFlit 1)) (linked (LinkEnd.trained 0 11)) := by
  obtain ⟨c1, c2, c3, c4, c5, c6, c7, c8, -⟩ := c
  have r : Rising (linked (LinkEnd.trained 0 11)) := by unfold Rising; decide +kernel
  have f := c8 (linked (LinkEnd.trained 0 11)) 0 11
  refine ⟨⟨_, c1 _ 2 0 11 0x0F#64 (by unfold MayWrite; decide +kernel)⟩, (c2 (linked (LinkEnd.trained 0 11)) 0 11 0x0F (by decide +kernel) (by decide +kernel) r).2.1,
    ⟨_, (((c2 (linked (LinkEnd.trained 0 11)) 0 11 (255 - dirOf (linked (LinkEnd.trained 0 11)) 0 11) (by decide +kernel) (by decide +kernel) r).2.2.2.2 0 (by decide)).1
      (by decide +kernel) (by decide +kernel)).2.2⟩, c3 _ _ _ _ (.inr (by decide)),
    ⟨_, (c4 (linked { LinkEnd.trained 0 11 with turning := [(7, 0)] }) 0 11 7 0 (by decide) (by decide +kernel) (by decide)).2⟩,
    (c5 (linked (LinkEnd.trained 0 11)) 0 11 7 true (by decide) (by decide) (by decide) (by decide) r).2.1,
    ((c6 (linked (LinkEnd.trained 0 11)) 0 11 7 (by decide +kernel) r).1 (by decide) (by decide +kernel) (by decide +kernel) (by decide +kernel)).elim fun _ h => ⟨_, h.1⟩,
    ((c6 (linked (LinkEnd.trained 0 11)) 0 11 0 (by decide +kernel) r).2.1 (by decide +kernel) (by decide +kernel)).elim fun _ h => ⟨_, h.1⟩,
    (c6 (linked (LinkEnd.trained 0 11)) 0 11 8 (by decide +kernel) r).2.2.1 (.inl (by decide)), (c7 (linked (LinkEnd.trained 0 11)) 0 11).1 (by decide +kernel),
    ⟨_, ((f (aFlit 0) (by decide +kernel)).2.1 (.inr (by decide +kernel))).1 flits_ok.1.1 (by decide +kernel) (by decide +kernel)⟩,
    ⟨_, (f (flit1 0x888) (by decide +kernel)).1 (by decide +kernel) flits_ok.1.2 (by decide +kernel)⟩,
    ⟨_, ((c8 linked2 0 11 (flit1 0x888) (by decide +kernel)).2.1 (.inl (by decide +kernel))).2 flits_ok.1.2 (.inr (by decide +kernel))⟩,
    ⟨_, (f (flit1 0x3BB9) (by decide +kernel)).2.2.1 flits_ok.2.1.1 flits_ok.2.1.2 (by decide +kernel)⟩,
    ⟨_, (f (aFlit 1) (by decide +kernel)).2.2.2 flits_ok.2.2.1 flits_ok.2.2.2⟩⟩
theorem witness_Retries (c : Obligations.LinkEvents) :
    (∃ g, (LinkEnd.trained 0 11).idle 0 = { LinkEnd.trained 0 11 with tx := 1, kept := [g] }) ∧
    (∃ p, ({ LinkEnd.trained 0 11 with queue := [natLe 62 1] } : LinkEnd).pump 0 1 = p) ∧
    getField (askRetry (linked (LinkEnd.trained 0 11)) 0 11) 0 0x7D8 15 0 = 1 ∧ takePacket (parted (11 + 512)) 0 11 = parted (11 + 512) ∧
    (∃ t, takePacket (parted (1 + 256)) 0 11 = t) ∧ (linkEnd (takePacket (parted (11 + 256)) 0 11) 0 11).resend = [flit1 0x888] ∧
    Completes (.retryRequest 0 11 0xFFFF#16) (linked { LinkEnd.trained 0 11 with tx := 0x20000, kept := [flit1 0x888] }) ∧
    Completes (.laneDiagnosis 0 11 false true 7) (linked { LinkEnd.trained 0 11 with retries := 17 }) := by
  obtain ⟨-, -, -, -, -, -, -, -, c9, c10, c11, -, c13, c14, c15, -⟩ := c
  refine ⟨((c9 0 (LinkEnd.trained 0 11)).2 (by decide)).imp fun _ h => h.1.trans rfl, ?_,
    (c11 (linked (LinkEnd.trained 0 11)) 0 11 (by decide) (by decide)).2.trans (by decide +kernel), (c13 (parted (11 + 512)) 0 11 _ [] rfl).1 (by decide +kernel),
    ⟨_, (c13 (parted (1 + 256)) 0 11 _ [] rfl).2.1 (by decide +kernel) (by decide +kernel)⟩, ?_,
    ⟨_, c14 (linked { LinkEnd.trained 0 11 with tx := 0x20000, kept := [flit1 0x888] }) 0 11 0xFFFF#16 (by decide +kernel) (by decide +kernel) (by decide +kernel)⟩,
    ⟨_, (c15 (linked { LinkEnd.trained 0 11 with retries := 17 }) 0 11 7 true (by decide +kernel) (by decide +kernel)).2⟩⟩
  · obtain ⟨_, h, -⟩ := c10 0 0 { LinkEnd.trained 0 11 with queue := [natLe 62 1] } (natLe 62 1) [] rfl (by decide) (by decide)
    exact ⟨_, h⟩
  · rw [(c13 (parted (11 + 256)) 0 11 _ [] rfl).2.2 (by decide +kernel) (by decide +kernel) (by decide +kernel) (by decide +kernel) (by decide +kernel)]
    decide +kernel
theorem witness_Transport (c : Obligations.LinkEvents) :
    Completes (.ptpMessage 11 (-999) (2 ^ 40)) (linked (LinkEnd.trained 0 11)) ∧
    (∃ t, exec (.ptpMessage 11 (-999) (2 ^ 40)) (linked (LinkEnd.trained 0 11)) = .next t ∧ ftimeRun t 11 ≤ ftimeRun t 0 + 10) ∧
    Completes (.ptpMessage 0 (-1000) 7) (withRegs (sup []) [(0x840, 1)]) ∧ Completes (.ptpLockLost 0 1000) (withRegs (sup []) [(0x840, 1)]) ∧
    Completes (.ptpLockLost 0 0) { withRegs (sup []) [(0x840, 1)] with cycle := 8000000000 } ∧
    Completes (.peerLost 0 8191 15) { withPacket (sup []) (2 ^ 20 * 8192 + 512 * 15 + 136) .ack with cycle := 4000000 } ∧
    cutOff { sup [] with lost := [(0, 8191, 0)] } (8191, 0) (0, 0) = false ∧ (failPacket (withPacket (sup []) 136 (.write [] none)) (aPacket 136 (.write [] none))).packets = [] ∧
    Completes (.portPeerClrGo 2 0 0x21FFF#64) { sup [] with lost := [(0, 8191, 0)] } ∧ Completes (.transportRetransmission 60) (comes .done []) := by
  obtain ⟨-, -, -, -, -, -, -, -, -, -, -, -, -, -, -, c16, c17, c18, c19, -, c21, c22, c23, c24, c25⟩ := c
  refine ⟨(c16 _ 11 (-999) (2 ^ 40) (by decide +kernel) (by decide)).imp fun _ h => h.1,
    (c17 (linked (LinkEnd.trained 0 11)) 11 0 (-999) (2 ^ 40) (by decide +kernel) (by decide +kernel) (by decide) rfl (fun _ => by show 0 < 2 ^ 63; decide)).imp fun _ h => ⟨h.1, h.2.1⟩,
    ⟨_, c18 (withRegs (sup []) [(0x840, 1)]) 0 (-1000) 7 (by decide +kernel) (by decide +kernel) (by decide)⟩,
    ⟨_, c19 (withRegs (sup []) [(0x840, 1)]) 0 1000 (by decide +kernel) (by decide +kernel) (.inr (by decide))⟩,
    ⟨_, c19 { withRegs (sup []) [(0x840, 1)] with cycle := 8000000000 } 0 0 (by decide +kernel) (by decide +kernel) (.inl (by decide +kernel))⟩,
    ⟨_, c21 { withPacket (sup []) (2 ^ 20 * 8192 + 512 * 15 + 136) .ack with cycle := 4000000 } 0 8191 15 (by decide +kernel) (by decide +kernel) (by decide +kernel) ?_⟩,
    (c22 { sup [] with lost := [(0, 8191, 0)] } (0, 0) (8191, 0) (by decide +kernel) (by decide +kernel)).2,
    (c23 (withPacket (sup []) 136 (.write [] none)) (aPacket 136 (.write [] none)) 1 rfl rfl).2.2.1.trans rfl,
    (c24 { sup [] with lost := [(0, 8191, 0)] } 2 0 0x21FFF#64 (by unfold MayWrite; decide +kernel) (by decide)).imp fun _ h => h.1, ⟨_, c25 _ 60⟩⟩
  exact .inl ⟨aPacket (2 ^ 20 * 8192 + 512 * 15 + 136) .ack, by decide +kernel, by decide +kernel⟩

/-- Halt slot 15 of die 0 holds job 5, in this phase and with these bits beside it, and this is kept there. -/
def halting (phase : Nat) (w : List HaltWork) : State :=
  { withMem (withRegs (demo 5 [] []) [(0xCC0, 5 + 2 ^ 16 + 2 ^ 17), (0xCD0, phase), (0xCF8, 1000)]) [(5 * 64, 2 ^ 20)] with halts := w }
/-- A step of it that has issued in every thread, or a go at T 0. -/
def aWork (go : Option DWord) : HaltWork :=
  { die := 0, slot := 15, since := 0, goT := go, armHeld := none, least := none, stepping := [], stepped := [1], stepAt := 0, asker := some (0, 15), queue := [], going := none }
/-- A token of job 5 arrives at die 0. -/
def token (opc : Nat) : NetBody := .token opc 5 0#64 1 [0, 0] 0 0#57
/-- In this phase. -/
def tokened (phase opc : Nat) : State := { halting phase [] with fabric := [aMsg (token opc)] }
/-- Nothing is kept there but a token, a least key or a time of issue. -/
def keeping (go : Option DWord) (arm : Option NetBody) (least : Option (List Nat)) (g : Option (Nat × Nat)) : HaltWork :=
  { aWork go with armHeld := arm, least := least, stepped := [], asker := none, going := g }
/-- A halted thread waits on a counter that is 0. -/
def haltedWait (v : DWord) : State := withThread (halting 2 []) fun t => { t with wait := .cwt 1 ⟨4095#64, v⟩ }
/-- The counter of completed halts is the last cell of core 0. -/
def counted (phase : Nat) (w : List HaltWork) : State := withRegs (halting phase w) [(0xCC8, 4095)]
theorem witness_HaltCommands (c : Obligations.HaltEvents) :
    Completes (.haltCmdHalt 2 0 15) (halting 0 []) ∧ Completes (.haltCmdHalt 2 0 15) (halting 3 []) ∧ Completes (.haltCmdThawArm 2 0 15) (halting 2 []) ∧ Completes (.haltCmdThawArm 2 0 15) (halting 1 []) ∧
    Completes (.haltCmdThawArm 2 0 15) (halting 0 []) ∧ Completes (.haltCmdGo 2 0 15) (halting 2 []) ∧ Completes (.haltCmdGo 2 0 15) (halting 3 []) ∧
    Completes (.haltCmdGo 2 0 15) (halting 3 [keeping (some 5#64) none none none]) ∧ Completes (.haltCmdStep 2 0 15 3 127 31 63) (halting 1 []) ∧ Completes (.haltCmdStep 2 0 15 3 127 31 63) (halting 2 []) := by
  have hw : ∀ p, p < 4 → WaveSlot (halting p []) 0 15 ∧ MayWrite (halting p []) 2 0 (0x930 + 64 * 15) := by unfold WaveSlot MayWrite; decide +kernel
  have hp : ∀ p, p < 4 → phaseOf (halting p []) 0 15 = p := by decide +kernel
  have k := fun p h => c.1 (halting p []) 2 0 15 (hw p h).1 (hw p h).2
  have g := c.1 (halting 3 [keeping (some 5#64) none none none]) 2 0 15 (by unfold WaveSlot; decide +kernel) (by unfold MayWrite; decide +kernel)
  exact ⟨⟨_, (k 0 (by decide)).1 (hp 0 (by decide))⟩, ⟨_, (k 3 (by decide)).2.1 (by decide +kernel)⟩, ⟨_, (k 2 (by decide)).2.2.1 (hp 2 (by decide))⟩,
    ⟨_, (k 1 (by decide)).2.2.2.1 (hp 1 (by decide))⟩, ⟨_, (k 0 (by decide)).2.2.2.2.1 (.inl (hp 0 (by decide)))⟩, ⟨_, (k 2 (by decide)).2.2.2.2.2.1 (by decide +kernel)⟩,
    ⟨_, ((k 3 (by decide)).2.2.2.2.2.2.1 (hp 3 (by decide))).2 (by decide +kernel)⟩, ⟨_, (g.2.2.2.2.2.2.1 (by decide +kernel)).1 (by decide +kernel)⟩,
    ⟨_, ((k 1 (by decide)).2.2.2.2.2.2.2 3 127 31 63 (by decide) (by decide) (by decide) (by decide)).1 (by decide +kernel)⟩,
    ⟨_, ((k 2 (by decide)).2.2.2.2.2.2.2 3 127 31 63 (by decide) (by decide) (by decide) (by decide)).2 (by decide +kernel) (by decide +kernel)⟩⟩
theorem witness_HaltTokens (c : Obligations.HaltEvents) :
    phaseOf (startHalt (halting 0 []) 0 15 127 31 63 3 0x1000) 0 15 = 1 ∧ hseqOf (takeCause (halting 0 []) 0 15 65535 7 [0, 0] 0 0) 0 15 = 65535 ∧
    Completes (.haltTokenHalt 60) (tokened 0 0) ∧ Completes (.haltTokenThawArm 60) (tokened 2 1) ∧ Completes (.haltTokenGo 60) (tokened 3 2) ∧
    (∃ t, haltToken (halting 0 []) 0 5 0 32767 [0, 0] 0 0#57 (token 0) = t) ∧ (∃ t, haltToken (halting 1 []) 0 5 0 32767 [0, 0] 0 0#57 (token 0) = t) ∧
    haltToken (halting 0 []) 0 5 0 32768 [0, 0] 0 0#57 (token 0) = halting 0 [] ∧ haltToken (halting 1 []) 0 5 0 32768 [0, 0] 0 0#57 (token 0) = halting 1 [] ∧
    haltToken (halting 1 [keeping none none (some [0, 0, 0]) none]) 0 5 0 0 [0, 0] 0 0#57 (token 0) = halting 1 [keeping none none (some [0, 0, 0]) none] ∧
    (haltToken (halting 0 []) 0 6 0 1 [0, 0] 0 0#57 (token 0)).mregs = (halting 0 []).mregs ∧
    thawToken (halting 3 []) 0 5 0 (token 1) = halting 3 [] ∧ (∃ t, thawToken (halting 1 []) 0 5 0 (token 1) = t) ∧ (∃ t, thawToken (halting 2 []) 0 5 0 (token 1) = t) ∧
    goToken (halting 2 []) 0 5 0 0#64 (token 2) = halting 2 [] ∧ (∃ t, goToken (halting 3 []) 0 5 0 0#64 (token 2) = t) ∧ goToken (halting 3 []) 0 6 0 0#64 (token 2) = halting 3 [] := by
  obtain ⟨-, -, c3, c4, c5, c6, c7, c8, c9, c10, -⟩ := c
  have r : ∀ p, p < 4 → Rising (halting p []) := by unfold Rising; decide +kernel
  have w : ∀ p, p < 4 → waveSlot (halting p []) 0 5 = some 15 := by decide +kernel
  have h0 := c6 (halting 0 []) 0 15 5 0
  have h1 := c6 (halting 1 []) 0 15 5 0
  exact ⟨(c3 (halting 0 []) 0 15 127 31 63 3 0x1000 (by decide) (r 0 (by decide)) (by decide +kernel)).1,
    (c4 (halting 0 []) 0 15 65535 7 0 0 [0, 0] (by decide) (r 0 (by decide)) (by decide) (by decide)).1.1,
    ⟨_, (c5 (tokened 0 0) 60 5 1 0 (aMsg (token 0)) 0#64 [0, 0] 0#57).1 ⟨by decide +kernel, rfl⟩⟩, ⟨_, (c5 (tokened 2 1) 60 5 1 0 (aMsg (token 1)) 0#64 [0, 0] 0#57).2.1 ⟨by decide +kernel, rfl⟩⟩,
    ⟨_, (c5 (tokened 3 2) 60 5 1 0 (aMsg (token 2)) 0#64 [0, 0] 0#57).2.2 ⟨by decide +kernel, rfl⟩⟩,
    ⟨_, (h0 32767 0 [0, 0] 0#57 (token 0) (w 0 (by decide))).1 (by decide +kernel) (by decide +kernel)⟩,
    ⟨_, (h1 32767 0 [0, 0] 0#57 (token 0) (w 1 (by decide))).2.1 (by decide +kernel) (.inl (by decide +kernel))⟩,
    (h0 32768 0 [0, 0] 0#57 (token 0) (w 0 (by decide))).2.2.1 (by decide +kernel) (by decide +kernel),
    (h1 32768 0 [0, 0] 0#57 (token 0) (w 1 (by decide))).2.2.2.1 (by decide +kernel) (by decide +kernel) (by decide +kernel),
    (c6 (halting 1 [keeping none none (some [0, 0, 0]) none]) 0 15 5 0 0 0 [0, 0] 0#57 (token 0) (by decide +kernel)).2.2.2.2 _ [0, 0, 0] (by decide +kernel) (by decide +kernel) (by rfl) rfl (by decide),
    (c7 (halting 0 []) 0 6 0 1 0 [0, 0] 0#57 (token 0) (by decide +kernel) (by decide +kernel)).elim fun _ h => h.2.2.2,
    (c8 (halting 3 []) 0 15 5 0 (token 1) (w 3 (by decide))).1 (.inr (.inr (by decide +kernel))), ⟨_, (c8 (halting 1 []) 0 15 5 0 (token 1) (w 1 (by decide))).2.1 (by decide +kernel) (by decide +kernel)⟩,
    ⟨_, (c8 (halting 2 []) 0 15 5 0 (token 1) (w 2 (by decide))).2.2 (by decide +kernel) (by decide +kernel)⟩,
    (c9 (halting 2 []) 0 15 5 0 0#64 (token 2) (w 2 (by decide))).1 (.inr (.inl (by decide +kernel))),
    ⟨_, (c9 (halting 3 []) 0 15 5 0 0#64 (token 2) (w 3 (by decide))).2 (by decide +kernel) (by decide +kernel) (by decide +kernel)⟩, (c10 (halting 3 []) 0 6 0 0#64 (token 2) (by decide +kernel)).2⟩
theorem witness_HaltPhases (c : Obligations.HaltEvents) :
    phaseOf (armDie (counted 2 []) 0 15 (token 1)) 0 15 = 3 ∧ phaseOf (becomeHalted (counted 1 []) 0 15) 0 15 = 2 ∧
    (∃ y, becomeHalted (counted 1 [keeping none (some .done) none none]) 0 15 = armDie y 0 15 (armToken (counted 1 [keeping none (some .done) none none]) 0 15)) ∧
    Completes (.haltDrained 0 15) (halting 1 []) ∧ Completes (.haltDrainTimeout 0 15) { halting 1 [aWork none] with ftime := [(0, 2000000)] } ∧
    (∃ t, takeGo (halting 3 []) 0 15 5#64 = t) ∧ (∃ t, takeGo (halting 3 []) 0 15 0#64 = t) ∧ Completes (.haltGoAtT 0 15) (halting 3 [keeping (some 0#64) none none none]) ∧
    Completes (.haltGoAtT 0 15) (halting 3 [keeping (some 0#64) none none (some (200, 5))]) ∧
    (∃ t, goOnward (halting 3 [keeping (some 0#64) none none (some (200, 5))]) 0 15 = t) ∧ getField (resumeDie (halting 3 []) 0 15 (2 ^ 40) (2 ^ 40)) 0 0xCD0 63 32 = 2 ^ 32 - 1 := by
  obtain ⟨-, -, -, -, -, -, -, -, -, -, c11, c12, c13, c14, c15, -, c17, c18, -⟩ := c
  have e := c17 (halting 3 [keeping (some 0#64) none none (some (200, 5))]) 0 15 200 5 _ 0#64 (by rfl) rfl rfl
  refine ⟨(c11 (counted 2 []) 0 15 (token 1) (by decide) (by unfold Rising; decide +kernel) (by unfold SoundHere SoundCells; decide +kernel) (by decide +kernel)).1,
    ((c12 (counted 1 []) 0 15 (by decide) (by unfold Rising; decide +kernel) (by unfold SoundHere SoundCells; decide +kernel) (by decide +kernel)).1 (by decide +kernel)).1,
    ((c12 (counted 1 [keeping none (some .done) none none]) 0 15 (by decide) (by unfold Rising; decide +kernel) (by unfold SoundHere SoundCells; decide +kernel) (by decide +kernel)).2 .done
      (by decide +kernel) (.inl rfl)).imp fun _ h => h.1,
    ⟨_, (c13 (halting 1 []) 0 15 (by decide) (by decide +kernel) (by decide +kernel)).1 (by decide +kernel) (by decide +kernel)⟩,
    ⟨_, (c13 { halting 1 [aWork none] with ftime := [(0, 2000000)] } 0 15 (by decide) (by decide +kernel) (by decide +kernel)).2 ⟨aWork none, by decide +kernel, by decide +kernel⟩⟩,
    ⟨_, ((c14 (halting 3 []) 0 15 5#64).1 (by decide +kernel)).1⟩, ⟨_, (c14 (halting 3 []) 0 15 0#64).2 (by decide +kernel)⟩,
    ⟨_, (c15 (halting 3 [keeping (some 0#64) none none none]) 0 15 _ 0#64 (by rfl) rfl (by decide) (by decide +kernel) (by decide +kernel)).1 rfl⟩,
    ⟨_, (c15 (halting 3 [keeping (some 0#64) none none (some (200, 5))]) 0 15 _ 0#64 (by rfl) rfl (by decide) (by decide +kernel) (by decide +kernel)).2 (by decide +kernel)⟩,
    ⟨_, e.2.1 (by decide +kernel)⟩, ((c18 (halting 3 []) 0 15 (2 ^ 40) (2 ^ 40) (by decide) (by unfold Rising; decide +kernel)).2 rfl rfl).2.1.trans (by decide)⟩
theorem witness_Steps (c : Obligations.HaltEvents) :
    heldBack (halting 2 []) (threadOf (halting 2 []) 1) = true ∧ getField (setStep (halting 2 []) 0 15 1 3) 0 0xCD0 20 19 = 3 ∧
    beginStep (halting 2 []) 0 15 [3, 0, 0, 0] none = setStep (halting 2 []) 0 15 0 2 ∧ (∃ t, beginStep (halting 2 []) 0 15 [2, 0, 0, 0] none = t) ∧
    beginStep (halting 2 []) 0 15 [0, 127, 31, 63] none = setStep (halting 2 []) 0 15 0 2 ∧ (∃ t, beginStep (haltedWait 0#64) 0 15 [0, 0, 3, 2] none = t) ∧
    (∃ t, beginStep (haltedWait 1#64) 0 15 [0, 0, 3, 2] none = t) ∧ testWait (haltedWait 1#64) (threadOf (haltedWait 1#64) 1) = none ∧
    Completes (.stepComplete 0 15) (halting (2 + 2 ^ 18) [aWork none]) := by
  obtain ⟨-, -, -, -, -, -, -, -, -, -, -, -, -, -, -, -, -, -, c19, -, c21, c22, c23, c24⟩ := c
  have m := c23 (haltedWait 0#64) (threadOf (haltedWait 0#64) 1) 1 ⟨4095#64, 0#64⟩ rfl (by decide +kernel) (by decide +kernel)
  have n := c23 (haltedWait 1#64) (threadOf (haltedWait 1#64) 1) 1 ⟨4095#64, 1#64⟩ rfl (by decide +kernel) (by decide +kernel)
  obtain ⟨s1, h1, -⟩ := m.1 (by decide +kernel)
  refine ⟨?_, (c21 (halting 2 []) 0 15 1 3 (by decide) (by decide) (by decide) (by unfold Rising; decide +kernel)).2.1, (c22 (halting 2 []) 0 15 3 0 0 0).1 (by decide),
    ⟨_, (c22 (halting 2 []) 0 15 2 0 0 0).2.1 (by decide) (by decide +kernel)⟩, (c22 (halting 2 []) 0 15 0 127 31 63).2.2.1 (by decide) (by decide +kernel) (.inr (by decide +kernel)),
    ⟨_, ((c22 (haltedWait 0#64) 0 15 0 0 3 2).2.2.2 _ (by decide) (by decide +kernel) (by rfl) (.inl ⟨1, _, rfl⟩)).1 s1 h1⟩,
    ⟨_, ((c22 (haltedWait 1#64) 0 15 0 0 3 2).2.2.2 _ (by decide) (by decide +kernel) (by rfl) (.inl ⟨1, _, rfl⟩)).2 (n.2 (by decide +kernel))⟩, n.2 (by decide +kernel),
    ⟨_, c24 (halting (2 + 2 ^ 18) [aWork none]) 0 15 (aWork none) (by decide +kernel) (by decide) (by decide +kernel) (by decide +kernel)⟩⟩
  have k := c19 (halting 2 []) (threadOf (halting 2 []) 1) 15 (by decide +kernel) (by decide +kernel)
  cases e : heldBack (halting 2 []) (threadOf (halting 2 []) 1)
  · obtain ⟨w, h, -⟩ := k.1 e
    cases h
  · rfl

/-! ## Steps of other agents: resets, management, errors -/

/-- Locked, with an image of 4,096 zero bytes for address 0x10000 in the memory of port 1, asked for by it; its CODE_LEN is `n`. -/
def imaging (n : Nat) : State :=
  { withMem { State.reset with mregs := [(mkey 0 0x90, 0#64), (mkey 0 0xC8, 8192#64), (mkey 0 0xD8, 1#64)] } [(2 ^ 65, 0x4B59494D + 2 ^ 32), (2 ^ 65 + 0x10, 0x10000), (2 ^ 65 + 0x18, 0x10FF0), (2 ^ 65 + 0x20, n)] with imgPort := some 1 }
theorem witness_ResetEvents (c : Obligations.ResetEvents) :
    Completes (.warmReset 1 0 1#64) counting ∧ Completes (.warmReset 0 0 3#64) counting ∧ Completes (.coldReset 0 0 3#64 (2 ^ 64 - 1)) counting ∧ Completes (.warmReset 1 0 4#64) counting ∧
    Completes (.coldReset 2 0 3#64 7) counting ∧ Completes (.warmReset 1 0 1#64) { counting with portDown := [1] } ∧ Completes (.imageLoadGo 1 0 1#64) { counting with portDown := [1] } ∧
    Completes (.powerUp 5) { State.reset with power := .off } ∧ Completes (.powerUp 5) counting ∧ Completes .powerOff counting ∧ Completes (.imageLoadGo 1 0 1#64) State.reset ∧
    Completes .imageCheckComplete State.reset ∧ Completes .imageCheckComplete (imaging 4095) ∧ Completes .imageCheckComplete { imaging 4096 with portDown := [1] } ∧
    Completes .imageCheckComplete { imaging 4096 with mregs := [(mkey 0 0xC8, 4095#64), (mkey 0 0xD8, 1#64)] } ∧ Completes (.getVersion 1) State.reset ∧ Completes (.getMeasurements 0) State.reset ∧
    Completes (.getVersion 1) { counting with portDown := [1] } := by
  have hm : ∀ m < 3, MayWrite counting m 0 0xA0 := by unfold MayWrite; decide +kernel
  obtain ⟨u, hu⟩ := Option.isSome_iff_exists.mp (show (mgmtStop { counting with portDown := [1] } 1 0 0xA0 true).isSome = true by decide +kernel)
  obtain ⟨v, hv⟩ := Option.isSome_iff_exists.mp (show (mgmtStop { counting with portDown := [1] } 1 0 0xD0 true).isSome = true by decide +kernel)
  have h3 := c.2.2.1 { counting with portDown := [1] }
  have h9 := fun s p h => c.2.2.2.2.2.2.2.2.1 s p h
  refine ⟨((c.1 counting 1 0 0 1#64 (hm 1 (by decide)) (by decide)).1 (by decide) (by decide)).imp fun _ h => h.1,
    have ⟨t, _, h⟩ := ((c.1 counting 0 0 0 3#64 (hm 0 (by decide)) (by decide)).2.1 (by decide)).1; ⟨t, h.1⟩,
    ((c.1 counting 0 0 (2 ^ 64 - 1) 3#64 (hm 0 (by decide)) (by decide)).2.1 (by decide)).2.imp fun _ h => h.1,
    ⟨_, ((c.1 counting 1 0 0 4#64 (hm 1 (by decide)) (by decide)).2.2 (by decide) (by decide)).1⟩, ⟨_, (c.2.1 counting 2 0 7 3#64 (hm 2 (by decide)) (by decide)).2⟩,
    ⟨_, ((h3 u 1 0 0 1#64).1 hu).1⟩, ⟨_, (h3 v 1 0 0 1#64).2 hv⟩, ((c.2.2.2.1 { State.reset with power := .off } 5).1 rfl).imp fun _ h => h.1,
    ⟨_, (c.2.2.2.1 counting 5).2 (by decide)⟩, ⟨_, c.2.2.2.2.1 counting⟩, ⟨_, c.2.2.2.2.2.1 _ 1 0 1#64 (by unfold MayWrite; decide +kernel)⟩, ⟨_, c.2.2.2.2.2.2.1 State.reset rfl⟩,
    ((h9 (imaging 4095) 1 rfl).2.2.1 (by decide +kernel) (by decide)).imp fun _ h => h.1, ((h9 { imaging 4096 with portDown := [1] } 1 rfl).2.1 (by decide +kernel) (by decide)).imp fun _ h => h.1,
    ((h9 { imaging 4096 with mregs := [(mkey 0 0xC8, 4095#64), (mkey 0 0xD8, 1#64)] } 1 rfl).1 (by decide +kernel)).imp fun _ h => h.1,
    ⟨_, (c.2.2.2.2.2.2.2.2.2.1 State.reset 1 0#256 (by decide) (by decide +kernel)).1⟩, ⟨_, (c.2.2.2.2.2.2.2.2.2.1 State.reset 0 0#256 (by decide) (by decide +kernel)).2.2.2.2.2.2⟩,
    ⟨_, (c.2.2.2.2.2.2.2.2.2.2 { counting with portDown := [1] } 1 0#256 (.inl (by decide))).1⟩⟩
/-- An accepted image. What the part accepts is no constant of the manual: the hypotheses on it here are of `Config` alone, each about a function without a body. -/
theorem witness_ImageAccepted (c : Obligations.ResetEvents) (hs : ∀ b, Config.sha384 b = 0#384) (he : Config.fusedEc = 0#384) (hl : Config.fusedLms = 0#384)
    (hv : ∀ k s m, Config.ecdsaVerify k s m = true) (hw : ∀ k s m, Config.lmsVerify k s m = true) : Completes .imageCheckComplete (imaging 4096) := by
  have h0 : imgLimits (imaging 4096) (memBytes (imaging 4096) (2 ^ 64 * (1 + 1) + getReg (imaging 4096) 0 0xC0) 4096) = true := by decide +kernel
  have h1 : digestNat ((memBytes (imaging 4096) (2 ^ 64 * (1 + 1) + getReg (imaging 4096) 0 0xC0) 4096).drop 0x30) = 0 := by decide +kernel
  have h2 : getField (imaging 4096) 0 0x90 31 0 = 0 := by decide +kernel
  have h3 : has (imaging 4096).portDown 1 = false := by decide +kernel
  have h4 : imgFieldsBad (imaging 4096) = false := by decide +kernel
  refine (c.2.2.2.2.2.2.2.1 (imaging 4096) 1 rfl h0 ?_).imp fun _ h => h.1
  simp only [imgReason, h0, h1, h2, h3, h4, hs, he, hl, hv, hw, BitVec.toNat_ofNat, Nat.zero_mod, Bool.not_true, -BitVec.reduceToNat, -BitVec.reduceOfNat, Bool.false_eq_true, ne_eq, not_true_eq_false, if_false, Nat.not_lt_zero]

/-- A job of die 0 that a kill has left nothing of; DONE is the last cell of core 0. -/
def killing : State := { withRegs (sup []) [(0x140, 4095)] with kills := [(0, 77)] }
theorem revokeRegions_none {d job : Nat} {s : State} {l : List Nat} (h : ∀ n ∈ l, jobRegion s d job n = false) : revokeRegions d job s l = s := by
  induction l with
  | nil => rfl
  | cons a l ih =>
    rw [revokeRegions, h a List.mem_cons_self]
    exact ih fun n hn => h n (List.mem_cons_of_mem _ hn)
theorem witness_Writes (c : Obligations.ManagementEvents) :
    StoredFields (sup []) (regWritePlain (sup []) 0 0x138 0x1FFFF) 0 0x138 0x1FFFF ∧ ReadFields (sup []) (regRead (sup []) 11 0x148).2 11 0x148 (regRead (sup []) 11 0x148).1 ∧
    Completes (.modIdWrite 1 0 0x1FFF#64) (sup []) ∧ (∃ t, exec (.modIdWrite 1 0 0x1FFF#64) counting = .next t ∧ moduleId t = 8191) ∧ Completes (.registerWrite 1 0 0x508 0x1FFFFFFFFF#64) (sup []) ∧
    exec (.registerWrite 1 0 0 5#64) (sup []) = exec (.modIdWrite 1 0 5#64) (sup []) ∧ exec (.registerWrite 1 0 (0x700 + 8 * 11) 1#64) (sup []) = exec (.linkSwingDirWrite 1 0 11 1#64) (sup []) ∧
    Completes (.registerWrite 1 0 0x18 5#64) (sup []) ∧ Completes (.imageLoadGo 1 0 1#64) { sup [] with portDown := [1] } ∧ Completes (.haltCmdHalt 0 11 15) { sup [] with portDown := [0] } ∧
    Completes (.registerWrite 1 0 (2 ^ 27 + 64 * 255) 5#64) (sup []) ∧ Completes (.registerWrite 1 0 (2 ^ 27 + 64 * 255 + 0x30) 1#64) (sup []) := by
  have hR : Rising (sup []) := by unfold Rising; decide +kernel
  obtain ⟨c1, c2, c3, c4, -, -, -, -, -, -, -, -, -, c14, c15, c16, c17, -⟩ := c
  have d := fun m (h : m < 3) (hm : m < 2) => c16 { sup [] with portDown := [m] } { sup [] with portDown := [m] } m 0 0xD0 1#64 h (by decide) (.inl ⟨fun k => (k hm).1 (by simp), rfl⟩)
  have e := c16 { sup [] with portDown := [0] } { sup [] with portDown := [0] } 0 11 (0x930 + 64 * 15) 1#64 (by decide) (by decide) (.inl ⟨fun k => (k (by decide)).1 (by simp), rfl⟩)
  refine ⟨(c1 (sup []) 0 0x138 0x1FFFF hR).1, c2 (sup []) 11 0x148 hR (by decide +kernel), ⟨_, c3 (sup []) 1 0 0x1FFF#64 (by unfold MayWrite; decide +kernel)⟩, ?_,
    ⟨_, c14 _ 1 0 0x508 0x1FFFFFFFFF#64 (by unfold MayWrite; decide +kernel) ?_ ?_ ?_ ?_ ?_ ?_ ?_ ?_ ?_ ?_ ?_⟩, (c15 (sup []) 1 0 0 5#64 (by decide)).1, (c15 (sup []) 1 0 11 1#64 (by decide)).2.2.2.2.2.2,
    ⟨_, (c16 (sup []) _ 1 0 0x18 5#64 (by decide) (by decide) (.inr (.inl ⟨fun _ => by decide +kernel, .inr ⟨.inl (by decide +kernel), by decide +kernel⟩, rfl⟩))).1⟩,
    ⟨_, (d 1 (by decide) (by decide)).2.1 rfl⟩, ⟨_, (e.2.2.2.2.2.2.2.2.2 15 (by decide)).1⟩, ⟨_, (c17 (sup []) 1 255 5#64 (by decide) (by decide +kernel)).1⟩, ⟨_, (c17 (sup []) 1 255 1#64 (by decide) (by decide +kernel)).2⟩⟩
  · obtain ⟨t, h, k, -⟩ := c4 counting 1 0 0x1FFF#64 (by unfold MayWrite; decide +kernel) (by unfold Rising; decide +kernel) (by decide +kernel) (by decide +kernel) (by decide +kernel)
    exact ⟨t, h, k⟩
  all_goals decide
theorem witness_Kills (c : Obligations.ManagementEvents) :
    Completes (.jobKillGo 2 0 0x10005#64) counting ∧ Completes (.jobKillGo 2 0 5#64) counting ∧ RegionsRevoked (sup []) (revokeRegions 0 5 (sup []) (upFrom 0 512)) 0 5 ∧
    finishKill (copying aCopy) 0 supJob = revokeRegions 0 supJob (copying aCopy) (upFrom 0 512) ∧ (finishKill killing 0 77).kills = [] ∧ Completes (.jobKillComplete 0) killing ∧ Completes (.jobKillComplete 1) killing ∧
    Completes (.unitOffGo 2 0 0x10000#64) (sup []) ∧ Completes (.unitOffGo 1 0 0#64) (sup []) ∧ Completes (.unitOffGo 1 0 0x10000#64) counting ∧
    Completes (.unitOffGo 1 0 0x10B04#64) (withRegs (sup []) [(8, 0x7FF)]) ∧ (∃ t, exec (.unitOffGo 1 0 0x17F00#64) (sup []) = .next t ∧ ∀ e k, coreOn t e k = (coreOn (sup []) e k && !(e == 0 && k == 127))) ∧
    dieBusy counting 0 = true := by
  obtain ⟨-, -, -, -, c5, c6, c7, c8, c9, c10, c11, c12, c13, -⟩ := c
  have hw : MayWrite counting 2 0 0x138 := by unfold MayWrite; decide +kernel
  have hk : ∀ n ∈ upFrom 0 512, jobRegion killing 0 77 n = false := by decide +kernel
  have hc : ∀ n ∈ upFrom 0 512, jobRegion (copying aCopy) 0 supJob n = false := by decide +kernel
  have hR : Rising (sup []) := by unfold Rising; decide +kernel
  have hb : ∀ x ∈ counting.threads, dieOf x.core = 0 ∧ x.job ≠ supJob := by decide +kernel
  have kz := c8 killing 0 77
  have cz := c8 (copying aCopy) 0 supJob
  have k9 := c9 killing 0 77 (by decide +kernel) (by unfold Rising; decide +kernel)
  simp only [revokeRegions_none hk] at kz k9
  simp only [revokeRegions_none hc] at cz
  refine ⟨?_, ⟨_, c6 counting 2 0 5#64 hw (by decide)⟩, c7 (sup []) 0 5 hR, ?_, ?_, ?_, ⟨_, c10 killing 1 (by decide +kernel)⟩, ⟨_, c11 _ 2 0 0x10000#64 (by unfold MayWrite; decide +kernel)⟩,
    ⟨_, (c12 (sup []) 1 0 0#64 (by unfold MayWrite; decide +kernel) (by decide) hR).1 (by decide)⟩,
    ⟨_, (c12 counting 1 0 0x10000#64 (by unfold MayWrite; decide +kernel) (by decide) (by unfold Rising; decide +kernel)).2.1 (by decide) (.inl (by decide +kernel))⟩,
    ⟨_, (c12 (withRegs (sup []) [(8, 0x7FF)]) 1 0 0x10B04#64 (by unfold MayWrite; decide +kernel) (by decide) (by unfold Rising; decide +kernel)).2.2.1 (by decide) ?_ ?_⟩, ?_,
    c13 counting 0 (.inl ⟨(counting.threads.head?).getD (oneThread 5 []), by decide +kernel, by decide +kernel, by decide +kernel⟩)⟩
  · obtain ⟨_, y, h, -⟩ := c5 counting 2 0 0x10005#64 hw (by decide) (by unfold Rising; decide +kernel)
    exact ⟨y, h⟩
  · rw [revokeRegions_none hc]
    exact cz.1 (by decide +kernel)
  · exact (kz.2 (by decide +kernel) (by unfold SoundHere SoundCells; decide +kernel) (by decide +kernel)).1.trans rfl
  · obtain ⟨t, h, -⟩ := k9 (by unfold SoundHere SoundCells; decide +kernel) (by decide +kernel)
    exact ⟨t, h⟩
  · decide +kernel
  · unfold UnitThere
    decide +kernel
  · obtain ⟨t, h, -, g, -⟩ := (c12 (sup []) 1 0 0x17F00#64 (by unfold MayWrite; decide +kernel) (by decide) hR).2.2.2 (by decide) (by decide +kernel) (.inl (by decide +kernel))
    exact ⟨t, h, g.1 (by decide +kernel)⟩
theorem witness_ClearingReads (c : Obligations.ManagementEvents) :
    Completes (.portCeStatusRead 1 0) (sup []) ∧ Completes (.dieFltLostRead 1 0) (sup []) ∧ Completes (.dieEccRead 1 0) (sup []) ∧ Completes (.dieLinkErrRead 1 0 11) (sup []) ∧
    Completes (.portNackRxRead 1 0) (sup []) ∧ Completes (.portCeFallbkRead 1 0) (sup []) ∧ Completes (.portInswRefusedRead 1 0) (sup []) ∧ Completes (.dieHaltStateRead 1 0 15) (sup []) ∧
    (∃ v t, exec (.dieEccRead 1 0) (sup []) = .next (readOut 1 v t) ∧ ReadFields (sup []) t 0 0x148 v) ∧ Completes (.dieEccRead 1 0) { sup [] with portDown := [1] } := by
  obtain ⟨-, -, -, -, -, -, -, -, -, -, -, -, -, -, -, -, -, c18, c19, c20, -⟩ := c
  have hr := c18 (sup []) 1 0
  refine ⟨⟨_, hr _ _ (.inl ⟨rfl, rfl⟩) (by decide +kernel)⟩, ⟨_, hr _ _ (.inr (.inl ⟨rfl, rfl⟩)) (by decide +kernel)⟩, ⟨_, hr _ _ (.inr (.inr (.inl ⟨rfl, rfl⟩))) (by decide +kernel)⟩,
    ⟨_, hr _ _ (.inr (.inr (.inr (.inl ⟨11, rfl, rfl⟩)))) (by decide +kernel)⟩, ⟨_, hr _ _ (.inr (.inr (.inr (.inr (.inl ⟨rfl, rfl⟩))))) (by decide +kernel)⟩,
    ⟨_, hr _ _ (.inr (.inr (.inr (.inr (.inr (.inl ⟨rfl, rfl⟩)))))) (by decide +kernel)⟩, ⟨_, hr _ _ (.inr (.inr (.inr (.inr (.inr (.inr (.inl ⟨rfl, rfl⟩))))))) (by decide +kernel)⟩,
    ⟨_, hr _ _ (.inr (.inr (.inr (.inr (.inr (.inr (.inr ⟨15, rfl, rfl⟩))))))) (by decide +kernel)⟩, ?_,
    ⟨_, c20 { sup [] with portDown := [1] } { sup [] with portDown := [1] } 1 0 _ _ (.inr (.inr (.inl ⟨rfl, rfl⟩))) (by decide) (.inl ⟨fun k => (k (by omega)).1 (by simp), rfl⟩)⟩⟩
  obtain ⟨v, t, h, k, -⟩ := c19 (sup []) 1 0 0x148 (.dieEccRead 1 0) (.inr (.inr (.inl ⟨rfl, rfl⟩))) (by decide +kernel) (by unfold Rising; decide +kernel)
  exact ⟨v, t, h, k⟩
theorem witness_HostAccesses (c : Obligations.ManagementEvents) :
    Completes (.hostBar4Write 1 0x2000 8 5#64) (sup []) ∧ Completes (.hostBar4Read 1 0x2007 1) (sup []) ∧ Completes (.hostBar4Read 1 (2 ^ 43 + 0x14C) 4) (sup []) ∧
    Completes (.hostReservedOffsetAccess 1 0 0x18) (sup []) ∧ Completes (.hostReservedOffsetAccess 1 0 0x18) { sup [] with portDown := [1] } ∧
    Completes (.hostReservedOffsetAccess 1 4 (2 ^ 44 - 1)) (sup []) ∧ Completes (.hostReservedOffsetAccess 1 4 0) (withRegs (sup []) [(0xE08, 0)]) ∧
    Completes (.hostReservedOffsetAccess 0 2 0x3FFF) (withRegs (sup []) [(0xE00, 0)]) := by
  obtain ⟨-, -, -, -, -, -, -, -, -, -, -, -, -, -, -, -, -, -, -, -, c21, c22, c23, c24, c25, c26, c27⟩ := c
  refine ⟨have ⟨_, h⟩ := c21 (sup []) 1 0x2000 8 5#64 (by decide +kernel); ⟨_, h.1⟩, ⟨_, c22 (sup []) 1 0x2007 1 (by decide +kernel) (by decide +kernel) (by decide +kernel) (by decide +kernel)⟩,
    ?_, (c24 (sup []) 1 0x18 (by decide) (by decide) (by decide +kernel) rfl (by decide +kernel) (by decide +kernel)).imp fun _ h => h.1,
    ⟨_, c25 { sup [] with portDown := [1] } { sup [] with portDown := [1] } 1 0x18 (by decide) (.inl ⟨fun k => (k (by omega)).1 (by simp), rfl⟩)⟩,
    ⟨_, (c26 (sup []) 1 (2 ^ 44 - 1) (by decide) (fun _ => by decide +kernel) rfl (by decide) (by decide)).1 (by decide +kernel)⟩,
    ⟨_, (c26 (withRegs (sup []) [(0xE08, 0)]) 1 0 (by decide) (fun _ => by decide +kernel) (by decide +kernel) (by decide) (by decide)).2 (by decide +kernel) (by decide +kernel)⟩,
    ⟨_, c27 (withRegs (sup []) [(0xE00, 0)]) 0 0x3FFF (by decide) (fun _ => by decide +kernel) (by decide +kernel) (by decide) (by decide +kernel)⟩⟩
  obtain ⟨_, _, h, -⟩ := c23 (sup []) 1 (2 ^ 43 + 0x14C) 4 0 0x14C (by decide +kernel) (by decide +kernel) (by decide) (by decide +kernel) (by unfold Rising; decide +kernel)
  exact ⟨_, h⟩

/-- The group of thread 1 at an address with no memory behind it. -/
def faulting : State := withThread (sup []) fun t => { t with pc := BitVec.ofNat 57 (2 ^ 57 - 4) }
/-- Why a decoding fails. -/
def errorOf (r : Except DecodeError (Instr × List Byte)) : Option DecodeError :=
  match r with
  | .error e => some e
  | .ok _ => none
theorem error_is {r : Except DecodeError (Instr × List Byte)} {e : DecodeError} (h : errorOf r = some e) : r = .error e := by
  obtain x | _ := r
  · exact congrArg _ (Option.some.inj h)
  · cases h
/-- A fault of the thread in this lane of a core. -/
def aFault (core lane : Nat) : FaultRec :=
  { cls := 1, code := 2, job := 5, die := 0, core := core, lane := lane, slot := 0, precise := true, withheld := false, pc := 0, addr := 0, ctr := 0, amount := 0, aux := 0, info := 0 }
/-- A load of 8 bytes of host memory, for result 7 of thread 1, or for line 7 of an engine's operation. -/
def hostLoad (eng : Option Nat) : State :=
  { (awaiting { someResult with id := 7 }) with
    packets := [{ aPacket 3369 (.read (2 ^ 65 + 0x1000) 8 7 false none) with id := 50, eng := eng }]
    engLines := [{ rid := 7, op := 20, pa := 2 ^ 65 + 0x1000, n := 8, bytes := none, fail := none }] }
theorem witness_ErrorEvents (c : Obligations.ErrorEvents) :
    Completes (.softError (.hbm 0x2000) 1) (sup []) ∧ Completes (.softError (.locl 0 0xFFFFFFFF) 2) (sup []) ∧ Completes (.eccScrub (.cell 4095 false)) { sup [] with flips := [(.cell 4095 false, 1)] } ∧
    Completes (.msiXUnmask 1 255) { sup [] with msixPend := [767] } ∧ Completes (.hostCompletionTimeout 1 (2 ^ 64 + 4095) 2) (sup []) ∧
    Completes (.hostCompletionTimeout 1 50 2) (hostLoad none) ∧ Completes (.hostCompletionTimeout 1 50 0) (hostLoad (some 20)) ∧ Completes (.hostCompletionTimeout 1 (2 ^ 65) 1) (imaging 4096) ∧
    Completes (.hostPortLinkDown 1) (paging (aPage true false true)) ∧ Completes (.hostPortLinkDown 1) (sup []) ∧
    Completes (.unassignedOpcode 0x3F#32) (sup []) ∧ Completes (.unassignedOpcode 0xC1C00004#32) (sup []) ∧ Completes .instructionFetchFault faulting ∧
    (∃ t, takeTrap (sup []) (issueOf (sup []) (Fields.ofWord 0#32)) [(1, { cls := 1, code := 2, aux := 0 })] = t ∧ ∃ y ∈ t.threads, y.trapped = true) ∧
    (∃ r t k, memBytes (recordDetected (takeTrap (withRegs (sup []) [(0x108, 1), (0x100, 0x8000), (0x110, 2 ^ 64 - 1)]) (issueOf (sup []) (Fields.ofWord 0#32)) [(1, { cls := 1, code := 2, aux := 0 })])) 0x8000 64 =
      FaultRec.bytes r t k) ∧
    recordDetected { sup [] with detected := [aFault 3 0, aFault 2 31] } = recordFault (recordFault (sup []) (aFault 2 31)) (aFault 3 0) := by
  have hi : ∀ w, mkIssue (sup []) (Fields.ofWord w) = some (issueOf (sup []) (Fields.ofWord w)) := fun w => rfl
  have he : decode (bytesOfWord 0xC1C00004#32 ++ bytesOfWord 0#32) = .error .reservedField := error_is (by decide +kernel)
  obtain ⟨c1, c2, c3, c4, c5, c6, c7, c8, c9, c10, c11, c12, c13⟩ := c
  refine ⟨⟨_, (c1 (sup []) (.hbm 0x2000) 1 (by decide)).1 (by decide +kernel)⟩, ((c1 (sup []) (.locl 0 0xFFFFFFFF) 2 (by decide)).2 (by decide +kernel)).imp fun _ h => h.1,
    (c2 { sup [] with flips := [(.cell 4095 false, 1)] } (.cell 4095 false) ⟨(.cell 4095 false, 1), by decide, by decide +kernel⟩).imp fun _ h => h.1,
    (c3 { sup [] with msixPend := [767] } 1 255 (by decide) (by decide +kernel) (by decide +kernel)).imp fun _ h => h.1,
    have ⟨_, h⟩ := c4 (sup []) 1 4095 2 (by decide) (by decide) (by decide) (by decide +kernel); ⟨_, h.1⟩,
    ((c5 (hostLoad none) 1 50 2 7 (2 ^ 65 + 0x1000) 8 false none _ (by decide) (by decide) (by decide) ⟨by rfl, rfl⟩ rfl).1 _ rfl (by rfl)).imp fun _ h => h.1,
    ((c5 (hostLoad (some 20)) 1 50 0 7 (2 ^ 65 + 0x1000) 8 false none _ (by decide) (by decide) (by decide) ⟨by rfl, rfl⟩ rfl).2 (by simp)).imp fun _ h => h.1,
    (c6 (imaging 4096) 1 1 (by decide) (by decide) rfl (by unfold Rising; decide +kernel)).imp fun _ h => h.1,
    (c7 (paging (aPage true false true)) 1 (by decide) (by decide +kernel) (by decide +kernel)).imp fun _ h => h.1,
    ⟨_, c8 (sup []) 1 (by decide) (by decide +kernel) (by decide +kernel) (by decide +kernel)⟩,
    ⟨_, (c9 (sup []) 0x3F#32 _ (hi _)).1 (error_is (by decide +kernel))⟩,
    ⟨_, (c9 (sup []) 0xC1C00004#32 _ (hi _)).2 (by rw [he]; intro h; cases h) (by intro r h; rw [he] at h; cases h)⟩,
    ⟨_, c10 faulting _ _ _ rfl rfl⟩, ?_, ?_, c13 { sup [] with detected := [aFault 3 0, aFault 2 31] } _ _ rfl⟩
  · obtain ⟨t, h, k⟩ := c11 (sup []) (issueOf (sup []) (Fields.ofWord 0#32)) 1 { cls := 1, code := 2, aux := 0 } []
    obtain ⟨y, hy, -, ht, -⟩ := k (threadOf (sup []) 1) (by decide +kernel) (by decide +kernel)
    exact ⟨t, h, y, hy, ht⟩
  · exact ⟨_, _, _, c12 (withRegs (sup []) [(0x108, 1), (0x100, 0x8000), (0x110, 2 ^ 64 - 1)]) (issueOf (sup []) (Fields.ofWord 0#32)) 1 { cls := 1, code := 2, aux := 0 } [] 0x8000
      (by decide +kernel) (by decide +kernel) (by decide +kernel) (by decide +kernel) rfl⟩

/-! ## Encoding, fetch, issue, operands, conditions -/

/-- A supervisor thread whose PC holds this word and literal, which its core issues next. -/
def fetching (w : Nat) : State := { withMem (sup []) [(0x1000, w)] with agenda := [.issue 0] }
/-- As it issues. -/
def ready (w : Nat) : State := issueState { fetching w with agenda := [] } 0
/-- What it fetches. -/
def wordsOf (r : State × Except Out (Word × Word)) : Word × Word :=
  match r.2 with
  | .ok a => a
  | .error _ => (0#32, 0#32)
theorem words_is {r : State × Except Out (Word × Word)} (h : (match r.2 with | .ok _ => true | .error _ => false) = true) : r = (r.1, .ok ((wordsOf r).1, (wordsOf r).2)) := by
  obtain ⟨s, e | a⟩ := r
  · cases h
  · rfl
theorem decodes_is {r : Except DecodeError (Instr × List Byte)} {i : Instr} (h : (match r with | .ok a => some a.1 | .error _ => none) = some i) : ∃ rest, r = .ok (i, rest) := by
  obtain e | ⟨j, rest⟩ := r
  · cases h
  · exact ⟨rest, congrArg (fun k => Except.ok (k, rest)) (Option.some.inj h)⟩
/-- A fetch of the supervisor job. -/
theorem fetches_sup {s : State} {t : Thread} {a : Nat} {bs : List Byte} (hf : s.flips = []) (hl : dropLines s t.core a 4 = s) (hj : t.job = supJob) (h1 : globalPre t a 4 4 true = none)
    (h2 : (xlate s (dieOf t.core) t.job a false true).2 = .at a none) (h3 : threadBad s t a 4 none = false) (h4 : (threadBytes s t a 4 none).2 = bs) : Fetches s t a bs := by
  refine ⟨a, h1, ?_, h3, ?_⟩
  · rw [← h2, hj]
    simp only [xlate, if_pos]
  · rw [← h4]
    simp [threadBytes, hl, unitBytes, eccRead, hf]
/-- Its thread. -/
def readyThread (w : Nat) : Thread := threadOf (ready w) 1
theorem issuing {w : Nat} (h : nextGroup (ready w) 0 = [readyThread w]) : Issuing (fetching w) 0 [] (ready w) [readyThread w] := ⟨by simp [fetching, withMem, sup, demo], rfl, rfl, h⟩
theorem witness_StepWord (c : Obligations.StepRunsDecoded) : step (fetching 0xC1C00000) = andThen settleLinks (andThen (issuedAs (ready 0xC1C00000) 0 (readyThread 0xC1C00000) [] (.nop h0)) (exec (.nop h0) (ready 0xC1C00000))) :=
  c.2.1 (fetching 0xC1C00000) (ready 0xC1C00000) 0 [] (readyThread 0xC1C00000) (.nop h0) [0x00#8, 0x00#8, 0xC0#8, 0xC1#8] (issuing (by decide +kernel)) (by intro p h; cases h) (by decide) (by decide) (by decide +kernel)
    (fetches_sup rfl (by rfl) (by decide +kernel) (by decide +kernel) (by decide +kernel) (by decide +kernel) (by decide +kernel)) fun h => absurd h (by decide)
theorem witness_StepLiteral (c : Obligations.StepRunsDecoded) :
    step (fetching (0xC120407E + 2 ^ 37)) = andThen settleLinks (andThen (issuedAs (ready (0xC120407E + 2 ^ 37)) 0
      (readyThread (0xC120407E + 2 ^ 37)) [] (.winb h0 1#7 126#7 0x20#32)) (exec (.winb h0 1#7 126#7 0x20#32) (ready (0xC120407E + 2 ^ 37)))) :=
  c.2.1 (fetching (0xC120407E + 2 ^ 37)) (ready (0xC120407E + 2 ^ 37)) 0 [] (readyThread (0xC120407E + 2 ^ 37)) (.winb h0 1#7 126#7 0x20#32) [0x7E#8, 0x40#8, 0x20#8, 0xC1#8, 0x20#8, 0#8, 0#8, 0#8]
    (issuing (by decide +kernel)) (by intro p h; cases h) (by decide) (by decide) (by decide +kernel) (fetches_sup rfl (by rfl) (by decide +kernel) (by decide +kernel) (by decide +kernel) (by decide +kernel) (by decide +kernel))
    fun _ => fetches_sup rfl (by rfl) (by decide +kernel) (by decide +kernel) (by decide +kernel) (by decide +kernel) (by decide +kernel)
theorem witness_StepFetch (c : Obligations.StepRunsDecoded) : ∃ x y, step (fetching 0xC1C00000) = andThen settleLinks (andThen y (exec (.nop h0) x)) := by
  have h := words_is (r := fetch (ready 0xC1C00000) (readyThread 0xC1C00000)) (by decide +kernel)
  have hw : wordsOf (fetch (ready 0xC1C00000) (readyThread 0xC1C00000)) = (0xC1C00000#32, 0#32) := by decide +kernel
  obtain ⟨rest, hd⟩ := decodes_is (r := decode (bytesOfWord 0xC1C00000#32 ++ bytesOfWord 0#32)) (i := .nop h0) (by decide +kernel)
  rw [hw] at h
  exact ⟨_, _, c.1 (fetching 0xC1C00000) (ready 0xC1C00000) (ready 0xC1C00000) _ 0 [] (readyThread 0xC1C00000) [] {} _ _ (.nop h0) rest (issuing (by decide +kernel)) rfl rfl rfl h hd⟩
theorem witness_StepRunsDecoded (c : Obligations.StepRunsDecoded) :
    (∃ x, step { sup [] with agenda := [.event .powerOff] } = andThen settleLinks (exec .powerOff x)) ∧ (∃ t, step { sup [] with agenda := [.idle (2 ^ 64)] } = .next t) ∧
    step { State.reset with cycle := 4 } = .next (settleLinks (tickOne { State.reset with cycle := 4 })) ∧ (tickOne { State.reset with detected := [] }).cycle = 1 ∧
    step { State.reset with power := .off } = .fault .poweredOff ∧
    step { State.reset with power := .off, agenda := [.event (.powerUp 7)] } = exec (.powerUp 7) { State.reset with power := .off } :=
  ⟨⟨_, c.2.2.1 _ .powerOff [] (by decide) rfl rfl⟩, ⟨_, c.2.2.2.1 { sup [] with agenda := [.idle (2 ^ 64)] } (2 ^ 64) [] (by decide) rfl⟩,
    c.2.2.2.2.1 { State.reset with cycle := 4 } (by decide) rfl (by rfl) rfl, by rw [c.2.2.2.2.2.1 State.reset (by decide) rfl (by intro f h; cases h)]; rfl, c.2.2.2.2.2.2.1 _ rfl (by intro ft q h; cases h), c.2.2.2.2.2.2.2 _ 7 [] rfl rfl⟩
theorem witness_CanonicalKept (c : Obligations.CanonicalKept) (d : Obligations.StepRunsDecoded) :
    ∃ t, step { counting with agenda := [.idle 1] } = .next t ∧ Canonical t = true := by
  have h := d.2.2.2.1 { counting with agenda := [.idle 1] } 1 [] (by decide) rfl
  exact ⟨_, h, c _ _ (by decide +kernel) h⟩
theorem witness_DecodeEncode (c : Obligations.DecodeEncode) :
    decode (encodeBytes (.addI32Reg ⟨true, true⟩ 127#7 127#7 127#7)) = .ok (.addI32Reg ⟨true, true⟩ 127#7 127#7 127#7, []) ∧
    decode (encodeBytes (.winb h0 0#7 126#7 0xFFFFFFFF#32)) = .ok (.winb h0 0#7 126#7 0xFFFFFFFF#32, []) ∧ ∃ rest, encodeBytes (.nop h0) ++ rest = bytesOfWord 0xC1C00000#32 ++ [7#8] := by
  obtain ⟨rest, hd⟩ := decodes_is (r := decode (bytesOfWord 0xC1C00000#32 ++ [7#8])) (i := .nop h0) (by decide +kernel)
  refine ⟨?_, ?_, rest, (c.2 _ rest _ hd).2⟩
  · simpa using c.1 (.addI32Reg ⟨true, true⟩ 127#7 127#7 127#7) [] (by decide) (by decide)
  · simpa using c.1 (.winb h0 0#7 126#7 0xFFFFFFFF#32) [] (by decide) (by decide)
theorem witness_IssueRules (c : Obligations.IssueRules) :
    (issueOf (sup []) (ctlF h0 28#7 0#7 0#7 0#7)).core = 0 ∧ Completes (.statclr h0 120#7 0#32) (sup []) ∧ Completes (.carve h0 127#7 126#7 4#32) (demo 5 [] []) ∧
    Completes (.nop h0) { sup [] with results := (upFrom 0 32).map fun k => { someResult with at_ := k } } ∧ Completes (.csrr h0 1#7 126#7 0x20#32) (demo 5 [] []) ∧ Completes (.cvtReg h0 9#7 35#7 4#7) (demo 5 numbers []) ∧
    cvtQBad (threadOf (sup []) 1) 115#7 (.sel 126#7 7#32) = false ∧ Completes (.nop ⟨true, true⟩) (withThread (sup []) fun t => { t with g := false }) := by
  obtain ⟨c1, c2, c3, c4, c5, c6, c7, c8⟩ := c
  refine ⟨?_, ⟨_, c2 (sup []) (.statclr h0 120#7 0#32) _ _ _ rfl rfl (by rfl) (by decide)⟩, ⟨_, c3 (demo 5 [] []) (.carve h0 127#7 126#7 4#32) _ _ _ rfl rfl (by decide) ⟨rfl, by decide⟩ (by decide)⟩,
    ⟨_, c4 { sup [] with results := (upFrom 0 32).map fun k => { someResult with at_ := k } } (.nop h0) _ _ _ rfl rfl (by decide) (by intro h; exact absurd h.2 (by decide)) (by rintro ⟨_, _, _, _, _, h⟩; cases h)
      (by intro _ _ _ _ h; cases h) (by intro _ _ _ _ h; cases h) (by decide +kernel)⟩,
    ⟨_, c5 (demo 5 [] []) h0 1#7 126#7 0x20#32 _ rfl (by decide) (by decide) ⟨1, by decide, by decide +kernel⟩⟩,
    ⟨_, c6 (demo 5 numbers []) h0 9#7 35#7 4#7 _ rfl ⟨1, by decide, by decide +kernel⟩⟩, c7 _ _ _ _,
    ⟨_, c8 (withThread (sup []) fun t => { t with g := false }) (.nop ⟨true, true⟩) _ _ _ rfl rfl (by decide) (by intro h; exact absurd h.2 (by decide))
      (by rintro ⟨_, _, _, _, _, h⟩; cases h) (by intro _ _ _ _ h; cases h) (by intro _ _ _ _ h; cases h) rfl⟩⟩
  exact (c1 (sup []) (ctlF h0 28#7 0#7 0#7 0#7) _ rfl (by decide +kernel)).2.2.2.1
theorem witness_ConditionHolds (c : Obligations.ConditionHolds) : condMet (2 ^ 63 - 1) 0 = true ∧ condMet 0 (2 ^ 63 - 1) = false ∧ condMet (2 ^ 62 + 1) 1 = true := by
  have h1 := (c.2.1 (2 ^ 63 - 1) 0 (by decide) (by decide)).mpr (by decide)
  have h2 := mt (c.2.1 0 (2 ^ 63 - 1) (by decide) (by decide)).mp (by decide)
  have h3 := c.2.2.1 1 1 (2 ^ 62) (by decide) (by decide) (by decide) (by decide) (by decide) (by decide)
  exact ⟨h1, by simpa using h2, h3⟩
/-- A thread that issues `statclr`. -/
def statThread : Thread := threadOf (sup []) 1
/-- Its issue. -/
def statIssue : Issue := issueOf (sup []) (ctlF h0 16#7 0#7 0#7 127#7)
theorem witness_SelectorOperands (c : Obligations.SelectorOperands) :
    src (sup []) statIssue statThread 63 0#32 .int = (getS (flockOf (sup []) statThread.core statThread.flock) 63).toNat ∧ signedN 32 (src (sup []) statIssue statThread 64 0#32 .int) = -16 ∧ signedN 64 (src (sup []) statIssue statThread 95 0#32 .i64) = 15 ∧
    src (sup []) statIssue statThread 96 0#32 .int = special (sup []) statIssue statThread 96 % 2 ^ 32 ∧ src (sup []) statIssue statThread 119 0#32 .int = special (sup []) statIssue statThread 119 % 2 ^ 32 ∧
    (∀ b ∈ [120#7, 125#7], Completes (.statclr h0 b 0#32) (sup [])) := by
  refine ⟨(c.1 _ statIssue statThread _ 63 (by decide)).1, (c.2.1 _ statIssue statThread _ 64 (by decide) (by decide)).1, (c.2.1 _ statIssue statThread _ 95 (by decide) (by decide)).2.1, c.2.2.1 _ statIssue statThread _ 96 .int (by decide) (by decide),
    c.2.2.1 _ statIssue statThread _ 119 .int (by decide) (by decide), fun b hb => ⟨_, c.2.2.2.2.2.1 (sup []) h0 b 0#32 _ ?_ ?_ rfl⟩⟩
  · rcases List.mem_cons.mp hb with rfl | hb
    · decide
    · rw [List.mem_singleton.mp hb]; decide
  · rcases List.mem_cons.mp hb with rfl | hb
    · decide
    · rw [List.mem_singleton.mp hb]; decide

/-! ## Ill-formed words: one for each check of WellFormed (18 R368) -/

theorem test_illformed_selector : (Instr.addI32Sel h0 1#7 2#7 120#7 0#32).wellFormed = false ∧ (Instr.movB32Sel h0 1#7 125#7 0#32).wellFormed = false := by decide
theorem test_illformed_literal : (Instr.addI32Sel h0 1#7 2#7 127#7 1#32).wellFormed = false ∧ (Instr.addI32Sel h0 1#7 2#7 126#7 1#32).wellFormed = true := by decide
theorem test_illformed_loadmod : (Instr.ld h0 1#7 2#7 5#7).wellFormed = false ∧ (Instr.ld h0 1#7 2#7 18#7).wellFormed = true ∧ (Instr.ld h0 1#7 2#7 100#7).wellFormed = false := by decide
theorem test_illformed_sreg : (Instr.saddI32 h0 64#7 1#7 2#7 0#32).wellFormed = false ∧ (Instr.saddI32 h0 63#7 64#7 2#7 0#32).wellFormed = false := by decide
theorem test_illformed_cvt : (Instr.cvtReg h0 1#7 0#7 2#7).wellFormed = false ∧ (Instr.cvtReg h0 1#7 11#7 2#7).wellFormed = false := by decide
theorem test_illformed_condition : (Instr.scmpI32 h0 6#7 1#7 2#7 0#32).wellFormed = false ∧ (Instr.segset h0 3#7 1#7).wellFormed = false := by decide
theorem test_illformed_function : (Instr.sfnF32Reg h0 1#7 7#7 2#7).wellFormed = false ∧ (Instr.red h0 1#7 2#7 20#7).wellFormed = false := by decide
theorem test_illformed_store : (Instr.st h0 1#7 2#7 5#3).wellFormed = false ∧ (Instr.winb h0 2#7 127#7 0#32).wellFormed = false := by decide
theorem test_illformed_tile : (Instr.mzero h0 8#7 3#4).wellFormed = false ∧ (Instr.mzero h0 7#7 2#4).wellFormed = false ∧ (Instr.mst h0 7#7 8#7 3#7).wellFormed = false := by decide
theorem test_illformed_index : (Instr.rotationPoint 1536).wellFormed = false ∧ (Instr.beamStart 96).wellFormed = false ∧ (Instr.haltDrained 0 16).wellFormed = false := by decide

/-! ## Words written out from the encoding: class, switch, guard, OP, D, A, B (10 R208 to R234, 11 R235, R239, R253; 12; 13) -/

/-- A word from its fields (R208). -/
def word (cl s g op d a b : Nat) : Nat := cl * 2 ^ 30 + s * 2 ^ 29 + g * 2 ^ 28 + op * 2 ^ 21 + d * 2 ^ 14 + a * 2 ^ 7 + b
theorem test_decode_vector : decodeTableWord 32 (word 0 0 1 7 1 2 4) = some (.addI32Sel ⟨false, true⟩ 1#7 2#7 4#7 0#32) ∧ decodeTableWord 32 (word 0 1 0 64 3 5 6) = some (.mulF32Reg ⟨true, false⟩ 3#7 5#7 6#7) := by
  decide +kernel
theorem test_decode_examples : decodeTableWord 32 0x0860C282 = some (.fmaF32Sel h0 3#7 5#7 2#7 0#32) ∧ decodeTableWord 32 0x0C6144D3 = some (.xlrSel h0 5#7 9#7 83#7 0#32) ∧
    decodeTableWord 32 0x0B022B04 = some (.cvtReg h0 8#7 86#7 4#7) := by decide +kernel
theorem test_decode_scalar : decodeTableWord 32 (word 1 0 0 24 2 1 2) = some (.scmpI32 h0 2#7 1#7 2#7 0#32) := by decide +kernel
theorem test_decode_control : decodeTableWord 32 0xC0603F00 = some (.jr h0 126#7) ∧ decodeTableWord 32 0xE0E00180 = some (.joink ⟨true, false⟩ 3#7) ∧
    decodeTableWord 64 (0xC120407E + 2 ^ 32 * 0x20) = some (.winb h0 1#7 126#7 0x20#32) := by decide +kernel
theorem test_decode_literal : decodeTableWord 64 (0x00E200FE + 2 ^ 32 * 0x186A0) = some (.addI32Sel h0 8#7 1#7 126#7 100000#32) := by decide +kernel
theorem test_decode_memory : decodeTableWord 64 0x108022861A = some (.ldLit h0 10#7 12#7 26#7 16#32) ∧ decodeTableWord 32 0x82000005 = some (.fence h0 5#3) := by decide +kernel
theorem test_decode_counter : decodeTableWord 64 0x1A2A20203 = some (.caddrLit ⟨true, false⟩ 8#7 4#7 3#3 1#32) := by decide +kernel
theorem test_decode_network : decodeTableWord 64 0x188650280 = some (.rwsendLit h0 20#7 2#6 true 1#32) ∧ decodeTableWord 32 0xC840C056 = some (.carve h0 3#7 86#7 0#32) := by decide +kernel
theorem test_decode_reserved : decodeTableWord 32 0x3F = none ∧ decodeTableWord 32 0xC1C00004 = none := by decide +kernel

/-! ## Worked examples of the manual -/

/-- The register, and its tag, that a word writes in thread 1. -/
def vOut (s : State) (i : Instr) (n : Nat) : Option (Nat × Nat) :=
  match exec i s with
  | .next t => ((t.results.flatMap (·.v)).find? fun w => w.uid == 1 && w.idx == n).map fun w => (w.reg.bits.toNat, w.reg.tag.toNat)
  | _ => none
/-- The STATUS bits that it sets there. -/
def stOut (s : State) (i : Instr) : Nat :=
  match exec i s with
  | .next t => ((t.results.flatMap (·.st)).foldl (fun a w => a ||| w.2) 0#16).toNat
  | _ => 0
/-- A thread with a in v2, b in v3 and d in v1, each with a tag. -/
def abd (a b d tag : Nat) : State := demo 5 [(1, d, 0), (2, a, tag), (3, b, tag)] []
/-- R239: shifts by 32 or more. -/
theorem test_shift : vOut (abd 0x80000010 0 0 0) (.shrI32Sel h0 1#7 2#7 126#7 40#32) 1 = some (0xFFFFFFFF, 1) ∧ vOut (abd 0x80000010 0 0 0) (.shrN32Sel h0 1#7 2#7 126#7 40#32) 1 = some (0, 2) := by decide +kernel
/-- R244. -/
theorem test_perm : vOut (abd 0 0x33221100 0x4567 0) (.permB32Reg h0 1#7 2#7 3#7) 1 = some (0x00112233, 0) := by decide +kernel
/-- R238: 1.0 to both halves. -/
theorem test_add_bf16x2 : vOut (abd 0x3F804000 0 0 4) (.addBf16x2Sel h0 1#7 2#7 81#7 0#32) 1 = some (0x40004040, 4) := by decide +kernel
/-- R134, R248: to BF16, the code enters above; rounding to nearest even, a tie, toward zero, up; a subnormal. -/
theorem test_cvt_bf16 : vOut (abd 0 0x3F800001 0 3) (.cvtReg h0 1#7 4#7 3#7) 1 = some (0x3F800000, 4) ∧ vOut (abd 0 0x3F818000 0 3) (.cvtReg h0 1#7 4#7 3#7) 1 = some (0x3F820000, 4) ∧
    vOut (abd 0 0x3F818000 0 3) (.cvtReg h0 1#7 20#7 3#7) 1 = some (0x3F810000, 4) ∧ vOut (abd 0 0x3F800001 0 3) (.cvtReg h0 1#7 36#7 3#7) 1 = some (0x3F810000, 4) := by decide +kernel
theorem test_cvt_bf16_status : stOut (abd 0 0x3F800001 0 3) (.cvtReg h0 1#7 4#7 3#7) = 0x10 ∧ stOut (abd 0 1 0 3) (.cvtReg h0 1#7 4#7 3#7) = 0x18 := by decide +kernel
/-- R249: E4M3 codes, the last saturated. -/
theorem test_cvt_e4m3 : vOut (abd 0 0x3F800000 0 3) (.cvtReg h0 1#7 86#7 3#7) 1 = some (0x38000000, 6) ∧ vOut (abd 0 0x43FA0000 0x30C03800 3) (.cvtReg h0 1#7 86#7 3#7) 1 = some (0x7E30C038, 6) := by decide +kernel
theorem test_cvt_e4m3_status : stOut (abd 0 0x43FA0000 0 3) (.cvtReg h0 1#7 86#7 3#7) = 0x30 ∧ stOut (abd 0 0x43FA0000 0 3) (.cvtReg h0 1#7 6#7 3#7) = 0x14 := by decide +kernel
/-- R250: element 1 of the four codes is −2. -/
theorem test_cvt_widen : vOut (abd 0 0x7E30C038 0 6) (.cvtReg h0 1#7 19#7 3#7) 1 = some (0xC0000000, 3) := by decide +kernel
/-- R136: −3.5 to I32 in each mode, 3,000,000,000 and a NaN. -/
theorem test_cvt_i32 : [1, 17, 33, 49].map (fun f => vOut (abd 0 0xC0600000 0 3) (.cvtReg h0 1#7 (BitVec.ofNat 7 f) 3#7) 1) =
    [some (0xFFFFFFFC, 1), some (0xFFFFFFFD, 1), some (0xFFFFFFFD, 1), some (0xFFFFFFFC, 1)] := by decide +kernel
theorem test_cvt_i32_corner : vOut (abd 0 0x4F32D05E 0 3) (.cvtReg h0 1#7 1#7 3#7) 1 = some (0x7FFFFFFF, 1) ∧ stOut (abd 0 0x4F32D05E 0 3) (.cvtReg h0 1#7 1#7 3#7) = 0x21 ∧
    vOut (abd 0 0x7FC00000 0 3) (.cvtReg h0 1#7 1#7 3#7) 1 = some (0, 1) := by decide +kernel
/-- R252: x(0) = 12, x(3) = 30, x(9) = −12, x(20) = −100, the others 0, scale 2. -/
def captured : State := demo 5 ((upFrom 0 32).map fun p => (p, if p = 0 then 0x41400000 else if p = 3 then 0x41F00000 else if p = 9 then 0xC1400000 else if p = 20 then 0xC2C80000 else 0, 3)) []
theorem test_cvtq_codes : [40, 41, 42, 43].map (vOut captured (.cvtqE2m1Sel h0 40#7 0#7 126#7 0x80#32)) = [some (0x8007, 8), some (0xF0, 8), some (0x80000, 8), some (0, 8)] := by decide +kernel
theorem test_cvtq_entries : [44, 45, 46].map (vOut captured (.cvtqE2m1Sel h0 40#7 0#7 126#7 0x80#32)) = [some (0x341F0, 0), some (0x14C2C8, 0), some (0, 0)] ∧
    stOut captured (.cvtqE2m1Sel h0 40#7 0#7 126#7 0x80#32) = 0 := by decide +kernel
/-- R211: in `add.i64 v8, v8, -3` the immediate supplies 2^64 − 3. -/
theorem test_add_i64 : vOut (demo 5 [(8, 1, 0), (9, 0, 0)] []) (.addI64Sel h0 8#7 8#7 77#7 0#32) 8 = some (0xFFFFFFFE, 1) ∧
    vOut (demo 5 [(8, 1, 0), (9, 0, 0)] []) (.addI64Sel h0 8#7 8#7 77#7 0#32) 9 = some (0xFFFFFFFF, 1) := by decide +kernel
/-- R268: `winb.add 32` with ALLOC 256 and WB 64. -/
theorem test_winb : (match exec (.winb h0 1#7 126#7 32#32) (withThread (demo 5 [] []) fun t => { t with alloc := 256, wb := 64 }) with
    | .next t => (threadOf t 1).wb
    | _ => 0) = 96 := by decide +kernel
/-- R66: the worked conditions. -/
theorem test_conditions : condMet 0xFFFFFFFFFFFFFFF0 0x10 = false ∧ condMet 0 0xFFFFFFFFFFFFFFFC = true := by decide
/-- R294: RESUME 1, WAIT 1, WARG 0, VAL 1. R82, R83: a block of 640 bytes, and element 37 of ESIZE 0 with XCTX 1. -/
theorem test_tensor_layout : (({ oneTensor 5 0 with esize := 0 } : Tensor).stride, ({ oneTensor 5 0 with esize := 0, base := 0 } : Tensor).ctxAt 37) = (640, 640 + 128 + 40) := by decide +kernel
/-- R3. -/
theorem test_little_endian : natLe 4 0x11223344 = [0x44#8, 0x33#8, 0x22#8, 0x11#8] ∧ leNat [0x44#8, 0x33#8, 0x22#8, 0x11#8] = 0x11223344 := by decide

end Sys2Proof.Tests
end

/-! PROOFS. The words of a tensor's slot (04 R80, R87, 12 R292 to R296): what the parts of `tdecl`, `sweep`, `eyield` and `tfree` come to, and what each of
the four leaves unchanged. -/

namespace Sys2Proof.TensorProofs

open Sys2Proof.Machine Sys2Proof.Safety Sys2Proof.Claims Sys2Proof.Laws

/-! ## What a word that reads local store leaves unchanged -/

theorem quietLocal_of_quiet {s t : State} (h : Quiet s t) : QuietLocal s t := by
  obtain ⟨⟨hmem, -, hcell⟩, hthreads, hflocks, hregs⟩ := h
  exact ⟨hmem, hcell, hthreads, hflocks, fun _ _ _ => by rw [getReg, getReg, hregs]⟩

theorem quietLocal_of_sameRead {s t : State} (h : SameRead s t) : QuietLocal s t :=
  ⟨fun a => by simp [memByte, h.mem], h.cell, by simp [KeepsThreads, h.threads], h.flocks, h.regs⟩

theorem quietLocal_refl (s : State) : QuietLocal s s := quietLocal_of_quiet (quiet_refl s)

theorem quietLocal_trans {a b c : State} (h : QuietLocal a b) (k : QuietLocal b c) : QuietLocal a c := by
  obtain ⟨hmem, hcell, hthreads, hflocks, hregs⟩ := h
  obtain ⟨kmem, kcell, kthreads, kflocks, kregs⟩ := k
  exact ⟨fun x => (kmem x).trans (hmem x), fun x => (kcell x).trans (hcell x), kthreads.trans hthreads, kflocks.trans hflocks,
    fun d o ho => (kregs d o ho).trans (hregs d o ho)⟩

/-! ## `tdecl` (12 R292) -/

theorem declares_same (x : State) (t : Thread) (r : Nat) : SameRead x (declares x t r) :=
  (drainFifo_same x t.uid).read.trans (eccRead_same _ _).1

theorem numberD_eq (t : Thread) (a : BitVec 7) : numberD t a = vBits t a.toNat := rfl

theorem declares_eq (x : State) (t : Thread) (r : Nat) : declares x t r = eccRead (drainFifo x t.uid) (inLs t.core r 64) := rfl

theorem writeTensorRecord_same (s : State) (tn : Tensor) : SameBut s (writeTensorRecord s tn) :=
  (((lsWrite_same _ _ _ _).trans (lsWrite_same _ _ _ _)).trans (lsWrite_same _ _ _ _)).trans (lsWrite_same _ _ _ _)

/-- Binding a tensor writes local store alone: the record's own fields. -/
theorem bindTensor_same (s : State) (tn : Tensor) : SameBut s (bindTensor s tn) :=
  SameBut.trans (b := { s with tensors := s.tensors ++ [tn], fresh := s.fresh + 1 }) ⟨rfl, rfl, rfl, rfl, rfl⟩ (writeTensorRecord_same _ _)

@[simp] theorem bindTensor_packets (s : State) (tn : Tensor) : (bindTensor s tn).packets = s.packets := by
  simp [bindTensor, writeTensorRecord]

theorem setTensor_same (s : State) (tn : Tensor) : Same s (setTensor s tn) := ⟨rfl, rfl, rfl, rfl, rfl, rfl⟩

@[simp] theorem bindBusy_bindTensor (s : State) (tn : Tensor) (bind : Nat) : bindBusy (bindTensor s tn) bind = bindBusy s bind := by
  simp [bindBusy]

/-- A tensor that has not been swept has no element that waits. -/
theorem bindWaits_unswept (s : State) (i : Issue) (t : Thread) (tn : Tensor) (h : tn.sweeps = 0#32) : bindWaits s i t tn = (s, none) := by
  simp [bindWaits, h]

/-- The binding of a tensor that has not been swept is complete at once. -/
theorem tdeclBound_unswept (d : Nat) (s : State) (i : Issue) (t : Thread) (tn : Tensor) (h : tn.sweeps = 0#32) (hb : bindBusy s tn.bind = false) :
    tdeclBound d s i t tn = (bindDone s tn, .eff { v := [wr t d tn.slot 2] }) := by
  simp [tdeclBound, bindWaits_unswept s i t tn h, hb]

/-- No tensor is being bound by the thread. -/
theorem binder_find_none {x : State} {u : Nat} (h : ∀ tn ∈ x.tensors, tn.binder ≠ some u) :
    (x.tensors.find? fun tn => tn.binder == some u) = none :=
  List.find?_eq_none.2 fun tn hm => by simpa using h tn hm

/-- The record at `r` is one that `tdecl` of the thread binds to slot `k`, if that is free: the thread is not binding a tensor, and the record lies within
its local store, is not poisoned and is sound, as are the extents of its tensor (04 R80, 19 R383). -/
structure Declared (x : State) (t : Thread) (r k : Nat) : Prop where
  /-- no binding under way -/
  binder : ∀ tn ∈ x.tensors, tn.binder ≠ some t.uid
  /-- the record's place -/
  place : localPre x t r 64 64 = none
  /-- its code words -/
  clean : lsPoisoned (declares x t r) t.core r 64 = false
  /-- its fields -/
  fields : badRecord (declares x t r) t.core r (tensorOf (declares x t r) t r k) = false
  /-- the tensor's extents -/
  extent : tensorExtent (declares x t r) t (tensorOf (declares x t r) t r k) = none

/-- A tensor whose slot is taken by the `tdecl` of a thread (12 R297). -/
def takenBy (u : Nat) (tn : Tensor) : Tensor := { tn with binder := some u }

/-- `tdecl` of a sound record comes to what the core's free slots allow. -/
theorem tdeclThread_declared (d : Nat) (a : BitVec 7) (x : State) (i : Issue) (t : Thread)
    (h : Declared x t (numberD t a) ((freeTensorSlot (declares x t (numberD t a)) t.core).getD 0)) :
    tdeclThread d a.toNat x i t =
      let y := declares x t (numberD t a)
      match freeTensorSlot y t.core with
      | none => (y, .eff { v := [wr t d (2 ^ 32 - 1) 2] })
      | some k =>
        let bound := takenBy t.uid (tensorOf y t (numberD t a) k)
        tdeclBound d (bindTensor y bound) i t bound := by
  obtain ⟨hu, hl, hp, hr, he⟩ := h
  simp only [numberD_eq, declares_eq] at hl hp hr he ⊢
  simp only [tdeclThread, binder_find_none hu, hl, hp, hr, he, Bool.false_eq_true, if_false]
  cases freeTensorSlot (eccRead (drainFifo x t.uid) (inLs t.core (vBits t a.toNat) 64)) t.core <;> rfl

/-- `tdecl` of a sound record whose tensor has not been swept, on a core with a free slot. -/
theorem tdeclThread_binds (d a : BitVec 7) (x : State) (i : Issue) (t : Thread) (k : Nat) (h : Declared x t (numberD t a) k)
    (hk : freeTensorSlot (declares x t (numberD t a)) t.core = some k)
    (hb : bindBusy (declares x t (numberD t a)) (declares x t (numberD t a)).fresh = false)
    (hz : (tensorOf (declares x t (numberD t a)) t (numberD t a) k).sweeps = 0#32) :
    tdeclThread d.toNat a.toNat x i t =
      let y := declares x t (numberD t a)
      let tn := tensorOf y t (numberD t a) k
      (setTensor (bindTensor y (takenBy t.uid tn)) tn, .eff { v := [put1 t d (BitVec.ofNat 32 k) 2#4] }) := by
  rw [tdeclThread_declared d.toNat a x i t (by rw [hk]; exact h)]
  simp only [hk]
  exact tdeclBound_unswept _ _ _ _ _ hz (by rw [bindBusy_bindTensor]; exact hb)

/-- `tdecl` of a sound record on a core whose 8 slots are bound. -/
theorem tdeclThread_full (d a : BitVec 7) (x : State) (i : Issue) (t : Thread) (h : Declared x t (numberD t a) 0)
    (hk : freeTensorSlot (declares x t (numberD t a)) t.core = none) :
    tdeclThread d.toNat a.toNat x i t = (declares x t (numberD t a), .eff { v := [put1 t d 0xFFFFFFFF#32 2#4] }) := by
  rw [tdeclThread_declared d.toNat a x i t (by rw [hk]; exact h)]
  simp only [hk]
  rfl

/-- `tdecl` completes where each thread's `tdecl` comes to an effect and its turn changes local store and the count of errors alone. -/
theorem tdecl_done (h : Hdr) (d a : BitVec 7) {ok : State → Issue → Thread → Prop} {turn : State → Issue → Thread → State}
    {eff : State → Issue → Thread → Eff}
    (hb : ∀ x i t, ok x i t → tdeclThread d.toNat a.toNat x i t = (turn x i t, .eff (eff x i t)))
    (hfr : ∀ x i t, SameRead x (turn x i t)) :
    DoneTurns (.tdecl h d a) (memWord h 32 none d a 0#7) false false
      (fun _ => { vr := [(a.toNat, 1)], vw := [(d.toNat, 1)], tags := typed 1 a.toNat 1 integerTags }) none ok turn eff QuietLocal :=
  doneTurns_intro { f := memF h 32#7 d a 0#7 } (tdeclThread d.toNat a.toNat) rfl rfl (by simp) rfl rfl (fun _ => rfl)
    (fun x i t hok => .inl (hb x i t hok)) quietLocal_refl (fun _ _ _ => quietLocal_trans) (fun x i t _ => quietLocal_of_sameRead (hfr x i t))
    fun _ _ _ _ _ _ => quietLocal_of_quiet (wordDone_quiet _ _ _ _ _ _)

/-! ## `sweep` (12 R293) -/

theorem vPair_eq (t : Thread) (a : BitVec 7) : vPair t a.toNat = (pairV t a).toNat := by
  have hlo := (getV t a.toNat).bits.isLt
  have hhi := (getV t (a.toNat + 1)).bits.isLt
  rw [vPair, vBits, vBits, pairV, BitVec.toNat_append, ← Nat.shiftLeft_add_eq_or_of_lt hlo, Nat.shiftLeft_eq]
  omega

theorem handleTrap_usable {x : State} {t : Thread} {h : Nat} (hu : usable x t h) : handleTrap x t h = none := by
  obtain ⟨hbad, hlo, hhi⟩ := hu
  simp [handleTrap, hbad, hlo, hhi]

/-- `sweep` of a slot that holds a tensor of the job, with a handle that the job may use and room in the engine's queue. -/
theorem sweepThread_queued (d a : BitVec 7) (amount : Nat) (x : State) (i : Issue) (t : Thread)
    (h : ∃ tn, tensorAt x t.core (numberD t d) = some tn ∧ tn.job = t.job ∧ usable x t (handleV t a) ∧ tensorExtent x t tn = none ∧
      (x.sweeps.filter fun w => w.core == t.core).length < 8) :
    sweepThread d.toNat a.toNat amount x i t =
      ({ x with sweeps := x.sweeps ++ [sweepOf x i t d a amount], fresh := x.fresh + 1 }, .eff {}) := by
  obtain ⟨tn, hs, hj, hh, he, hq⟩ := h
  have ht := handleTrap_usable hh
  rw [numberD_eq] at hs
  rw [handleV, ← vPair_eq] at ht
  simp only [sweepThread, hs, hj, ne_eq, not_true_eq_false, if_false, ht, he, Option.orElse_eq_orElse, Option.orElse_none, if_neg (Nat.not_le.2 hq)]
  rw [vPair_eq, BitVec.ofNat_toNat, BitVec.setWidth_eq]
  rfl

/-- A sweep that is queued changes the sweeps alone. -/
theorem queueSweep_same (x : State) (w : SweepOp) : Same x { x with sweeps := x.sweeps ++ [w], fresh := x.fresh + 1 } := ⟨rfl, rfl, rfl, rfl, rfl, rfl⟩

/-- A sweep, with its amount in register B or in the literal. -/
def sweepInstr (h : Hdr) (d a b : BitVec 7) : Option Word → Instr
  | none => .sweep h d a b
  | some l => .sweepLit h d a l

theorem exec_sweepInstr (h : Hdr) (d a b : BitVec 7) (lit : Option Word) (s : State) :
    exec (sweepInstr h d a b lit) s = issued (perThread { f := engWord h 34 lit d a b } (engineNames d a b lit 1)
      (fun s i t => sweepThread d.toNat a.toNat (amountB t b lit) s i t) s) := by
  cases lit <;> rfl

/-! ## `eyield` (12 R294) -/

/-- The end of a visit changes the sweeps alone. -/
theorem endVisit_same (s : State) (t : Thread) (slot : Nat) (y : Option Word) : Same s (endVisit s t slot y) := ⟨rfl, rfl, rfl, rfl, rfl, rfl⟩

/-! ## The spill area when waiter entries leave (03 R69, R70) -/

/-- An address in no place that a home's spilled entries take. -/
def OutsideSpill (s : State) (a : Nat) : Prop := ∀ u, a < spillAt s u ∨ spillAt s u + 32 * spilledAt s u ≤ a

/-- From `o` on, waiter entries have left or have moved back on chip: no home has more spilled entries than it had, and nothing but the places of
those of `o` has been written. -/
structure SpillOnly (o s : State) : Prop where
  /-- registers -/
  mregs : s.mregs = o.mregs
  /-- threads -/
  threads : s.threads = o.threads
  /-- flocks -/
  flocks : s.flocks = o.flocks
  /-- local store -/
  locl : s.locl = o.locl
  /-- cells -/
  cells : s.cells = o.cells
  /-- memory -/
  mem : ∀ a, OutsideSpill o a → memByte s a = memByte o a
  /-- spilled entries -/
  fewer : ∀ u, spilledAt s u ≤ spilledAt o u

theorem length_waiterBytes (w : Waiter) : (waiterBytes w).length = 32 := by
  simp only [waiterBytes, List.length_append, length_natLe]

theorem length_flatMap_waiterBytes : ∀ sp : List Waiter, (sp.flatMap waiterBytes).length = 32 * sp.length
  | [] => rfl
  | w :: r => by
    rw [List.flatMap_cons, List.length_append, length_waiterBytes, length_flatMap_waiterBytes r, List.length_cons]
    omega

/-- The bytes of a home's spilled entries, with the places that are cleared, are those of the entries it had. -/
theorem length_spillBytes (sp : List Waiter) (old : Nat) (h : sp.length ≤ old) :
    (sp.flatMap waiterBytes ++ natLe (32 * (old - sp.length)) 0).length = 32 * old := by
  rw [List.length_append, length_flatMap_waiterBytes, length_natLe]
  omega

theorem spilledAt_eq (s : State) (u : Nat) :
    spilledAt s u = s.waiters.countP fun w => w.spilled && homeUnit s w.handle.toNat == u := by
  simp only [spilledAt, waitersAt, List.filter_filter, List.countP_eq_length_filter]

/-- Moving spilled entries back on chip spills none, at any home. -/
theorem respillFrom_spilled_le (s : State) (unit room u : Nat) : ∀ (l : List Waiter) (n : Nat),
    ((respillFrom s unit room l n).countP fun w => w.spilled && homeUnit s w.handle.toNat == u) ≤
      l.countP fun w => w.spilled && homeUnit s w.handle.toNat == u
  | [], _ => Nat.le_refl _
  | w :: r, n => by
    have hback := respillFrom_spilled_le s unit room u r (n + 1)
    have hstay := respillFrom_spilled_le s unit room u r n
    rw [respillFrom]
    split
    · simp only [List.countP_cons, Bool.false_and, Bool.false_eq_true, if_false]
      exact Nat.le_trans hback (Nat.le_add_right _ _)
    · simp only [List.countP_cons]
      exact Nat.add_le_add_right hstay _

/-- Entries that leave the lists of their homes change nothing else yet. -/
theorem SpillOnly.filter (o : State) (keep : Waiter → Bool) : SpillOnly o { o with waiters := o.waiters.filter keep } :=
  ⟨rfl, rfl, rfl, rfl, rfl, fun _ _ => rfl, fun u => by
    rw [spilledAt_eq, spilledAt_eq]
    exact List.Sublist.countP_le List.filter_sublist⟩

/-- Entries that move back on chip change nothing else yet. -/
theorem SpillOnly.respillFrom {o s : State} (h : SpillOnly o s) (unit room n : Nat) :
    SpillOnly o { s with waiters := respillFrom s unit room s.waiters n } :=
  ⟨h.mregs, h.threads, h.flocks, h.locl, h.cells, h.mem, fun u => by
    refine Nat.le_trans ?_ (h.fewer u)
    rw [spilledAt_eq, spilledAt_eq]
    exact respillFrom_spilled_le s unit room u s.waiters n⟩

/-- A home's spilled entries are written to the places of those it had. -/
theorem SpillOnly.writeSpill {o s : State} (h : SpillOnly o s) (unit : Nat) : SpillOnly o (writeSpill s unit (spilledAt o unit)) :=
  ⟨h.mregs, h.threads, h.flocks, h.locl, h.cells, fun a ha => by
    have hbase : spillAt s unit = spillAt o unit := by simp only [spillAt, getField, getReg, h.mregs]
    refine (memByte_memWrite_other s (spillAt s unit) _ a ?_).trans (h.mem a ha)
    rw [length_spillBytes _ _ (h.fewer unit), hbase]
    exact ha unit, h.fewer⟩

theorem SpillOnly.respill {o s : State} (h : SpillOnly o s) (unit : Nat) : SpillOnly o (respill s unit (spilledAt o unit)) := by
  unfold Machine.respill
  split
  · exact h
  · exact (h.respillFrom _ _ _).writeSpill unit

theorem SpillOnly.respillAt {o : State} : ∀ (gone : List Waiter) {s : State}, SpillOnly o s → SpillOnly o (respillAt o s gone)
  | [], _, h => h
  | w :: r, _, h => SpillOnly.respillAt r (h.respill (homeUnit o w.handle.toNat))

/-- Waiter entries that leave their homes free places of the spill area, and change nothing else. -/
theorem takeWaiters_spillOnly (s : State) (gone : Waiter → Bool) : SpillOnly s (takeWaiters s gone) := by
  obtain ⟨hregs, hthreads, hflocks, hlocl, hcells, hmem, hfewer⟩ := SpillOnly.respillAt (s.waiters.filter gone) (SpillOnly.filter s fun w => !gone w)
  exact ⟨hregs, hthreads, hflocks, hlocl, hcells, hmem, hfewer⟩

/-! ## `tfree` (12 R296) -/

/-- What a freed tensor leaves unchanged: threads, flocks, registers, local store, and memory but for places of spilled waiter entries. -/
def KeepsFreed (s t : State) : Prop :=
  KeepsThreads s t ∧ KeepsRest s t ∧ KeepsButSpill s t ∧ ∀ core off, lsBytes t core off 1 = lsBytes s core off 1

theorem freeTensor_keeps (s : State) (tn : Tensor) : KeepsFreed s (freeTensor s tn) := by
  obtain ⟨hregs, hthreads, hflocks, hlocl, hcells, hmem, -⟩ := takeWaiters_spillOnly { s with
    tensors := s.tensors.filter fun t => !(t.core == tn.core && t.slot == tn.slot)
    packets := s.packets.filter fun p => !p.ofBinding tn.bind } fun w => w.kind == 5 && w.module == moduleId s && w.uid == tn.bind
  refine ⟨?_, ⟨hflocks, hregs⟩, ⟨hmem, hcells⟩, fun core off => ?_⟩
  · exact congrArg (List.map _) hthreads
  · exact congrArg (mapRange 0#8 · (lkey core off) 1) hlocl

theorem KeepsFreed.wordDone {s t : State} (h : KeepsFreed s t) (i : Issue) (e : Eff) (w : Nat → List Target) (sel : Nat) (lat : List Nat) :
    KeepsFreed s (wordDone t i e w sel lat) := by
  obtain ⟨hthreads, hrest, hmem, hlocl⟩ := h
  exact ⟨(wordDone_quiet t i e w sel lat).2.1.trans hthreads, hrest, hmem, hlocl⟩

/-- A word that acts once for its group completes; its frame is that of the group's turn and of the word's end together, for a frame that does not
compose. -/
theorem doneGroup_ends {instr : Instr} {f : Fields} {last priv : Bool} {names : Thread → Names} {sel : Option (BitVec 7)}
    {ok : State → Issue → Thread → Prop} {turn : State → Issue → Thread → State} {eff : State → Issue → Thread → Eff}
    {frame : State → State → Prop} (w : Word4) (body : State → Issue → Thread → State × Out) (hf : w.f = f) (hr : w.rsv = false)
    (hp : w.priv = true → priv = true) (hl : w.last = last) (hs : w.sel = sel) (hx : ∀ s, exec instr s = issued (oncePerGroup w names body s))
    (hb : ∀ x i t, ok x i t → body x i t = (turn x i t, .eff (eff x i t)))
    (hfr : ∀ x i t, ok x i t → ∀ e w' sel' lat, frame x (wordDone (turn x i t) i e w' sel' lat)) :
    DoneGroup instr f last priv names sel ok turn eff frame := by
  have hdone : DoneGroup instr f last priv names sel ok turn eff fun _ _ => True :=
    doneGroup_intro w body hf hr hp hl hs hx hb (fun _ _ _ _ _ => trivial) (fun _ _ _ _ => trivial) fun _ _ _ _ _ _ => trivial
  intro s i lead rest hst hsup hpre ha hpa hok
  obtain ⟨t, hnext, -, rfl⟩ := hdone s i lead rest hst hsup hpre ha hpa hok
  exact ⟨_, hnext, hfr _ _ _ hok _ _ _ _, rfl⟩

/-- `tfree` in the group's lead. -/
def tfreeThread (a : BitVec 7) (s : State) (i : Issue) (t : Thread) : State × Out :=
  match tensorAt s t.core (numberD t a) with
  | none => (s, .eff {})
  | some tn =>
    if tn.job ≠ t.job then (s, .trap { cls := 1, code := 4, aux := 1 })
    else if slotBusy s tn then (s, .wait (.tfree tn.bind i.sbit))
    else (freeTensor s tn, .eff {})

/-- What `tfree` names: its slot, an integer. -/
def tfreeNames (a : BitVec 7) : Thread → Names := fun _ => { vr := [(a.toNat, 1)], tags := typed 1 a.toNat 1 integerTags }

theorem exec_tfree (h : Hdr) (a : BitVec 7) (s : State) :
    exec (.tfree h a) s = issued (oncePerGroup { f := memF h 42#7 0#7 a 0#7 } (tfreeNames a) (tfreeThread a) s) := rfl

/-- `tfree` of a slot that is free does nothing. -/
theorem tfreeThread_free {a : BitVec 7} {x : State} {t : Thread} (i : Issue) (h : tensorAt x t.core (numberD t a) = none) :
    tfreeThread a x i t = (x, .eff {}) := by
  simp [tfreeThread, h]

/-- `tfree` of a slot that holds a tensor of the job, which no sweep and no wake is under way for. -/
theorem tfreeThread_bound {a : BitVec 7} {x : State} {t : Thread} {tn : Tensor} (i : Issue) (h : tensorAt x t.core (numberD t a) = some tn)
    (hj : tn.job = t.job) (hb : slotBusy x tn = false) :
    tfreeThread a x i t = (withTensor x t (numberD t a) (freeTensor x), .eff {}) := by
  simp [tfreeThread, withTensor, h, hj, hb]

/-! ## The obligation -/

/-- Settles O27: each clause is the word's body under the clause's conditions, and what that body leaves unchanged. -/
theorem tensorWords : Obligations.TensorWords := by
  unfold Obligations.TensorWords
  refine ⟨?tdeclBinds, ?tdeclFull, ?sweep, ?eyield, ?tfreeFree, ?tfreeBound⟩
  case tdeclBinds =>
    refine fun h d a => tdecl_done h d a ?_ fun x i t =>
      ((declares_same x t _).trans (bindTensor_same _ _).read).trans (setTensor_same _ _).but.read
    rintro x i t ⟨hu, hl, hp, hb, k, hk, hr, he, hz⟩
    simp only [hk, Option.getD_some]
    exact tdeclThread_binds d a x i t k ⟨hu, hl, hp, hr, he⟩ hk hb hz
  case tdeclFull =>
    refine fun h d a => tdecl_done h d a ?_ fun x i t => declares_same x t _
    rintro x i t ⟨hu, hl, hp, hk, hr, he⟩
    exact tdeclThread_full d a x i t ⟨hu, hl, hp, hr, he⟩ hk
  case sweep =>
    intro h d a b lit
    exact doneTurns_intro { f := engWord h 34 lit d a b } (fun s i t => sweepThread d.toNat a.toNat (amountB t b lit) s i t) rfl rfl (by simp) rfl rfl
      (exec_sweepInstr h d a b lit) (fun x i t hok => .inl (sweepThread_queued d a _ x i t hok)) quiet_refl (fun _ _ _ => quiet_trans)
      (fun x _ _ _ => (queueSweep_same x _).quiet) wordDone_quiet
  case eyield =>
    intro h a slot
    refine doneTurns_intro { f := memF h 36#7 0#7 a 0#7, last := true } _ rfl rfl (by simp) rfl rfl (fun _ => rfl) ?_ quiet_refl (fun _ _ _ => quiet_trans)
      (fun x _ t _ => quiet_trans (endVisit_same x t slot _).quiet (quiet_wait _ _ _)) wordDone_quiet
    rintro x i t ⟨e, he⟩
    exact .inr ⟨endVisit x t slot (some (getV t a.toNat).bits), .idle, by simp only [he], rfl⟩
  case tfreeFree =>
    intro h a
    exact doneGroup_intro { f := memF h 42#7 0#7 a 0#7 } (tfreeThread a) rfl rfl (by simp) rfl rfl (exec_tfree h a)
      (fun _ i _ hfree => tfreeThread_free i hfree) (fun _ _ _ => quiet_trans) (fun _ _ _ _ => quiet_refl _) wordDone_quiet
  case tfreeBound =>
    intro h a
    refine doneGroup_ends { f := memF h 42#7 0#7 a 0#7 } (tfreeThread a) rfl rfl (by simp) rfl rfl (exec_tfree h a) ?_ ?_
    · rintro x i t ⟨tn, hs, hj, hb⟩
      exact tfreeThread_bound i hs hj hb
    · rintro x i t ⟨tn, hs, -, -⟩ e w' sel' lat
      simp only [withTensor, hs]
      exact (freeTensor_keeps x tn).wordDone i e w' sel' lat

end Sys2Proof.TensorProofs
